-- ==== Sys2Proof/Word.lean ====
section
/-! DEFINITION. The word types of the KM-1 (spec/00_scope R6: little-endian, bit 0 the least significant). -/

namespace Sys2Proof

/-- A 64-bit word: general registers, BAR0 registers, addresses while they are computed. -/
abbrev Word := BitVec 64

/-- One byte of a memory. -/
abbrev Byte := BitVec 8

end Sys2Proof
end

