-- ==== Sys2Proof/SyntaxCore.lean ====
section
/-! DEFINITION. The instructions of a Gelfort core as decoded operands (spec/06_gelfort_core R162-R175,
spec/07_vexten_vectors R196-R207): what the core's rows of the opcode table carry. -/

namespace Sys2Proof

/-- A register field (R162, R163). -/
abbrev GReg := Fin 32
/-- A Pavilion die (00 R3). -/
abbrev DieIx := Fin 8
/-- A PCI Express port: 0 is A, 1 is B. -/
abbrev PortIx := Fin 2
/-- A Gelfort core: 0-511 the Pavilion cores by master ID, 512-519 the management cores 0x502-0x509, 520 the Orangery core
0x500 (R28, R156). -/
abbrev CoreIx := Fin 521

/-- A queue (00 R3), an HBM stack, a Trellis port, a PCI Express function, a partition, a device number (01 R25). -/
abbrev QIx := Fin 4096
abbrev StackIx := Fin 16
abbrev LinkIx := Fin 6
abbrev FnIx := Fin 64
abbrev PartIx := Fin 8
abbrev DevIx := Fin 262144

/-- Where a packet stands that a command takes: a port's receive buffer for a subchannel, or the packets the module sent to
itself. -/
inductive PktSrc where
  | port (n : LinkIx) (sub : Fin 14)
  | loop
  deriving DecidableEq, Repr

/-- Identity a partner sends in training (13 R350 step 3). -/
structure PartnerId where
  dev : DevIx
  port : LinkIx
  xs : Fin 65
  ys : Fin 65
  zs : Fin 65
  max : Fin 256
  floor : Fin 256
  deriving DecidableEq, Repr

/-- A request to memory (09 R250). -/
inductive MemKind where
  | read | write | atomic
  deriving DecidableEq, Repr

/-- A TLB of 11 R298. -/
inductive TlbSel where
  | core (k : Fin 512)
  | dma (p : DieIx)
  | array (p : DieIx)
  | txu (p : DieIx)
  deriving DecidableEq, Repr

/-- An inbound PCI Express atomic (12 R323). -/
inductive PciAtom where
  | fetchAdd | swap | cas
  deriving DecidableEq, Repr

/-- A write of configuration space (12 R320): which control it changes. -/
inductive CfgWrite where
  | busMaster (on : Bool)
  | memEnable (on : Bool)
  | relaxed (on : Bool)
  | msix (enable mask : Bool)
  | msixEntry (vec : Fin 2048) (addr : BitVec 64) (data : BitVec 32) (masked : Bool)
  | power (d3 : Bool)
  | flr
  | vfEnable (on : Bool) (num : Fin 64)
  /-- Max Payload Size and Max Read Request Size of Device Control -/
  | device (mps mrrs : Fin 8)
  /-- ASPM Control -/
  | aspm (ctl : Fin 4)
  /-- BAR4 is resized: log2 of its size in GiB -/
  | bar4 (log : Fin 11)
  deriving DecidableEq, Repr

/-- A configuration request: a read of a doubleword, or a write. -/
inductive CfgReq where
  | read (reg : Fin 1024)
  | write (w : CfgWrite)
  deriving DecidableEq, Repr

/-- How the host memory reads a command makes end (12 R327, R346): 0 delivered, else the KIND of the error, 1 Unsupported Request, 2 Completer
Abort, 3 Completion Timeout, 4 poisoned data. -/
abbrev HostErr := Fin 5
/-- How a completion ends its read (12 R327). -/
inductive ReadEnd where
  | ok | ur | ca | poisoned
  deriving DecidableEq, Repr

/-- Who reads host memory (12 R327): a core, a descriptor, a queue's ring, or a walker. -/
inductive OutReader where
  | core (k : CoreIx)
  | desc (q : QIx)
  | ring (q : QIx)
  | walker (r : TlbSel) (asid : BitVec 12) (va : BitVec 56) (kind : Fin 4)
  deriving DecidableEq, Repr

/-- A box of device addresses (15 R403): origin and size. -/
structure Box where
  x0 : Fin 64
  y0 : Fin 64
  z0 : Fin 64
  xn : Fin 65
  yn : Fin 65
  zn : Fin 65
  deriving DecidableEq, Repr

/-- The part of a job a Lodge sends a child Lodge (15 R408): dies and gang of each partition, and its box. -/
structure SubJob where
  dies : Fin 16
  gang : Fin 4
  box : Box
  deriving DecidableEq, Repr

/-- What a member reports of one partition (15 R402 JOIN): dies, log2 of the gang, FREE, RUNNING in PTR_PART, and its job. -/
structure PlotPart where
  dies : Nat := 0
  gang : Nat := 0
  free : Bool := false
  running : Bool := false
  job : Nat := 0
  deriving DecidableEq, Repr

/-- What a NOTICE tells (15 R402): an error of a severity and partition, a port's state, a commit's FLOOR, a budget exceeded, a
partition contained. -/
inductive Event where
  | error (sev : Fin 8)
  | port (n : LinkIx) (st : Fin 7)
  | commit (floor : Fin 256) (parts : BitVec 8)
  | budget (part : PartIx) (b : Fin 3)
  | contained (part : PartIx) (all : Bool)
  deriving DecidableEq, Repr

/-- A channel of the Orangery (16 R436): a port's mailbox, an ADMIN queue, or the SMBus. -/
inductive OrgSrc where
  | mbx (n : PortIx)
  | admin (q : QIx)
  | smb
  deriving DecidableEq, Repr

/-- A wake event (18 R484). -/
inductive WakeEv where
  | doorbell | mmio | source | packet | request
  | d0 (n : PortIx)
  | perst (n : PortIx)
  | smbus
  deriving DecidableEq, Repr

/-- A background scrub (19 R495): a stack, or a group of a die's near memory. -/
inductive ScrubKey where
  | stack (st : StackIx)
  | near (p : DieIx) (g : Fin 16)
  deriving DecidableEq, Repr

/-- A counter block (19 R504). -/
inductive PmcBlock where
  | die (p : DieIx) (b : Fin 70)
  | module (b : Fin 24)
  deriving DecidableEq, Repr

inductive AluOp where
  | add | sub | and | or | xor | sll | srl | sra
  deriving DecidableEq, Repr

inductive CmpOp where
  | slt | sltu | min | max | minu | maxu
  deriving DecidableEq, Repr

inductive MulOp where
  | mul | mulh | mulhu | mulhsu
  deriving DecidableEq, Repr

inductive DivOp where
  | div | divu | rem | remu
  deriving DecidableEq, Repr

inductive AluiOp where
  | addi | andi | ori | xori | slti | sltiu | slli | srli | srai
  deriving DecidableEq, Repr

inductive AluwOp where
  | add | sub | sll | srl | sra | mul | div | divu | rem | remu
  deriving DecidableEq, Repr

inductive LoadOp where
  | lb | lh | lw | ld | lbu | lhu | lwu
  deriving DecidableEq, Repr

inductive StoreOp where
  | sb | sh | sw | sd
  deriving DecidableEq, Repr

inductive BrOp where
  | beq | bne | blt | bge | bltu | bgeu
  deriving DecidableEq, Repr

inductive AtomOp where
  | swap | add | and | or | xor | min | max | minu | maxu
  deriving DecidableEq, Repr

inductive FpOp where
  | fadd | fsub | fmul | fdiv | fsqrt | fmin | fmax | fcmp | fsgn
  deriving DecidableEq, Repr

/-- FIX functions 0x00-0x03, 0x06 and 0x07 (R170). -/
inductive MacOp where
  | fmacQ31 | fmsuQ31 | fmulQ31 | fmac2Q15 | fmacQ15 | fmsuQ15
  deriving DecidableEq, Repr

inductive BlockOp where
  | bmov | bfill | bcmp | bscan
  deriving DecidableEq, Repr

/-- The second operand of a Vexten arithmetic instruction: a V register, a G register, or imm5 (R197). -/
inductive VSrc where
  | v (r : Fin 32)
  | x (r : Fin 32)
  | i (imm : Fin 32)
  deriving DecidableEq, Repr

inductive VAluOp where
  | vadd | vsub | vand | vor | vxor
  deriving DecidableEq, Repr
inductive VShOp where
  | vsll | vsrl | vsra
  deriving DecidableEq, Repr
inductive VMinOp where
  | vmin | vmax | vminu | vmaxu
  deriving DecidableEq, Repr
inductive VMulOp where
  | vmul | vmulh | vmulhu
  deriving DecidableEq, Repr
inductive VSatOp where
  | vsadd | vssub
  deriving DecidableEq, Repr
inductive VFpOp where
  | vfadd | vfsub | vfmul | vfdiv
  deriving DecidableEq, Repr
inductive VFMinOp where
  | vfmin | vfmax
  deriving DecidableEq, Repr
inductive VCvtOp where
  | fFromI | iFromF | fFromU | uFromF
  deriving DecidableEq, Repr
/-- VFWCVT (FP32 to FP64) and its BF16 and F16 forms (R200). -/
inductive VWCvtOp where
  | f32 | bf16 | f16
  deriving DecidableEq, Repr
inductive VDot4Op where
  | i8 | u8 | su8
  deriving DecidableEq, Repr
inductive VDot2Op where
  | bf16 | f16 | f32
  deriving DecidableEq, Repr
inductive VRedMinOp where
  | min | max | minu | maxu
  deriving DecidableEq, Repr
inductive VRedBitOp where
  | and | or | xor
  deriving DecidableEq, Repr
inductive VCmpOp where
  | eq | ne | lt | ltu | le | leu | feq | flt | fle | fun
  deriving DecidableEq, Repr
inductive KOp where
  | kand | kor | kxor | kandn | knot | kmov
  deriving DecidableEq, Repr

/-- The forms of a vector memory instruction (R207). -/
inductive VForm where
  | unit
  | strided (rs2 : Fin 32)
  | indexed (vs2 : Fin 32) (iw : Fin 3)
  | segment (nf : Fin 5)
  | wholeV
  | wholeK
  deriving DecidableEq, Repr

/-- One decoded Gelfort or Vexten instruction, one constructor per row of the opcode table. -/
inductive GInstr where
  | cMv (rd rs : GReg)
  | cAdd (op : AluOp) (rd rs : GReg)
  | cLi (rd : GReg) (imm5 : Fin 32)
  | cAddi (rd : GReg) (imm5 : Fin 32)
  | cSlli (op : AluOp) (rd : GReg) (imm5 : Fin 32)
  | cBeqz (rs : GReg) (off5 : Fin 32)
  | cBnez (rs : GReg) (off5 : Fin 32)
  | cJ (off10 : Fin 1024)
  | cJr (rs : GReg) (link : Bool)
  | cLd (word : Bool) (rt rb : Fin 8) (off4 : Fin 16)
  | cSd (word : Bool) (rt rb : Fin 8) (off4 : Fin 16)
  | cNop
  | add (op : AluOp) (rd rs1 rs2 : GReg)
  | slt (op : CmpOp) (rd rs1 rs2 : GReg)
  | qadd (sub : Bool) (rd rs1 rs2 : GReg)
  | mul (op : MulOp) (rd rs1 rs2 : GReg)
  | div (op : DivOp) (rd rs1 rs2 : GReg)
  | alui (op : AluiOp) (rd rs1 : GReg) (imm : BitVec 12)
  | aluw (op : AluwOp) (rd rs1 rs2 : GReg)
  | load (op : LoadOp) (rd rs1 : GReg) (imm : BitVec 12)
  | store (op : StoreOp) (rs2 rs1 : GReg) (imm : BitVec 12)
  | branch (op : BrOp) (rs1 rs2 : GReg) (off : BitVec 12)
  | jal (rd : GReg) (off : BitVec 20)
  | jalr (rd rs1 : GReg) (imm : BitVec 12)
  | lui (rd : GReg) (imm : BitVec 20)
  | auipc (rd : GReg) (imm : BitVec 20)
  | atomic (op : AtomOp) (dbl : Bool) (rd rs1 rs2 : GReg)
  | cas (dbl : Bool) (rd rs1 rs2 : GReg)
  | fenceAcq
  | fenceRel
  | fenceDev
  | fenceSys
  | fp (op : FpOp) (dbl : Bool) (f3 : Fin 8) (rd rs1 rs2 : GReg)
  | fcvt (kind : Fin 8) (f3 : Fin 8) (rd rs1 : GReg)
  | fma (single sub : Bool) (f3 : Fin 8) (rd rs1 rs2 rs3 : GReg)
  | fmac (op : MacOp) (ad : Fin 4) (rs1 rs2 : GReg)
  | fmacp (q31 : Bool) (ad : Fin 4) (rs1 rs2 : GReg)
  | fext (q15 : Bool) (rd : GReg) (acc : Fin 4)
  | mfa (high : Bool) (rd : GReg) (acc : Fin 4)
  | mta (ad : Fin 4) (rs1 rs2 : GReg)
  | block (op : BlockOp) (size : Fin 4) (rd rs1 rs2 : GReg)
  | mfc (rd : GReg) (cr : BitVec 12)
  | mtc (cr : BitVec 12) (rs1 : GReg)
  | mset (mask : BitVec 12)
  | mclr (mask : BitVec 12)
  | iwin (n : BitVec 12)
  | syscall
  | brk
  | eret
  | wfi
  | iflush
  | repI
  | repN (count : Fin 64)
  | vsetvl (rd rs1 : GReg) (sew : Fin 4)
  | vload (form : VForm) (hint : Fin 4) (vd : Fin 32) (rs1 : GReg) (km : Fin 8)
  | vstore (form : VForm) (hint : Fin 4) (vd : Fin 32) (rs1 : GReg) (km : Fin 8)
  | vadd (op : VAluOp) (vd vs1 : Fin 32) (src : VSrc) (km : Fin 8)
  | vsll (op : VShOp) (vd vs1 : Fin 32) (src : VSrc) (km : Fin 8)
  | vmin (op : VMinOp) (vd vs1 : Fin 32) (src : VSrc) (km : Fin 8)
  | vmul (op : VMulOp) (vd vs1 : Fin 32) (src : VSrc) (km : Fin 8)
  | vmacc (vd vs1 : Fin 32) (src : VSrc) (km : Fin 8)
  | vsadd (op : VSatOp) (vd vs1 : Fin 32) (src : VSrc) (km : Fin 8)
  | vmv (vd : Fin 32) (src : VSrc) (km : Fin 8)
  | vfadd (op : VFpOp) (vd vs1 : Fin 32) (src : VSrc) (km : Fin 8)
  | vfsqrt (vd vs1 : Fin 32) (km : Fin 8)
  | vfmin (op : VFMinOp) (vd vs1 : Fin 32) (src : VSrc) (km : Fin 8)
  | vfma (vd vs1 : Fin 32) (src : VSrc) (km : Fin 8)
  | vfnms (vd vs1 : Fin 32) (src : VSrc) (km : Fin 8)
  | vfsgn (vd vs1 : Fin 32) (src : VSrc) (km : Fin 8)
  | vfcvt (op : VCvtOp) (vd vs1 : Fin 32) (km : Fin 8)
  | vfwcvt (op : VWCvtOp) (vd vs1 : Fin 32) (km : Fin 8)
  | vfncvt (op : VWCvtOp) (vd vs1 : Fin 32) (km : Fin 8)
  | vwmul (unsigned : Bool) (vd vs1 vs2 : Fin 32) (km : Fin 8)
  | vwmacc (vd vs1 vs2 : Fin 32) (km : Fin 8)
  | vwfmul (vd vs1 vs2 : Fin 32) (km : Fin 8)
  | vwfma (vd vs1 vs2 : Fin 32) (km : Fin 8)
  | vdot4 (op : VDot4Op) (vd vs1 vs2 : Fin 32) (km : Fin 8)
  | vdot2 (op : VDot2Op) (vd vs1 vs2 : Fin 32) (km : Fin 8)
  | vredsum (vd vs1 vs2 : Fin 32) (km : Fin 8)
  | vredmin (op : VRedMinOp) (vd vs1 vs2 : Fin 32) (km : Fin 8)
  | vredand (op : VRedBitOp) (vd vs1 vs2 : Fin 32) (km : Fin 8)
  | vfredsum (vd vs1 vs2 : Fin 32) (km : Fin 8)
  | vfredmin (op : VFMinOp) (vd vs1 vs2 : Fin 32) (km : Fin 8)
  | vfwredsum (vd vs1 vs2 : Fin 32) (km : Fin 8)
  | vcompress (vd vs1 : Fin 32) (km : Fin 8)
  | vexpand (vd vs1 : Fin 32) (km : Fin 8)
  | vperm (vd vs1 vs2 : Fin 32) (km : Fin 8)
  | vslideup (vd vs1 : Fin 32) (rs2 : GReg) (km : Fin 8)
  | vslidedown (vd vs1 : Fin 32) (rs2 : GReg) (km : Fin 8)
  | vmvXv (rd : GReg) (vs1 : Fin 32) (rs2 : GReg)
  | vpopc (rd : GReg) (ks : Fin 8)
  | vfirst (rd : GReg) (ks : Fin 8)
  | vcmp (op : VCmpOp) (kd : Fin 8) (vs1 : Fin 32) (src : VSrc) (km : Fin 8)
  | kand (op : KOp) (kd ks1 ks2 : Fin 8)
  deriving DecidableEq, Repr

end Sys2Proof
end

