-- ==== Sys2Proof/Syntax.lean ====
section
/-! DEFINITION. The commands of the KM-1: one constructor for each row of spec/opcode_table.json, with its operands. A command
of a core carries the core and the decoded instruction (log entry 3); a command of a queue carries the queue and acts on the
descriptor that is next there; `hostErr` says how the host memory reads the command makes end (12 R327). -/

namespace Sys2Proof

/-- What a MGMT message carries beside its fields: its sequence number and its stamp (15 R402; 10 R285). -/
structure MsgTag where
  seq : BitVec 32
  stamp : BitVec 64
  deriving DecidableEq, Repr

/-- A host's request as it arrives: the data of a write, none of a read; Relaxed Ordering; poisoned (12 R323-R325; 10 R277). -/
structure Tlp (α : Type) where
  wr : Option α
  ro : Bool
  ep : Bool
  deriving DecidableEq, Repr

/-- A command: what the module is told to do, or what happens to it. -/
inductive Instr where
  | registerWrite (m : BitVec 12) (off : BitVec 25) (wide : Bool) (v : BitVec 64)
  | ptrClamplogClr
  | stageImage (q : QIx) (hostErr : HostErr)
  | commitImage (q : QIx)
  | discardImage (q : QIx)
  | imageVerified
  | quiesceDone
  | quiesceTimeout
  | applyComplete
  | aopAdmit (p : DieIx)
  | aopAdmissionDone (p : DieIx)
  | gatherBudgetExpire (p : DieIx) (i : Fin 16)
  | arrGctlFlush (p : DieIx)
  | operationIssue (p : DieIx)
  | stagingReadArrive (p : DieIx)
  | loadFirstWrite (p : DieIx)
  | loadLastWrite (p : DieIx)
  | swap (p : DieIx)
  | vectorEntry (p : DieIx)
  | vectorAccumulate (p : DieIx)
  | biasHeld (p : DieIx)
  | residualRowHeld (p : DieIx)
  | readinessReport (p : DieIx)
  | arrayHalt (p : DieIx)
  | haltComplete (p : DieIx)
  | arrAbort (p : DieIx) (m : BitVec 12) (v : BitVec 32)
  | operationComplete (p : DieIx)
  | cringTailWrite (p : DieIx) (v : BitVec 16)
  | cringCompletionWrite (p : DieIx)
  | sageTake (p : DieIx)
  | sageRowStart (p : DieIx) (x : Fin 4)
  | sageSlotRelease (p : DieIx)
  | sageNop (p : DieIx) (x : Fin 4)
  | prog (p : DieIx) (x : Fin 4)
  | sageFadd (p : DieIx) (x : Fin 4)
  | sageFsub (p : DieIx) (x : Fin 4)
  | sageFmul (p : DieIx) (x : Fin 4)
  | sageFma (p : DieIx) (x : Fin 4)
  | sageFmax (p : DieIx) (x : Fin 4)
  | sageFmin (p : DieIx) (x : Fin 4)
  | sageFcmp (p : DieIx) (x : Fin 4)
  | sel (p : DieIx) (x : Fin 4)
  | sageIadd (p : DieIx) (x : Fin 4)
  | sageShl (p : DieIx) (x : Fin 4)
  | movi (p : DieIx) (x : Fin 4)
  | movf (p : DieIx) (x : Fin 4)
  | cvt (p : DieIx) (x : Fin 4)
  | lut (p : DieIx) (x : Fin 4)
  | rsum (p : DieIx) (x : Fin 4)
  | rmax (p : DieIx) (x : Fin 4)
  | rmin (p : DieIx) (x : Fin 4)
  | rargmax (p : DieIx) (x : Fin 4)
  | topk (p : DieIx) (x : Fin 4)
  | tbr (p : DieIx) (x : Fin 4)
  | tbw (p : DieIx) (x : Fin 4)
  | jmp (p : DieIx) (x : Fin 4)
  | bnz (p : DieIx) (x : Fin 4)
  | sto (p : DieIx) (x : Fin 4)
  | route (p : DieIx) (x : Fin 4)
  | sgeHold (p : DieIx) (hold : Bool)
  | sgeTblData (p : DieIx) (wr : Option (BitVec 32))
  | sgeMemoryWrite (p : DieIx) (off : BitVec 17) (wide : Bool) (v : BitVec 64)
  | sgeErrlogClr (p : DieIx)
  | illop (k : CoreIx) (w : BitVec 32)
  | cMv (k : CoreIx) (rd rs : GReg)
  | cAdd (k : CoreIx) (op : AluOp) (rd rs : GReg)
  | cLi (k : CoreIx) (rd : GReg) (imm5 : Fin 32)
  | cAddi (k : CoreIx) (rd : GReg) (imm5 : Fin 32)
  | cSlli (k : CoreIx) (op : AluOp) (rd : GReg) (imm5 : Fin 32)
  | cBeqz (k : CoreIx) (rs : GReg) (off5 : Fin 32)
  | cBnez (k : CoreIx) (rs : GReg) (off5 : Fin 32)
  | cJ (k : CoreIx) (off10 : Fin 1024)
  | cJr (k : CoreIx) (rs : GReg) (link : Bool)
  | cLd (k : CoreIx) (word : Bool) (rt rb : Fin 8) (off4 : Fin 16)
  | cSd (k : CoreIx) (word : Bool) (rt rb : Fin 8) (off4 : Fin 16)
  | cNop (k : CoreIx)
  | repI (k : CoreIx)
  | repN (k : CoreIx) (count : Fin 64)
  | repIteration (k : CoreIx)
  | add (k : CoreIx) (op : AluOp) (rd rs1 rs2 : GReg)
  | slt (k : CoreIx) (op : CmpOp) (rd rs1 rs2 : GReg)
  | qadd (k : CoreIx) (sub : Bool) (rd rs1 rs2 : GReg)
  | mul (k : CoreIx) (op : MulOp) (rd rs1 rs2 : GReg)
  | div (k : CoreIx) (op : DivOp) (rd rs1 rs2 : GReg)
  | alui (k : CoreIx) (op : AluiOp) (rd rs1 : GReg) (imm : BitVec 12)
  | aluw (k : CoreIx) (op : AluwOp) (rd rs1 rs2 : GReg)
  | load (k : CoreIx) (op : LoadOp) (rd rs1 : GReg) (imm : BitVec 12)
  | store (k : CoreIx) (op : StoreOp) (rs2 rs1 : GReg) (imm : BitVec 12)
  | branch (k : CoreIx) (op : BrOp) (rs1 rs2 : GReg) (off : BitVec 12)
  | jal (k : CoreIx) (rd : GReg) (off : BitVec 20)
  | jalr (k : CoreIx) (rd rs1 : GReg) (imm : BitVec 12)
  | lui (k : CoreIx) (rd : GReg) (imm : BitVec 20)
  | auipc (k : CoreIx) (rd : GReg) (imm : BitVec 20)
  | atomic (k : CoreIx) (op : AtomOp) (dbl : Bool) (rd rs1 rs2 : GReg)
  | cas (k : CoreIx) (dbl : Bool) (rd rs1 rs2 : GReg)
  | fenceAcq (k : CoreIx)
  | fenceRel (k : CoreIx)
  | fenceDev (k : CoreIx)
  | fenceSys (k : CoreIx)
  | fadd (k : CoreIx) (op : FpOp) (dbl : Bool) (f3 : Fin 8) (rd rs1 rs2 : GReg)
  | fcvt (k : CoreIx) (kind : Fin 8) (f3 : Fin 8) (rd rs1 : GReg)
  | fma (k : CoreIx) (single sub : Bool) (f3 : Fin 8) (rd rs1 rs2 rs3 : GReg)
  | fmac (k : CoreIx) (op : MacOp) (ad : Fin 4) (rs1 rs2 : GReg)
  | fmacp (k : CoreIx) (q31 : Bool) (ad : Fin 4) (rs1 rs2 : GReg)
  | fext (k : CoreIx) (q15 : Bool) (rd : GReg) (acc : Fin 4)
  | mfa (k : CoreIx) (high : Bool) (rd : GReg) (acc : Fin 4)
  | mta (k : CoreIx) (ad : Fin 4) (rs1 rs2 : GReg)
  | bmov (k : CoreIx) (size : Fin 4) (rd rs1 rs2 : GReg)
  | bfill (k : CoreIx) (size : Fin 4) (rd rs1 rs2 : GReg)
  | bcmp (k : CoreIx) (size : Fin 4) (rd rs1 rs2 : GReg)
  | bscan (k : CoreIx) (size : Fin 4) (rd rs1 rs2 : GReg)
  | blockElement (k : CoreIx)
  | mfc (k : CoreIx) (rd : GReg) (cr : BitVec 12)
  | mtc (k : CoreIx) (cr : BitVec 12) (rs1 : GReg)
  | mset (k : CoreIx) (mask : BitVec 12)
  | mclr (k : CoreIx) (mask : BitVec 12)
  | iwin (k : CoreIx) (n : BitVec 12)
  | syscall (k : CoreIx)
  | brk (k : CoreIx)
  | eret (k : CoreIx)
  | wfi (k : CoreIx)
  | wfiComplete (k : CoreIx)
  | iflush (k : CoreIx)
  | mergeBufferDrain (k : CoreIx)
  | coreRelease (p : DieIx) (j : Fin 64)
  | coreReset (p : DieIx) (j : Fin 64)
  | vsetvl (k : CoreIx) (rd rs1 : GReg) (sew : Fin 4)
  | vload (k : CoreIx) (form : VForm) (hint : Fin 4) (vd : Fin 32) (rs1 : GReg) (km : Fin 8)
  | vstore (k : CoreIx) (form : VForm) (hint : Fin 4) (vd : Fin 32) (rs1 : GReg) (km : Fin 8)
  | vadd (k : CoreIx) (op : VAluOp) (vd vs1 : Fin 32) (src : VSrc) (km : Fin 8)
  | vsll (k : CoreIx) (op : VShOp) (vd vs1 : Fin 32) (src : VSrc) (km : Fin 8)
  | vmin (k : CoreIx) (op : VMinOp) (vd vs1 : Fin 32) (src : VSrc) (km : Fin 8)
  | vmul (k : CoreIx) (op : VMulOp) (vd vs1 : Fin 32) (src : VSrc) (km : Fin 8)
  | vmacc (k : CoreIx) (vd vs1 : Fin 32) (src : VSrc) (km : Fin 8)
  | vsadd (k : CoreIx) (op : VSatOp) (vd vs1 : Fin 32) (src : VSrc) (km : Fin 8)
  | vmv (k : CoreIx) (vd : Fin 32) (src : VSrc) (km : Fin 8)
  | vfadd (k : CoreIx) (op : VFpOp) (vd vs1 : Fin 32) (src : VSrc) (km : Fin 8)
  | vfsqrt (k : CoreIx) (vd vs1 : Fin 32) (km : Fin 8)
  | vfmin (k : CoreIx) (op : VFMinOp) (vd vs1 : Fin 32) (src : VSrc) (km : Fin 8)
  | vfma (k : CoreIx) (vd vs1 : Fin 32) (src : VSrc) (km : Fin 8)
  | vfnms (k : CoreIx) (vd vs1 : Fin 32) (src : VSrc) (km : Fin 8)
  | vfsgn (k : CoreIx) (vd vs1 : Fin 32) (src : VSrc) (km : Fin 8)
  | vfcvt (k : CoreIx) (op : VCvtOp) (vd vs1 : Fin 32) (km : Fin 8)
  | vfwcvt (k : CoreIx) (op : VWCvtOp) (vd vs1 : Fin 32) (km : Fin 8)
  | vfncvt (k : CoreIx) (op : VWCvtOp) (vd vs1 : Fin 32) (km : Fin 8)
  | vwmul (k : CoreIx) (unsigned : Bool) (vd vs1 vs2 : Fin 32) (km : Fin 8)
  | vwmacc (k : CoreIx) (vd vs1 vs2 : Fin 32) (km : Fin 8)
  | vwfmul (k : CoreIx) (vd vs1 vs2 : Fin 32) (km : Fin 8)
  | vwfma (k : CoreIx) (vd vs1 vs2 : Fin 32) (km : Fin 8)
  | vdot4 (k : CoreIx) (op : VDot4Op) (vd vs1 vs2 : Fin 32) (km : Fin 8)
  | vdot2 (k : CoreIx) (op : VDot2Op) (vd vs1 vs2 : Fin 32) (km : Fin 8)
  | vredsum (k : CoreIx) (vd vs1 vs2 : Fin 32) (km : Fin 8)
  | vredmin (k : CoreIx) (op : VRedMinOp) (vd vs1 vs2 : Fin 32) (km : Fin 8)
  | vredand (k : CoreIx) (op : VRedBitOp) (vd vs1 vs2 : Fin 32) (km : Fin 8)
  | vfredsum (k : CoreIx) (vd vs1 vs2 : Fin 32) (km : Fin 8)
  | vfredmin (k : CoreIx) (op : VFMinOp) (vd vs1 vs2 : Fin 32) (km : Fin 8)
  | vfwredsum (k : CoreIx) (vd vs1 vs2 : Fin 32) (km : Fin 8)
  | vcompress (k : CoreIx) (vd vs1 : Fin 32) (km : Fin 8)
  | vexpand (k : CoreIx) (vd vs1 : Fin 32) (km : Fin 8)
  | vperm (k : CoreIx) (vd vs1 vs2 : Fin 32) (km : Fin 8)
  | vslideup (k : CoreIx) (vd vs1 : Fin 32) (rs2 : GReg) (km : Fin 8)
  | vslidedown (k : CoreIx) (vd vs1 : Fin 32) (rs2 : GReg) (km : Fin 8)
  | vmvXv (k : CoreIx) (rd : GReg) (vs1 : Fin 32) (rs2 : GReg)
  | vpopc (k : CoreIx) (rd : GReg) (ks : Fin 8)
  | vfirst (k : CoreIx) (rd : GReg) (ks : Fin 8)
  | vectorCompare (k : CoreIx) (op : VCmpOp) (kd : Fin 8) (vs1 : Fin 32) (src : VSrc) (km : Fin 8)
  | kand (k : CoreIx) (op : KOp) (kd ks1 ks2 : Fin 8)
  | interruptAccept (k : CoreIx)
  | iwinExpire (k : CoreIx)
  | vectorLatchLoad (k : CoreIx)
  | interruptSourceEvent (p : DieIx) (src : Fin 1024)
  | intClaimN (k : CoreIx) (rd : GReg)
  | intClaimF (k : CoreIx) (rd : GReg)
  | intDone (k : CoreIx) (v : BitVec 32)
  | intSwset (p : DieIx) (v : BitVec 32)
  | intPend (p : DieIx) (w : Fin 16) (v arriving : BitVec 64)
  | nearBankRequest (p : DieIx) (g : Fin 16) (off : BitVec 24) (m : BitVec 12) (array : Bool)
  | mscRequest (m : BitVec 12) (addr : BitVec 40) (len : Fin 129) (kind : MemKind) (hints : Fin 4 × Fin 4)
  | wcbRetire (st : StackIx)
  | selfrefTimeout (st : StackIx)
  | hbmSample (st : StackIx) (t : Fin 1024)
  | hbmTempClr (st : StackIx)
  | mscFlush (st : StackIx)
  | mscFlushInv (st : StackIx)
  | mscCmdComplete (st : StackIx)
  | translationWalk (r : TlbSel) (asid : BitVec 12) (va : BitVec 56) (kind : Fin 4) (hostErr : HostErr)
  | batchClose (p : DieIx) (n : PortIx)
  | faultBatchWrite (n : PortIx)
  | invalidate (q : QIx)
  | translationFence (q : QIx)
  | translationFenceDone (q : QIx)
  | replay (q : QIx)
  | cancel (q : QIx)
  | prefetch (q : QIx) (hostErr : HostErr)
  | prefetchPageDone (q : QIx) (hostErr : HostErr)
  | advise (q : QIx) (hostErr : HostErr)
  | xltInvCmd (p : DieIx) (asid : BitVec 12) (all fence : Bool)
  | xltInvDone (p : DieIx)
  | doorbellWrite (m : BitVec 12) (q : QIx) (v : BitVec 16)
  | descriptorFetch (q : QIx) (hostErr : HostErr)
  | completionRecord (q : QIx)
  | notifyTimer (q : QIx)
  | queueEnable (q : QIx)
  | queueEnClear (q : QIx)
  | queueReset (q : QIx)
  | adminNop (q : QIx)
  | queueDisable (q : QIx)
  | copy (q : QIx)
  | fill (q : QIx)
  | dmaPageComplete (q : QIx) (hostErr : HostErr)
  | msg (q : QIx) (hostErr : HostErr)
  | functionLevelReset (n : PortIx) (f : FnIx)
  | flrComplete (n : PortIx) (f : FnIx)
  | portReset (n : PortIx) (kind : Fin 3)
  | bar0Access (n : PortIx) (f : FnIx) (bar2 : Bool) (off : BitVec 25) (size : BitVec 8) (tlp : Tlp (BitVec 64))
  | bar4Access (n : PortIx) (f : FnIx) (off : BitVec 40) (len : Fin 4097) (tlp : Tlp (List Byte))
  | atomicop (n : PortIx) (f : FnIx) (bar4 : Bool) (off : BitVec 40) (op : PciAtom) (width : Fin 3) (args : BitVec 64 × BitVec 64) (ep : Bool)
  | configRequest (n : PortIx) (f : FnIx) (req : CfgReq)
  | busMasterEnable (n : PortIx) (f : FnIx) (on : Bool)
  | outboundReadCompletion (r : OutReader) (err : ReadEnd) (data : List Byte)
  | completionTimeout (r : OutReader)
  | pciOuterrClr (n : PortIx)
  | partnerDetect (n : LinkIx)
  | linkTrainingDone (n : LinkIx) (failing : BitVec 18) (who : PartnerId)
  | partnerTimeout (n : LinkIx)
  | trainingRetry (n : LinkIx)
  | trlRetrain (n : LinkIx)
  | retrainComplete (n : LinkIx) (failing : BitVec 18) (who : PartnerId)
  | retrainTimeout (n : LinkIx)
  | trlPortEn (n : LinkIx) (on : Bool)
  | flitReceive (n : LinkIx) (flit : BitVec 512)
  | nak (n : LinkIx) (seq : Fin 1024)
  | packetInject (i : Fin 65536)
  | packetForward (n : LinkIx) (sub : Fin 14)
  | rd (src : PktSrc)
  | wr (src : PktSrc)
  | trellisAtomic (src : PktSrc)
  | rdata (src : PktSrc)
  | wack (src : PktSrc)
  | arsp (src : PktSrc)
  | nack (src : PktSrc)
  | e2eTimeout (t : Fin 8192)
  | put (q : QIx) (hostErr : HostErr)
  | get (q : QIx) (hostErr : HostErr)
  | trlDetourSel (b : Bool)
  | trlLinkerrClr (n : LinkIx)
  | place (q : QIx) (hostErr : HostErr)
  | tokenDispatch (p : DieIx)
  | disp (src : PktSrc)
  | expertChunkSubmit (p : DieIx) (e : Fin 32)
  | chunkWaitExpire (p : DieIx) (e : Fin 32)
  | stageComplete (p : DieIx) (e : Fin 32)
  | result (src : PktSrc)
  | hold (src : PktSrc)
  | passed (src : PktSrc)
  | fail (src : PktSrc)
  | holdRetry (p : DieIx) (c : Fin 16) (cent : Fin 8192)
  | choiceTimeout (p : DieIx) (c : Fin 16) (cent : Fin 8192) (j : Fin 16)
  | combine (p : DieIx) (c : Fin 16) (cent : Fin 8192)
  | coll (q : QIx) (hostErr : HostErr)
  | cdata (src : PktSrc)
  | cfail (src : PktSrc)
  | collTimeout (q : QIx)
  | txuPdata (p : DieIx)
  | txuCtxCountClr (c : Fin 16)
  | txuEvlogClr (p : DieIx)
  | announce (dev : DevIx) (tag : MsgTag) (level : Fin 4) (box : Box)
  | join (dev : DevIx) (seq : BitVec 32) (level : Fin 3) (max floor : Fin 256) (parts : List PlotPart) (stamp : BitVec 64)
  | welcome (dev : DevIx) (tag : MsgTag) (lodgeSide accept : Bool)
  | heartbeat (dev : DevIx) (seq : BitVec 32) (answer : Bool) (free : BitVec 8) (stamp : BitVec 64)
  | notice (dev : DevIx) (seq : BitVec 32) (ev : Event) (stamp : BitVec 64)
  | admitJob (dev : DevIx) (tag : MsgTag) (job : BitVec 64) (tenant : BitVec 32) (part : PartIx) (floor : Fin 256) (action : Bool) (array hbm energy : BitVec 64) (sub : Option SubJob)
  | admitAck (dev : DevIx) (tag : MsgTag) (job : BitVec 64) (ok : Bool) (reason : BitVec 8)
  | endJob (dev : DevIx) (tag : MsgTag) (job : BitVec 64)
  | endDrained (i : PartIx)
  | endAck (dev : DevIx) (tag : MsgTag) (job : BitVec 64)
  | ckptStep (dev : DevIx) (tag : MsgTag) (job : BitVec 64) (step : Fin 5)
  | ckptAck (dev : DevIx) (tag : MsgTag) (job : BitVec 64) (step : Fin 5) (ok : Bool) (bytes : BitVec 64)
  | ckptReady (i : PartIx)
  | ckptWaitExpire (i : PartIx)
  | detourWrite (dev : DevIx) (tag : MsgTag) (entries : List (BitVec 64))
  | detourSwitch (dev : DevIx) (tag : MsgTag) (bank : Bool)
  | detourAck (dev : DevIx) (tag : MsgTag)
  | meter (dev : DevIx) (tag : MsgTag) (chunk : Fin 5) (data : List Byte)
  | drain (dev : DevIx) (tag : MsgTag)
  | undrain (dev : DevIx) (tag : MsgTag)
  | sleepReq (dev : DevIx) (tag : MsgTag)
  | sleepGrant (dev : DevIx) (tag : MsgTag) (grant : Bool)
  | mgmtResend (seq : BitVec 32)
  | heartbeatPeriod
  | heartbeatMiss (dev : DevIx)
  | announcePeriod
  | memberRemoval (dev : DevIx)
  | jobSubmit (q : QIx)
  | jobEnd (q : QIx)
  | jobCheckpoint (q : QIx)
  | members (q : QIx) (hostErr : HostErr)
  | relinquish (q : QIx)
  | meterClose (q : QIx)
  | ldgMeterClose
  | meterInterval
  | recordSeal
  | meterRingWrite
  | identity (ch : OrgSrc) (hostErr : HostErr)
  | quote (ch : OrgSrc) (hostErr : HostErr)
  | challenge (ch : OrgSrc) (hostErr : HostErr)
  | unlock (ch : OrgSrc) (hostErr : HostErr)
  | close (ch : OrgSrc) (hostErr : HostErr)
  | enrollSite (ch : OrgSrc) (hostErr : HostErr)
  | extend (ch : OrgSrc) (hostErr : HostErr)
  | authorise (ch : OrgSrc) (hostErr : HostErr)
  | debugStatus (ch : OrgSrc) (hostErr : HostErr)
  | debugHalt (ch : OrgSrc) (hostErr : HostErr)
  | resumeCore (ch : OrgSrc) (hostErr : HostErr)
  | debugStep (ch : OrgSrc) (hostErr : HostErr)
  | brkset (ch : OrgSrc) (hostErr : HostErr)
  | brkclr (ch : OrgSrc) (hostErr : HostErr)
  | rdreg (ch : OrgSrc) (hostErr : HostErr)
  | wrreg (ch : OrgSrc) (hostErr : HostErr)
  | rdmem (ch : OrgSrc) (hostErr : HostErr)
  | wrmem (ch : OrgSrc) (hostErr : HostErr)
  | traceOn (ch : OrgSrc) (hostErr : HostErr)
  | traceOff (ch : OrgSrc) (hostErr : HostErr)
  | sessionExpire (j : Fin 10)
  | inputInRange
  | inputOutOfRange
  | overcurrentTrip
  | start (upTo : Fin 12) (recErr : Bool) (lanes : List (StackIx × Fin 2080))
  | startStepTimeout (elapsed : BitVec 16)
  | startRestart
  | refxoWindow (refA refB ring : BitVec 17)
  | perstDeassert (n : PortIx)
  | coldReset
  | warmReset
  | restart
  | writeFw (slot : Fin 2) (loc : Fin 2) (hostErr : HostErr)
  | writeImage (slot : Fin 2) (loc : Fin 2) (hostErr : HostErr)
  | erase (slot : Fin 2)
  | slotcmdComplete (norErr : Bool)
  | pllLockLoss (i : Fin 4)
  | pllRelock (i : Fin 4)
  | powerCapPeriod (mw : BitVec 32) (rails : List (BitVec 32)) (hbms : List (BitVec 32)) (other : BitVec 32)
  | dieThermalSample (d : Fin 10) (t : Fin 1024)
  | thmDieClr (d : Fin 10)
  | powerState (q : QIx)
  | powerCap (q : QIx)
  | pwrCtlGo (target : Fin 4)
  | idleDelayExpire
  | powerEntryBegin
  | powerEntryComplete
  | wakeEvent (ev : WakeEv)
  | powerExitComplete (lanes : List (StackIx × Fin 2080))
  | containmentOrder
  | errorRingWrite (n : PortIx)
  | scrubRead (key : ScrubKey) (outcome : Fin 3)
  | errRelease (mask : BitVec 8)
  | errInj (m : BitVec 12) (v : BitVec 64)
  | sampleCapture (k : Fin 512) (c : Fin 8) (skid : Fin 13)
  | pmcCollGo (c : Fin 9)
  | pmcInterval (c : Fin 9)
  | snapshot (q : QIx) (hostErr : HostErr)
  | inventory (data : List Byte)
  | sensors (data : List Byte)
  | regRead (data : List Byte)
  | regWrite (data : List Byte)
  | smbPowerState (data : List Byte)
  | smbPowerCap (data : List Byte)
  | wake (data : List Byte)
  | smbReset (data : List Byte)
  | orgBufWrite (data : List Byte)
  | orgRun (data : List Byte)
  | orgStatus (data : List Byte)
  | orgBufRead (data : List Byte)
  | memWrite (data : List Byte)
  | memRead (data : List Byte)
  | smbResponseRead
  | alertResponse
  | cableUnmated (n : LinkIx)
  | ckptQuiesceTimeout (i : PartIx)
  | timedOutTagRelease (t : Fin 8192)
  | cycleCountOverflow (b : PmcBlock) (c : Fin 8)
  | bootRecordUpdateDone
  deriving DecidableEq, Repr

end Sys2Proof
end

