-- ==== Sys2Proof/Config.lean ====
section
/-! DEFINITION. What an implementation fixes and the spec leaves open. Every constant here has no body: a proof about the
model holds whatever its value is. -/

namespace Sys2Proof

/-- The source of free values: the n-th value the machine draws where the spec states no value (log entry 1). -/
opaque Config.freeValue : Nat → Nat

/-- Does an ordered FCMP relation (LT, LE) on a quiet NaN set FPST.NV? spec/06_gelfort_core R166 cites IEEE 754, which has
both comparisons (log entry 2). -/
opaque Config.fcmpQuietNaNInvalid : Bool

/-- Does infinity times zero plus a quiet NaN set NV in a fused multiply-add? IEEE 754 leaves it to the implementation
(log entry 2). -/
opaque Config.fmaInfZeroNaNInvalid : Bool

/-- The coefficient word `w` of factory Sage table `t`, which the spec bounds and does not print (spec/05_sage_engine R141,
log entry 1). -/
opaque Config.factoryCoef : Nat → Nat → Nat

/-- The DMA engine of a die that serves descriptor `ix` of queue `q` (log entry 26). -/
opaque Config.dmaEngine : Nat → Nat → Nat

/-- The order in which the array combines block sums, which is fixed for an image and an operation shape and otherwise
unspecified (02 R68): the next partial result taken, of `n` that stand, for image `id`, operand class, K, pass and step. -/
opaque Config.combinePick (id cls k pass n : Nat) : Nat

/-- INFO of a Trellis event record: port, STATE and WHY, or the discard or timeout, whose packing spec/19_errors_counters R501
leaves open (log entry 29). -/
opaque Config.trellisInfo : Nat → Nat → Nat → Nat

/-- INFO of a configuration record (19 R501: a reason code, not listed; log entry 29): 0 a dropped interrupt message, 1 and 2 a
queue's ERR, 3 a site key, 4 the boot record. -/
opaque Config.configReason : Nat → Nat

/-- INFO of a thermal record: sensor and reading (19 R501; log entry 29). -/
opaque Config.thermalInfo : Nat → Nat → Nat

/-- The credit and acknowledgement fields of a CTRL flit, whose layout spec/13_trellis_fabric R353 leaves open (log entry 25):
the credits the 56 data bytes return for a subchannel, and the data bytes that return given credits. -/
opaque Config.ctrlCredit : Nat → Nat → Nat
opaque Config.ctrlData : List (Nat × Nat) → Nat

/-- Fuses fixed at manufacture (16 R429): the SHA-256 of the Torvore root public key, and the serial number. -/
opaque Config.rootHash : Nat
opaque Config.serial : Nat

/-- SLH-DSA of FIPS 205 (16 R425, R426; log entry 36): does a signature verify under a public key for a KEYID's parameter set;
the signature the identity key makes of a message; the identity public key of seeds. -/
opaque Config.slhVerify : Nat → List (BitVec 8) → List (BitVec 8) → List (BitVec 8) → Bool
opaque Config.slhSign : Nat → List (BitVec 8) → Nat
opaque Config.slhPublic : Nat → Nat

/-- The Torvore root public key that a firmware or token envelope is checked with: the one whose hash ROOT_HASH holds (16 R426). -/
opaque Config.rootKey : List (BitVec 8)

/-- SHA-256 of the Orangery ROM, which start-up measures into M0 (16 R434). -/
opaque Config.romDigest : Nat

/-- The intermediate a Lodge chooses for entry `i` of a member's detour bank, none where no intermediate avoids every entry
(15 R420: the rule states the property, not the choice; log entry 42). -/
opaque Config.detourInter : Nat → List Nat → Nat → Option Nat

/-- The box of a child Lodge, origin and size by dimension, which no message carries (15 R402, R408; log entry 43). -/
opaque Config.childBox : Nat → List (Nat × Nat)

end Sys2Proof
end

