-- ==== Sys2Proof/Machine/Bits.lean ====
section
/-! DEFINITION. Bit fields, little-endian byte strings (spec/00_scope R6) and the sparse map in one canonical form
that holds every memory, register file and per-unit table of the model. -/

namespace Sys2Proof

/-- Bits `hi:lo` of a natural number (R6: bit 0 is the least significant). -/
def natBits (n hi lo : Nat) : Nat := (n >>> lo) % 2 ^ (hi + 1 - lo)

/-- `n` with bits `hi:lo` replaced by the low bits of `v`. -/
def natPut (n hi lo v : Nat) : Nat :=
  let w := hi + 1 - lo
  (n >>> (hi + 1)) <<< (hi + 1) ||| ((v % 2 ^ w) <<< lo) ||| (n % 2 ^ lo)

/-- One bit of a natural number. -/
def natBit (n i : Nat) : Bool := n.testBit i

/-- A Bool as a bit. -/
def b2n (b : Bool) : Nat := if b then 1 else 0

/-- Two's complement reading of the low `w` bits. -/
def toSigned (w n : Nat) : Int :=
  let m := n % 2 ^ w
  if m < 2 ^ (w - 1) then (m : Int) else (m : Int) - (2 ^ w : Nat)

/-- The low `w` bits of an integer in two's complement. -/
def ofSigned (w : Nat) (i : Int) : Nat := (i % ((2 ^ w : Nat) : Int)).toNat

/-- `n` sign-extended from `w` bits to `v` bits. -/
def signExt (w v n : Nat) : Nat := ofSigned v (toSigned w n)

/-- Clamp an integer into `lo … hi`. -/
def clampInt (lo hi i : Int) : Int := if i < lo then lo else if hi < i then hi else i

/-- The `n` little-endian bytes of a number (R6). -/
def leBytes : Nat → Nat → List Byte
  | 0, _ => []
  | n + 1, v => BitVec.ofNat 8 v :: leBytes n (v / 256)

/-- The number little-endian bytes spell (R6). -/
def leNat : List Byte → Nat
  | [] => 0
  | b :: bs => b.toNat + 256 * leNat bs

/-- The bits set in a mask, below `n`, in rising order. -/
def maskBits (n m : Nat) : List Nat := (List.range n).filter (fun i => m.testBit i)

/-- Does a range of bytes `a … a+n-1` lie wholly in `b … b+m-1`? -/
def rangeIn (a n b m : Nat) : Bool := decide (b ≤ a) && decide (a + n ≤ b + m)

/-- Do `a … a+n-1` and `b … b+m-1` share a number? -/
def rangesMeet (a n b m : Nat) : Bool := decide (max a b < min (a + n) (b + m))

/-! ### The sparse map -/

/-- A map from numbers to values in one canonical form: keys strictly rising, and no entry equal to what an unlisted key
reads as. -/
abbrev SMap (α : Type) := List (Nat × α)

/-- What key `k` reads as: its entry, or the default `d`. -/
def SMap.get {α : Type} (d : α) : SMap α → Nat → α
  | [], _ => d
  | (k', v) :: m, k => if k' = k then v else SMap.get d m k

/-- Insert an entry that is not the default, keeping the keys rising. -/
def SMap.insert {α : Type} : SMap α → Nat → α → SMap α
  | [], k, v => [(k, v)]
  | (k', v') :: m, k, v =>
    if k < k' then (k, v) :: (k', v') :: m
    else if k = k' then (k, v) :: m
    else (k', v') :: SMap.insert m k v

/-- Remove every entry whose key a test selects: those keys read as the default again. -/
def SMap.drop {α : Type} (m : SMap α) (p : Nat → Bool) : SMap α := m.filter (fun e => !p e.1)

/-- Remove an entry. -/
def SMap.erase {α : Type} (m : SMap α) (k : Nat) : SMap α := SMap.drop m (fun j => j == k)

/-- Write a key: storing the default removes the entry, so equal maps are equal data. -/
def SMap.set {α : Type} [DecidableEq α] (d : α) (m : SMap α) (k : Nat) (v : α) : SMap α :=
  if v = d then SMap.erase m k else SMap.insert m k v

/-- Apply a function to what a key reads as. -/
def SMap.modify {α : Type} [DecidableEq α] (d : α) (m : SMap α) (k : Nat) (f : α → α) : SMap α :=
  SMap.set d m k (f (SMap.get d m k))

/-- The canonical form: keys strictly rising and no default stored. -/
def SMap.wf {α : Type} [DecidableEq α] (d : α) : SMap α → Bool
  | [] => true
  | (k, v) :: m => decide (v ≠ d) && (match m with | [] => true | (k', _) :: _ => decide (k < k')) && SMap.wf d m

/-- The listed keys, rising. -/
def SMap.keys {α : Type} (m : SMap α) : List Nat := m.map Prod.fst

/-! ### Byte memories -/

/-- A byte memory; an unlisted address reads as zero (spec/09_memory_reach R257: a cold reset zeroises every memory). -/
abbrev Mem := List Host.Cell

/-- One byte. -/
def Mem.read (m : Mem) (a : Nat) : Byte := SMap.get (0 : Byte) m a

/-- Store one byte. -/
def Mem.write (m : Mem) (a : Nat) (b : Byte) : Mem := SMap.set (0 : Byte) m a b

/-- `n` bytes from address `a` upward. -/
def Mem.readN (m : Mem) (a : Nat) : Nat → List Byte
  | 0 => []
  | n + 1 => Mem.read m a :: Mem.readN m (a + 1) n

/-- Store a byte string from address `a` upward. -/
def Mem.writeN (m : Mem) (a : Nat) : List Byte → Mem
  | [] => m
  | b :: bs => Mem.writeN (Mem.write m a b) (a + 1) bs

/-- Zeroise the bytes `a … a+n-1`. -/
def Mem.zero (m : Mem) (a n : Nat) : Mem := SMap.drop m (fun k => decide (a ≤ k) && decide (k < a + n))

/-- The canonical form of a byte memory. -/
def Mem.wf (m : Mem) : Bool := SMap.wf (0 : Byte) m

/-- The little-endian number in `n` bytes at `a`. -/
def Mem.readLE (m : Mem) (a n : Nat) : Nat := leNat (Mem.readN m a n)

/-! ### Lists -/

/-- Element `i` of a list, or a default. -/
def nth {α : Type} (d : α) (l : List α) (i : Nat) : α := l.getD i d

/-- Replace element `i` of a list (no change when the list is shorter). -/
def setNth {α : Type} (l : List α) (i : Nat) (v : α) : List α := l.set i v

/-- Update element `i`. -/
def modNth {α : Type} (d : α) (l : List α) (i : Nat) (f : α → α) : List α := l.set i (f (nth d l i))

/-- `a … a+n-1`. -/
def upFrom (a : Nat) : Nat → List Nat
  | 0 => []
  | n + 1 => a :: upFrom (a + 1) n

/-- Ceiling division. -/
def ceilDiv (a b : Nat) : Nat := (a + b - 1) / b

/-- Round up to a multiple of `b`. -/
def alignUp (a b : Nat) : Nat := ceilDiv a b * b

/-- Round down to a multiple of `b`. -/
def alignDown (a b : Nat) : Nat := a / b * b

/-- Split a list into pieces of `n` (the last may be shorter); `fuel` bounds the pieces. -/
def chunksOf {α : Type} (n : Nat) : Nat → List α → List (List α)
  | 0, _ => []
  | _ + 1, [] => []
  | f + 1, l => l.take n :: chunksOf n f (l.drop n)

end Sys2Proof
end

