-- ==== Sys2Proof/Machine/Fp.lean ====
section
/-! DEFINITION. Exact floating-point arithmetic: every result is computed exactly as a dyadic number and rounded once
(spec/02_number_formats R51-R55, R72; spec/06_gelfort_core R166). -/

namespace Sys2Proof.Machine

/-- How a format uses its top exponent (R53). -/
inductive FpKind where
  | ieee    -- infinities and NaNs at the all-ones exponent
  | e4m3    -- no infinity; NaN at 0x7F and 0xFF only
  | finite  -- neither (FP6, FP4)
  deriving DecidableEq, Repr

/-- A floating-point encoding (R51): exponent width, mantissa width, special encodings. The bias is 2^(ebits-1)-1 in every
format of the table. -/
structure FpFmt where
  ebits : Nat
  mbits : Nat
  kind : FpKind
  deriving DecidableEq, Repr

def fp64 : FpFmt := ⟨11, 52, .ieee⟩
def fp32 : FpFmt := ⟨8, 23, .ieee⟩
/-- FP19 on its own 19 bits, the upper bits of its 32-bit container (R52). -/
def fp19 : FpFmt := ⟨8, 10, .ieee⟩
def bf16 : FpFmt := ⟨8, 7, .ieee⟩
def fp16 : FpFmt := ⟨5, 10, .ieee⟩
def e4m3 : FpFmt := ⟨4, 3, .e4m3⟩
def e5m2 : FpFmt := ⟨5, 2, .ieee⟩
def e3m2 : FpFmt := ⟨3, 2, .finite⟩
def e2m3 : FpFmt := ⟨2, 3, .finite⟩
def e2m1 : FpFmt := ⟨2, 1, .finite⟩

def FpFmt.width (f : FpFmt) : Nat := 1 + f.ebits + f.mbits
def FpFmt.bias (f : FpFmt) : Nat := 2 ^ (f.ebits - 1) - 1
def FpFmt.emin (f : FpFmt) : Int := 1 - (f.bias : Int)
/-- The weight of the last bit of a subnormal. -/
def FpFmt.qmin (f : FpFmt) : Int := f.emin - f.mbits
/-- The magnitude bits of the largest finite value. -/
def FpFmt.maxMag (f : FpFmt) : Nat :=
  match f.kind with
  | .ieee => (2 ^ f.ebits - 1) * 2 ^ f.mbits - 1
  | .e4m3 => 2 ^ (f.ebits + f.mbits) - 2
  | .finite => 2 ^ (f.ebits + f.mbits) - 1
/-- The canonical NaN (R53); the finite formats have none and read as zero here, a case no rule reaches. -/
def FpFmt.nanBits (f : FpFmt) : Nat :=
  match f.kind with
  | .ieee => (2 ^ f.ebits - 1) * 2 ^ f.mbits + 2 ^ (f.mbits - 1)
  | .e4m3 => 2 ^ (f.ebits + f.mbits) - 1
  | .finite => 0
/-- The sign bit in place. -/
def FpFmt.signBit (f : FpFmt) (neg : Bool) : Nat := if neg then 2 ^ (f.ebits + f.mbits) else 0
/-- Infinity of a sign; where a format has none, the NaN of R72's table. -/
def FpFmt.infBits (f : FpFmt) (neg : Bool) : Nat :=
  match f.kind with
  | .ieee => f.signBit neg + (2 ^ f.ebits - 1) * 2 ^ f.mbits
  | .e4m3 => f.nanBits
  | .finite => f.signBit neg + f.maxMag

/-- A number as arithmetic sees it: a finite value is (-1)^neg * m * 2^e, zero keeping its sign. -/
inductive FpVal where
  | nan
  | inf (neg : Bool)
  | fin (neg : Bool) (m : Nat) (e : Int)
  deriving DecidableEq, Repr

/-- Read an encoding (R51, R53: subnormals honoured, every NaN encoding a NaN). -/
def fpDecode (f : FpFmt) (n : Nat) : FpVal :=
  let neg := n.testBit (f.ebits + f.mbits)
  let ex := natBits n (f.ebits + f.mbits - 1) f.mbits
  let mant := n % 2 ^ f.mbits
  if f.kind = .ieee ∧ ex = 2 ^ f.ebits - 1 then (if mant = 0 then .inf neg else .nan)
  else if f.kind = .e4m3 ∧ ex * 2 ^ f.mbits + mant = 2 ^ (f.ebits + f.mbits) - 1 then .nan
  else if ex = 0 then .fin neg mant f.qmin
  else .fin neg (2 ^ f.mbits + mant) ((ex : Int) - f.bias - f.mbits)

/-- Is the encoding a signalling NaN of an IEEE format? -/
def fpIsSNaN (f : FpFmt) (n : Nat) : Bool :=
  fpDecode f n = .nan && f.kind = .ieee && !n.testBit (f.mbits - 1)

/-- Rounding modes (06 R166, 02 R72). -/
inductive RMode where
  | rne | rz | rdn | rup | rmm
  deriving DecidableEq, Repr

/-- What one rounding reports. -/
structure FpFlags where
  nx : Bool := false
  uf : Bool := false
  ovf : Bool := false
  dz : Bool := false
  nv : Bool := false
  deriving DecidableEq, Repr

def FpFlags.or (a b : FpFlags) : FpFlags :=
  ⟨a.nx || b.nx, a.uf || b.uf, a.ovf || b.ovf, a.dz || b.dz, a.nv || b.nv⟩

/-- The flags as the bits NX, UF, OF, DZ, NV from bit 0 upward (06 R157, FPST). -/
def FpFlags.bits (f : FpFlags) : Nat := b2n f.nx + 2 * b2n f.uf + 4 * b2n f.ovf + 8 * b2n f.dz + 16 * b2n f.nv

/-- Does the rounding move the truncated significand away from zero? `rem` is what was cut from `2^sh` parts. -/
def roundUp (rm : RMode) (neg : Bool) (sig rem sh : Nat) : Bool :=
  let half := 2 ^ (sh - 1)
  match rm with
  | .rne => decide (half < rem) || (decide (rem = half) && sig % 2 == 1)
  | .rmm => decide (half ≤ rem)
  | .rz => false
  | .rdn => neg && decide (rem ≠ 0)
  | .rup => !neg && decide (rem ≠ 0)

/-- Round (-1)^neg * m * 2^e to a significand on the grid of a format, its lowest grid weight `q`, exactly once: the
integer multiple of 2^q and whether it was inexact. -/
def roundTo (rm : RMode) (neg : Bool) (m : Nat) (e q : Int) : Nat × Bool :=
  if q ≤ e then (m * 2 ^ (e - q).toNat, false)
  else
    let sh := (q - e).toNat
    let sig := m >>> sh
    let rem := m % 2 ^ sh
    (if roundUp rm neg sig rem sh then sig + 1 else sig, decide (rem ≠ 0))

/-- The grid weight of a value's last kept bit in a format. -/
def gridOf (f : FpFmt) (m : Nat) (e : Int) : Int := max (((Nat.log2 m : Nat) : Int) + e - f.mbits) f.qmin

/-- Does an overflow go to infinity, or to the largest finite value, in this mode? -/
def ovfToInf (rm : RMode) (neg : Bool) : Bool :=
  match rm with
  | .rne => true | .rmm => true | .rz => false | .rdn => neg | .rup => !neg

/-- Encode a finite value with one rounding (R72): the bits and the flags NX, UF (tiny after rounding and inexact,
R71) and OF. Where the format has no infinity, an overflow saturates to the largest finite value (R72's table). -/
def fpRound (f : FpFmt) (rm : RMode) (neg : Bool) (m : Nat) (e : Int) : Nat × FpFlags :=
  if m = 0 then (f.signBit neg, {})
  else
    let q := gridOf f m e
    let (sig, inx) := roundTo rm neg m e q
    -- magnitude bits: sig on grid q; a carry out of the significand moves to the next binade by itself
    let mag := if sig < 2 ^ f.mbits then sig else (q - f.qmin).toNat * 2 ^ f.mbits + sig
    if f.maxMag < mag then
      (if f.kind = .ieee ∧ ovfToInf rm neg then f.infBits neg else f.signBit neg + f.maxMag, { nx := true, ovf := true })
    else (f.signBit neg + mag, { nx := inx, uf := inx && decide (mag < 2 ^ f.mbits) })

/-- Encode any value; a NaN becomes the canonical NaN. -/
def fpEncode (f : FpFmt) (rm : RMode) : FpVal → Nat × FpFlags
  | .nan => (f.nanBits, {})
  | .inf neg => (f.infBits neg, {})
  | .fin neg m e => fpRound f rm neg m e

/-- The finite value as a signed integer multiple of 2^e at a common exponent. -/
def scaleTo (e q : Int) (neg : Bool) (m : Nat) : Int :=
  let v : Int := (m : Int) * ((2 ^ (e - q).toNat : Nat) : Int)
  if neg then -v else v

/-- Exact sum of two finite values; an exact zero of unlike signs is +0, or -0 when rounding down (IEEE 754). -/
def addExact (rm : RMode) (n1 : Bool) (m1 : Nat) (e1 : Int) (n2 : Bool) (m2 : Nat) (e2 : Int) : FpVal :=
  let q := min e1 e2
  let s := scaleTo e1 q n1 m1 + scaleTo e2 q n2 m2
  if s = 0 then
    (if m1 = 0 ∧ m2 = 0 ∧ n1 = n2 then .fin n1 0 q else .fin (decide (rm = .rdn)) 0 q)
  else .fin (decide (s < 0)) s.natAbs q

/-- IEEE addition of decoded values: the exact result and whether it is an invalid operation. -/
def valAdd (rm : RMode) : FpVal → FpVal → FpVal × Bool
  | .nan, _ => (.nan, false)
  | _, .nan => (.nan, false)
  | .inf a, .inf b => if a = b then (.inf a, false) else (.nan, true)
  | .inf a, .fin _ _ _ => (.inf a, false)
  | .fin _ _ _, .inf b => (.inf b, false)
  | .fin n1 m1 e1, .fin n2 m2 e2 => (addExact rm n1 m1 e1 n2 m2 e2, false)

def valNeg : FpVal → FpVal
  | .nan => .nan
  | .inf n => .inf (!n)
  | .fin n m e => .fin (!n) m e

/-- IEEE multiplication of decoded values. -/
def valMul : FpVal → FpVal → FpVal × Bool
  | .nan, _ => (.nan, false)
  | _, .nan => (.nan, false)
  | .inf a, .inf b => (.inf (a != b), false)
  | .inf a, .fin n m _ => if m = 0 then (.nan, true) else (.inf (a != n), false)
  | .fin n m _, .inf b => if m = 0 then (.nan, true) else (.inf (n != b), false)
  | .fin n1 m1 e1, .fin n2 m2 e2 => (.fin (n1 != n2) (m1 * m2) (e1 + e2), false)

/-- A quotient with a sticky bit: enough bits that one rounding to any format of R51 is the correctly rounded quotient. -/
def divSticky (m1 m2 : Nat) (e1 e2 : Int) : Nat × Int :=
  let k := 130 + Nat.log2 m2
  let num := m1 * 2 ^ k
  (2 * (num / m2) + b2n (decide (num % m2 ≠ 0)), e1 - e2 - (k : Int) - 1)

/-- IEEE division: the value, invalid, divide by zero. -/
def valDiv : FpVal → FpVal → FpVal × Bool × Bool
  | .nan, _ => (.nan, false, false)
  | _, .nan => (.nan, false, false)
  | .inf _, .inf _ => (.nan, true, false)
  | .inf a, .fin n _ _ => (.inf (a != n), false, false)
  | .fin n _ _, .inf b => (.fin (n != b) 0 0, false, false)
  | .fin n1 m1 e1, .fin n2 m2 e2 =>
    if m2 = 0 then (if m1 = 0 then (.nan, true, false) else (.inf (n1 != n2), false, true))
    else if m1 = 0 then (.fin (n1 != n2) 0 0, false, false)
    else
      let (m, e) := divSticky m1 m2 e1 e2
      (.fin (n1 != n2) m e, false, false)

/-- Integer square root by bits, from the top: `natSqrtAux k n r` settles the bits below 2^k of the root. -/
def natSqrtAux : Nat → Nat → Nat → Nat
  | 0, _, r => r
  | k + 1, n, r =>
    let t := r + 2 ^ k
    natSqrtAux k n (if t * t ≤ n then t else r)

def natSqrt (n : Nat) : Nat := natSqrtAux (Nat.log2 n / 2 + 1) n 0

/-- A square root with a sticky bit. -/
def sqrtSticky (m : Nat) (e : Int) : Nat × Int :=
  let k : Nat := if (e % 2 = 0) then 260 else 261
  let n := m * 2 ^ k
  let r := natSqrt n
  (2 * r + b2n (decide (r * r ≠ n)), (e - k) / 2 - 1)

/-- IEEE square root: the value and invalid. -/
def valSqrt : FpVal → FpVal × Bool
  | .nan => (.nan, false)
  | .inf neg => if neg then (.nan, true) else (.inf false, false)
  | .fin neg m e =>
    if m = 0 then (.fin neg 0 0, false)
    else if neg then (.nan, true)
    else
      let (r, q) := sqrtSticky m e
      (.fin false r q, false)

/-- Ordering of two values that are no NaN. -/
def valLt : FpVal → FpVal → Bool
  | .nan, _ => false
  | _, .nan => false
  | .inf a, .inf b => a && !b
  | .inf a, .fin _ _ _ => a
  | .fin _ _ _, .inf b => !b
  | .fin n1 m1 e1, .fin n2 m2 e2 =>
    let q := min e1 e2
    decide (scaleTo e1 q n1 m1 < scaleTo e2 q n2 m2)

def valEq : FpVal → FpVal → Bool
  | .nan, _ => false
  | _, .nan => false
  | .inf a, .inf b => a == b
  | .inf _, .fin _ _ _ => false
  | .fin _ _ _, .inf _ => false
  | .fin n1 m1 e1, .fin n2 m2 e2 =>
    let q := min e1 e2
    decide (scaleTo e1 q n1 m1 = scaleTo e2 q n2 m2)

def valIsNaN : FpVal → Bool
  | .nan => true | _ => false
def valIsInf : FpVal → Bool
  | .inf _ => true | _ => false
def valIsZero : FpVal → Bool
  | .fin _ m _ => m == 0 | _ => false
def valSign : FpVal → Bool
  | .nan => false | .inf n => n | .fin n _ _ => n

/-- Do two operands make IEEE's invalid operation because one is a signalling NaN? -/
def anySNaN (f : FpFmt) (l : List Nat) : Bool := l.any (fpIsSNaN f)

/-- IEEE addition in a format, rounded once. -/
def fpAdd (f : FpFmt) (rm : RMode) (a b : Nat) : Nat × FpFlags :=
  let (v, nv) := valAdd rm (fpDecode f a) (fpDecode f b)
  let (r, fl) := fpEncode f rm v
  (r, { fl with nv := nv || anySNaN f [a, b] })

def fpNegBits (f : FpFmt) (a : Nat) : Nat := a ^^^ 2 ^ (f.ebits + f.mbits)

def fpSub (f : FpFmt) (rm : RMode) (a b : Nat) : Nat × FpFlags :=
  let (v, nv) := valAdd rm (fpDecode f a) (valNeg (fpDecode f b))
  let (r, fl) := fpEncode f rm v
  (r, { fl with nv := nv || anySNaN f [a, b] })

def fpMul (f : FpFmt) (rm : RMode) (a b : Nat) : Nat × FpFlags :=
  let (v, nv) := valMul (fpDecode f a) (fpDecode f b)
  let (r, fl) := fpEncode f rm v
  (r, { fl with nv := nv || anySNaN f [a, b] })

def fpDiv (f : FpFmt) (rm : RMode) (a b : Nat) : Nat × FpFlags :=
  let (v, nv, dz) := valDiv (fpDecode f a) (fpDecode f b)
  let (r, fl) := fpEncode f rm v
  (r, { fl with nv := nv || anySNaN f [a, b], dz := dz })

def fpSqrt (f : FpFmt) (rm : RMode) (a : Nat) : Nat × FpFlags :=
  let (v, nv) := valSqrt (fpDecode f a)
  let (r, fl) := fpEncode f rm v
  (r, { fl with nv := nv || anySNaN f [a] })

/-- A fused product and sum on decoded values: one rounding is left to the caller. -/
def valFma (rm : RMode) (a b c : FpVal) : FpVal × Bool :=
  let (p, nv1) := valMul a b
  if valIsNaN p then (.nan, nv1)
  else
    let (s, nv2) := valAdd rm p c
    (s, nv1 || nv2)

def fpFma (f : FpFmt) (rm : RMode) (a b c : Nat) : Nat × FpFlags :=
  let (v, nv) := valFma rm (fpDecode f a) (fpDecode f b) (fpDecode f c)
  let (r, fl) := fpEncode f rm v
  (r, { fl with nv := nv || anySNaN f [a, b, c] })

/-- Conversion between two formats, one rounding (R72). -/
def fpConvert (src dst : FpFmt) (rm : RMode) (a : Nat) : Nat × FpFlags :=
  let (r, fl) := fpEncode dst rm (fpDecode src a)
  (r, { fl with nv := anySNaN src [a] })

/-- An integer as a value. -/
def valOfInt (i : Int) : FpVal := .fin (decide (i < 0)) i.natAbs 0

/-- A value rounded to an integer: the integer and whether it was inexact (finite values only). -/
def valToInt (rm : RMode) (neg : Bool) (m : Nat) (e : Int) : Int × Bool :=
  let (r, inx) := roundTo rm neg m e 0
  (if neg then -(r : Int) else (r : Int), inx)

/-- A finite value as an exact FP value scaled by a power of two. -/
def valScale (k : Int) : FpVal → FpVal
  | .nan => .nan
  | .inf n => .inf n
  | .fin n m e => .fin n m (e + k)

/-- floor(log2 |v|) of a non-zero finite value. -/
def valExpo (m : Nat) (e : Int) : Int := ((Nat.log2 m : Nat) : Int) + e

end Sys2Proof.Machine
end

