-- ==== Sys2Proof/Machine/BlockSum.lean ====
section
/-! DEFINITION. Operand formats and classes, packing, integer-weight expansion, exact block and group sums, and the
conversions of the matrix path (spec/02_number_formats R49-R73). -/

namespace Sys2Proof.Machine

/-- Operand classes (R50). -/
inductive FmtClass where
  | f64 | f19 | h16 | q8f | q8i | q8m | q4
  deriving DecidableEq, Repr

/-- Is a 5-bit format code one of R49's table? -/
def fmtLegal (c : Nat) : Bool := decide (c ≤ 0x0E) || (decide (0x10 ≤ c) && decide (c ≤ 0x12))

/-- Bits an element of a format takes in memory (R49, R57). -/
def fmtBits (c : Nat) : Nat :=
  if c = 0 then 64 else if c ≤ 3 then 32 else if c ≤ 5 then 16 else if c ≤ 0x0A then 8
  else if c ≤ 0x0C then 6 else if c = 0x0D then 4 else if c = 0x0E then 8
  else if c = 0x10 then 4 else if c = 0x11 then 3 else 2

/-- Is the format block-scaled (R54-R56)? -/
def fmtIsMX (c : Nat) : Bool := decide (9 ≤ c) && decide (c ≤ 0x0E)

/-- Is the format an integer weight format (R58-R60)? -/
def fmtIsIntW (c : Nat) : Bool := decide (0x10 ≤ c) && decide (c ≤ 0x12)

/-- The class of a format code, an integer weight taking the class of its expansion output (R50). -/
def fmtClass (c outfmt : Nat) : Option FmtClass :=
  if c = 0 ∨ c = 2 then some .f64
  else if c = 1 ∨ c = 3 then some .f19
  else if c = 4 ∨ c = 5 then some .h16
  else if c = 6 ∨ c = 7 ∨ c = 9 ∨ c = 0x0A then some .q8f
  else if c = 8 then some .q8i
  else if c = 0x0E then some .q8m
  else if c = 0x0B ∨ c = 0x0C ∨ c = 0x0D then some .q4
  else if fmtIsIntW c then (if outfmt = 4 then some .h16 else if outfmt = 6 then some .q8f else none)
  else none

/-- Are the two operand formats a legal pair (R50)? -/
def fmtPairOk (cw ca outfmt : Nat) : Bool :=
  !fmtIsIntW ca && (match fmtClass cw outfmt, fmtClass ca 0 with
    | some a, some b => decide (a = b)
    | _, _ => false)

/-- The element's own floating-point encoding, for the formats that have one. -/
def fmtFp (c : Nat) : Option FpFmt :=
  if c = 0 then some fp64 else if c = 1 ∨ c = 2 then some fp32 else if c = 3 then some fp19
  else if c = 4 then some bf16 else if c = 5 then some fp16
  else if c = 6 ∨ c = 9 then some e4m3 else if c = 7 ∨ c = 0x0A then some e5m2
  else if c = 0x0B then some e2m3 else if c = 0x0C then some e3m2 else if c = 0x0D then some e2m1 else none

/-- Element `j` of a packed array held as one little-endian number (R57). -/
def packedGet (w : Nat) (bytes : List Byte) (j : Nat) : Nat :=
  let bit := j * w
  let lo := bit / 8
  leNat ((bytes.drop lo).take 9) >>> (bit % 8) % 2 ^ w

/-- An element as the cells see it (R52, R55, R65): FP32R rounded to FP19 on entry, FP32W widened exactly, an integer as
itself. The block scale is applied by the block sum. -/
def elemVal (c n : Nat) : FpVal :=
  if c = 8 ∨ c = 0x0E then valOfInt (toSigned 8 n)
  else if c = 3 then fpDecode fp19 (n / 2 ^ 13 % 2 ^ 19)
  else if c = 1 then fpDecode fp19 (fpEncode fp19 .rne (fpDecode fp32 n)).1
  else match fmtFp c with
    | some f => fpDecode f n
    | none => .fin false 0 0

/-- Expansion of an integer weight code, method SZ (R58): (q - z) * s exactly, rounded once. Where q = z, the spec states neither the
zero's sign nor zero times an infinite scale: -0 under a negative scale, +0 under a positive one, NaN under an infinite one (DESIGN CHOICE,
log entry 98). -/
def expandSZ (bits : Nat) (signed : Bool) (out : FpFmt) (rec q : Nat) : FpVal :=
  let qi : Int := if signed then toSigned bits q else (q : Int)
  let z := toSigned 8 (natBits rec 23 16)
  match fpDecode bf16 (rec % 2 ^ 16) with
  | .nan => .nan
  | .inf n =>
    let d := qi - z
    if d = 0 then .nan else fpDecode out (fpEncode out .rne (.inf (n != decide (d < 0)))).1
  | .fin n m e =>
    let d := qi - z
    fpDecode out (fpRound out .rne (n != decide (d < 0)) (m * d.natAbs) e).1

/-- Expansion by table, method TBL (R59): entry q exactly. -/
def expandTBL (table : List Byte) (q : Nat) : FpVal := fpDecode bf16 (packedGet 16 table q)

/-- The four sticky flags of an array operation (R71). -/
structure ArrFlags where
  inv : Bool := false
  ovf : Bool := false
  unf : Bool := false
  inx : Bool := false
  deriving DecidableEq, Repr

def ArrFlags.or (a b : ArrFlags) : ArrFlags := ⟨a.inv || b.inv, a.ovf || b.ovf, a.unf || b.unf, a.inx || b.inx⟩

/-- The exponent of a product's leading bit in R61's sense: expo of each input, emin for a subnormal. -/
def expoOf (f : FpFmt) (m : Nat) (e : Int) : Int := if m < 2 ^ f.mbits then f.emin else e + f.mbits

/-- One product of a block as R61 takes it apart. -/
inductive Prod where
  | nan
  | invalid                                    -- infinity times zero
  | inf (neg : Bool)
  | zero (neg : Bool)
  | fin (neg : Bool) (m : Nat) (e : Int) (ex : Int)
  deriving DecidableEq, Repr

def prodOf (fa fb : FpFmt) : FpVal → FpVal → Prod
  | .nan, _ => .nan
  | _, .nan => .nan
  | .inf a, .inf b => .inf (a != b)
  | .inf a, .fin n m _ => if m = 0 then .invalid else .inf (a != n)
  | .fin n m _, .inf b => if m = 0 then .invalid else .inf (n != b)
  | .fin n1 m1 e1, .fin n2 m2 e2 =>
    if m1 = 0 ∨ m2 = 0 then .zero (n1 != n2)
    else .fin (n1 != n2) (m1 * m2) (e1 + e2) (expoOf fa m1 e1 + expoOf fb m2 e2)

/-- The largest product exponent, none when no product is a finite non-zero. -/
def prodEmax : List Prod → Option Int
  | [] => none
  | p :: ps =>
    match p, prodEmax ps with
    | .fin _ _ _ x, some y => some (max x y)
    | .fin _ _ _ x, none => some x
    | _, r => r

/-- One product in the block adder: shifted to bit 0 of weight 2^base, bits below lost (R62). -/
def prodTerm (base : Int) : Prod → Int × Bool
  | .fin neg m e _ =>
    let sh := e - base
    let mag : Nat := if 0 ≤ sh then m * 2 ^ sh.toNat else m >>> (-sh).toNat
    let lost := decide (sh < 0) && decide (m % 2 ^ (-sh).toNat ≠ 0)
    (if neg then -(mag : Int) else (mag : Int), lost)
  | _ => (0, false)

/-- The exact sum of the finite products, in units of their least weight: is it zero (R71)? -/
def exactZero (ps : List Prod) : Bool :=
  let lo := ps.foldl (fun (a : Option Int) p => match p, a with
    | .fin _ _ e _, some x => some (min e x)
    | .fin _ _ e _, none => some e
    | _, x => x) none
  match lo with
  | none => true
  | some b => ps.foldl (fun (t : Int) p => match p with
      | .fin neg m e _ => t + (if neg then -((m * 2 ^ (e - b).toNat : Nat) : Int) else ((m * 2 ^ (e - b).toNat : Nat) : Int))
      | _ => t) 0 == 0

/-- A block or group sum (R61, R66, R70, R71): `win` is 88 or 151, `k` the block scales' exponent, `out` the accumulation
format. -/
def sumProducts (out : FpFmt) (win : Int) (k : Int) (ps : List Prod) : Nat × ArrFlags :=
  if ps.any (fun p => p == .nan) then (out.nanBits, {})
  else if ps.any (fun p => p == .invalid) then (out.nanBits, { inv := true })
  else
    let pinf := ps.any (fun p => p == .inf false)
    let ninf := ps.any (fun p => p == .inf true)
    if pinf && ninf then (out.nanBits, { inv := true })
    else if pinf then (out.infBits false, {})
    else if ninf then (out.infBits true, {})
    else
      match prodEmax ps with
      | none => (out.signBit (ps.all (fun p => p == .zero true)), {})
      | some emax =>
        let base := emax - win
        let terms := ps.map (prodTerm base)
        let acc := terms.foldl (fun s t => s + t.1) 0
        let lost := terms.any (fun t => t.2)
        if acc = 0 then (0, { inx := lost, unf := lost && !exactZero ps })
        else
          let (r, fl) := fpRound out .rne (decide (acc < 0)) acc.natAbs (base + k)
          let inx := lost || fl.nx
          let mag := r % 2 ^ (out.ebits + out.mbits)
          (r, { ovf := fl.ovf, inx := inx, unf := inx && decide (mag < 2 ^ out.mbits) && !exactZero ps })

/-- The encoding the cells read a code's elements with: FP32R as FP19, FP32W as FP32 (its exact FP64 image has the same
value, and no product of such inputs loses bits by the choice). -/
def cellFmt (c outfmt : Nat) : FpFmt :=
  if c = 1 ∨ c = 3 then fp19
  else if c = 2 then fp64
  else if fmtIsIntW c then (if outfmt = 6 then e4m3 else bf16)
  else (fmtFp c).getD fp32

/-- An FP32W element widened exactly to FP64 as it enters (R65). -/
def widen64 (v : FpVal) : FpVal :=
  match v with
  | .fin n m e => fpDecode fp64 (fpRound fp64 .rne n m e).1
  | x => x

/-- The block sum of a class (R61, R64, R66): `xa`, `xb` the block scales, 0x7F where an operand has none. -/
def blockSum (cls : FmtClass) (fa fb : FpFmt) (as bs : List FpVal) (xa xb : Nat) : Nat × ArrFlags :=
  match cls with
  | .f64 => sumProducts fp64 151 0 (List.zipWith (prodOf fp64 fp64) (as.map widen64) (bs.map widen64))
  | .q8i | .q8m =>
    if cls = .q8m ∧ (xa = 0xFF ∨ xb = 0xFF) then (fp32.nanBits, {})
    else
      let s := (List.zipWith (fun a b => match a, b with
        | .fin n1 m1 _, .fin n2 m2 _ => if n1 != n2 then -((m1 * m2 : Nat) : Int) else ((m1 * m2 : Nat) : Int)
        | _, _ => 0) as bs).foldl (· + ·) (0 : Int)
      let k : Int := if cls = .q8m then -12 + ((xa : Int) - 127) + ((xb : Int) - 127) else 0
      let (r, fl) := fpRound fp32 .rne (decide (s < 0)) s.natAbs k
      (r, { ovf := fl.ovf, inx := fl.nx, unf := fl.uf })
  | _ =>
    if xa = 0xFF ∨ xb = 0xFF then (fp32.nanBits, {})
    else sumProducts fp32 88 (((xa : Int) - 127) + ((xb : Int) - 127)) (List.zipWith (prodOf fa fb) as bs)

/-- Elements to a block or group sum (R61, R66). -/
def FmtClass.group (c : FmtClass) : Nat := if c = .f64 then 4 else 32

/-- The accumulation format of a class (R50, R67). -/
def FmtClass.accFmt (c : FmtClass) : FpFmt := if c = .f64 then fp64 else fp32

/-- One accumulation: an IEEE addition rounded to nearest even (R67) with its sticky flags (R71). -/
def accumulate (f : FpFmt) (a b : Nat) : Nat × ArrFlags :=
  let (r, fl) := fpAdd f .rne a b
  let nanIn := valIsNaN (fpDecode f a) || valIsNaN (fpDecode f b)
  (r, { inv := valIsNaN (fpDecode f r) && !nanIn, ovf := fl.ovf, inx := fl.nx, unf := fl.uf })

/-! ### Conversion to an output format (R72, R73) -/

/-- Rounding of a conversion: to nearest even, toward zero, or stochastic with a number of random bits (05 R148). -/
inductive CvtRound where
  | rne | rz
  | stoch (bits : Nat)      -- the 32 random bits of the element
  deriving DecidableEq, Repr

/-- Round a magnitude on a grid. Stochastic rounding truncates and moves one step away from zero exactly when the random
number is below the discarded fraction in 1/2^32ths, rounded down (05 R148). -/
def cvtRoundTo (r : CvtRound) (neg : Bool) (m : Nat) (e q : Int) : Nat :=
  match r with
  | .rne => (roundTo .rne neg m e q).1
  | .rz => (roundTo .rz neg m e q).1
  | .stoch rnd =>
    if q ≤ e then m * 2 ^ (e - q).toNat
    else
      let sh := (q - e).toNat
      let frac := (m % 2 ^ sh) * 2 ^ 32 / 2 ^ sh
      m >>> sh + b2n (decide (rnd % 2 ^ 32 < frac))

/-- A finite magnitude to a floating-point grid under R72: overflow goes to infinity only under RNE and only where the
format has one, else to the largest finite value. -/
def cvtFinite (f : FpFmt) (r : CvtRound) (neg : Bool) (m : Nat) (e : Int) : Nat :=
  if m = 0 then f.signBit neg
  else
    let q := gridOf f m e
    let sig := cvtRoundTo r neg m e q
    let mag := if sig < 2 ^ f.mbits then sig else (q - f.qmin).toNat * 2 ^ f.mbits + sig
    if f.maxMag < mag then
      (if f.kind = .ieee ∧ r = .rne then f.infBits neg else f.signBit neg + f.maxMag)
    else f.signBit neg + mag

/-- A value to a floating-point target (R72's table). -/
def cvtFp (f : FpFmt) (r : CvtRound) : FpVal → Nat
  | .nan => f.nanBits
  | .inf neg => if f.kind = .e4m3 then f.nanBits else f.infBits neg
  | .fin neg m e => cvtFinite f r neg m e

/-- A value to INT8 (R72). -/
def cvtInt8 (r : CvtRound) : FpVal → Nat
  | .nan => 0
  | .inf neg => if neg then 0x80 else 0x7F
  | .fin neg m e =>
    let g := cvtRoundTo r neg m e 0
    ofSigned 8 (clampInt (-128) 127 (if neg then -(g : Int) else (g : Int)))

/-- emax of an element format (R73). -/
def mxEmax (c : Nat) : Int :=
  if c = 9 then 8 else if c = 0x0A then 15 else if c = 0x0C then 4 else if c = 0x0B then 2 else if c = 0x0D then 2 else 0

/-- The shared scale of a block: 0xFF when a value is NaN or infinite, else from the largest magnitude (R73). -/
def mxScale (c : Nat) (vs : List FpVal) : Nat :=
  if vs.any (fun v => valIsNaN v || valIsInf v) then 0xFF
  else
    let ex := vs.filterMap (fun v => match v with
      | .fin _ m e => if m = 0 then none else some (valExpo m e)
      | _ => none)
    match ex with
    | [] => 0
    | x :: xs => (clampInt 0 254 ((xs.foldl max x) - mxEmax c + 127)).toNat

/-- One element of an MX block under scale X (R73): saturating. -/
def mxElem (c X : Nat) (r : CvtRound) (v : FpVal) : Nat :=
  if X = 0xFF then 0
  else match v with
    | .fin neg m e =>
      let e' := e + 127 - (X : Int)
      if c = 0x0E then
        let g := cvtRoundTo r neg m e' (-6)
        ofSigned 8 (clampInt (-128) 127 (if neg then -(g : Int) else (g : Int)))
      else match fmtFp c with
        | some f =>
          let b := cvtFinite f r neg m e'
          if f.kind = .ieee ∧ f.maxMag < b % 2 ^ (f.ebits + f.mbits) then f.signBit neg + f.maxMag else b
        | none => 0
    | _ => 0

end Sys2Proof.Machine
end

