-- ==== Sys2Proof/Machine/SageState.lean ====
section
/-! DEFINITION. The state of one Sage post engine (spec/05_sage_engine R125-R155). -/

namespace Sys2Proof.Machine

/-- A row context holding a row (R129). -/
structure SageRow where
  row : Nat
  pc : Nat
  /-- instructions issued (R133) -/
  steps : Nat := 0
  /-- stochastic-rounding stores issued so far, the j of R148 -/
  srCount : Nat := 0
  /-- a ROUTE has been issued (R150) -/
  routed : Bool := false
  /-- lane l of S register r at key r * 512 + l -/
  s : SMap Nat := []
  deriving DecidableEq, Repr

/-- One row context: the next tile row it will take, and the row it holds. -/
structure SageCtx where
  next : Nat
  cur : Option SageRow := none
  deriving DecidableEq, Repr

/-- The tile being drained (R125, R126, R130). -/
structure SageTile where
  slot : Nat
  /-- rows and columns of the queue entry -/
  rows : Nat
  cols : Nat
  f64 : Bool
  /-- first column of C the tile holds on this die (R135) -/
  n0 : Nat
  /-- first row of the operation's C in the tile -/
  row0 : Nat
  entry : Nat
  /-- the operation -/
  op : Nat
  /-- rows that have ended -/
  ended : Nat := 0
  ctxs : List SageCtx
  /-- argument word w of requester r at key r * 64 + w, read before the requester's first row (R149) -/
  args : SMap Nat := []
  argsRead : List Nat := []
  deriving DecidableEq, Repr

/-- An access of the SGE memory windows held until the slot is released (R152): block offset, bytes of the write. -/
structure SageHeld where
  off : Nat
  bytes : List Byte
  deriving DecidableEq, Repr

/-- One Sage engine. -/
structure Sage where
  /-- instruction i of the store (R134) -/
  prog : SMap Nat := []
  /-- lane l of constant row n at key n * 512 + l -/
  const : SMap Nat := []
  /-- words of tables written since a reset loaded the factory ones, word w of table t at key t * 784 + w (R139, R141) -/
  tbl : SMap (Option Nat) := []
  /-- lane l of row r of tile buffer b at key (b * 1024 + r) * 512 + l (R129) -/
  tb : SMap Nat := []
  tile : Option SageTile := none
  held : List SageHeld := []
  deriving DecidableEq, Repr

/-- A choice of experts handed to the Token Exchange Unit (R150; 14 R380). -/
structure SageRoute where
  ctx : Nat
  k : Nat
  /-- virtual address of the token row -/
  token : Nat
  weights : List Nat
  experts : List Nat
  deriving DecidableEq, Repr

end Sys2Proof.Machine
end

