-- ==== Sys2Proof/Machine/Sage.lean ====
section
/-! DEFINITION. The instructions of the Sage post engine as functions of a row context (spec/05_sage_engine R134-R151). -/

namespace Sys2Proof.Machine

/-- What a row sees beside its registers: the tile, its row of the slot, its requester (R126, R135, R145). -/
structure SageEnv where
  w : Nat
  f64 : Bool
  n0 : Nat
  mrow : Nat
  /-- 512 words of ACC and of ACC1 -/
  acc : List Nat
  acc1 : List Nat
  args : List Nat
  outAddr : Nat
  outStride : Nat
  /-- columns of C -/
  n : Nat
  seed : Nat
  entry : Nat

/-- Error codes of R151. -/
def sgILLEGAL : Nat := 1
def sgSTEPS : Nat := 2
def sgRANGE : Nat := 3
def sgFORMAT : Nat := 4
def sgROUTE : Nat := 5
def sgTABLE : Nat := 6

/-- What an instruction did to its row. -/
structure SageOk where
  row : SageRow
  tb : SMap Nat
  /-- stored bytes by virtual address -/
  stores : List (Nat × List Byte) := []
  route : Option SageRoute := none
  sovf : Bool := false
  sinv : Bool := false
  deriving DecidableEq, Repr

/-- An instruction completes, or ends its row with an error code. -/
inductive SageRes where
  | ok (o : SageOk)
  | err (code : Nat)
  deriving DecidableEq, Repr

/-! ### Fields and sources (R134, R135) -/

def siOpc (i : Nat) : Nat := natBits i 63 56
def siD (i : Nat) : Nat := natBits i 55 52
def siA (i : Nat) : Nat := natBits i 51 45
def siB (i : Nat) : Nat := natBits i 44 38
def siC (i : Nat) : Nat := natBits i 37 31
def siE (i : Nat) : Bool := i.testBit 30
/-- F in its place, bits 29:16. -/
def siF (i : Nat) : Nat := natBits i 29 16
def siImm (i : Nat) : Nat := natBits i 15 0
def siTY (i : Nat) : Nat := natBits i 17 16
def siAbs (i : Nat) : Bool := i.testBit 18
def siHalf (i : Nat) : Bool := i.testBit 23

/-- Codes 0x17 and 0x24-0x3F are reserved. -/
def srcOk (c : Nat) : Bool := decide (c ≤ 0x16) || (decide (0x18 ≤ c) && decide (c ≤ 0x23)) || decide (0x40 ≤ c)

/-- Which fields an opcode uses; the rest must be zero (R134). `fm` masks the used bits of F, counted from bit 16. -/
structure SageUse where
  d : Bool := false
  a : Bool := false
  b : Bool := false
  c : Bool := false
  fm : Nat := 0
  imm : Bool := false

/-- Does an instruction keep R134: unused fields zero, no reserved source code? -/
def sageForm (u : SageUse) (i : Nat) : Bool :=
  (u.d || siD i == 0) &&
  (if u.a then srcOk (siA i) else siA i == 0) &&
  (if u.b then srcOk (siB i) else siB i == 0) &&
  (if u.c then srcOk (siC i) else siC i == 0) &&
  (siF i &&& u.fm == siF i) &&
  (u.imm || siImm i == 0)

/-- The 512 words a source code reads (R135). -/
def sageSrc (e : SageEnv) (sg : Sage) (r : SageRow) (c : Nat) : List Nat :=
  if c < 0x10 then (List.range 512).map (fun l => SMap.get 0 r.s (c * 512 + l))
  else if c = 0x10 then e.acc
  else if c = 0x11 then e.acc1
  else if c = 0x12 then List.range 512
  else if c = 0x13 then List.replicate 512 r.row
  else if c = 0x14 then List.replicate 512 e.mrow
  else if c = 0x15 then (List.range 512).map (fun l => e.n0 + l)
  else if 0x18 ≤ c ∧ c ≤ 0x23 then (List.range 512).map (fun l => SMap.get 0 sg.const ((c - 0x18) * 512 + l))
  else if 0x40 ≤ c then List.replicate 512 (nth 0 e.args (c - 0x40))
  else List.replicate 512 0

/-- Write a register's lanes. -/
def sageWrite (s : SMap Nat) (d : Nat) (vs : List Nat) : SMap Nat :=
  (vs.zipIdx).foldl (fun m p => SMap.set 0 m (d * 512 + p.2) p.1) s

/-- Pairs of lanes as 64-bit values, the low word in the even lane (R136). -/
def toPairs : List Nat → List Nat
  | lo :: hi :: t => (lo + hi * 2 ^ 32) :: toPairs t
  | _ => []
def ofPairs : List Nat → List Nat
  | [] => []
  | v :: t => v % 2 ^ 32 :: v / 2 ^ 32 % 2 ^ 32 :: ofPairs t

/-- Operand elements in a type: FP32 lanes, BF16 in bits 31:16, FP64 pairs (R136). -/
def tyFmt (ty : Nat) : FpFmt := if ty = 1 then bf16 else if ty = 2 then fp64 else fp32
def tyRead (ty : Nat) (l : List Nat) : List Nat :=
  if ty = 1 then l.map (fun x => natBits x 31 16) else if ty = 2 then toPairs l else l
def tyPut (ty : Nat) (l : List Nat) : List Nat :=
  if ty = 1 then l.map (fun x => x * 2 ^ 16) else if ty = 2 then ofPairs l else l

/-- Magnitude: the sign bit cleared. -/
def fpAbs (f : FpFmt) (x : Nat) : Nat := x % 2 ^ (f.ebits + f.mbits)

/-- The row advanced past an instruction that wrote register `d`. -/
def SageRow.put (r : SageRow) (d : Nat) (vs : List Nat) : SageRow :=
  { r with s := sageWrite r.s d vs, pc := r.pc + 1, steps := r.steps + 1 }
def SageRow.step (r : SageRow) (pc : Nat) : SageRow := { r with pc := pc, steps := r.steps + 1 }

def sageOkRow (sg : Sage) (r : SageRow) (inv : Bool := false) : SageRes := .ok { row := r, tb := sg.tb, sinv := inv }

/-- A result is a NaN although no operand is one (R151 SINV). -/
def newNaN (f : FpFmt) (out : Nat) (ins : List Nat) : Bool :=
  valIsNaN (fpDecode f out) && !ins.any (fun x => valIsNaN (fpDecode f x))

/-! ### Arithmetic (R136, R137) -/

/-- Element-wise arithmetic on up to three operands in the selected type. -/
def sageFp (u : SageUse) (g : FpFmt → Nat → Nat → Nat → Nat × List Nat)
    (e : SageEnv) (sg : Sage) (r : SageRow) (i : Nat) : SageRes :=
  let ty := siTY i
  if !sageForm u i || ty == 3 then .err sgILLEGAL
  else
    let f := tyFmt ty
    let rd := fun c => tyRead ty (sageSrc e sg r c)
    let as := (rd (siA i)).map (fun x => if siAbs i then fpAbs f x else x)
    let bs := rd (siB i)
    let cs := rd (siC i)
    let outs := (as.zip (bs.zip cs)).map (fun t => g f t.1 t.2.1 t.2.2)
    sageOkRow sg (r.put (siD i) (tyPut ty (outs.map (fun o => o.1)))) (outs.any (fun o => newNaN f o.1 o.2))

def useFp2 : SageUse := { d := true, a := true, b := true, fm := 0b111 }
def useFp3 : SageUse := { d := true, a := true, b := true, c := true, fm := 0b111 }

/-- FADD, opcode 0x08. -/
def sgFadd : SageEnv → Sage → SageRow → Nat → SageRes := sageFp useFp2 (fun f a b _ => ((fpAdd f .rne a b).1, [a, b]))
/-- FSUB, opcode 0x09. -/
def sgFsub : SageEnv → Sage → SageRow → Nat → SageRes := sageFp useFp2 (fun f a b _ => ((fpSub f .rne a b).1, [a, b]))
/-- FMUL, opcode 0x0A. -/
def sgFmul : SageEnv → Sage → SageRow → Nat → SageRes := sageFp useFp2 (fun f a b _ => ((fpMul f .rne a b).1, [a, b]))
/-- FMA, opcode 0x0B: rounded once. -/
def sgFma : SageEnv → Sage → SageRow → Nat → SageRes :=
  sageFp useFp3 (fun f a b c => ((fpFma f .rne a b c).1, [a, b, c]))

/-- FMAX's order on values that are no NaN, -0 below +0 (R137). -/
def fmaxBelow (f : FpFmt) (a b : Nat) : Bool :=
  let x := fpDecode f a
  let y := fpDecode f b
  valLt x y || (valEq x y && valSign x && !valSign y)

def fMaxMin (isMax : Bool) (f : FpFmt) (a b : Nat) : Nat :=
  if valIsNaN (fpDecode f a) || valIsNaN (fpDecode f b) then f.nanBits
  else if fmaxBelow f a b = isMax then b else a

/-- FMAX, opcode 0x0C. -/
def sgFmax : SageEnv → Sage → SageRow → Nat → SageRes := sageFp useFp2 (fun f a b _ => (fMaxMin true f a b, [a, b]))
/-- FMIN, opcode 0x0D. -/
def sgFmin : SageEnv → Sage → SageRow → Nat → SageRes := sageFp useFp2 (fun f a b _ => (fMaxMin false f a b, [a, b]))

/-- One relation of FCMP: 0 EQ, 1 LT, 2 LE, 3 UNORD (R137). -/
def fcmpRel (f : FpFmt) (rel a b : Nat) : Bool :=
  let x := fpDecode f a
  let y := fpDecode f b
  if valIsNaN x || valIsNaN y then rel == 3
  else if rel = 0 then valEq x y else if rel = 1 then valLt x y
  else if rel = 2 then valLt x y || valEq x y else false

/-- FCMP, opcode 0x0E: 1 or 0 as an integer in each lane, or in each pair (log entry 20). -/
def sgFcmp (e : SageEnv) (sg : Sage) (r : SageRow) (i : Nat) : SageRes :=
  let ty := siTY i
  if !sageForm { d := true, a := true, b := true, fm := 0b110011 } i || ty == 3 then .err sgILLEGAL
  else
    let f := tyFmt ty
    let as := tyRead ty (sageSrc e sg r (siA i))
    let bs := tyRead ty (sageSrc e sg r (siB i))
    let outs := List.zipWith (fun a b => b2n (fcmpRel f (natBits i 21 20) a b)) as bs
    sageOkRow sg (r.put (siD i) (if ty = 2 then ofPairs outs else outs))

/-- SEL, opcode 0x0F. -/
def sgSel (e : SageEnv) (sg : Sage) (r : SageRow) (i : Nat) : SageRes :=
  if !sageForm { d := true, a := true, b := true, c := true } i then .err sgILLEGAL
  else
    let as := sageSrc e sg r (siA i)
    let bs := sageSrc e sg r (siB i)
    let cs := sageSrc e sg r (siC i)
    sageOkRow sg (r.put (siD i) ((as.zip (bs.zip cs)).map (fun t => if t.1 = 0 then t.2.2 else t.2.1)))

/-- IADD, ISUB, IMUL, IAND, IOR, IXOR, opcodes 0x10-0x15: modulo 2^32. -/
def sgIadd (e : SageEnv) (sg : Sage) (r : SageRow) (i : Nat) : SageRes :=
  if !sageForm { d := true, a := true, b := true } i then .err sgILLEGAL
  else
    let f := fun a b =>
      let k := siOpc i
      if k = 0x10 then (a + b) % 2 ^ 32
      else if k = 0x11 then (a + 2 ^ 32 - b) % 2 ^ 32
      else if k = 0x12 then a * b % 2 ^ 32
      else if k = 0x13 then a &&& b
      else if k = 0x14 then a ||| b
      else a ^^^ b
    sageOkRow sg (r.put (siD i) (List.zipWith f (sageSrc e sg r (siA i)) (sageSrc e sg r (siB i))))

/-- SHL, SHR, SAR, opcodes 0x16-0x18: by IMM bits 4:0. -/
def sgShl (e : SageEnv) (sg : Sage) (r : SageRow) (i : Nat) : SageRes :=
  if !sageForm { d := true, a := true, imm := true } i then .err sgILLEGAL
  else
    let n := siImm i % 32
    let f := fun a =>
      if siOpc i = 0x16 then a <<< n % 2 ^ 32
      else if siOpc i = 0x17 then a >>> n
      else ofSigned 32 (toSigned 32 a / ((2 ^ n : Nat) : Int))
    sageOkRow sg (r.put (siD i) ((sageSrc e sg r (siA i)).map f))

/-- MOVI, opcode 0x19. -/
def sgMovi (_ : SageEnv) (sg : Sage) (r : SageRow) (i : Nat) : SageRes :=
  if !sageForm { d := true, imm := true } i then .err sgILLEGAL
  else sageOkRow sg (r.put (siD i) (List.replicate 512 (signExt 16 32 (siImm i))))

/-- MOVF, opcode 0x1A: a BF16 value is the upper half of the FP32 value. -/
def sgMovf (_ : SageEnv) (sg : Sage) (r : SageRow) (i : Nat) : SageRes :=
  if !sageForm { d := true, imm := true } i then .err sgILLEGAL
  else
    let v := siImm i * 2 ^ 16
    sageOkRow sg (r.put (siD i) (List.replicate 512 (if valIsNaN (fpDecode fp32 v) then fp32.nanBits else v)))

/-- FP32 to a 32-bit integer, saturating, NaN to 0. -/
def fpToInt32 (rm : RMode) (x : Nat) : Nat :=
  match fpDecode fp32 x with
  | .nan => 0
  | .inf neg => if neg then 0x80000000 else 0x7FFFFFFF
  | .fin neg m e => ofSigned 32 (clampInt (-2147483648) 2147483647 (valToInt rm neg m e).1)

/-- CVT, opcode 0x1C: the kind in bits 19:16, the rounding in bits 21:20. -/
def sgCvt (e : SageEnv) (sg : Sage) (r : SageRow) (i : Nat) : SageRes :=
  let kind := natBits i 19 16
  let rnd := natBits i 21 20
  if !sageForm { d := true, a := true, b := kind == 4, fm := 0b111111 } i || decide (4 < kind) || decide (1 < rnd) then
    .err sgILLEGAL
  else
    let rm : RMode := if rnd = 0 then .rne else .rz
    let as := sageSrc e sg r (siA i)
    let to64 := fun x => (fpConvert fp32 fp64 .rne x).1
    let to32 := fun x => (fpConvert fp64 fp32 rm x).1
    let outs :=
      if kind = 0 then as.map (fun x => (fpEncode fp32 rm (valOfInt (toSigned 32 x))).1)
      else if kind = 1 then as.map (fpToInt32 rm)
      else if kind = 2 then ofPairs ((as.take 256).map to64)
      else if kind = 3 then ofPairs ((as.drop 256).map to64)
      else (toPairs as).map to32 ++ (toPairs (sageSrc e sg r (siB i))).map to32
    sageOkRow sg (r.put (siD i) outs)

/-! ### Table look-up (R139, R140) -/

/-- floor and fraction of a non-negative dyadic m * 2^e. -/
def dyFloor (m : Nat) (e : Int) : Nat := if 0 ≤ e then m * 2 ^ e.toNat else m >>> (-e).toNat
def dyFrac (m : Nat) (e : Int) : Nat × Int := if 0 ≤ e then (0, 0) else (m % 2 ^ (-e).toNat, e)

/-- poly(t, u): the segment's quadratic in two fused steps, s rounded once to FP32. -/
def lutPoly (tw : Nat → Nat) (m : Nat) (e : Int) : Nat :=
  let i := dyFloor m e
  let fr := dyFrac m e
  let s := (fpRound fp32 .rne false fr.1 fr.2).1
  let c := fun k => tw (16 + 3 * i + k)
  (fpFma fp32 .rne (fpFma fp32 .rne (c 2) s (c 1)).1 s (c 0)).1

/-- scale2(y, n): y * 2^n rounded once to FP32. -/
def lutScale (y : Nat) (n : Int) : Nat := (fpEncode fp32 .rne (valScale n (fpDecode fp32 y))).1

def lutTail (mode c v : Nat) : Nat := if mode = 0 then c else if mode = 1 then v else (fpMul fp32 .rne v c).1

def lutSeg (tw : Nat → Nat) (v : Nat) : Nat :=
  let h := tw 0
  let u := (fpMul fp32 .rne (fpSub fp32 .rne v (tw 1)).1 (tw 2)).1
  match fpDecode fp32 u with
  | .nan => fp32.nanBits
  | .inf true => lutTail (natBits h 5 4) (tw 5) v
  | .inf false => lutTail (natBits h 7 6) (tw 6) v
  | .fin neg m e =>
    if neg ∧ m ≠ 0 then lutTail (natBits h 5 4) (tw 5) v
    else if 256 ≤ dyFloor m e then lutTail (natBits h 7 6) (tw 6) v
    else lutPoly tw m e

/-- copysign on FP32 encodings. -/
def fpCopySign (y v : Nat) : Nat := fpAbs fp32 y + (if v.testBit 31 then 2 ^ 31 else 0)

/-- m * 2^e split as (1 <= m' < 2) * 2^k: k, and (m' - 1) as a dyadic. -/
def dySplit (m : Nat) (e : Int) : Int × (Nat × Int) :=
  let k := valExpo m e
  (k, (m - 2 ^ Nat.log2 m, e - k))

/-- EXP2 of a finite v (R140). -/
def lutExp2 (tw : Nat → Nat) (neg : Bool) (m : Nat) (e : Int) : Nat :=
  if !neg ∧ 128 ≤ dyFloor m e then fp32.infBits false
  else if neg ∧ (150 < dyFloor m e ∨ (dyFloor m e = 150 ∧ (dyFrac m e).1 ≠ 0)) then 0
  else
    let fl := dyFloor m e
    let fr := dyFrac m e
    -- n = floor(v), f = v - n exactly
    let n : Int := if neg then (if fr.1 = 0 then -(fl : Int) else -(fl : Int) - 1) else fl
    let f : Nat := if neg ∧ fr.1 ≠ 0 then 2 ^ (-fr.2).toNat - fr.1 else fr.1
    lutScale (lutPoly tw f (fr.2 + 8)) n

/-- LUT of one input under a table given by its words. -/
def lutVal (tw : Nat → Nat) (x : Nat) : Nat :=
  if valIsNaN (fpDecode fp32 x) then fp32.nanBits
  else
    let v := (fpMul fp32 .rne x (tw 3)).1
    let r :=
      if tw 0 % 16 = 0 then lutSeg tw v
      else if tw 0 % 16 = 1 then fpCopySign (lutSeg tw (fpAbs fp32 v)) v
      else match tw 0 % 16, fpDecode fp32 v with
        | _, .nan => fp32.nanBits
        | 2, .inf neg => if neg then 0 else fp32.infBits false
        | 2, .fin neg m e => lutExp2 tw neg m e
        | 3, .inf neg => if neg then fp32.nanBits else fp32.infBits false
        | 3, .fin neg m e =>
          if m = 0 then fp32.infBits true
          else if neg then fp32.nanBits
          else
            let (k, f) := dySplit m e
            let ek := (fpEncode fp32 .rne (valOfInt k)).1
            (fpMul fp32 .rne (fpAdd fp32 .rne ek (lutPoly tw f.1 (f.2 + 8))).1 (tw 4)).1
        | 4, .inf neg => fp32.signBit neg
        | 4, .fin neg m e =>
          if m = 0 then fp32.infBits neg
          else
            let (k, f) := dySplit m e
            fpCopySign (lutScale (lutPoly tw f.1 (f.2 + 8)) (-k)) v
        | _, .inf neg => if neg then fp32.nanBits else 0
        | _, .fin neg m e =>
          if m = 0 then fp32.infBits neg
          else if neg then fp32.nanBits
          else
            let (k, f) := dySplit m e
            let q : Int := k / 2
            -- w = v / 4^q: below 2 when k is even; u = (w - 1) * 128 or 128 + (w - 2) * 64
            let one := 2 ^ Nat.log2 m
            if k = 2 * q then lutScale (lutPoly tw f.1 (f.2 + 7)) (-q)
            else lutScale (lutPoly tw (one + f.1) (f.2 + 7)) (-q)
    if valIsNaN (fpDecode fp32 r) then fp32.nanBits else r

/-! ### Tables at reset (R141) -/

/-- Is coefficient word `w` (0-767) of factory table `t` one that R141 fixes: c0 of segment 0 of tables 0 to 3? -/
def factoryFixed (t w : Nat) : Option Nat :=
  if w = 0 then (if t = 0 ∨ t = 2 ∨ t = 3 then some 0x3F800000 else if t = 1 then some 0 else none) else none

/-- The factory header of table `t`: R141's table. What it does not give, a dash, NAME, and THI of tables 4 and 5, reads as zero (log
entry 21). -/
def factoryHeader (t : Nat) : List Nat :=
  let one := 0x3F800000
  match t with
  | 0 => [0x102, 0, 0, 0x3FB8AA3B, one]
  | 1 => [0x103, 0, 0, one, 0x3F317218]
  | 2 => [0x104, 0, 0, one, one]
  | 3 => [0x105, 0, 0, one, one]
  | 4 => [0x140, 0xC1000000, 0x41800000, one, one]
  | 5 => [0x140, 0xC1800000, 0x41000000, one, one]
  | 6 => [0x101, 0, 0x41CCCCCD, one, one, 0, one]
  | 7 => [0x101, 0, 0x42800000, one, one, 0, one]
  | _ => []

/-! The functions that R141 bounds, as rationals within 2^-64 of them: far below every bound. -/

def ratPow (x : Rat) : Nat → Rat
  | 0 => 1
  | n + 1 => ratPow x n * x
def ratSum (n : Nat) (f : Nat → Rat) : Rat := (List.range n).foldl (fun a i => a + f i) 0
def ratFact : Nat → Rat
  | 0 => 1
  | n + 1 => ratFact n * ((n : Rat) + 1)
/-- exp, for |x| at most 256. -/
def expRat (x : Rat) : Rat := ratPow (ratSum 60 (fun n => ratPow (x / 256) n / ratFact n)) 256
/-- ln of 1 <= m <= 2, and of m * 2^k. -/
def lnRat1 (m : Rat) : Rat := 2 * ratSum 80 (fun n => ratPow ((m - 1) / (m + 1)) (2 * n + 1) / (2 * (n : Rat) + 1))
def lnRat (m : Rat) (k : Int) : Rat := lnRat1 m + (k : Rat) * lnRat1 2
/-- The sum in erf(z) = 2 z / sqrt(pi) * erfSum(z^2), for z^2 at most 33; 2 / sqrt(pi) and sqrt(2 / pi) to 40 places. -/
def erfSum (y : Rat) : Rat := ratSum 200 (fun n => ratPow (-y) n / (ratFact n * (2 * (n : Rat) + 1)))
def twoOverSqrtPi : Rat := 11283791670955125738961589031215451716881 / 10 ^ 40
def sqrtTwoOverPi : Rat := 7978845608028653558798921198687637369517 / 10 ^ 40

/-- The number an FP32 value is. -/
def ratOf : FpVal → Option Rat
  | .fin neg m e =>
    let v : Rat := (m : Rat) * (if 0 ≤ e then ((2 ^ e.toNat : Nat) : Rat) else 1 / ((2 ^ (-e).toNat : Nat) : Rat))
    some (if neg then -v else v)
  | _ => none

def two22 : Rat := 1 / 4194304
/-- Is `r` within R141's bound of what factory table `t` stands for at `x`? A relative bound is asked where the true value is a normal
number (DESIGN CHOICE, log entry 21). -/
def factoryNear (t : Nat) (x r : Rat) (m : Rat) (k : Int) : Bool :=
  let near := fun (v b : Rat) => decide (v - b ≤ r) && decide (r ≤ v + b)
  let least : Rat := 1 / ((2 ^ 126 : Nat) : Rat)
  let most : Rat := ((2 ^ 127 : Nat) : Rat)
  let abs := if x < 0 then -x else x
  let z := if 16 < abs then 16 else abs
  let half := twoOverSqrtPi * erfSum (z * z) * z
  match t with
  | 0 => decide (88 < abs) || near (expRat x) (expRat x * (two22 + abs / 16777216))
  | 1 => decide (x ≤ 0) || (let v := lnRat m k; near v (two22 * (1 + (if v < 0 then -v else v))))
  | 2 => decide (x = 0) || decide (1 / abs < least) || decide (most < 1 / abs) || near (1 / x) (two22 / abs)
  | 3 => decide (x ≤ 0) || (decide ((1 - two22) * (1 - two22) ≤ r * r * x) && decide (r * r * x ≤ (1 + two22) * (1 + two22)) && decide (0 < r))
  | 4 => near (if 8 ≤ x then x else if x ≤ -8 then 0 else x / 2 + x * x * sqrtTwoOverPi * erfSum (x * x / 2) / 2) (1 / 524288)
  | 5 => near (if 64 ≤ abs then (if x < 0 then 0 else x) else x / (1 + expRat (-x))) (1 / 131072)
  | 6 => near (if 64 ≤ abs then (if x < 0 then -1 else 1) else (expRat (2 * x) - 1) / (expRat (2 * x) + 1)) (1 / 1048576)
  | _ => near (if 5 ≤ abs then (if x < 0 then -1 else 1) else (if x < 0 then -half else half)) two22

/-- The words of factory table `t` with coefficients `c`. -/
def factoryWords (t : Nat) (c : Nat → Nat) (w : Nat) : Nat := if w < 16 then nth 0 (factoryHeader t) w else c (w - 16) % 2 ^ 32
def allBelow (p : Nat → Bool) : Nat → Bool
  | 0 => true
  | n + 1 => p n && allBelow p n
def firstBelow (p : Nat → Bool) : Nat → Option Nat
  | 0 => none
  | n + 1 => match firstBelow p n with | some i => some i | none => if p n then some n else none
/-- Do coefficients have the exact values and keep the bounds that R141 promises of table `t`? -/
def factoryGood (t : Nat) (c : Nat → Nat) : Bool :=
  (match factoryFixed t 0 with | some v => c 0 == v | none => true) && allBelow (fun w => natBits (c w) 30 23 != 255) 768 &&
    allBelow (fun n =>
      let v := fpDecode fp32 n
      match v, ratOf v, ratOf (fpDecode fp32 (lutVal (factoryWords t c) n)) with
      | .fin _ m e, some x, some r =>
        factoryNear t x r ((m : Rat) / ((2 ^ Nat.log2 m : Nat) : Rat)) (valExpo m e)
      | .fin _ m _, some x, none => m == 0 && (t == 1 || t == 2 || t == 3) || decide (x < 0) && (t == 1 || t == 3) ||
          (t == 0 && decide (88 < x)) || (t == 2 && decide (-1 < x) && decide (x < 1))
      | _, _, _ => true) (2 ^ 32)

/-- A factory coefficient: the exact ones of R141; for every other a free value, which keeps R141's bounds (log entries 1, 21). -/
def factoryCoef (t w : Nat) : Nat :=
  (factoryFixed t w).getD
    (if factoryGood t (Config.factoryCoef t) then Config.factoryCoef t w % 2 ^ 32
     else match firstBelow (fun n => factoryGood t (fun w => natBits n (32 * w + 31) (32 * w))) (2 ^ (32 * 768)) with
       | some n => natBits n (32 * w + 31) (32 * w)
       | none => 0)

/-- Word `w` of table `t` as a reset loads it: tables 0 to 7 factory, tables 8 to 15 empty. -/
def factoryWord (t w : Nat) : Nat := if 8 ≤ t then 0 else if w < 16 then nth 0 (factoryHeader t) w else factoryCoef t (w - 16)

/-- A table as the 784 words of R139. -/
def tblWord (sg : Sage) (t w : Nat) : Nat := (SMap.get none sg.tbl (t * 784 + w)).getD (factoryWord t w)
def tblKind (sg : Sage) (t : Nat) : Nat := natBits (tblWord sg t 0) 3 0

/-- May the table be used? -/
def tblUsable (sg : Sage) (t : Nat) : Bool :=
  let h := tblWord sg t 0
  h.testBit 8 && decide (tblKind sg t ≤ 5) && natBits h 5 4 != 3 && natBits h 7 6 != 3

/-- One lane of LUT. -/
def lutLane (sg : Sage) (t x : Nat) : Nat := lutVal (tblWord sg t) x

/-- LUT, opcode 0x20. -/
def sgLut (e : SageEnv) (sg : Sage) (r : SageRow) (i : Nat) : SageRes :=
  if !sageForm { d := true, a := true, fm := 0b1111 } i then .err sgILLEGAL
  else
    let t := natBits i 19 16
    if !tblUsable sg t then .err sgTABLE
    else
      let as := sageSrc e sg r (siA i)
      let outs := as.map (lutLane sg t)
      sageOkRow sg (r.put (siD i) outs) ((as.zip outs).any (fun p => newNaN fp32 p.2 [p.1]))

/-! ### Reductions (R143, R144) -/

/-- One level of the fixed pairwise tree: a node with one input passes it on. -/
def treeLevel {α : Type} (g : α → α → α) : List α → List α
  | a :: b :: t => g a b :: treeLevel g t
  | l => l

/-- The tree over at most 2^n values. -/
def treeReduce {α : Type} (g : α → α → α) : Nat → List α → List α
  | 0, l => l
  | n + 1, l => treeReduce g n (treeLevel g l)

/-- The values a reduction takes: lanes 0 to W-1, or the pairs HALF names; none where R143 makes it illegal. -/
def redVals (e : SageEnv) (i : Nat) (src : List Nat) : Option (FpFmt × List Nat) :=
  let ty := siTY i
  if ty = 0 then (if siHalf i then none else some (fp32, src.take e.w))
  else if ty = 2 then
    (if siHalf i then (if e.w ≤ 256 then none else some (fp64, (toPairs src).take (e.w - 256)))
     else some (fp64, (toPairs src).take (min e.w 256)))
  else none

/-- A reduction written to every lane or pair; a NaN result is the canonical NaN (R137). -/
def sageReduce (g : FpFmt → List Nat → Nat) (e : SageEnv) (sg : Sage) (r : SageRow) (i : Nat) : SageRes :=
  if !sageForm { d := true, a := true, fm := 0b10000011 } i then .err sgILLEGAL
  else match redVals e i (sageSrc e sg r (siA i)) with
    | none => .err sgILLEGAL
    | some (f, vs) =>
      let v := g f vs
      let out := if valIsNaN (fpDecode f v) then f.nanBits else v
      let lanes := if siTY i = 2 then (List.replicate 256 (ofPairs [out])).flatten else List.replicate 512 out
      sageOkRow sg (r.put (siD i) lanes) (newNaN f out vs)

/-- RSUM, opcode 0x28: nine levels for lanes, eight for pairs. -/
def sgRsum : SageEnv → Sage → SageRow → Nat → SageRes :=
  sageReduce (fun f vs => (treeReduce (fun a b => (fpAdd f .rne a b).1) 9 vs).headD 0)

/-- A tree of FMAX or FMIN: one NaN makes the result NaN, since each combination with it is (R144). -/
def sageRMinMax (isMax : Bool) : SageEnv → Sage → SageRow → Nat → SageRes :=
  sageReduce (fun f vs => (treeReduce (fMaxMin isMax f) 9 vs).headD 0)

/-- RMAX, opcode 0x29. -/
def sgRmax : SageEnv → Sage → SageRow → Nat → SageRes := sageRMinMax true
/-- RMIN, opcode 0x2A. -/
def sgRmin : SageEnv → Sage → SageRow → Nat → SageRes := sageRMinMax false

/-- RARGMAX's and TOPK's order: is (value, lane) b ranked above a? A NaN ranks above +infinity; equal values rank the lower
lane first. -/
def rankAbove (a b : Nat × Nat) : Bool :=
  let an := valIsNaN (fpDecode fp32 a.1)
  let bn := valIsNaN (fpDecode fp32 b.1)
  if an || bn then (bn && !an) || (an && bn && decide (b.2 < a.2))
  else fmaxBelow fp32 a.1 b.1 || (!fmaxBelow fp32 b.1 a.1 && decide (b.2 < a.2))

/-- The highest-ranked entry. -/
def topOf : Nat × Nat → List (Nat × Nat) → Nat × Nat
  | m, [] => m
  | m, x :: t => topOf (if rankAbove m x then x else m) t

/-- The `k` highest-ranked entries, best first. -/
def topList : Nat → List (Nat × Nat) → List (Nat × Nat)
  | 0, _ => []
  | _ + 1, [] => []
  | k + 1, x :: t =>
    let m := topOf x t
    m :: topList k ((x :: t).filter (fun y => y.2 ≠ m.2))

/-- RARGMAX, opcode 0x2B. -/
def sgRargmax (e : SageEnv) (sg : Sage) (r : SageRow) (i : Nat) : SageRes :=
  if !sageForm { d := true, a := true } i then .err sgILLEGAL
  else
    let m := (topList 1 ((sageSrc e sg r (siA i)).zipIdx.take e.w)).headD (0, 0)
    sageOkRow sg (r.put (siD i) (List.replicate 512 (e.n0 + m.2)))

/-- TOPK, opcode 0x2C: values to D, COL indices to D + 1, other lanes zero. -/
def sgTopk (e : SageEnv) (sg : Sage) (r : SageRow) (i : Nat) : SageRes :=
  let k := natBits i 20 16
  if !sageForm { d := true, a := true, fm := 0b11111 } i || k == 0 || decide (16 < k) || decide (e.w < k)
      || siD i == 15 then .err sgILLEGAL
  else
    let l := topList k ((sageSrc e sg r (siA i)).zipIdx.take e.w)
    let pad := List.replicate (512 - k) 0
    let canon := fun v => if valIsNaN (fpDecode fp32 v) then fp32.nanBits else v
    let r1 := r.put (siD i) (l.map (fun p => canon p.1) ++ pad)
    sageOkRow sg { r1 with s := sageWrite r1.s (siD i + 1) (l.map (fun p => e.n0 + p.2) ++ pad) }

/-! ### Tile buffers and branches (R136, R138) -/

/-- The row of a tile buffer TBR or TBW names; none where R134 or R138 makes it illegal. -/
def tbRow (r : SageRow) (i : Nat) : Option Nat :=
  if i.testBit 17 then (if siImm i ≤ 1023 then some (b2n (i.testBit 16) * 1024 + siImm i) else none)
  else if siImm i = 0 then some (b2n (i.testBit 16) * 1024 + r.row) else none

/-- TBR, opcode 0x30. -/
def sgTbr (_ : SageEnv) (sg : Sage) (r : SageRow) (i : Nat) : SageRes :=
  if !sageForm { d := true, fm := 0b11, imm := true } i then .err sgILLEGAL
  else match tbRow r i with
    | none => .err sgILLEGAL
    | some b => sageOkRow sg (r.put (siD i) ((List.range 512).map (fun l => SMap.get 0 sg.tb (b * 512 + l))))

/-- TBW, opcode 0x31. -/
def sgTbw (e : SageEnv) (sg : Sage) (r : SageRow) (i : Nat) : SageRes :=
  if !sageForm { a := true, fm := 0b11, imm := true } i then .err sgILLEGAL
  else match tbRow r i with
    | none => .err sgILLEGAL
    | some b => .ok { row := r.step (r.pc + 1), tb := sageWrite sg.tb b (sageSrc e sg r (siA i)) }

/-- NOP, opcode 0x01. -/
def sgNop (_ : SageEnv) (sg : Sage) (r : SageRow) (i : Nat) : SageRes :=
  if !sageForm {} i then .err sgILLEGAL else sageOkRow sg (r.step (r.pc + 1))

/-- PROG, opcode 0x02: legal only at EPI_ENTRY; its effect on the contexts is taken with the slot (R130). -/
def sgProg (e : SageEnv) (sg : Sage) (r : SageRow) (i : Nat) : SageRes :=
  if !sageForm { fm := 1 } i || r.pc != e.entry then .err sgILLEGAL else sageOkRow sg (r.step (r.pc + 1))

/-- JMP, opcode 0x38. -/
def sgJmp (_ : SageEnv) (sg : Sage) (r : SageRow) (i : Nat) : SageRes :=
  if !sageForm { imm := true } i || siE i || decide (1023 < siImm i) then .err sgILLEGAL
  else sageOkRow sg (r.step (siImm i))

/-- BNZ, opcode 0x39. -/
def sgBnz (e : SageEnv) (sg : Sage) (r : SageRow) (i : Nat) : SageRes :=
  if !sageForm { a := true, imm := true } i || siE i || decide (1023 < siImm i) then .err sgILLEGAL
  else sageOkRow sg (r.step (if (sageSrc e sg r (siA i)).headD 0 ≠ 0 then siImm i else r.pc + 1))

/-! ### Stores (R145-R148, R72, R73) -/

/-- The random number of an element of a stochastic store (R148). -/
def mix32 (x0 : Nat) : Nat :=
  let x1 := x0 % 2 ^ 32
  let x2 := (x1 ^^^ x1 >>> 16) * 0x85EBCA6B % 2 ^ 32
  let x3 := (x2 ^^^ x2 >>> 13) * 0xC2B2AE35 % 2 ^ 32
  x3 ^^^ x3 >>> 16
def srRandom (seed mrow col j : Nat) : Nat :=
  mix32 (seed + 0x9E3779B9 * mrow + 0x7F4A7C15 * col + 0x94D049BB * j)

/-- Is a magnitude beyond what a format can hold under the rounding: R72's finite overflow? -/
def magOver (r : CvtRound) (maxM : Nat) (maxE : Int) (m : Nat) (e : Int) : Bool :=
  let q := min (min e maxE) (maxE - 1)
  let v := m * 2 ^ (e - q).toNat
  let mx := maxM * 2 ^ (maxE - q).toNat
  match r with
  | .rne => decide (mx + 2 ^ (maxE - 1 - q).toNat ≤ v)
  | _ => decide (mx < v)

/-- The largest finite value of a format as significand and exponent. -/
def FpFmt.maxVal (f : FpFmt) : Nat × Int :=
  match fpDecode f f.maxMag with
  | .fin _ m e => (m, e)
  | _ => (0, 0)

/-- SOVF of one conversion (R151): a finite value that overflowed, or an infinity written as a saturated value. -/
def cvtOvf (c : Nat) (r : CvtRound) (v : FpVal) : Bool :=
  match v with
  | .nan => false
  | .inf _ => c == 8
  | .fin neg m e =>
    if c = 8 then magOver r (if neg then 128 else 127) 0 m e
    else match fmtFp c with
      | some f => magOver r f.maxVal.1 f.maxVal.2 m e
      | none => false

/-- SOVF of an element of an MX block: its scaled value saturates. -/
def mxOvf (c X : Nat) (r : CvtRound) (v : FpVal) : Bool :=
  if X = 0xFF then false
  else match v with
    | .fin neg m e =>
      if c = 0x0E then magOver r (if neg then 128 else 127) (-6) m (e + 127 - (X : Int))
      else cvtOvf c r (.fin neg m (e + 127 - (X : Int)))
    | _ => false

/-- One element converted to a format that is not MX, as it stands in memory. -/
def cvtElem (c : Nat) (r : CvtRound) (v : FpVal) : Nat :=
  if c = 8 then cvtInt8 r v
  else if c = 3 then cvtFp fp19 r v * 2 ^ 13
  else match fmtFp c with
    | some f => cvtFp f r v
    | none => 0

/-- Pack elements of `w` bits little-endian (R57) into bytes. -/
def packBytes (w : Nat) (vs : List Nat) : List Byte :=
  leBytes (ceilDiv (w * vs.length) 8) ((vs.zipIdx).foldl (fun a p => a + (p.1 % 2 ^ w) <<< (p.2 * w)) 0)

/-- The rounding of element `col` of a store. -/
def stoRound (e : SageEnv) (r : SageRow) (mode col : Nat) : CvtRound :=
  if mode = 0 then .rne else if mode = 1 then .rz else .stoch (srRandom e.seed e.mrow col r.srCount)

/-- The bytes an MX store writes: the packed elements and the scale bytes of the blocks, with their flags (R151: SINV where an infinity, and
no NaN, makes a block NaN; log entry 95). -/
def stoMX (e : SageEnv) (r : SageRow) (c mode : Nat) (vs : List FpVal) : List Nat × List Nat × Bool × Bool :=
  let blocks := (chunksOf 32 16 vs).zipIdx
  let one := fun (p : List FpVal × Nat) =>
    let X := mxScale c p.1
    let els := p.1.zipIdx.map (fun q => mxElem c X (stoRound e r mode (e.n0 + 32 * p.2 + q.2)) q.1)
    let ov := p.1.zipIdx.any (fun q => mxOvf c X (stoRound e r mode (e.n0 + 32 * p.2 + q.2)) q.1)
    (X, els, ov, p.1.any valIsInf && !p.1.any valIsNaN)
  let rs := blocks.map one
  ((rs.map (fun x => x.2.1)).flatten, rs.map (fun x => x.1), rs.any (fun x => x.2.2.1), rs.any (fun x => x.2.2.2))

/-- STO, opcode 0x3C. -/
def sgSto (e : SageEnv) (sg : Sage) (r : SageRow) (i : Nat) : SageRes :=
  let c := natBits i 20 16
  let mode := natBits i 22 21
  if !sageForm { a := true, fm := 0b11111111, imm := true } i || mode == 3 || (siHalf i && c != 0) then .err sgILLEGAL
  else if 0x0E < c then .err sgFORMAT
  else if (fmtIsMX c || decide (fmtBits c < 8)) && e.w % 32 != 0 then .err sgFORMAT
  else
    let src := sageSrc e sg r (siA i)
    let base := e.outAddr + e.mrow * e.outStride
    let area := siImm i * 64
    let w := fmtBits c
    let vals : List FpVal :=
      if c = 0 then (((toPairs src).take (e.w - 256 * b2n (siHalf i))).map (fpDecode fp64))
      else (src.take e.w).map (fpDecode fp32)
    let n0 := e.n0 + (if c = 0 ∧ siHalf i then 256 else 0)
    let r' := { r.step (r.pc + 1) with srCount := r.srCount + b2n (decide (mode = 2)) }
    let at0 := area + n0 * w / 8
    if fmtIsMX c then
      let (els, xs, ov, iv) := stoMX e r c mode vals
      let p := alignUp (ceilDiv (e.n * w) 8) 64
      let ebytes := packBytes w els
      let sAt := area + p + n0 / 32
      if e.outStride < at0 + ebytes.length ∨ e.outStride < sAt + xs.length then .err sgRANGE
      else .ok { row := r', tb := sg.tb, stores := [(base + at0, ebytes), (base + sAt, xs.map (BitVec.ofNat 8))],
                 sovf := ov, sinv := iv }
    else
      let rv := vals.zipIdx.map (fun q => (q.1, stoRound e r mode (n0 + q.2)))
      let ebytes := packBytes w (rv.map (fun q => cvtElem c q.2 q.1))
      if ebytes.length ≠ 0 ∧ e.outStride < at0 + ebytes.length then .err sgRANGE
      else .ok { row := r', tb := sg.tb, stores := [(base + at0, ebytes)],
                 sovf := rv.any (fun q => cvtOvf c q.2 q.1),
                 sinv := c == 6 && rv.any (fun q => valIsInf q.1) }

/-- ROUTE, opcode 0x3E: the hand-off; whether the Token Exchange Unit takes it is the caller's (R150). An
argument word beyond the block's 64 reads as zero (DESIGN CHOICE, log entry 101). -/
def sgRoute (e : SageEnv) (sg : Sage) (r : SageRow) (i : Nat) : SageRes :=
  if !sageForm { a := true, b := true, fm := 0b111111111, imm := true } i then .err sgILLEGAL
  else if r.routed then .err sgROUTE
  else
    let k := natBits i 20 16
    let arg := fun n => nth 0 e.args n
    let base := (arg (siImm i) + arg (siImm i + 1) * 2 ^ 32) % 2 ^ 56
    .ok { row := { r.step (r.pc + 1) with routed := true }, tb := sg.tb,
          route := some { ctx := natBits i 24 21, k := k, token := base + e.mrow * arg (siImm i + 2),
                          weights := (sageSrc e sg r (siA i)).take k, experts := (sageSrc e sg r (siB i)).take k } }

/-- Is an opcode one of R136's? -/
def sageOpcOk (o : Nat) : Bool :=
  [0x01, 0x02, 0x08, 0x09, 0x0A, 0x0B, 0x0C, 0x0D, 0x0E, 0x0F, 0x10, 0x11, 0x12, 0x13, 0x14, 0x15, 0x16, 0x17, 0x18,
   0x19, 0x1A, 0x1C, 0x20, 0x28, 0x29, 0x2A, 0x2B, 0x2C, 0x30, 0x31, 0x38, 0x39, 0x3C, 0x3E].contains o

end Sys2Proof.Machine
end

