-- ==== Sys2Proof/Machine/Crc.lean ====
section
/-! DEFINITION. CRC-32 with the generator of IEEE 802.3 (spec/13_trellis_fabric R353, 14 R398) and SHA-256 of FIPS 180-4
(spec/16_orangery_security R425), written from those standards (log entry 28). -/

namespace Sys2Proof.Machine

/-- One bit of the reflected CRC-32. -/
def crcBit (c : Nat) : Nat := if c % 2 = 1 then (c / 2) ^^^ 0xEDB88320 else c / 2
def crcByte (c : Nat) (b : Byte) : Nat :=
  crcBit (crcBit (crcBit (crcBit (crcBit (crcBit (crcBit (crcBit (c ^^^ b.toNat))))))))
def crc32 (bs : List Byte) : Nat := bs.foldl crcByte 0xFFFFFFFF ^^^ 0xFFFFFFFF

/-- The integer `k`-th root of `x`, bit by bit from `2^b` down. -/
def rootBits (k x : Nat) : Nat → Nat → Nat
  | 0, r => r
  | b + 1, r => rootBits k x b (if (r + 2 ^ b) ^ k ≤ x then r + 2 ^ b else r)
/-- The first 32 bits of the fraction of the `k`-th root of `p`: what FIPS 180-4 makes its constants of. -/
def rootFrac (k p : Nat) : BitVec 32 := BitVec.ofNat 32 (rootBits k (p * 2 ^ (32 * k)) 40 0)
/-- The primes below `n`. -/
def primesTo (n : Nat) : List Nat := (List.range n).filter (fun p => decide (2 ≤ p) && (List.range p).all (fun d => decide (d < 2) || p % d != 0))

/-- A compression in progress: the last values of the two words that a round computes, newest first, and the schedule's next 16 words,
newest first. -/
structure Sha where
  hi : List (BitVec 32)
  lo : List (BitVec 32)
  sched : List (BitVec 32)

/-- Three rotations of a word, or two and a shift, in exclusive or. -/
def rot3 (x : BitVec 32) (i j k : Nat) : BitVec 32 := x.rotateRight i ^^^ x.rotateRight j ^^^ x.rotateRight k
def rot2 (x : BitVec 32) (i j k : Nat) : BitVec 32 := x.rotateRight i ^^^ x.rotateRight j ^^^ (x >>> k)

/-- One round with its constant; the schedule moves on by a word. -/
def Sha.round (s : Sha) (k : BitVec 32) : Sha :=
  let u := nth 0 s.hi
  let v := nth 0 s.lo
  let w := nth 0 s.sched
  let pick := (v 0 &&& v 1) ||| (~~~ v 0 &&& v 2)
  let most := (u 0 &&& (u 1 ||| u 2)) ||| (u 1 &&& u 2)
  let t := v 3 + w 15 + k + pick + rot3 (v 0) 6 11 25
  { hi := (t + most + rot3 (u 0) 2 13 22) :: s.hi.take 3
    lo := (u 3 + t) :: s.lo.take 3
    sched := (w 15 + rot2 (w 14) 7 18 3 + w 6 + rot2 (w 1) 17 19 10) :: s.sched.take 15 }

/-- Big-endian number of a byte string. -/
def beNat (bs : List Byte) : Nat := bs.foldl (fun n b => n * 256 + b.toNat) 0

/-- The hash value, eight words, after a 64-byte block. -/
def shaBlock (h : List (BitVec 32)) (blk : List Byte) : List (BitVec 32) :=
  let s : Sha := { hi := h.take 4, lo := h.drop 4, sched := ((chunksOf 4 16 blk).map (fun x => BitVec.ofNat 32 (beNat x))).reverse }
  let e := ((primesTo 312).map (rootFrac 3)).foldl Sha.round s
  h.zipWith (· + ·) (e.hi ++ e.lo)

/-- The padded message of FIPS 180-4. -/
def shaPad (bs : List Byte) : List Byte :=
  let n := bs.length
  bs ++ [0x80] ++ List.replicate ((119 - n % 64) % 64) 0 ++ (leBytes 8 (8 * n)).reverse

/-- The digest's 32 bytes in order. -/
def sha256Bytes (bs : List Byte) : List Byte :=
  let p := shaPad bs
  ((chunksOf 64 (p.length / 64 + 1) p).foldl shaBlock ((primesTo 20).map (rootFrac 2))).flatMap (fun x => (leBytes 4 x.toNat).reverse)

/-- The digest as a number whose byte j is byte j of the digest (R6). -/
def sha256 (bs : List Byte) : Nat := leNat (sha256Bytes bs)

end Sys2Proof.Machine
end

