-- ==== Sys2Proof/Machine/CoreState.lean ====
section
/-! DEFINITION. The state of one Gelfort core (spec/06_gelfort_core R156-R160, R178-R180; spec/07_vexten_vectors R189;
spec/08_exceptions_interrupts R219, R220, R228). -/

namespace Sys2Proof.Machine

/-- Access kinds (R296, R301). -/
inductive Acc where
  | rd | wr | ex | at
  deriving DecidableEq, Repr

def Acc.code : Acc → Nat
  | .rd => 0 | .wr => 1 | .ex => 2 | .at => 3

/-- Where a translated address lies. -/
inductive Loc where
  | dev (a : Nat)
  | host (port a : Nat) (coh : Bool)
  | peer (device a : Nat)
  deriving DecidableEq, Repr

/-- One way of a cache set (06 R179; 09 R246): the line it holds, its 2-bit age, in an MSC its keep and dirty bits, and in an L1I, which
stores do not keep coherent, its bytes (06 R183). -/
structure CacheWay where
  valid : Bool := false
  line : Nat := 0
  age : Nat := 0
  keep : Bool := false
  dirty : Bool := false
  data : List Byte := []
  deriving DecidableEq, Repr

/-- A cache: ways keyed set * ways + way; an unlisted way is invalid. -/
abbrev Cache := SMap CacheWay

/-- A store held in the 8-entry store buffer (10 R267): device physical address and bytes, and its hint (09 R247). -/
structure StoreEnt where
  addr : Nat
  bytes : List Byte
  hint : Nat
  deriving DecidableEq, Repr

/-- A merging-buffer entry (06 R180): its 64-byte line, the bytes written, keyed by offset, and the hint of its latest store. -/
structure MergeEnt where
  line : Nat
  bytes : List (Nat × Byte)
  hint : Nat
  deriving DecidableEq, Repr

/-- A thread parked on a translation fault (08 R228, R229; 07 R212; 11 R303). -/
structure Park where
  /-- the parked instruction -/
  pc : Word
  /-- unanswered batches that hold a record of it -/
  batches : List Nat
  /-- faults of it that still wait for a fault-queue entry (11 R305) -/
  waiting : Nat
  /-- pages (VA bits 55:16) whose batch was answered by CANCEL -/
  cancelled : List Nat
  /-- page and address of each access of the instruction, in element order: what EADDR names after CANCEL -/
  addrs : List (Nat × Word)
  deriving DecidableEq, Repr

/-- Every batch that holds a record of the instruction has been answered. -/
def Park.isOver (p : Park) : Bool := p.batches.isEmpty && p.waiting == 0

/-- A part of an access that an answer from outside the module completes (11 R294; 12 R327; 13 R366): its address, length and
access kind code, and, once the answer is here, the bytes it brought. -/
structure RemotePart where
  va : Nat
  n : Nat
  kind : Nat
  /-- the port and bus address it is awaited through (else from a peer module) -/
  host : Option (Nat × Nat)
  data : Option (List Byte) := none
  /-- answered by an error, a refusal or not at all: the access fails (11 R294; 12 R327; 13 R366) -/
  failed : Bool := false
  /-- an atomic on an uncached HOST page: its AOP and payload, performed as its read completes (10 R264, R278) -/
  atom : Option (Nat × List Byte) := none
  deriving DecidableEq, Repr

/-- A translation an instruction holds until its last access is performed (07 R213; 11 R312): page (VA bits 55:16), kind, the place
of the page's first byte, its default hint. -/
structure HeldTran where
  page : Nat
  kind : Acc
  loc : Loc
  hint : Nat
  deriving DecidableEq, Repr

/-- A core that waits inside an instruction for answers from outside the module; the instruction takes them when its command is
given again. -/
structure CoreWait where
  /-- a number that tells this wait's answers from those of an earlier one -/
  id : Nat
  parts : List RemotePart
  deriving DecidableEq, Repr

/-- One Gelfort core. -/
structure Core where
  /-- released from reset (06 R160, R187) -/
  run : Bool := false
  /-- stopped by a failed Machine entry (08 R223) -/
  fatal : Bool := false
  /-- halted for a debug session (16 R442) -/
  halted : Bool := false
  /-- stalled in WFI (06 R169) -/
  wfi : Bool := false
  /-- G1-G31; G0 reads zero (06 R156) -/
  g : SMap Word := []
  /-- the fast bank that stands for G16-G31 while STATUS.FB is 1 -/
  fast : SMap Word := []
  /-- A0-A3 -/
  acc : SMap (BitVec 72) := []
  pc : Word := 0
  /-- control registers by number (06 R157); CORE_ID is not stored -/
  cr : SMap Word := [(0x000, 3), (0x022, 1)]
  /-- V0-V31: byte j of register r at key r * 2048 + j (07 R189) -/
  v : Mem := []
  /-- K0-K7 -/
  k : SMap (BitVec 2048) := []
  /-- the repeat in progress is a REP.N, which holds interrupts (06 R174) -/
  repN : Bool := false
  /-- repeats that an entry interrupted, newest first: the repeated instruction's pc, and whether the repeat is a REP.N (06 R174) -/
  reps : List (Word × Bool) := []
  sbuf : List StoreEnt := []
  mbuf : List MergeEnt := []
  l1d : Cache := []
  l1i : Cache := []
  /-- the line last fetched, in the fetch buffer, and its bytes (06 R183) -/
  fbuf : Option (Nat × List Byte) := none
  /-- loaded vector-table latches (08 R220): the eight entries, absent until loaded -/
  svecL : Option (List Word) := none
  mvecL : Option (List Word) := none
  fvecL : Option (List Byte) := none
  /-- latches to be loaded: after an MTC to their register or an IFLUSH (08 R220): 1 SVEC, 2 MVEC, 4 FVEC -/
  due : Nat := 0
  /-- the park held, and whether the thread is parked now or a handler runs over it (08 R228, R229) -/
  park : Option Park := none
  parked : Bool := false
  wait : Option CoreWait := none
  /-- waits begun so far -/
  waits : Nat := 0
  /-- parts of the instruction in progress that have been answered: the instruction takes them when it executes again -/
  arrived : List RemotePart := []
  /-- translations the instruction in progress holds (07 R213) -/
  tran : List HeldTran := []
  /-- signalled by a source that names the core no more (08 R233): bit 0 NORMAL, bit 1 FAST -/
  signal : Nat := 0
  /-- per port, the address of the last posted write since the last FENCE.SYS (10 R271) -/
  posted : SMap (Option Nat) := []
  deriving DecidableEq, Repr

/-- Control register numbers (06 R157, 07 R190, 08 R219). -/
def crSTATUS : Nat := 0x000
def crEPC : Nat := 0x001
def crECAUSE : Nat := 0x002
def crEADDR : Nat := 0x003
def crSTKLIM : Nat := 0x004
def crMSTKLIM : Nat := 0x005
def crIWINMAX : Nat := 0x006
def crSSP : Nat := 0x007
def crMSP : Nat := 0x008
def crSVEC : Nat := 0x009
def crMVEC : Nat := 0x00A
def crFVEC : Nat := 0x00B
def crIWCNT : Nat := 0x00C
def crMEPC : Nat := 0x00D
def crMCAUSE : Nat := 0x00E
def crMADDR : Nat := 0x00F
def crLC : Nat := 0x010
def crFXCTL : Nat := 0x011
def crDETMODE : Nat := 0x012
def crFPST : Nat := 0x013
def crVL : Nat := 0x020
def crVTYPE : Nat := 0x021
def crVSTAT : Nat := 0x022
def crCOREID : Nat := 0x030
def crASPACE : Nat := 0x040

/-- Read and write a control register's stored word. -/
def Core.rc (c : Core) (n : Nat) : Word := SMap.get 0 c.cr n
def Core.wc (c : Core) (n : Nat) (v : Word) : Core := { c with cr := SMap.set 0 c.cr n v }
/-- Bits of a control register, and a field replaced. -/
def Core.crBits (c : Core) (n hi lo : Nat) : Nat := natBits (c.rc n).toNat hi lo
def Core.crPut (c : Core) (n hi lo v : Nat) : Core := c.wc n (BitVec.ofNat 64 (natPut (c.rc n).toNat hi lo v))
def Core.crBit (c : Core) (n i : Nat) : Bool := (c.rc n).toNat.testBit i

/-- STATUS fields (06 R157). -/
def Core.priv (c : Core) : Nat := c.crBits crSTATUS 1 0
def Core.ie (c : Core) : Bool := c.crBit crSTATUS 2
def Core.fie (c : Core) : Bool := c.crBit crSTATUS 3
def Core.mce (c : Core) : Bool := c.crBit crSTATUS 4
def Core.fb (c : Core) : Bool := c.crBit crSTATUS 5
def Core.rpt (c : Core) : Bool := c.crBit crSTATUS 6
def Core.det (c : Core) : Bool := c.crBit crDETMODE 0
def Core.lc (c : Core) : Nat := c.crBits crLC 31 0
def Core.asid (c : Core) : Nat := c.crBits crASPACE 11 0
def Core.iwcnt (c : Core) : Nat := c.crBits crIWCNT 9 0

/-- Read a general register: G0 is zero, and the fast bank stands for G16-G31 while FB is 1 (06 R156). -/
def Core.rg (c : Core) (r : GReg) : Word :=
  if r.val = 0 then 0
  else if c.fb ∧ 16 ≤ r.val then SMap.get 0 c.fast r.val
  else SMap.get 0 c.g r.val

/-- Write a general register; a write of G0 is discarded. -/
def Core.wg (c : Core) (r : GReg) (v : Word) : Core :=
  if r.val = 0 then c
  else if c.fb ∧ 16 ≤ r.val then { c with fast := SMap.set 0 c.fast r.val v }
  else { c with g := SMap.set 0 c.g r.val v }

def Core.ra (c : Core) (a : Fin 4) : BitVec 72 := SMap.get 0 c.acc a.val
def Core.wa (c : Core) (a : Fin 4) (v : BitVec 72) : Core := { c with acc := SMap.set 0 c.acc a.val v }

def Core.rk (c : Core) (r : Fin 8) : BitVec 2048 := SMap.get 0 c.k r.val
/-- Any write of a V or K register, VL or VTYPE sets VSTAT.DIRTY (07 R190). -/
def Core.dirty (c : Core) : Core := c.crPut crVSTAT 1 1 1
def Core.wk (c : Core) (r : Fin 8) (v : BitVec 2048) : Core := { c with k := SMap.set 0 c.k r.val v }.dirty

/-- The core after a core reset (06 R160), at the boot address, not yet released. -/
def Core.afterReset (bootPc : Word) (detmode : Bool) : Core :=
  let c : Core := { pc := bootPc }
  if detmode then c.wc crDETMODE 1 else c

/-- What an instruction that touches the core alone does: the core after it, and where the pc goes when not to the next
instruction; or the exception it raises (08 R216, R217). -/
inductive CoreOut where
  | ok (c : Core) (next : Option Word)
  | exc (code sub : Nat) (addr : Word)
  deriving DecidableEq, Repr

/-- Cause codes (08 R216). -/
def causeILLOP : Nat := 0x01
def causeMISAL : Nat := 0x02
def causeBUSERR : Nat := 0x03
def causeSYSCALL : Nat := 0x04
def causeBREAK : Nat := 0x05
def causeENTRY : Nat := 0x06
def causeNORMAL : Nat := 0x10
def causeFAST : Nat := 0x11

def CoreOut.illop (sub : Nat) : CoreOut := .exc causeILLOP sub 0

end Sys2Proof.Machine
end

