-- ==== Sys2Proof/Machine/MemState.lean ====
section
/-! DEFINITION. State of near memory, the HBM stacks and their memory-side caches (spec/09_memory_reach). Data stands in one
byte memory by device physical address: caches and combining buffers change no value an observer sees (R246, R251; 10 R261),
so they are held as tags. -/

namespace Sys2Proof.Machine

/-- HBM_STATE.STATE (R245). -/
inductive StackSt where
  | off | training | ready | selfref | degraded | hot
  deriving DecidableEq, Repr

def StackSt.code : StackSt → Nat
  | .off => 0 | .training => 1 | .ready => 2 | .selfref => 3 | .degraded => 4 | .hot => 5

/-- Cache hints (01 R31, R248). -/
inductive Hint where
  | normal | stream | keep | last
  deriving DecidableEq, Repr

def hintOf (n : Nat) : Hint := if n % 4 = 1 then .stream else if n % 4 = 2 then .keep else if n % 4 = 3 then .last else .normal

/-- A write-combining entry (R250): 128-byte line, mask of bytes written, hint of the latest write. -/
structure WcbEnt where
  line : Nat
  mask : Nat
  hint : Hint
  deriving DecidableEq, Repr

/-- A request to a stack (R247): its master, address, length and kind, the hint it carries and its page's default hint. -/
structure MemReq where
  master : Nat
  addr : Nat
  len : Nat
  kind : MemKind
  hint : Nat
  pte : Nat
  deriving DecidableEq, Repr

/-- One HBM stack with its base die. -/
structure Stack where
  st : StackSt := .off
  /-- ways of the MSC at set * 16 + way -/
  msc : Cache := []
  /-- oldest first -/
  wcb : List WcbEnt := []
  temp : Nat := 0
  peak : Nat := 0
  warmEv : Bool := false
  hotEv : Bool := false
  /-- refresh rate doubled (R254) -/
  refresh2 : Bool := false
  /-- lanes failing at the last training (R252, R259), spares from 2048 on; and spares in use: data lane of spare j -/
  failing : List Nat := []
  repair : List (Nat × Nat) := []
  /-- MSC_CMD in progress: 0 none, 1 FLUSH, 2 FLUSH_INV -/
  cmd : Nat := 0
  /-- sets that command has passed (R259) -/
  passed : Nat := 0
  /-- requests held at the port while it is HOT (R256) -/
  held : List MemReq := []
  /-- a management request woke it from SELFREF (R245) -/
  woken : Bool := false
  deriving DecidableEq, Repr

/-- A line of a cluster's L2 (06 R181): its number, whether it is dirty, and the hint and core of its latest access. -/
structure L2Line where
  line : Nat
  dirty : Bool
  hint : Nat
  core : Nat
  deriving DecidableEq, Repr

/-- A request waiting at a near-memory bank (R241): its master, its row (R239), whether it is an array port, cycles waited. -/
structure BankReq where
  master : Nat
  row : Nat
  array : Bool
  waited : Nat
  deriving DecidableEq, Repr

/-- Memory-side state of the module. -/
structure MemSys where
  hbms : SMap Stack := []
  /-- requests waiting at bank b of group g of die p, keyed (p * 16 + g) * 128 + b -/
  banks : SMap (List BankReq) := []
  /-- master served last at a bank, plus one -/
  served : SMap Nat := []
  /-- lines in the L2 of cluster c of the module, k / 8 for core k (06 R181): 16 to a set of 2,048 -/
  l2 : SMap (List L2Line) := []
  /-- thermal step demand of each die (R255) -/
  demand : SMap Nat := []
  deriving DecidableEq, Repr

end Sys2Proof.Machine
end

