-- ==== Sys2Proof/Machine/Msc.lean ====
section
/-! DEFINITION. Cache tags, the memory-side cache and the write-combining buffer of a stack as operations on their tags
(spec/06_gelfort_core R178, R179; spec/09_memory_reach R246-R251, R259). -/

namespace Sys2Proof.Machine

def Cache.way (c : Cache) (nw set w : Nat) : CacheWay := SMap.get {} c (set * nw + w)
/-- The way that holds a line. -/
def Cache.find (c : Cache) (nw set line : Nat) : Option Nat :=
  (List.range nw).find? (fun w => (c.way nw set w).valid && (c.way nw set w).line == line)
def Cache.put (c : Cache) (nw set w : Nat) (x : CacheWay) : Cache := SMap.set {} c (set * nw + w) x

/-! ### The memory-side cache (R246-R249) -/

def mscSet (line : Nat) : Nat := line % 16384
def Cache.ws (c : Cache) (set : Nat) : List (Nat × CacheWay) := (List.range 16).map (fun w => (w, c.way 16 set w))
def Cache.keeps (c : Cache) (set : Nat) : Nat := ((c.ws set).filter (fun e => e.2.keep)).length

/-- The victim among candidate ways, with the ages raised where R249 raises them. -/
def Cache.victim (c : Cache) (set : Nat) (cand : CacheWay → Bool) : Option (Nat × Cache) :=
  let ws := (c.ws set).filter (fun e => cand e.2)
  match ws.find? (fun e => !e.2.valid) with
  | some e => some (e.1, c)
  | none =>
    let m := (ws.map (fun e => e.2.age)).foldl max 0
    let c1 := ws.foldl (fun c e => c.put 16 set e.1 { e.2 with age := e.2.age + (3 - m) }) c
    ((ws.find? (fun e => e.2.age == m)).map (fun e => (e.1, c1)))

/-- Allocate a line that missed, under a hint. -/
def Cache.alloc (c : Cache) (kw : Nat) (h : Hint) (line : Nat) (dirty : Bool) : Cache :=
  let set := mscSet line
  let fill := fun (keep : Bool) (v : Option (Nat × Cache)) =>
    match v with
    | some (w, c1) => c1.put 16 set w { valid := true, line := line, age := 0, keep := keep, dirty := dirty }
    | none => c
  let normal := fill false (c.victim set (fun w => !w.keep))
  match h with
  | .normal => normal
  | .keep =>
    if kw = 0 then normal
    else if kw ≤ c.keeps set then fill true (c.victim set (fun w => w.keep))
    else fill true (c.victim set (fun w => !w.keep))
  | .stream =>
    match (c.ws set).find? (fun e => !e.2.valid) with
    | some e => c.put 16 set e.1 { valid := true, line := line, age := 3, keep := false, dirty := dirty }
    | none => c
  | .last => c

/-- A KEEP hit sets the keep bit; at the limit the oldest other keep line loses its own. -/
def Cache.keepHit (c : Cache) (kw set w : Nat) (x : CacheWay) : Cache :=
  if kw = 0 then c.put 16 set w { x with age := 0 }
  else
    let c1 := if !x.keep ∧ kw ≤ c.keeps set then
        let ks := (c.ws set).filter (fun e => e.2.keep && e.1 != w)
        let m := (ks.map (fun e => e.2.age)).foldl max 0
        (match ks.find? (fun e => e.2.age == m) with
         | some e => c.put 16 set e.1 { e.2 with keep := false }
         | none => c)
      else c
    c1.put 16 set w { x with age := 0, keep := true }

/-- A request that hits a way. -/
def Cache.hit (c : Cache) (kw : Nat) (h : Hint) (line w : Nat) (wr : Bool) : Cache :=
  let set := mscSet line
  let x := c.way 16 set w
  let x := { x with dirty := x.dirty || wr }
  match h with
  | .normal => c.put 16 set w { x with age := 0 }
  | .stream => c.put 16 set w x
  | .keep => c.keepHit kw set w x
  | .last => c.put 16 set w {}

/-! ### Write combining (R250) -/

def fullMask : Nat := 2 ^ 128 - 1

/-- Retire an entry: the line, read and merged where the entry is partial, is allocated under its hint or written back. -/
def Stack.retire (x : Stack) (kw : Nat) (e : WcbEnt) : Stack :=
  { x with wcb := x.wcb.filter (fun y => y.line != e.line), msc := x.msc.alloc kw e.hint e.line true }
def Stack.retireAll (x : Stack) (kw : Nat) : Stack := x.wcb.foldl (fun x e => x.retire kw e) x
def Stack.retireOldest (x : Stack) (kw : Nat) : Stack := match x.wcb with | [] => x | e :: _ => x.retire kw e

/-- A partial write that missed merges into its line's entry or opens one; a full entry retires. -/
def Stack.combine (x : Stack) (kw line mask : Nat) (h : Hint) : Stack :=
  let x1 : Stack := match x.wcb.find? (fun e => e.line == line) with
    | some _ => { x with wcb := x.wcb.map (fun e => if e.line = line then { e with mask := e.mask ||| mask, hint := h } else e) }
    | none =>
      let y : Stack := if 64 ≤ x.wcb.length then x.retireOldest kw else x
      { y with wcb := y.wcb ++ [⟨line, mask, h⟩] }
  match x1.wcb.find? (fun e => e.line == line) with
  | some e => if e.mask = fullMask then x1.retire kw e else x1
  | none => x1

/-- One request to a stack's MSC: bytes `off … off+n-1` of a line (R248, R250). A read or atomic retires the line's WCB entry; an
atomic that misses has read its line, so what is not allocated goes through the WCB as any partial write. -/
def Stack.request (x : Stack) (kw line off n : Nat) (kind : MemKind) (h : Hint) : Stack :=
  let x := if kind = .write then x else match x.wcb.find? (fun e => e.line == line) with | some e => x.retire kw e | none => x
  match x.msc.find 16 (mscSet line) line with
  | some w => { x with msc := x.msc.hit kw h line w (kind != .read) }
  | none =>
    let mask := (2 ^ n - 1) <<< off
    match kind with
    | .read => { x with msc := x.msc.alloc kw h line false }
    | .write =>
      if n = 128 then { x with wcb := x.wcb.filter (fun e => e.line != line), msc := x.msc.alloc kw h line true } else x.combine kw line mask h
    | .atomic =>
      let y : Stack := { x with msc := x.msc.alloc kw h line true }
      if (y.msc.find 16 (mscSet line) line).isSome then y else y.combine kw line mask h

/-- Dirty lines that a cache lost or cleaned: they were written back (R248, R249, R259). -/
def Cache.writeBacks (c c' : Cache) : Nat :=
  (c.filter (fun e => e.2.valid && e.2.dirty && !c'.any (fun f => f.2.valid && f.2.dirty && f.2.line == e.2.line))).length

/-- WCB entries that a request to a line makes retire with a read (R250): the line's own at a read or atomic, the oldest where there is
no room. -/
def Stack.readRetires (x : Stack) (line n : Nat) (kind : MemKind) : Nat :=
  let here := x.wcb.any (fun e => e.line == line)
  b2n (if kind = .write then (x.msc.find 16 (mscSet line) line).isNone && n != 128 && !here && decide (64 ≤ x.wcb.length) else here)

/-! ### Commands of the MSC (R259) -/

/-- The part of a running command's sets, from `x.passed` to `upTo`, is passed: dirty lines are written back, and kept or invalidated. A
line dirtied in a set the command has passed stays dirty. -/
def Stack.pass (x : Stack) (upTo : Nat) : Stack :=
  let mine := fun (e : Nat × CacheWay) => decide (x.passed ≤ e.1 / 16) && decide (e.1 / 16 < upTo)
  { x with passed := max x.passed upTo,
           msc := if x.cmd = 2 then x.msc.filter (fun e => !mine e)
                  else x.msc.map (fun e => if mine e then (e.1, { e.2 with dirty := false }) else e) }
/-- FLUSH and FLUSH_INV begin: the WCB retires. -/
def Stack.begin (x : Stack) (kw op : Nat) : Stack := { x.retireAll kw with cmd := op, passed := 0 }
/-- The command ends. -/
def Stack.finish (x : Stack) : Stack := { x.pass 16384 with cmd := 0, passed := 0 }

end Sys2Proof.Machine
end

