-- ==== Sys2Proof/Machine/Regs.lean ====
section
/-! DEFINITION. Every register of the BAR0 map: where it lies, how wide it is, its Reset value and the fields software writes,
each with its access and its Clamp column (the register tables of spec/00_scope R2, 01 R48, 04 R123, 05 R155, 06 R186,
08 R235, 09 R258, R259, 10 R285, 11 R317, 12 R345, R346, 13 R375, 14 R399, 15 R424, 16 R448, 17 R467, 18 R489-R491,
19 R510, R511). Fields that are read only are kept by the machine or computed from its state when the register is read. -/

namespace Sys2Proof.Machine

/-- The registers, one name each; an array of registers is one name with indices. -/
inductive RegK where
  | glbId | ptrState | ptrImageId | ptrCommitStatus | ptrQuiesceLimit | ptrClamplog | ptrRole | ptrPart
  | arrState | arrGctl | arrFillTarget | arrBatchBudget | arrWorkLimit | arrAbort | arrReject | arrCring
  | arrCringPtr | arrCcmp | arrCcmpPtr | arrCringAsid | sgeState | sgeCtl | sgeStepLimit | sgeTblSel
  | sgeTblData | sgeErrlog | gfcBootPc | gfcRun | gfcParked | gfcDet | intTarget | intPend
  | intActive | intClaimN | intClaimF | intDone | intSwset | nmcState | nmcArb | hbmState
  | hbmTemp | hbmRepair | mscCtl | mscCmd | mscOcc | glbCausal | xltAsidtab | xltBatchctl
  | xltFqStat | xltFringBase | xltFringCtl | xltFringPtr | xltInvVa | xltInvLen | xltInvCmd | queSq
  | queCq | queCtl | quePtr | queNotify | queState | pciPort | pciBar4 | pciOuterr
  | trlPortcfg | trlPortstat | trlLanemap | trlLinkerr | trlLevel | trlE2e | trlDetourSel | trlJobfloor
  | trlDetour | txuCtxCfg | txuCtxDelta | txuCtxStage | txuCtxTime | txuCtxCount | txuEqCfg | txuEqTmpl
  | txuEqStat | txuState | txuEvlog | txuPsel | txuPdata | ldgState | ldgBox | ldgTimers
  | ldgMring | ldgMringPtr | ldgMeterCtl | ldgPart | ldgJob | ldgBudget | ldgCkpt | ldgCkptDst
  | ldgCkptLen | ldgMeter | orgState | orgMbxCtl | orgSession | orgHalted | orgMeas | orgIdkey
  | bootState | bootStart | bootShedReason | bootCtl | bootSlotcmd | bootSlotsrc | bootSlotlen | bootSlotinfo
  | bootLog | clkRef | clkPll | clkDiv | pwrState | pwrCtl | pwrIdleDelay | pwrCap
  | pwrLoop | thmDie | errStat | errScrub | errRelease | errInj | errRing | errRingPtr
  | errLast | pmcColl | pmcCollM | pmcDst | pmcDstM | pmcCtxen | pmcSample | pmcCtr
  | pmcCtrM | pmcEvt | pmcEvtM
  deriving DecidableEq, Repr

/-- Access of a field (00 R11) as a write sees it. -/
inductive FAcc where
  | rw | w1c | wo
  deriving DecidableEq, Repr

/-- The Clamp column (01 R35): what an illegal value becomes. -/
inductive Clamp where
  | any
  | min (v : Nat)
  | max (v : Nat)
  | range (lo hi : Nat)
  | zeroAbove (v : Nat)
  | oneOf (legal : List Nat) (other : Nat)
  /-- judged with the machine's state -/
  | special
  deriving DecidableEq, Repr

structure FieldSpec where
  hi : Nat
  lo : Nat
  acc : FAcc
  clamp : Clamp
  deriving DecidableEq, Repr

/-- The value a clamp that needs no state stores. -/
def Clamp.apply (c : Clamp) (v : Nat) : Nat :=
  match c with
  | .any => v
  | .special => v
  | .min m => if v < m then m else v
  | .max m => if m < v then m else v
  | .range lo hi => if v < lo then lo else if hi < v then hi else v
  | .zeroAbove m => if m < v then 0 else v
  | .oneOf l o => if l.contains v then v else o

/-- BAR0 offset of element 0. -/
def RegK.base : RegK → Nat
  | .glbId => 0x0
  | .ptrState => 0x100000
  | .ptrImageId => 0x100008
  | .ptrCommitStatus => 0x100010
  | .ptrQuiesceLimit => 0x100018
  | .ptrClamplog => 0x100020
  | .ptrRole => 0x100028
  | .ptrPart => 0x100100
  | .arrState => 0x400000
  | .arrGctl => 0x400008
  | .arrFillTarget => 0x400010
  | .arrBatchBudget => 0x400018
  | .arrWorkLimit => 0x400020
  | .arrAbort => 0x400028
  | .arrReject => 0x400030
  | .arrCring => 0x400040
  | .arrCringPtr => 0x400048
  | .arrCcmp => 0x400050
  | .arrCcmpPtr => 0x400058
  | .arrCringAsid => 0x400060
  | .sgeState => 0x410000
  | .sgeCtl => 0x410008
  | .sgeStepLimit => 0x410010
  | .sgeTblSel => 0x410018
  | .sgeTblData => 0x410020
  | .sgeErrlog => 0x410028
  | .gfcBootPc => 0x420000
  | .gfcRun => 0x420008
  | .gfcParked => 0x420010
  | .gfcDet => 0x420018
  | .intTarget => 0x440000
  | .intPend => 0x442000
  | .intActive => 0x442080
  | .intClaimN => 0x442100
  | .intClaimF => 0x442108
  | .intDone => 0x442110
  | .intSwset => 0x442118
  | .nmcState => 0x470000
  | .nmcArb => 0x470008
  | .hbmState => 0x1400000
  | .hbmTemp => 0x1400008
  | .hbmRepair => 0x1400100
  | .mscCtl => 0x1401000
  | .mscCmd => 0x1401008
  | .mscOcc => 0x1401010
  | .glbCausal => 0x100
  | .xltAsidtab => 0x450000
  | .xltBatchctl => 0x450008
  | .xltFqStat => 0x450010
  | .xltFringBase => 0x450040
  | .xltFringCtl => 0x450048
  | .xltFringPtr => 0x450050
  | .xltInvVa => 0x450080
  | .xltInvLen => 0x450088
  | .xltInvCmd => 0x450090
  | .queSq => 0x1600000
  | .queCq => 0x1600008
  | .queCtl => 0x1600010
  | .quePtr => 0x1600018
  | .queNotify => 0x1600020
  | .queState => 0x1600028
  | .pciPort => 0x1700000
  | .pciBar4 => 0x1700008
  | .pciOuterr => 0x1700010
  | .trlPortcfg => 0x1500000
  | .trlPortstat => 0x1500008
  | .trlLanemap => 0x1500010
  | .trlLinkerr => 0x1500018
  | .trlLevel => 0x1500400
  | .trlE2e => 0x1500408
  | .trlDetourSel => 0x1500410
  | .trlJobfloor => 0x1500440
  | .trlDetour => 0x1501000
  | .txuCtxCfg => 0x480000
  | .txuCtxDelta => 0x480008
  | .txuCtxStage => 0x480010
  | .txuCtxTime => 0x480018
  | .txuCtxCount => 0x480020
  | .txuEqCfg => 0x480800
  | .txuEqTmpl => 0x480808
  | .txuEqStat => 0x480810
  | .txuState => 0x480C00
  | .txuEvlog => 0x480C08
  | .txuPsel => 0x480C10
  | .txuPdata => 0x480C18
  | .ldgState => 0x1A00000
  | .ldgBox => 0x1A00008
  | .ldgTimers => 0x1A00010
  | .ldgMring => 0x1A00018
  | .ldgMringPtr => 0x1A00020
  | .ldgMeterCtl => 0x1A00028
  | .ldgPart => 0x1A00100
  | .ldgJob => 0x1A00108
  | .ldgBudget => 0x1A00110
  | .ldgCkpt => 0x1A00128
  | .ldgCkptDst => 0x1A00130
  | .ldgCkptLen => 0x1A00138
  | .ldgMeter => 0x1A00400
  | .orgState => 0x200000
  | .orgMbxCtl => 0x200100
  | .orgSession => 0x200200
  | .orgHalted => 0x200300
  | .orgMeas => 0x201000
  | .orgIdkey => 0x201200
  | .bootState => 0x1C00000
  | .bootStart => 0x1C00008
  | .bootShedReason => 0x1C00010
  | .bootCtl => 0x1C00018
  | .bootSlotcmd => 0x1C00020
  | .bootSlotsrc => 0x1C00028
  | .bootSlotlen => 0x1C00030
  | .bootSlotinfo => 0x1C00040
  | .bootLog => 0x1C00100
  | .clkRef => 0x1800000
  | .clkPll => 0x1800008
  | .clkDiv => 0x1800100
  | .pwrState => 0x1801000
  | .pwrCtl => 0x1801008
  | .pwrIdleDelay => 0x1801010
  | .pwrCap => 0x1801018
  | .pwrLoop => 0x1801020
  | .thmDie => 0x1802000
  | .errStat => 0x1B00000
  | .errScrub => 0x1B00008
  | .errRelease => 0x1B00010
  | .errInj => 0x1B00018
  | .errRing => 0x1B00040
  | .errRingPtr => 0x1B00048
  | .errLast => 0x1B00100
  | .pmcColl => 0x490000
  | .pmcCollM => 0x1900000
  | .pmcDst => 0x490008
  | .pmcDstM => 0x1900008
  | .pmcCtxen => 0x1900100
  | .pmcSample => 0x490400
  | .pmcCtr => 0x491000
  | .pmcCtrM => 0x1901000
  | .pmcEvt => 0x491040
  | .pmcEvtM => 0x1901040

/-- Strides and counts of a register array, outermost first. -/
def RegK.dims : RegK → List (Nat × Nat)
  | .ptrPart => [(0x8, 8)]
  | .trlJobfloor => [(0x8, 8)]
  | .orgHalted => [(0x8, 8)]
  | .bootLog => [(0x8, 8)]
  | .clkDiv => [(0x8, 8)]
  | .errLast => [(0x8, 8)]
  | .arrState => [(0x200000, 8)]
  | .arrGctl => [(0x200000, 8)]
  | .arrFillTarget => [(0x200000, 8)]
  | .arrBatchBudget => [(0x200000, 8)]
  | .arrWorkLimit => [(0x200000, 8)]
  | .arrAbort => [(0x200000, 8)]
  | .arrReject => [(0x200000, 8)]
  | .arrCring => [(0x200000, 8)]
  | .arrCringPtr => [(0x200000, 8)]
  | .arrCcmp => [(0x200000, 8)]
  | .arrCcmpPtr => [(0x200000, 8)]
  | .arrCringAsid => [(0x200000, 8)]
  | .sgeState => [(0x200000, 8)]
  | .sgeCtl => [(0x200000, 8)]
  | .sgeStepLimit => [(0x200000, 8)]
  | .sgeTblSel => [(0x200000, 8)]
  | .sgeTblData => [(0x200000, 8)]
  | .sgeErrlog => [(0x200000, 8)]
  | .gfcBootPc => [(0x200000, 8)]
  | .gfcRun => [(0x200000, 8)]
  | .gfcParked => [(0x200000, 8)]
  | .gfcDet => [(0x200000, 8)]
  | .intClaimN => [(0x200000, 8)]
  | .intClaimF => [(0x200000, 8)]
  | .intDone => [(0x200000, 8)]
  | .intSwset => [(0x200000, 8)]
  | .nmcState => [(0x200000, 8)]
  | .nmcArb => [(0x200000, 8)]
  | .xltAsidtab => [(0x200000, 8)]
  | .xltBatchctl => [(0x200000, 8)]
  | .xltFqStat => [(0x200000, 8)]
  | .xltInvVa => [(0x200000, 8)]
  | .xltInvLen => [(0x200000, 8)]
  | .xltInvCmd => [(0x200000, 8)]
  | .txuState => [(0x200000, 8)]
  | .txuEvlog => [(0x200000, 8)]
  | .txuPsel => [(0x200000, 8)]
  | .txuPdata => [(0x200000, 8)]
  | .pmcColl => [(0x200000, 8)]
  | .pmcDst => [(0x200000, 8)]
  | .intTarget => [(0x200000, 8), (0x8, 1024)]
  | .intPend => [(0x200000, 8), (0x8, 16)]
  | .intActive => [(0x200000, 8), (0x8, 16)]
  | .hbmState => [(0x10000, 16)]
  | .hbmTemp => [(0x10000, 16)]
  | .mscCtl => [(0x10000, 16)]
  | .mscCmd => [(0x10000, 16)]
  | .mscOcc => [(0x10000, 16)]
  | .hbmRepair => [(0x10000, 16), (0x4, 32)]
  | .glbCausal => [(0x8, 32)]
  | .xltFringBase => [(0x200000, 8), (0x20, 2)]
  | .xltFringCtl => [(0x200000, 8), (0x20, 2)]
  | .xltFringPtr => [(0x200000, 8), (0x20, 2)]
  | .queSq => [(0x40, 4096)]
  | .queCq => [(0x40, 4096)]
  | .queCtl => [(0x40, 4096)]
  | .quePtr => [(0x40, 4096)]
  | .queNotify => [(0x40, 4096)]
  | .queState => [(0x40, 4096)]
  | .pciPort => [(0x100, 2)]
  | .pciBar4 => [(0x100, 2)]
  | .pciOuterr => [(0x100, 2)]
  | .trlPortcfg => [(0x40, 6)]
  | .trlPortstat => [(0x40, 6)]
  | .trlLanemap => [(0x40, 6)]
  | .trlLinkerr => [(0x40, 6)]
  | .trlDetour => [(0x200, 2), (0x8, 64)]
  | .txuCtxCfg => [(0x200000, 8), (0x40, 16)]
  | .txuCtxDelta => [(0x200000, 8), (0x40, 16)]
  | .txuCtxStage => [(0x200000, 8), (0x40, 16)]
  | .txuCtxTime => [(0x200000, 8), (0x40, 16)]
  | .txuCtxCount => [(0x200000, 8), (0x40, 16)]
  | .txuEqCfg => [(0x200000, 8), (0x20, 32)]
  | .txuEqTmpl => [(0x200000, 8), (0x20, 32)]
  | .txuEqStat => [(0x200000, 8), (0x20, 32)]
  | .ldgPart => [(0x40, 8)]
  | .ldgJob => [(0x40, 8)]
  | .ldgCkpt => [(0x40, 8)]
  | .ldgCkptDst => [(0x40, 8)]
  | .ldgCkptLen => [(0x40, 8)]
  | .ldgBudget => [(0x40, 8), (0x8, 3)]
  | .ldgMeter => [(0x100, 8), (0x10, 15)]
  | .orgMbxCtl => [(0x20, 2)]
  | .orgSession => [(0x8, 10)]
  | .thmDie => [(0x8, 10)]
  | .orgMeas => [(0x20, 16), (0x8, 4)]
  | .orgIdkey => [(0x8, 4)]
  | .bootSlotinfo => [(0x8, 2)]
  | .errRing => [(0x10, 2)]
  | .errRingPtr => [(0x10, 2)]
  | .pmcCtxen => [(0x8, 64)]
  | .pmcSample => [(0x200000, 8), (0x10, 64)]
  | .pmcCtr => [(0x200000, 8), (0x80, 70), (0x8, 8)]
  | .pmcEvt => [(0x200000, 8), (0x80, 70), (0x8, 8)]
  | .pmcCtrM => [(0x80, 24), (0x8, 8)]
  | .pmcEvtM => [(0x80, 24), (0x8, 8)]
  | _ => []

/-- Bytes of the register. -/
def RegK.bytes : RegK → Nat
  | .ptrState => 4
  | .ptrCommitStatus => 4
  | .ptrQuiesceLimit => 4
  | .arrGctl => 4
  | .arrFillTarget => 4
  | .arrBatchBudget => 4
  | .arrAbort => 4
  | .arrCringPtr => 4
  | .arrCcmpPtr => 4
  | .arrCringAsid => 4
  | .sgeCtl => 4
  | .sgeStepLimit => 4
  | .sgeTblSel => 4
  | .sgeTblData => 4
  | .nmcArb => 4
  | .hbmRepair => 4
  | .mscCtl => 4
  | .mscCmd => 4
  | .xltBatchctl => 4
  | .xltFringCtl => 4
  | .xltFringPtr => 4
  | .xltInvCmd => 4
  | .queCtl => 4
  | .trlPortcfg => 4
  | .trlLanemap => 4
  | .trlLevel => 4
  | .trlDetourSel => 4
  | .trlJobfloor => 4
  | .txuPsel => 4
  | .txuPdata => 4
  | .ldgTimers => 4
  | .ldgMringPtr => 4
  | .ldgMeterCtl => 4
  | .ldgMeter => 16
  | .bootShedReason => 4
  | .bootCtl => 4
  | .bootSlotcmd => 4
  | .bootSlotlen => 4
  | .clkRef => 4
  | .clkPll => 4
  | .pwrState => 4
  | .pwrCtl => 4
  | .pwrIdleDelay => 4
  | .thmDie => 4
  | .errRelease => 4
  | .pmcSample => 16
  | .pmcEvt => 4
  | .pmcEvtM => 4
  | _ => 8

/-- The Reset value as a whole word; a field whose Reset column names the image, a table, the record or the die reads as
zero here and is supplied when the register is read. -/
def RegK.reset : RegK → Nat
  | .glbId => 0x108000816
  | .ptrQuiesceLimit => 0x100000
  | .arrGctl => 0x1
  | .arrFillTarget => 0x100
  | .arrBatchBudget => 0x1000
  | .arrWorkLimit => 0x100000000
  | .arrCring => 0x40000000000000
  | .sgeStepLimit => 0x1000
  | .nmcState => 0xFFFF
  | .nmcArb => 0x10
  | .mscCtl => 0xC
  | .xltBatchctl => 0x200040
  | .xltFringCtl => 0x14
  | .queSq => 0x8
  | .queCq => 0x8
  | .queNotify => 0x100000000
  | .queState => 0x8
  | .trlPortcfg => 0x101
  | .trlE2e => 0x1000000
  | .txuCtxCfg => 0x1000410000000
  | .txuCtxTime => 0x40000100000
  | .txuEqCfg => 0x8001F810080
  | .ldgBox => 0x4040400000000
  | .ldgTimers => 0x10080400
  | .ldgMring => 0x10
  | .bootSlotlen => 0x100
  | .clkDiv => 0x210000
  | .pwrCtl => 0x8
  | .pwrIdleDelay => 0x4000
  | .pwrCap => 0x6400021964
  | .errScrub => 0x1010000011000
  | .errInj => 0x110000000000000
  | .errRing => 0x14
  | .errRingPtr => 0xFF80000000000
  | .pmcColl => 0x10000000
  | .pmcCollM => 0x10000000
  | _ => 0

/-- The fields a write may change or act through. -/
def RegK.fields : RegK → List FieldSpec
  | .ptrQuiesceLimit => [⟨23, 0, .rw, (.min 1)⟩]
  | .ptrClamplog => [⟨63, 63, .wo, .any⟩]
  | .arrGctl => [⟨0, 0, .rw, .any⟩, ⟨1, 1, .wo, .any⟩]
  | .arrFillTarget => [⟨10, 0, .rw, (.range 1 1024)⟩]
  | .arrBatchBudget => [⟨23, 0, .rw, (.min 1)⟩]
  | .arrWorkLimit => [⟨39, 0, .rw, (.min 1)⟩]
  | .arrAbort => [⟨0, 0, .wo, .any⟩]
  | .arrCring => [⟨51, 12, .rw, .special⟩, ⟨55, 52, .rw, (.range 4 12)⟩, ⟨63, 63, .rw, .any⟩]
  | .arrCringPtr => [⟨15, 0, .rw, .special⟩]
  | .arrCcmp => [⟨51, 12, .rw, .special⟩]
  | .arrCcmpPtr => [⟨31, 16, .rw, .special⟩]
  | .arrCringAsid => [⟨11, 0, .rw, .any⟩]
  | .sgeCtl => [⟨0, 0, .rw, .any⟩]
  | .sgeStepLimit => [⟨15, 0, .rw, (.min 1)⟩]
  | .sgeTblSel => [⟨3, 0, .rw, .any⟩, ⟨13, 4, .rw, (.max 783)⟩]
  | .sgeTblData => [⟨31, 0, .rw, .any⟩]
  | .sgeErrlog => [⟨63, 63, .wo, .any⟩]
  | .gfcBootPc => [⟨51, 1, .rw, .any⟩]
  | .gfcRun => [⟨63, 0, .rw, .any⟩]
  | .intTarget => [⟨5, 0, .rw, .any⟩, ⟨6, 6, .rw, .any⟩, ⟨7, 7, .rw, .any⟩, ⟨8, 8, .rw, .any⟩, ⟨16, 16, .rw, .any⟩,
      ⟨22, 17, .rw, .any⟩, ⟨33, 23, .rw, .special⟩]
  | .intPend => [⟨63, 0, .w1c, .any⟩]
  | .intDone => [⟨9, 0, .wo, .any⟩]
  | .intSwset => [⟨5, 0, .wo, .any⟩]
  | .nmcArb => [⟨7, 0, .rw, (.min 10)⟩]
  | .hbmTemp => [⟨32, 32, .w1c, .any⟩, ⟨33, 33, .w1c, .any⟩, ⟨63, 63, .wo, .any⟩]
  | .mscCtl => [⟨3, 0, .rw, .any⟩]
  | .mscCmd => [⟨1, 0, .wo, (.zeroAbove 2)⟩]
  | .xltAsidtab => [⟨0, 0, .rw, .any⟩, ⟨51, 16, .rw, .special⟩]
  | .xltBatchctl => [⟨6, 0, .rw, (.range 1 64)⟩, ⟨23, 8, .rw, (.min 1)⟩]
  | .xltFringBase => [⟨55, 12, .rw, .any⟩]
  | .xltFringCtl => [⟨0, 0, .rw, .any⟩, ⟨4, 1, .rw, (.min 10)⟩, ⟨15, 5, .rw, .any⟩]
  | .xltFringPtr => [⟨30, 16, .rw, .special⟩]
  | .xltInvVa => [⟨55, 16, .rw, .any⟩]
  | .xltInvLen => [⟨55, 16, .rw, (.min 1)⟩]
  | .xltInvCmd => [⟨11, 0, .wo, .any⟩, ⟨12, 12, .wo, .any⟩, ⟨13, 13, .wo, .any⟩, ⟨14, 14, .wo, .any⟩,
      ⟨17, 17, .w1c, .any⟩]
  | .queSq => [⟨0, 0, .rw, .any⟩, ⟨4, 1, .rw, (.min 4)⟩, ⟨55, 12, .rw, .special⟩]
  | .queCq => [⟨0, 0, .rw, .any⟩, ⟨4, 1, .rw, (.min 4)⟩, ⟨55, 12, .rw, .special⟩]
  | .queCtl => [⟨0, 0, .rw, .any⟩, ⟨1, 1, .wo, .any⟩]
  | .quePtr => [⟨15, 0, .rw, .special⟩, ⟨63, 48, .rw, .special⟩]
  | .queNotify => [⟨0, 0, .rw, .any⟩, ⟨11, 1, .rw, .special⟩, ⟨12, 12, .rw, .any⟩, ⟨15, 13, .rw, .special⟩,
      ⟨24, 16, .rw, .any⟩, ⟨39, 32, .rw, (.min 1)⟩, ⟨55, 40, .rw, .any⟩]
  | .pciBar4 => [⟨39, 30, .rw, .special⟩]
  | .pciOuterr => [⟨63, 63, .wo, .any⟩]
  | .trlPortcfg => [⟨0, 0, .rw, .any⟩, ⟨1, 1, .wo, .any⟩, ⟨9, 4, .rw, (.min 4)⟩]
  | .trlLinkerr => [⟨63, 63, .wo, .any⟩]
  | .trlE2e => [⟨31, 0, .rw, (.min 65536)⟩]
  | .trlDetourSel => [⟨0, 0, .rw, .any⟩]
  | .trlJobfloor => [⟨7, 0, .rw, .special⟩]
  | .trlDetour => [⟨0, 0, .rw, .any⟩, ⟨1, 1, .rw, .any⟩, ⟨4, 2, .rw, (.max 5)⟩, ⟨25, 8, .rw, .any⟩,
      ⟨49, 32, .rw, .any⟩, ⟨50, 50, .rw, .any⟩]
  | .txuCtxCfg => [⟨0, 0, .rw, .any⟩, ⟨3, 1, .rw, .any⟩, ⟨15, 4, .rw, .any⟩, ⟨30, 16, .rw, .special⟩,
      ⟨35, 31, .rw, (.range 1 16)⟩, ⟨36, 36, .rw, .any⟩, ⟨37, 37, .rw, .any⟩, ⟨38, 38, .rw, .any⟩,
      ⟨39, 39, .rw, .any⟩, ⟨53, 40, .rw, (.range 1 8192)⟩]
  | .txuCtxDelta => [⟨55, 0, .rw, .any⟩]
  | .txuCtxStage => [⟨55, 6, .rw, .any⟩]
  | .txuCtxTime => [⟨31, 0, .rw, (.min 4096)⟩, ⟨47, 32, .rw, (.min 1)⟩]
  | .txuCtxCount => [⟨63, 63, .wo, .any⟩]
  | .txuEqCfg => [⟨0, 0, .rw, .any⟩, ⟨4, 1, .rw, .any⟩, ⟨9, 5, .rw, (.oneOf [4, 9, 11, 12, 13] 4)⟩,
      ⟨22, 10, .rw, (.range 1 4096)⟩, ⟨28, 23, .rw, (.min 1)⟩, ⟨30, 29, .rw, .any⟩, ⟨55, 32, .rw, (.min 1)⟩]
  | .txuEqTmpl => [⟨55, 7, .rw, .any⟩]
  | .txuEvlog => [⟨63, 63, .wo, .any⟩]
  | .txuPsel => [⟨3, 0, .rw, .any⟩, ⟨31, 16, .rw, .any⟩]
  | .ldgBox => [⟨5, 0, .rw, .any⟩, ⟨13, 8, .rw, .any⟩, ⟨21, 16, .rw, .any⟩, ⟨38, 32, .rw, (.range 1 64)⟩,
      ⟨46, 40, .rw, (.range 1 64)⟩, ⟨54, 48, .rw, (.range 1 64)⟩]
  | .ldgTimers => [⟨15, 0, .rw, (.min 1)⟩, ⟨19, 16, .rw, (.min 1)⟩, ⟨31, 20, .rw, (.min 1)⟩]
  | .ldgMring => [⟨0, 0, .rw, .any⟩, ⟨1, 1, .rw, .any⟩, ⟨5, 2, .rw, (.range 4 12)⟩, ⟨55, 15, .rw, .any⟩,
      ⟨63, 63, .rw, .any⟩]
  | .ldgMringPtr => [⟨28, 16, .rw, .special⟩]
  | .ldgMeterCtl => [⟨0, 0, .wo, .any⟩, ⟨6, 6, .w1c, .any⟩, ⟨8, 8, .rw, .any⟩]
  | .ldgCkpt => [⟨0, 0, .rw, .any⟩, ⟨1, 1, .rw, .any⟩, ⟨2, 2, .rw, .any⟩, ⟨9, 3, .rw, (.max 64)⟩, ⟨51, 12, .rw, .any⟩]
  | .ldgCkptDst => [⟨55, 16, .rw, .any⟩]
  | .ldgCkptLen => [⟨55, 16, .rw, .any⟩]
  | .orgMbxCtl => [⟨7, 0, .rw, .any⟩, ⟨8, 8, .wo, .any⟩, ⟨10, 10, .w1c, .any⟩, ⟨47, 32, .rw, .any⟩]
  | .bootCtl => [⟨0, 0, .wo, .any⟩, ⟨1, 1, .wo, .any⟩, ⟨2, 2, .wo, .any⟩, ⟨3, 3, .rw, .any⟩, ⟨4, 4, .rw, .any⟩]
  | .bootSlotcmd => [⟨2, 0, .rw, (.zeroAbove 3)⟩, ⟨3, 3, .rw, .any⟩, ⟨4, 4, .rw, .any⟩, ⟨8, 8, .wo, .any⟩,
      ⟨10, 10, .w1c, .any⟩]
  | .bootSlotsrc => [⟨55, 0, .rw, .any⟩]
  | .bootSlotlen => [⟨23, 0, .rw, (.range 1 8388608)⟩]
  | .clkRef => [⟨3, 3, .w1c, .any⟩]
  | .clkPll => [⟨7, 4, .w1c, .any⟩]
  | .clkDiv => [⟨16, 12, .rw, (.range 1 16)⟩]
  | .pwrCtl => [⟨1, 0, .rw, .any⟩, ⟨2, 2, .wo, .any⟩, ⟨3, 3, .rw, .any⟩, ⟨4, 4, .rw, .any⟩]
  | .pwrIdleDelay => [⟨23, 0, .rw, (.min 1)⟩]
  | .pwrCap => [⟨12, 0, .rw, (.range 1000 6500)⟩, ⟨23, 16, .rw, (.min 1)⟩, ⟨41, 32, .rw, .any⟩]
  | .thmDie => [⟨31, 31, .wo, .any⟩]
  | .errScrub => [⟨15, 0, .rw, (.min 256)⟩, ⟨16, 16, .rw, .any⟩, ⟨47, 32, .rw, (.min 16)⟩, ⟨48, 48, .rw, .any⟩]
  | .errRelease => [⟨7, 0, .wo, .any⟩]
  | .errInj => [⟨51, 0, .rw, .any⟩, ⟨54, 52, .rw, (.oneOf [1, 2, 3, 4] 1)⟩, ⟨57, 56, .rw, (.oneOf [1, 2] 1)⟩,
      ⟨63, 63, .rw, .any⟩]
  | .errRing => [⟨0, 0, .rw, .any⟩, ⟨4, 1, .rw, (.min 10)⟩, ⟨55, 12, .rw, .any⟩]
  | .errRingPtr => [⟨30, 16, .rw, .special⟩, ⟨42, 32, .rw, .any⟩, ⟨50, 43, .rw, .any⟩, ⟨51, 51, .rw, .any⟩]
  | .pmcColl => [⟨0, 0, .wo, .any⟩, ⟨2, 2, .w1c, .any⟩, ⟨3, 3, .rw, .any⟩, ⟨31, 8, .rw, (.min 1)⟩]
  | .pmcCollM => [⟨0, 0, .wo, .any⟩, ⟨2, 2, .w1c, .any⟩, ⟨3, 3, .rw, .any⟩, ⟨31, 8, .rw, (.min 1)⟩]
  | .pmcDst => [⟨51, 13, .rw, .special⟩, ⟨55, 52, .rw, (.max 8)⟩]
  | .pmcDstM => [⟨51, 13, .rw, .special⟩, ⟨55, 52, .rw, (.max 8)⟩]
  | .pmcCtxen => [⟨63, 0, .rw, .any⟩]
  | .pmcSample => [⟨0, 0, .w1c, .any⟩, ⟨8, 8, .w1c, .any⟩]
  | .pmcCtr => [⟨47, 0, .rw, .any⟩]
  | .pmcCtrM => [⟨47, 0, .rw, .any⟩]
  | .pmcEvt => [⟨7, 0, .rw, .special⟩, ⟨8, 8, .rw, .any⟩, ⟨9, 9, .rw, .special⟩, ⟨10, 10, .rw, .special⟩,
      ⟨11, 11, .w1c, .any⟩]
  | .pmcEvtM => [⟨7, 0, .rw, .special⟩, ⟨8, 8, .rw, .any⟩, ⟨9, 9, .rw, .special⟩, ⟨10, 10, .rw, .special⟩,
      ⟨11, 11, .w1c, .any⟩]
  | _ => []

/-- Every register name. -/
def RegK.all : List RegK := [
  .glbId, .ptrState, .ptrImageId, .ptrCommitStatus, .ptrQuiesceLimit, .ptrClamplog, .ptrRole, .ptrPart,
  .arrState, .arrGctl, .arrFillTarget, .arrBatchBudget, .arrWorkLimit, .arrAbort, .arrReject, .arrCring,
  .arrCringPtr, .arrCcmp, .arrCcmpPtr, .arrCringAsid, .sgeState, .sgeCtl, .sgeStepLimit, .sgeTblSel,
  .sgeTblData, .sgeErrlog, .gfcBootPc, .gfcRun, .gfcParked, .gfcDet, .intTarget, .intPend,
  .intActive, .intClaimN, .intClaimF, .intDone, .intSwset, .nmcState, .nmcArb, .hbmState,
  .hbmTemp, .hbmRepair, .mscCtl, .mscCmd, .mscOcc, .glbCausal, .xltAsidtab, .xltBatchctl,
  .xltFqStat, .xltFringBase, .xltFringCtl, .xltFringPtr, .xltInvVa, .xltInvLen, .xltInvCmd, .queSq,
  .queCq, .queCtl, .quePtr, .queNotify, .queState, .pciPort, .pciBar4, .pciOuterr,
  .trlPortcfg, .trlPortstat, .trlLanemap, .trlLinkerr, .trlLevel, .trlE2e, .trlDetourSel, .trlJobfloor,
  .trlDetour, .txuCtxCfg, .txuCtxDelta, .txuCtxStage, .txuCtxTime, .txuCtxCount, .txuEqCfg, .txuEqTmpl,
  .txuEqStat, .txuState, .txuEvlog, .txuPsel, .txuPdata, .ldgState, .ldgBox, .ldgTimers,
  .ldgMring, .ldgMringPtr, .ldgMeterCtl, .ldgPart, .ldgJob, .ldgBudget, .ldgCkpt, .ldgCkptDst,
  .ldgCkptLen, .ldgMeter, .orgState, .orgMbxCtl, .orgSession, .orgHalted, .orgMeas, .orgIdkey,
  .bootState, .bootStart, .bootShedReason, .bootCtl, .bootSlotcmd, .bootSlotsrc, .bootSlotlen, .bootSlotinfo,
  .bootLog, .clkRef, .clkPll, .clkDiv, .pwrState, .pwrCtl, .pwrIdleDelay, .pwrCap,
  .pwrLoop, .thmDie, .errStat, .errScrub, .errRelease, .errInj, .errRing, .errRingPtr,
  .errLast, .pmcColl, .pmcCollM, .pmcDst, .pmcDstM, .pmcCtxen, .pmcSample, .pmcCtr,
  .pmcCtrM, .pmcEvt, .pmcEvtM]

/-- A register: its name and its indices (unused ones zero). -/
structure Reg where
  k : RegK
  i : Nat := 0
  j : Nat := 0
  l : Nat := 0
  deriving DecidableEq, Repr

def Reg.ixs (r : Reg) : List Nat := [r.i, r.j, r.l]

/-- BAR0 offset of a register. -/
def Reg.addr (r : Reg) : Nat :=
  (List.zipWith (fun d x => d.1 * x) r.k.dims r.ixs).foldl (· + ·) r.k.base

/-- The indices an offset names in nested arrays, with what is left over. -/
def splitDims : List (Nat × Nat) → Nat → Option (List Nat × Nat)
  | [], off => some ([], off)
  | (st, n) :: ds, off =>
    let x := off / st
    if n ≤ x then none
    else match splitDims ds (off % st) with
      | some (xs, rest) => some (x :: xs, rest)
      | none => none

/-- The register that holds BAR0 offset `off`, and the byte within it. -/
def RegK.at (k : RegK) (off : Nat) : Option (Reg × Nat) :=
  if off < k.base then none
  else match splitDims k.dims (off - k.base) with
    | some (xs, rest) => if rest < k.bytes then some (⟨k, nth 0 xs 0, nth 0 xs 1, nth 0 xs 2⟩, rest) else none
    | none => none

/-- Registers that are module-wide and appear in every die's block (11 R317, 14 R399): their die index is dropped. -/
def RegK.moduleWide : RegK → Bool
  | .xltAsidtab => true
  | .xltBatchctl => true
  | .xltFringBase => true
  | .xltFringCtl => true
  | .xltFringPtr => true
  | .txuCtxCfg => true
  | .txuCtxDelta => true
  | .txuCtxStage => true
  | .txuCtxTime => true
  | .txuCtxCount => true
  | _ => false

def findReg : List RegK → Nat → Option (Reg × Nat)
  | [], _ => none
  | k :: ks, off =>
    match k.at off with
    | some (r, b) => some (if k.moduleWide then ({ r with i := 0 }, b) else (r, b))
    | none => findReg ks off

/-- The register at a BAR0 offset. -/
def regAt (off : Nat) : Option (Reg × Nat) := findReg RegK.all off

end Sys2Proof.Machine
end

