-- ==== Sys2Proof/Machine/ArrayState.lean ====
section
/-! DEFINITION. The array-operation descriptor (spec/04_sprinbet_operations R106) and the state of one Pavilion die's array
and sequencer (spec/03_sprinbet_dataflow R83-R101; 04 R102-R124). -/

namespace Sys2Proof.Machine

/-- An array-operation descriptor: its 128 bytes as one little-endian number. -/
abbrev Aop := Nat

/-- Bits `hi:lo` of word `w`. -/
def Aop.f (a : Aop) (w hi lo : Nat) : Nat := natBits a (32 * w + hi) (32 * w + lo)
def Aop.opcode (a : Aop) : Nat := a.f 0 7 0
def Aop.fmtW (a : Aop) : Nat := a.f 0 12 8
def Aop.fmtA (a : Aop) : Nat := a.f 0 17 13
def Aop.die (a : Aop) : Nat := a.f 0 20 18
def Aop.gather (a : Aop) : Bool := a.f 0 21 21 == 1
def Aop.reuse (a : Aop) : Bool := a.f 0 22 22 == 1
def Aop.fence (a : Aop) : Bool := a.f 0 23 23 == 1
def Aop.preload (a : Aop) : Nat := a.f 0 25 24
def Aop.preFmt (a : Aop) : Nat := a.f 0 27 26
def Aop.epi (a : Aop) : Nat := a.f 1 9 0
def Aop.group (a : Aop) : Nat := a.f 1 11 10
def Aop.tileM (a : Aop) : Nat := a.f 1 22 12
def Aop.m (a : Aop) : Nat := a.f 2 23 0
def Aop.k (a : Aop) : Nat := a.f 3 23 0
def Aop.n (a : Aop) : Nat := a.f 4 19 0
def Aop.aAddr (a : Aop) : Nat := natBits a (160 + 55) 160
def Aop.aStride (a : Aop) : Nat := a.f 7 31 0
def Aop.asAddr (a : Aop) : Nat := natBits a (256 + 55) 256
def Aop.asStride (a : Aop) : Nat := a.f 10 31 0
def Aop.wAddr (a : Aop) : Nat := natBits a (352 + 55) 352
def Aop.wStride (a : Aop) : Nat := a.f 13 31 0
def Aop.wmAddr (a : Aop) : Nat := natBits a (448 + 55) 448
def Aop.wmStride (a : Aop) : Nat := a.f 16 31 0
def Aop.method (a : Aop) : Nat := a.f 17 1 0
def Aop.signed (a : Aop) : Bool := a.f 17 2 2 == 1
def Aop.glog2 (a : Aop) : Nat := a.f 17 6 3
def Aop.outfmt (a : Aop) : Nat := a.f 17 7 7
def Aop.preAddr (a : Aop) : Nat := natBits a (576 + 55) 576
def Aop.preStride (a : Aop) : Nat := a.f 20 31 0
def Aop.outAddr (a : Aop) : Nat := natBits a (672 + 55) 672
def Aop.outStride (a : Aop) : Nat := a.f 23 31 0
def Aop.argAddr (a : Aop) : Nat := natBits a (768 + 55) 768
def Aop.tag (a : Aop) : Nat := a.f 26 15 0
def Aop.seed (a : Aop) : Nat := a.f 27 31 0

/-- The reserved fields of R106 (R13). -/
def Aop.reserved (a : Aop) : Nat :=
  a.f 0 31 28 + a.f 1 31 23 + a.f 2 31 24 + a.f 3 31 24 + a.f 4 31 20 + a.f 6 31 24 + a.f 9 31 24 + a.f 12 31 24
    + a.f 15 31 24 + a.f 17 31 8 + a.f 19 31 24 + a.f 22 31 24 + a.f 25 31 24 + a.f 26 31 16 + natBits a 1023 896

/-- The expansion's output as a format code: BF16 or FP8 E4M3. -/
def Aop.outCode (a : Aop) : Nat := if a.outfmt = 1 then 6 else 4
/-- Class of the operation (R50, R107 CLASS). -/
def Aop.cls (a : Aop) : Option FmtClass := fmtClass a.fmtW a.outCode

/-- The shape of a vector by class (03 R74): K indices a pass holds, entry cycles, K indices a row holds. -/
def FmtClass.kv : FmtClass → Nat
  | .q4 => 4096 | .q8f => 2048 | .q8i => 2048 | .q8m => 2048 | .h16 => 1024 | .f19 => 512 | .f64 => 512
def FmtClass.entry : FmtClass → Nat
  | .f64 => 8 | _ => 1
def FmtClass.perRow : FmtClass → Nat
  | .q4 => 8 | .q8f => 4 | .q8i => 4 | .q8m => 4 | .h16 => 2 | .f19 => 1 | .f64 => 1

/-- Where an AOP came from (R102). -/
inductive AopSrc where
  | queue (q : Nat)
  | cring (die : Nat)
  | txu (die expert : Nat)
  deriving DecidableEq, Repr

/-- ARR_REJECT.SOURCE (R123). -/
def AopSrc.code : AopSrc → Nat
  | .queue q => q
  | .cring _ => 4096
  | .txu _ _ => 4097

/-- Place of a source in the rotation (R103). -/
def AopSrc.turn : AopSrc → Nat
  | .queue q => q
  | .cring d => 4096 + d
  | .txu d e => 4104 + 32 * d + e

/-- A translation held for an operation (R111): a 64 KiB virtual page and the physical page it names. -/
structure HeldPage where
  page : Nat
  pa : Nat
  /-- the page's default cache hint (09 R247) -/
  hint : Nat := 0
  deriving DecidableEq, Repr

/-- An AOP the sequencer has taken: its source, its place in that source (a queue index, a ring index, a stage number),
its address space, and the translations held from admission. -/
structure AopRec where
  aop : Aop
  src : AopSrc
  ix : Nat
  asid : Nat
  /-- function the source is bound to, for FLR (R121): the module when none -/
  func : Option Nat
  pages : List HeldPage := []
  /-- its place among its source's AOPs (R104) -/
  no : Nat := 0
  /-- R107 has been judged: a REPLAY goes on from R109 (R110) -/
  judged : Bool := false
  deriving DecidableEq, Repr

/-- A requester of an operation (R117): its AOP and rows, its flags (R71, R119), its epilogue status (R151). -/
structure Req where
  aopr : AopRec
  row0 : Nat
  rows : Nat
  flags : ArrFlags := {}
  /-- error of its lowest-numbered row that had one, and that row -/
  epiErr : Nat := 0
  epiRow : Nat := 0
  sovf : Bool := false
  sinv : Bool := false
  /-- removed by a function-level reset (R121) -/
  removed : Bool := false
  deriving DecidableEq, Repr

/-- How an operation ends (R121). -/
inductive OpEnd where
  | run
  | aborted
  | reset
  | contained
  deriving DecidableEq, Repr

/-- An operation (R105, R108, R117). -/
structure ArrOp where
  id : Nat
  reqs : List Req
  gathered : Bool
  /-- issued (in PREP, streaming or draining), not only admitted -/
  issued : Bool := false
  /-- some pass skipped its load (R119 REUSED) -/
  reused : Bool := false
  /-- the pass whose slice was activated last, none before the first -/
  pass : Option Nat := none
  /-- rows of that pass that have entered -/
  entered : Nat := 0
  /-- the slots of the current row group (R113) -/
  slots : List Nat := []
  /-- die tiles claimed and not yet released by Sage -/
  tilesOut : Nat := 0
  /-- the last vector has entered -/
  streamed : Bool := false
  fate : OpEnd := .run
  deriving DecidableEq, Repr

/-- An open gather group (R115, R116): the operation it gathers into, its row total and key, and the value ARR_BATCH_BUDGET held
when its first member was admitted. -/
structure Group where
  id : Nat
  rows : Nat
  key : List Nat
  budget : Nat
  deriving DecidableEq, Repr

/-- Bank states (03 R83). -/
inductive BankSt where
  | invalid | loading | ready | active
  deriving DecidableEq, Repr

def BankSt.code : BankSt → Nat
  | .invalid => 0 | .loading => 1 | .ready => 2 | .active => 3

/-- The identity of a slice (R112): physical pages of the slice's W and metadata, strides, formats, K slice, columns. -/
structure SliceId where
  wPages : List Nat
  mPages : List Nat
  fields : List Nat
  deriving DecidableEq, Repr

/-- A stationary bank (03 R80, R83, R85). -/
structure Bank where
  st : BankSt := .invalid
  inFlight : Nat := 0
  /-- operations and passes the slice was loaded or kept for, which have not started on this die -/
  keep : List (Nat × Nat) := []
  slice : Option SliceId := none
  /-- encoded element of K index j and column c of the slice at key j * 512 + c -/
  elems : SMap Nat := []
  /-- scale tag of block b and column c at key b * 512 + c -/
  tags : SMap Nat := []
  deriving DecidableEq, Repr

/-- A load of the stationary loader (03 R81, R82): bank rows whose data has arrived, those not yet written waiting in the
staging buffer, and the 64-byte lines read whose later bytes are still to be taken. -/
structure Load where
  op : Nat
  pass : Nat
  slice : SliceId
  rows : Nat
  arrived : Nat := 0
  /-- bank being written, once the first row is -/
  bank : Option Nat := none
  /-- element and metadata bytes staged and not yet written -/
  staged : Nat := 0
  lines : SMap (Option Nat) := []
  elems : SMap Nat := []
  tags : SMap Nat := []
  deriving DecidableEq, Repr

/-- A vector in the pipeline (03 R77, R84): its tag, its slot and row, and its streaming elements and scales. -/
structure Vec where
  op : Nat
  pass : Nat
  /-- row of the operation -/
  row : Nat
  bank : Nat
  slot : Nat
  slotRow : Nat
  elems : List Nat
  scales : List Nat
  deriving DecidableEq, Repr

/-- What the relay brings to a follower die (03 R95): a vector, a swap to a pass, a halt. -/
inductive Relay where
  | vec (v : Vec)
  | swap (op pass : Nat) (slots : List Nat)
  | halt
  deriving DecidableEq, Repr

/-- Slot states (03 R99). -/
inductive SlotSt where
  | free | filling | complete | draining | discarded
  deriving DecidableEq, Repr

def SlotSt.code : SlotSt → Nat
  | .free => 0 | .filling => 1 | .complete => 2 | .draining => 3 | .discarded => 4

/-- An Accumulation Buffer slot (03 R98-R100) and the tile it holds. -/
structure Slot where
  st : SlotSt := .free
  op : Nat := 0
  rows : Nat := 0
  cols : Nat := 0
  /-- first pass of the row group, first row of the operation, and first column of C on this die -/
  pass0 : Nat := 0
  row0 : Nat := 0
  n0 : Nat := 0
  f64 : Bool := false
  /-- vectors still to accumulate -/
  left : Nat := 0
  /-- rows preloaded by their first touch -/
  touched : List Nat := []
  deriving DecidableEq, Repr

/-- Sequencer states (R114). -/
inductive SeqSt where
  | idle | prep | stream | halting | stopped | follow
  deriving DecidableEq, Repr

def SeqSt.code : SeqSt → Nat
  | .idle => 0 | .prep => 1 | .stream => 2 | .halting => 3 | .stopped => 4 | .follow => 5

/-- What a die reports ready to its gang's master (03 R96, R101). -/
inductive Readiness where
  | shadow (op pass : Nat)
  | bias (op group : Nat)
  | residual (op row : Nat)
  deriving DecidableEq, Repr

/-- Values held in the preload buffer (03 R101). -/
structure Preload where
  op : Nat
  /-- row group for a bias, operation row for a residual -/
  ix : Nat
  vals : List Nat
  f64 : Bool := false
  deriving DecidableEq, Repr

/-- One die's array and sequencer. -/
structure Arr where
  seq : SeqSt := .idle
  bankA : Bank := {}
  bankB : Bank := {}
  /-- loads in hand, in issue order: the first writes its bank, a later one reads ahead -/
  loads : List Load := []
  /-- per issued operation, the next pass whose load begins on this die -/
  nextLoad : SMap Nat := []
  pipe : List Vec := []
  relay : List Relay := []
  slots : List Slot := [{}, {}, {}, {}]
  /-- the Accumulation Buffer, 8 MiB -/
  acb : Mem := []
  /-- slots in the finished-tile queue, oldest first (R118) -/
  ftq : List Nat := []
  bias : List Preload := []
  resid : List Preload := []
  -- the master's sequencer
  /-- reports that have reached the master, with the die -/
  reports : List (Nat × Readiness) := []
  /-- AOP in admission (R103) -/
  admitting : Option AopRec := none
  /-- the source after which the rotation goes on -/
  rot : Nat := 0
  /-- admitted operations in issue order, those issued at the front (R105); a group's operation stands in its first member's
  place -/
  ops : List ArrOp := []
  groups : List Group := []
  /-- parked AOPs with the batches still to answer them, and the status with which an answer other than REPLAY ends them, 0 while there is
  none (R110) -/
  parked : List (AopRec × List Nat × Nat) := []
  nextId : Nat := 1
  /-- core-ring AOPs taken whose record is not yet written, in ring order (R104, R124): the slot after the AOP and, once it has
  ended, status, result word, TAG in bits 15:0 and OPCODE above -/
  cringDone : List (Nat × Option (Nat × Nat × Nat)) := []
  /-- AOPs this sequencer has taken -/
  taken : Nat := 0
  /-- core-ring AOPs taken so far, next record to write -/
  cringHead : Nat := 0
  ccmpTail : Nat := 0
  deriving DecidableEq, Repr

def Arr.bank (a : Arr) (b : Nat) : Bank := if b = 0 then a.bankA else a.bankB
def Arr.setBank (a : Arr) (b : Nat) (v : Bank) : Arr := if b = 0 then { a with bankA := v } else { a with bankB := v }

end Sys2Proof.Machine
end

