-- ==== Sys2Proof/Machine/LdgState.lean ====
section
/-! DEFINITION. State of the Lodge services: membership, jobs, meters and checkpoints (spec/15_lodge_services R400-R424). -/

namespace Sys2Proof.Machine

/-- LDG_PART.STATE (R424). -/
inductive JobSt where
  | free | running | ckpt | ending | zeroising
  deriving DecidableEq, Repr

def JobSt.code : JobSt → Nat
  | .free => 0 | .running => 1 | .ckpt => 2 | .ending => 3 | .zeroising => 4

/-- Plot side of one partition (R409-R419). -/
structure LdgPart where
  st : JobSt := .free
  isOver : Nat := 0
  action : Bool := false
  tenant : Nat := 0
  job : Nat := 0
  /-- budget shares ARRAY, HBM, ENERGY; zero for no limit -/
  budget : List Nat := [0, 0, 0]
  /-- totals since the job started, fixed point of R415, by meter -/
  total : SMap Nat := []
  /-- counts since the last closed record -/
  count : SMap Nat := []
  /-- number of the record that is open -/
  seq : Nat := 1
  openAt : Nat := 0
  /-- SHA-256 of the previous record -/
  prev : Nat := 0
  /-- checkpoint: step being performed, zero for none; bytes copied -/
  step : Nat := 0
  bytes : Nat := 0
  /-- the checkpoint's QUIESCE holds fetching and injection -/
  held : Bool := false
  /-- CKPT_READY arrived during PREPARE -/
  prepared : Bool := false
  /-- device an END waits to answer -/
  endFrom : Option Nat := none
  /-- device a checkpoint step waits to answer -/
  ckptFrom : Option Nat := none
  deriving DecidableEq, Repr

/-- Member states (R404). -/
inductive MemSt where
  | joining | healthy | draining | leaving | failed
  deriving DecidableEq, Repr

def MemSt.code : MemSt → Nat
  | .joining => 1 | .healthy => 2 | .draining => 3 | .leaving => 4 | .failed => 5

/-- A member of this Lodge (R404, R406). -/
structure Member where
  dev : Nat
  st : MemSt := .joining
  level : Nat := 0
  max : Nat := 0
  floor : Nat := 0
  stamp : Nat := 0
  /-- heartbeat periods passed without a heartbeat, and, when LEAVING, without a JOIN -/
  missed : Nat := 0
  parts : List PlotPart := []
  deriving DecidableEq, Repr

/-- What a job of this Lodge is doing. -/
inductive JobPhase where
  | admitting | running | ending
  | ckpt (step : Nat)
  deriving DecidableEq, Repr

/-- A job on the lodge side (R408, R411, R419): its plots or children with the partition chosen on each. -/
structure Job where
  id : Nat
  plots : List (Nat × Nat)
  phase : JobPhase
  /-- plots that have acknowledged the phase -/
  acked : List Nat := []
  /-- the SERVICE descriptor that waits: queue and number -/
  q : Option (Nat × Nat) := none
  /-- the parent Lodge that sent this Lodge its part of the job -/
  parent : Option Nat := none
  /-- feature floor the job declared -/
  floor : Nat := 1
  /-- reason that ends the admission, or the checkpoint step that failed; zero for none -/
  fail : Nat := 0
  /-- bytes the plots copied -/
  bytes : Nat := 0
  action : Bool := false
  /-- END waits for the checkpoint to end -/
  endAfter : Bool := false
  deriving DecidableEq, Repr

/-- A MGMT message sent (R402): its opcode, destination, sequence number and arguments; payload layouts are the firmware's
(log entry 30). -/
structure Msg where
  opc : Nat
  dst : Nat
  seq : Nat
  args : List Nat
  /-- stamp of its cause (R283) -/
  stamp : Nat
  /-- times sent, for a message that waits for an answer -/
  sends : Nat := 1
  deriving DecidableEq, Repr

/-- A closed record (R417): its 512 bytes as a number. -/
structure MeterRec where
  part : Nat
  raw : Nat
  deriving DecidableEq, Repr

/-- A sealed record in the Orangery's store (R416-R418): 17,608 bytes; it is still to be written to the ring, and it has been sent to the parent. -/
structure Sealed where
  bytes : List Byte
  toRing : Bool
  sent : Bool
  deriving DecidableEq, Repr

/-- Lodge services of the module. -/
structure Ldg where
  parts : List LdgPart := List.replicate 8 {}
  held : Bool := false
  pparent : Option Nat := none
  lparent : Option Nat := none
  /-- heartbeat periods a parent has missed -/
  pmiss : Nat := 0
  lmiss : Nat := 0
  members : List Member := []
  jobs : List Job := []
  jobCount : Nat := 1
  /-- MGMT messages sent, oldest first -/
  out : List Msg := []
  /-- messages that wait for an answer -/
  await : List Msg := []
  seq : Nat := 0
  /-- messages answered: source, sequence number, and the answer -/
  seen : List (Nat × Nat × List Msg) := []
  closed : List MeterRec := []
  store : List Sealed := []
  deferred : Bool := false
  ringTail : Nat := 0
  /-- heartbeat periods since the last ANNOUNCE -/
  annPeriods : Nat := 0
  /-- DETOUR_WRITE sent and awaited: members still to acknowledge -/
  detourWait : List Nat := []
  /-- bank the members use -/
  bank : Bool := false
  /-- failed links the members reported, and modules with a MODULE detour (R420) -/
  links : List (Nat × Nat) := []
  away : List Nat := []
  /-- entries of each child Lodge, and those the lodge-side parent returned -/
  childEnts : SMap (List Nat) := []
  upEnts : List Nat := []
  /-- members whose SLEEP request waits for the detour (R421) -/
  sleepers : List Nat := []
  /-- chunks of children's records received so far, by device, and whole records to write to the ring -/
  rxMeter : SMap (List (Nat × List Byte)) := []
  rxRecords : List (List Byte) := []
  deriving DecidableEq, Repr

end Sys2Proof.Machine
end

