-- ==== Sys2Proof/Machine/OrgState.lean ====
section
/-! DEFINITION. State of the Orangery: fuses, keys, measurements, channels and debug sessions
(spec/16_orangery_security R425-R448). -/

namespace Sys2Proof.Machine

/-- The fuses that change (R429); counted fields hold the number of fuses blown. ROOT_HASH and SERIAL are fixed at
manufacture and stand in Config. -/
structure Fuses where
  idSeed : Nat := 0
  lcCount : Nat := 0
  scrap : Bool := false
  site : List Nat := [0, 0, 0, 0]
  imgFloor : Nat := 0
  fwFloor : Nat := 0
  deriving DecidableEq, Repr

/-- Lifecycle states (R430). -/
inductive Lifecycle where
  | manufacture | deployed | return | scrapped
  deriving DecidableEq, Repr

def Lifecycle.code : Lifecycle → Nat
  | .manufacture => 0 | .deployed => 1 | .return => 2 | .scrapped => 3

def Fuses.lifecycle (f : Fuses) : Lifecycle :=
  if f.scrap then .scrapped else if f.lcCount = 0 then .manufacture else if f.lcCount % 2 = 1 then .deployed else .return

/-- The deployment of a DEPLOYED module (R430). -/
def Fuses.deployment (f : Fuses) : Nat := (f.lcCount - 1) / 2

/-- The all-ones value of a 256-bit and of a 384-bit field. -/
def ones256 : Nat := 2 ^ 256 - 1
def ones384 : Nat := 2 ^ 384 - 1

/-- The fuse writes this chapter makes, each blowing fuses only (R429, R431, R438). -/
inductive FuseWrite where
  | lc | scrap
  | seed (v : Nat)
  | slot (d v : Nat)
  | imgFloor (v : Nat)
  | fwFloor (v : Nat)
  deriving DecidableEq, Repr

/-- Blow fuses: a blown fuse stays blown, so bits are only set and counts only rise. -/
def Fuses.blow (f : Fuses) : FuseWrite → Fuses
  | .lc => { f with lcCount := min 8 (f.lcCount + 1) }
  | .scrap => { f with scrap := true }
  | .seed v => { f with idSeed := f.idSeed ||| (v % 2 ^ 384) }
  | .slot d v => { f with site := modNth 0 f.site d (fun x => x ||| (v % 2 ^ 256)) }
  | .imgFloor v => { f with imgFloor := max f.imgFloor (min v 64) }
  | .fwFloor v => { f with fwFloor := max f.fwFloor (min v 64) }

/-- An open session (R439-R442). -/
structure Sess where
  chan : Nat
  perms : Nat
  part : Nat := 0
  tenant : Nat := 0
  life : Nat := 0
  /-- trace buffer: address, length, bytes written -/
  trace : Option (Nat × Nat × Nat) := none
  /-- core its last HALT named, whose registers RDREG and WRREG name (log entry 44) -/
  core : Option Nat := none
  deriving DecidableEq, Repr

/-- A channel's mailbox (R437, R448) and, for channel 2, the SMBus form (20 R522). -/
structure Mbx where
  code : Nat := 0
  busy : Bool := false
  done : Bool := false
  status : Nat := 0
  reason : Nat := 0
  len : Nat := 0
  deriving DecidableEq, Repr

/-- Orangery state. -/
structure Org where
  fuses : Fuses := {}
  /-- site public key in the non-volatile store (R426), 48 bytes as a number; none when no key was ever stored -/
  siteKey : Option Nat := none
  /-- the key counted as enrolled at this start (R428) -/
  site : Bool := false
  /-- identity public key, 32 bytes as a number; zero until generated -/
  idKey : Nat := 0
  /-- M0-M15 -/
  meas : SMap Nat := []
  /-- open sessions by number -/
  sess : SMap (Option Sess) := []
  /-- challenge of each channel: 0 port A, 1 port B, 2 SMBus -/
  chal : SMap (Option Nat) := []
  mbx : SMap Mbx := []
  /-- the channels' 64 KiB buffers, byte j of channel c at key c * 65536 + j -/
  buf : Mem := []
  /-- channels whose submitted command waits, in order of arrival (R436) -/
  cmds : List Nat := []
  /-- breakpoints of core k as (session, address) -/
  brk : SMap (List (Nat × Nat)) := []
  /-- session that halted core k, plus one -/
  haltBy : SMap Nat := []
  deriving DecidableEq, Repr

def Org.open (o : Org) (j : Nat) : Bool := (SMap.get none o.sess j).isSome
/-- Module debug level (R439). -/
def Org.level (o : Org) : Nat :=
  if o.open 9 then 3 else if o.open 8 then 2 else if (List.range 8).any o.open then 1 else 0
/-- Level of a session number. -/
def sessLevel (j : Nat) : Nat := if j = 9 then 3 else if j = 8 then 2 else 1

end Sys2Proof.Machine
end

