-- ==== Sys2Proof/Machine/PwrState.lean ====
section
/-! DEFINITION. State of start-up and the non-volatile store (spec/17_start_up), of clocks, power states and throttling
(spec/18_clocks_power), and of the sideband signals and the SMBus (spec/20_module_data). -/

namespace Sys2Proof.Machine

/-- A log entry (17 R467). -/
structure LogEnt where
  start : Nat := 0
  step : Nat := 0
  slot : Nat := 0
  imgsrc : Nat := 0
  reason : Nat := 0
  elapsed : Nat := 0
  deriving DecidableEq, Repr

/-- The current copy of the boot record (17 R460). -/
structure BootRec where
  gen : Nat := 0
  preferred : Nat := 0
  /-- STATE_A and STATE_B: 0 EMPTY, 1 UNTRIED, 2 GOOD, 3 BAD -/
  slotSt : List Nat := [0, 0]
  force : Bool := false
  attempts : Nat := 0
  next : Nat := 0
  startCount : Nat := 0
  log : List LogEnt := List.replicate 8 {}
  deriving DecidableEq, Repr

/-- A log entry as BOOT_LOG reads it (17 R467). -/
def LogEnt.word (e : LogEnt) : Nat :=
  e.start % 2 ^ 32 + e.step * 2 ^ 32 + e.slot * 2 ^ 36 + e.imgsrc * 2 ^ 37 + e.reason * 2 ^ 40 + e.elapsed * 2 ^ 48
/-- Words 0-23 of the record (17 R460); its copy holds their SHA-256 after them. -/
def BootRec.raw (r : BootRec) : Nat :=
  0x544F4F42 + r.gen * 2 ^ 32 + (r.preferred + nth 0 r.slotSt 0 * 2 + nth 0 r.slotSt 1 * 2 ^ 3 + b2n r.force * 2 ^ 5 + r.attempts * 2 ^ 8 +
    r.next * 2 ^ 16) * 2 ^ 64 + r.startCount * 2 ^ 128 + (r.log.zipIdx.map (fun e => e.1.word * 2 ^ (256 + 64 * e.2))).foldl (· + ·) 0

/-- A slot command running (17 R462). -/
structure SlotCmd where
  op : Nat
  slot : Nat
  /-- the verified source -/
  bytes : List Byte
  /-- its source is not read yet, for it lies in a stack that is HOT (09 R256) or Bus Master Enable holds the read (12 R326); then LOC -/
  held : Option Nat := none
  deriving DecidableEq, Repr

/-- Start-up state. -/
structure Boot where
  /-- 0 before a start, 1-11 the step in progress, 12 COMPLETE, 13 SHED -/
  phase : Nat := 0
  slot : Nat := 0
  unverified : Bool := false
  /-- TMAX and SVN of each slot's header at this start -/
  info : List (Nat × Nat) := [(0, 0), (0, 0)]
  last : Nat := 0
  shed : Nat := 0
  /-- the valid current copy of the record; none when no copy is valid. `nor` holds both copies' bytes -/
  record : Option BootRec := none
  /-- START_COUNT of this start (17 R467) -/
  count : Nat := 0
  /-- FORCE and PREFERRED as BOOT_CTL was written, until the record update completes -/
  pend : Option (Bool × Nat) := none
  cmd : Option SlotCmd := none
  done : Bool := false
  result : Nat := 0
  /-- contents of the two NOR devices, byte j of device d at key d * 2^26 + j; erased bytes read 0xFF, and byte values are
  held XOR 0xFF so that erased flash is unlisted -/
  nor : Mem := []
  /-- a warm reset requested before start-complete (17 R466) -/
  warmHeld : Bool := false
  /-- a start failed, and the module is held for 100 ms (17 R452) -/
  failed : Bool := false
  deriving DecidableEq, Repr

/-- Power states (18 R481). -/
inductive PState where
  | active | idle | nap | sleep | off
  deriving DecidableEq, Repr

def PState.code : PState → Nat
  | .active => 0 | .idle => 1 | .nap => 2 | .sleep => 3 | .off => 3

def pstateOf (n : Nat) : PState := if n = 1 then .idle else if n = 2 then .nap else if n = 3 then .sleep else .active

/-- The clock domains (18 R472). -/
inductive Dom where
  | array | core | sage | near | bridge | mesh | dma | txu | svc | orang | dbg | hbmc | msc | trls | pcie | aon | telem | nvif
  deriving DecidableEq, Repr

/-- The PLL that feeds a domain in ACTIVE: 0 PLL-M, 1 PLL-H, 2 PLL-S, 3 PLL-P; none: REFXO (18 R472). -/
def Dom.pll : Dom → Option Nat
  | .hbmc => some 1 | .msc => some 1 | .trls => some 2 | .pcie => some 3 | .aon => none | .telem => none | .nvif => none | _ => some 0

/-- Is a domain clocked in a state: neither gated nor off (18 R472)? -/
def Dom.runsIn (d : Dom) (t : PState) : Bool :=
  match d, t with
  | _, .active => true
  | _, .off => false
  | .array, _ | .core, _ | .sage, _ | .dma, _ | .txu, _ => false
  | .near, .sleep | .bridge, .sleep | .mesh, .sleep | .hbmc, .sleep | .msc, .sleep | .trls, .sleep => false
  | _, _ => true

/-- A request for a power state that has not ended (18 R486). -/
structure PReq where
  target : PState
  /-- the state asked for: SLEEP where a FULL session turns it into NAP -/
  asked : PState
  /-- the ADMIN descriptor that carries it -/
  q : Option (Nat × Nat) := none
  /-- the SMBus command waits for it -/
  smb : Bool := false
  /-- entry or exit is in progress -/
  begun : Bool := false
  deriving DecidableEq, Repr

/-- Clock and power state (18). -/
structure Pwr where
  st : PState := .active
  req : Option PReq := none
  /-- an exit to ACTIVE is in progress -/
  exiting : Bool := false
  crit : Bool := false
  result : Nat := 0
  acc : Nat := 0
  u : Nat := 0
  power : Nat := 0
  /-- CLK_REF -/
  refSource : Nat := 0
  refSsc : Bool := false
  refFault : Bool := false
  /-- windows in a row: passing by port A, port B, ring; absent; failing after start -/
  runA : Nat := 0
  runB : Nat := 0
  runR : Nat := 0
  absent : Nat := 0
  failing : Nat := 0
  judged : Bool := false
  lock : Nat := 0
  lost : Nat := 0
  /-- cap demand of each die, step in force, divider switches -/
  cap : SMap Nat := []
  eff : SMap Nat := []
  switches : SMap Nat := []
  temp : SMap Nat := []
  peak : SMap Nat := []
  /-- SLEEP_GRANT has been received (16 R446) -/
  grant : Bool := false
  /-- input in its operating range, power-good (20 R514) -/
  input : Bool := false
  /-- a SLEEP wake event arrived during entry (18 R488) -/
  wakeAfter : Bool := false
  /-- warm reset waits for the return to ACTIVE (18 R488) -/
  warmAfter : Bool := false
  deriving DecidableEq, Repr

/-- SMBus and sideband state (20 R522, R523). -/
structure Smb where
  /-- status of the last command, and the response data that follow it -/
  status : Nat := 0
  data : List Byte := []
  alert : Bool := false
  /-- what the last read over the SMBus returned, none while its address was not acknowledged: the MODEL's own field -/
  reply : Option (List Byte) := none
  deriving DecidableEq, Repr

end Sys2Proof.Machine
end

