-- ==== Sys2Proof/Machine/TrlState.lean ====
section
/-! DEFINITION. State of the Trellis fabric: ports and their link layer, packets, transaction tags and transfers
(spec/13_trellis_fabric R347-R375). -/

namespace Sys2Proof.Machine

/-- Port states (R349). -/
inductive LinkSt where
  | down | training | up | retrain | refused | miswired | failed
  deriving DecidableEq, Repr

def LinkSt.code : LinkSt → Nat
  | .down => 0 | .training => 1 | .up => 2 | .retrain => 3 | .refused => 4 | .miswired => 5 | .failed => 6

/-- A packet (R357): its 32-byte header as a number, and its payload. -/
structure Packet where
  hdr : Nat
  data : List Byte
  deriving DecidableEq, Repr

def Packet.f (p : Packet) (w hi lo : Nat) : Nat := natBits p.hdr (32 * w + hi) (32 * w + lo)
def Packet.opc (p : Packet) : Nat := p.f 0 7 0
def Packet.cls (p : Packet) : Nat := p.f 0 10 8
def Packet.esc (p : Packet) : Bool := p.f 0 11 11 == 1
def Packet.ph (p : Packet) : Nat := p.f 0 12 12
def Packet.dl (p : Packet) : Nat := p.f 0 13 13
def Packet.len (p : Packet) : Nat := p.f 0 28 16
def Packet.dst (p : Packet) : Nat := p.f 1 17 0
def Packet.hops (p : Packet) : Nat := p.f 1 25 18
def Packet.src (p : Packet) : Nat := p.f 2 17 0
def Packet.srcpart (p : Packet) : Nat := p.f 2 20 18
def Packet.plvl (p : Packet) : Nat := p.f 2 28 21
def Packet.inter (p : Packet) : Nat := p.f 3 17 0
def Packet.tag (p : Packet) : Nat := p.f 4 15 0
def Packet.status (p : Packet) : Nat := p.f 4 23 16
def Packet.aop (p : Packet) : Nat := p.f 4 27 24
def Packet.asz (p : Packet) : Nat := p.f 4 28 28
def Packet.addr (p : Packet) : Nat := natBits p.hdr 211 160
def Packet.aux (p : Packet) : Nat := p.f 7 31 0
/-- The reserved bits of the header (R357). -/
def Packet.reserved (p : Packet) : Nat :=
  p.f 0 15 14 + p.f 0 31 29 + p.f 1 31 26 + p.f 2 31 29 + p.f 3 31 18 + p.f 4 31 29 + natBits p.hdr 223 212
    + (if p.esc then 0 else p.inter)
/-- Replace bits of a header word. -/
def Packet.put (p : Packet) (w hi lo v : Nat) : Packet := { p with hdr := natPut p.hdr (32 * w + hi) (32 * w + lo) v }
/-- DATA flits the packet occupies (R354). -/
def Packet.flits (p : Packet) : Nat := ceilDiv (32 + p.len) 56

/-- Virtual subchannels (R356, R358): REQ 0-1, RSP 2-3, TOK 4-5, COLL 6-7, MGMT 8-9, ESC 10-13, by dateline class, and on ESC by
phase. The numbers stand for the flit's VCS codes (log entry 25). -/
def Packet.sub (p : Packet) : Nat := if p.esc then 10 + 2 * p.ph + p.dl else 2 * p.cls + p.dl

/-- Credits of a subchannel, in flits (R356). -/
def subCap (n : Nat) : Nat :=
  if n < 2 then 128 else if n < 4 then 256 else if n < 6 then 512 else if n < 8 then 256 else if n < 10 then 32 else 64

/-- A flit in the replay buffer (R355): its SEQ and its 64 bytes as a number. -/
structure Flit where
  seq : Nat
  raw : Nat
  /-- replays of it in succession (R351) -/
  reps : Nat := 0
  deriving DecidableEq, Repr

/-- A DATA flit held in a receive buffer, or on its way out: SOP and its 56 data bytes as a number. -/
structure RxFlit where
  sop : Bool
  data : Nat
  deriving DecidableEq, Repr

/-- One Trellis port (R349-R356, R363). -/
structure TrlPort where
  st : LinkSt := .down
  why : Nat := 0
  level : Nat := 0
  pmax : Nat := 0
  partner : Nat := 0
  pport : Nat := 0
  /-- data lane replaced by spare 0 and spare 1 -/
  lanes : List (Option Nat) := [none, none]
  replays : Nat := 0
  retrains : Nat := 0
  discards : Nat := 0
  /-- CBL_PRSNT# low: a cable is mated (20 R519) -/
  mated : Bool := true
  /-- next SEQ to send, next SEQ expected -/
  txSeq : Nat := 0
  rxSeq : Nat := 0
  /-- sent and not yet covered by ACK, oldest first -/
  replay : List Flit := []
  /-- discarding until a correct replay arrives -/
  bad : Bool := false
  /-- the last NAK reported to the partner: the last good sequence number -/
  nakSent : Option Nat := none
  /-- credits in use at the partner, by subchannel -/
  used : SMap Nat := []
  /-- credits to return to the partner, by subchannel -/
  owed : SMap Nat := []
  /-- receive buffers by subchannel -/
  rx : SMap (List RxFlit) := []
  /-- by subchannel, the flits of its packet on its way out that no credit or no room in the replay buffer has let go yet -/
  tx : SMap (List RxFlit) := []
  /-- the subchannel served last, and the subchannels whose last packet was a forwarded one (R363) -/
  turn : Nat := 13
  fwd : Nat := 0
  /-- flits each partition sent in the current window (R363) -/
  share : SMap Nat := []
  deriving DecidableEq, Repr

/-- A packet waiting to be injected, and the partition whose share it counts against: none for management traffic. -/
structure OutPkt where
  pkt : Packet
  part : Option Nat
  /-- detour bank sampled when the packet was formed (14 R381); none: the bank active at injection -/
  bank : Option Nat := none
  deriving DecidableEq, Repr

/-- Who waits for a Trellis response (R366, R368). -/
inductive TrlReq where
  /-- a core: the wait and the part of it -/
  | core (k id part : Nat)
  /-- a piece of a PUT or GET: queue, descriptor, offset of the piece in its destination -/
  | xfer (q ix off : Nat)
  deriving DecidableEq, Repr

/-- A transaction tag in use (R366, R368). -/
structure TagEnt where
  req : TrlReq
  /-- bytes the response carries -/
  len : Nat
  /-- its request timed out: the tag waits a further TIMEOUT -/
  timedOut : Bool := false
  deriving DecidableEq, Repr

/-- A request waiting for a free tag (R366). -/
structure TagWait where
  req : TrlReq
  len : Nat
  pkt : Packet
  part : Option Nat
  deriving DecidableEq, Repr

/-- A translated piece of a range: its place, its length and its page's default hint (09 R247). -/
structure Piece where
  loc : Loc
  n : Nat
  pte : Nat := 0
  deriving DecidableEq, Repr

/-- The page a PUT or GET is moving (R369): bytes moved before it, its length, pieces still outstanding, where a GET writes it (its
translation is held, 11 R312), bytes received by offset, and the first failure met. -/
structure Xfer where
  q : Nat
  ix : Nat
  base : Nat
  len : Nat
  left : Nat
  dst : List Piece := []
  got : List (Nat × List Byte) := []
  fail : Option Nat := none
  deriving DecidableEq, Repr

/-- Trellis state of the module. -/
structure Trl where
  /-- the Trellis step of start-up has released the ports (R374) -/
  on : Bool := false
  /-- TRL_LEVEL.MAX: TMAX of the firmware that runs (17 R457) -/
  max : Nat := 0
  ports : SMap TrlPort := []
  /-- packets formed here and waiting for injection, oldest first -/
  out : List OutPkt := []
  /-- packets this module sent to itself -/
  loop : List Packet := []
  tags : SMap (Option TagEnt) := []
  waiting : List TagWait := []
  xfers : List Xfer := []
  /-- responses for tags not outstanding, discarded and counted (R368) -/
  stray : Nat := 0
  deriving DecidableEq, Repr

end Sys2Proof.Machine
end

