-- ==== Sys2Proof/Machine/TxuState.lean ====
section
/-! DEFINITION. State of the Token Exchange Units and of the collectives (spec/14_token_exchange R376-R399). -/

namespace Sys2Proof.Machine

/-- A target of a choice (R377): device, die and expert queue. -/
structure Target where
  dev : Nat
  die : Nat
  queue : Nat
  deriving DecidableEq, Repr

/-- States of a choice (R389). -/
inductive ChSt where
  | wait | result | passed
  | failed (status : Nat)
  deriving DecidableEq, Repr

/-- A combine entry in use (R380, R389). -/
structure CombEnt where
  token : Nat
  dest : Nat
  weights : List Nat
  /-- expert slots chosen -/
  slots : List Nat
  /-- targets formed at dispatch (R381) -/
  targets : List Target := []
  st : List ChSt
  /-- queues a HOLD named, by choice, whose row waits to be sent again -/
  retry : List Nat := []
  /-- sent at least once -/
  sent : Bool := false
  /-- batches that hold a fault of this token (R391) -/
  batches : List Nat := []
  deriving DecidableEq, Repr

/-- A slot of an expert input queue (R385, R386). -/
structure EqSlot where
  src : Nat
  odie : Nat
  cent : Nat
  ctx : Nat
  /-- the row came over the bridges of this module (R381) -/
  loc : Bool
  ready : Bool := false
  submitted : Bool := false
  /-- its RESULT chunks are formed; the slot is free once they have been sent (R388) -/
  sent : Bool := false
  deriving DecidableEq, Repr

/-- A chunk of work submitted (R387, R388). -/
structure EqChunk where
  id : Nat
  first : Nat
  rows : Nat
  stage : Nat := 0
  /-- its stage AOP has completed with this status -/
  done : Option Nat := none
  /-- the stage's AOP is still to be submitted -/
  todo : Bool := true
  /-- rows whose results have been read and formed into packets -/
  out : Nat := 0
  /-- batches that hold a fault of its template or results -/
  batches : List Nat := []
  deriving DecidableEq, Repr

/-- One expert input queue. -/
structure Eq32 where
  slots : SMap (Option EqSlot) := []
  /-- where the search for the next free slot begins; the slots not yet submitted, oldest first -/
  next : Nat := 0
  order : List Nat := []
  chunks : List EqChunk := []
  nextChunk : Nat := 0
  holds : Nat := 0
  passes : Nat := 0
  deriving DecidableEq, Repr

/-- A stage AOP waiting for the die's sequencer (R387, R103). -/
structure TxuAop where
  queue : Nat
  chunk : Nat
  aop : Nat
  ctx : Nat
  deriving DecidableEq, Repr

/-- A TOK packet whose work is held (R391; 11 R311): on the batches of a fault, on a fault that waits for an entry, on a page or a stack that
serves it later, or behind an earlier packet of its row. -/
structure TxuHeld where
  pkt : Packet
  loc : Bool
  batches : List Nat
  /-- the waiter its faults name; none behind another packet -/
  wid : Option Nat
  deriving DecidableEq, Repr

/-- One die's TXU. -/
structure TxuDie where
  stopped : Bool := false
  /-- dispatch buffer: context and combine entry of each token, oldest first -/
  dbuf : List (Nat × Nat) := []
  /-- the oldest has been dispatched, and packets of it wait to be sent (R381) -/
  going : Bool := false
  /-- combine entries in use, keyed context * 8192 + entry -/
  ents : SMap (Option CombEnt) := []
  eqs : SMap Eq32 := []
  aops : List TxuAop := []
  held : List TxuHeld := []
  deriving DecidableEq, Repr

/-- A collective running on this module (R393-R398). -/
structure CollRun where
  q : Nat
  ix : Nat
  /-- descriptor as a number -/
  raw : Nat
  /-- stage of the plan: index into the sequence of rings -/
  stage : Nat := 0
  /-- the reduction vector on [lo, hi): element i at key i -/
  lo : Nat := 0
  hi : Nat := 0
  vec : SMap Nat := []
  /-- elements received in the stage -/
  got : Nat := 0
  /-- element i of DST at key i -/
  out : SMap Nat := []
  /-- every element is in place: DST is to be written -/
  ready : Bool := false
  deriving DecidableEq, Repr

/-- Token exchange and collective state of the module. -/
structure Txu where
  dies : SMap TxuDie := []
  /-- the placement store, the same on every die (R377): entry i at key i -/
  place : SMap Nat := []
  colls : List CollRun := []
  /-- by CID, how the last collective of it ended here: 1 OK, 2 otherwise -/
  ended : SMap Nat := []
  deriving DecidableEq, Repr

end Sys2Proof.Machine
end

