-- ==== Sys2Proof/Machine/SysState.lean ====
section
/-! DEFINITION. State of the module as a whole: the committed image and the commit in progress (spec/01_parterre_image),
interrupt controllers (08 R230-R235), queues and ports (12), error records and counters (19), causal stamps (10 R281-R285). -/

namespace Sys2Proof.Machine

/-! ### The Parterre image (01) -/

/-- A PARTITIONS entry (01 R21). -/
structure PartEntry where
  dies : Nat := 0
  gang : Nat := 0
  hbms : Nat := 0
  qfirst : Nat := 0
  qcount : Nat := 0
  /-- X-, X+, Y-, Y+, Z-, Z+ in 1/64 of a port -/
  shares : List Nat := []
  funcA : Nat := 0
  funcB : Nat := 0
  deriving DecidableEq, Repr

/-- A SAGE_LUT section (05 R142): dies, table and its 784 words. -/
structure LutSec where
  dies : Nat
  table : Nat
  words : List Nat
  deriving DecidableEq, Repr

/-- What an image declares (01 R17): the sections it names, or the factory content (R18, R47). -/
structure Image where
  id : Nat := 0
  svn : Nat := 0
  device : Nat := 0
  parts : List PartEntry
  /-- raw QUEUE_BIND entries by queue; none: the factory binding (R47) -/
  qbind : Option (SMap Nat) := none
  lodge : Bool := false
  level : Nat := 0
  x : Nat := 0
  y : Nat := 0
  z : Nat := 0
  xs : Nat := 1
  ys : Nat := 1
  zs : Nat := 1
  floor : Nat := 1
  seed : Nat := 0
  arrayDiv : Nat := 4
  stepEn : Nat := 0xF
  sscDepth : Nat := 0
  sscRate : Nat := 30
  /-- templates as bytes by master ID; none: the factory template -/
  templates : Option (List (SMap Nat)) := none
  /-- template number by target -/
  amap : SMap Nat := []
  /-- raw REMOTE_TAGS entries -/
  tags : SMap Nat := []
  txuCap : List Nat := List.replicate 16 4096
  meter : Nat := 2 ^ 30
  luts : List LutSec := []
  /-- SHA-256 of the image as a number, for the measurement register (R45) -/
  digest : Nat := 0
  deriving DecidableEq, Repr

/-- The factory defaults (01 R47). -/
def Image.factory : Image :=
  { parts := { dies := 0xFF, gang := 0, hbms := 0xFFFF, qfirst := 0, qcount := 4096, shares := List.replicate 6 64,
               funcA := 1, funcB := 1 } :: List.replicate 7 {} }

/-- PTR_PART.STATE (01 R48). -/
inductive PartSt where
  | unused | running | quiesced | heldDegraded | contained | applying
  deriving DecidableEq, Repr

def PartSt.code : PartSt → Nat
  | .unused => 0 | .running => 1 | .quiesced => 2 | .heldDegraded => 3 | .contained => 4 | .applying => 5

/-- PTR_COMMIT_STATUS.PHASE (01 R48). -/
inductive Phase where
  | idle | staged | verifying | quiescing | applying
  deriving DecidableEq, Repr

def Phase.code : Phase → Nat
  | .idle => 0 | .staged => 1 | .verifying => 2 | .quiescing => 3 | .applying => 4

/-- The Parterre state (01 R39-R48). -/
structure Ptr where
  image : Image := Image.factory
  /-- PTR_STATE.SOURCE: 0 factory, 1 slot A, 2 slot B, 3 run-time commit -/
  source : Nat := 0
  commits : Nat := 0
  phase : Phase := .idle
  lastReason : Nat := 0
  affected : Nat := 0
  /-- the staging buffer -/
  staged : Option (List Byte) := none
  /-- the image's bytes while a commit has taken them -/
  taken : Option (List Byte) := none
  /-- the image being committed once verified, and the ADMIN queue that carries the command -/
  next : Option Image := none
  cmdQueue : Nat := 0
  parts : List PartSt := [.running, .unused, .unused, .unused, .unused, .unused, .unused, .unused]
  deriving DecidableEq, Repr

/-! ### Interrupt controllers (08) -/

/-- One die's pending and active bits, bit n for source n (R231); targets are the INT_TARGET registers. -/
structure IntCtl where
  pend : Nat := 0
  active : Nat := 0
  /-- sources whose message is held for the end of SLEEP (08 R234) -/
  msgs : Nat := 0
  deriving DecidableEq, Repr

/-! ### Queues (12) -/

/-- QUE_STATE.STATE (R340). -/
inductive QSt where
  | unassigned | disabled | enabled | draining | error | contained | unavailable
  deriving DecidableEq, Repr

def QSt.code : QSt → Nat
  | .unassigned => 0 | .disabled => 1 | .enabled => 2 | .draining => 3 | .error => 4 | .contained => 5 | .unavailable => 6

/-- Progress of a descriptor in flight. -/
inductive DescSt where
  /-- fetched, not started -/
  | waiting
  /-- started; its engine or service runs it -/
  | running
  /-- ended: status, type-specific field, result -/
  | done (status tsf result : Nat)
  deriving DecidableEq, Repr

/-- A descriptor in flight (R329-R335): its 64 or 128 bytes as a number, and the slot after it. -/
structure QDesc where
  raw : Nat
  next : Nat
  st : DescSt := .waiting
  /-- a number that names the descriptor among those of its queue -/
  ix : Nat
  /-- for a transfer: bytes of the written prefix; for other work: steps done -/
  prog : Nat := 0
  /-- parked on these batches (11 R303) -/
  batches : List Nat := []
  /-- its operation wrote host memory through the port that is not its queue's (10 R276) -/
  other : Bool := false
  deriving DecidableEq, Repr

/-- One queue (R328-R345). -/
structure Queue where
  st : QSt := .disabled
  err : Nat := 0
  phase : Bool := true
  sq : Nat := 8
  cq : Nat := 8
  sqTail : Nat := 0
  sqHead : Nat := 0
  cqTail : Nat := 0
  cqHead : Nat := 0
  notify : Nat := 2 ^ 32
  en : Bool := false
  /-- in flight, in fetch order -/
  flight : List QDesc := []
  /-- records counted since the last notification (R339) -/
  counted : Nat := 0
  nextIx : Nat := 0
  /-- ADMIN queues whose QUEUE_DISABLE waits for this queue to be DISABLED (R336) -/
  disableFor : List Nat := []
  /-- the work of a function-level reset still running before step 3 (R341) -/
  resetting : Bool := false
  deriving DecidableEq, Repr

/-! ### PCI Express functions and ports (12) -/

/-- An MSI-X vector: message address, data and mask bit (12 R320, R339). -/
structure MsixEnt where
  addr : Nat := 0
  data : Nat := 0
  masked : Bool := true
  pending : Bool := false
  deriving DecidableEq, Repr

/-- One function of a port. -/
structure PciFn where
  bme : Bool := false
  memEn : Bool := false
  /-- Enable Relaxed Ordering -/
  relaxed : Bool := false
  msixEn : Bool := false
  msixMask : Bool := false
  /-- D3hot -/
  d3 : Bool := false
  /-- a function-level reset is in progress (R341) -/
  flr : Bool := false
  /-- a reset of the whole port began it: rings in host memory are out of reach till it ends (R342) -/
  cut : Bool := false
  /-- MSI-X vectors written or pending -/
  msix : SMap MsixEnt := []
  deriving DecidableEq, Repr

/-- What a request that arrives at a port asks (12 R322, R323). -/
inductive HostOp where
  | bar0 (two : Bool) (off size : Nat) (wr : Option (BitVec 64))
  | bar4 (off len : Nat) (wr : Option (List Byte))
  /-- operands of `w` bytes; at BAR4, or at another BAR -/
  | atomic (bar4 : Bool) (off : Nat) (op : PciAtom) (w a b : Nat)
  deriving DecidableEq, Repr

/-- A request of a function, and whether it carries Relaxed Ordering (10 R277). -/
structure HostReq where
  f : Nat
  ro : Bool
  op : HostOp
  deriving DecidableEq, Repr

/-- One port. -/
structure PciPort where
  link : Nat := 0
  rate : Nat := 0
  width : Nat := 0
  flit : Bool := false
  reversed : Bool := false
  resets : Nat := 0
  flrs : Nat := 0
  outKind : Nat := 0
  outMaster : Nat := 0
  outCount : Nat := 0
  /-- PERST# is asserted -/
  perst : Bool := true
  /-- the 40 ms rule of 17 R454 has been met: configuration answers -/
  cfgUp : Bool := false
  /-- Max Payload Size, Max Read Request Size and ASPM Control as written (R319, R320): codes of the PCI Express specification -/
  mps : Nat := 0
  mrrs : Nat := 2
  aspm : Nat := 0
  /-- requests held, oldest first (09 R256; 10 R277) -/
  inq : List HostReq := []
  /-- Relaxed Ordering of the last posted write the port issued (10 R276; 12 R326): the MODEL's own field -/
  ro : Bool := false
  /-- log2 of the BAR4 window in GiB -/
  bar4log : Nat := 0
  vfEnable : Bool := false
  numVfs : Nat := 0
  fns : SMap PciFn := []
  /-- the lowest queue that the next turn of fetching may take (R330) -/
  turn : Nat := 0
  /-- a PM_PME message or WAKE# has been sent since PF0 was last put in D0 (18 R484) -/
  pme : Bool := false
  /-- AER status bits set (R320, R324, R327): 0 poisoned TLP, 1 completion timeout, 2 UR or CA reported -/
  aer : Nat := 0
  /-- the last completion returned to the host: 0 Successful, 1 Unsupported Request, 2 Completer Abort, 3 Configuration Request Retry Status, and its data; a posted
  write returns none: the MODEL's own field -/
  cpl : Option (Nat × List Byte) := none
  deriving DecidableEq, Repr

/-! ### Errors (19) -/

/-- An error record (R500). -/
structure ErrRec where
  sev : Nat
  inj : Bool := false
  part : Option Nat := none
  kind : Nat
  loc : Nat
  master : Option Nat := none
  count : Nat := 1
  addr : Nat := 0
  info : Nat := 0
  stamp : Nat := 0
  cause : Nat := 0
  start : Nat := 0
  /-- written to the ring of port A (bit 0) and of port B (bit 1) -/
  wrote : Nat := 0
  deriving DecidableEq, Repr

/-- The 64 bytes of a record as a number (R500). -/
def ErrRec.raw (r : ErrRec) : Nat :=
  let w0 := 0x01 + r.sev * 2 ^ 8 + b2n r.inj * 2 ^ 11 + b2n r.part.isSome * 2 ^ 12 + r.part.getD 0 * 2 ^ 13
    + r.kind * 2 ^ 16 + r.loc * 2 ^ 24
  let w1 := r.master.getD 0 % 2 ^ 12 + b2n r.master.isSome * 2 ^ 12 + min r.count 0xFFFF * 2 ^ 16
  w0 + w1 * 2 ^ 32 + (r.addr % 2 ^ 64) * 2 ^ 64 + (r.info % 2 ^ 64) * 2 ^ 128 + (r.stamp % 2 ^ 64) * 2 ^ 192
    + (r.cause % 2 ^ 64) * 2 ^ 256 + (r.start % 2 ^ 32) * 2 ^ 320

/-- A containment order on its way to a partition's dies (R496), with the stamp of the record that raised it. -/
structure Order where
  part : Nat
  stamp : Nat
  deriving DecidableEq, Repr

/-- An error that stands in a protected structure until an access meets it (R492): the structure's code (R501), the core or die whose
structure it is, the line or place in it, and whether the code corrects it. -/
structure Upset where
  code : Nat
  unit : Nat
  line : Nat
  unc : Bool
  deriving DecidableEq, Repr

/-- Error log, containment and scrubbing state (R494-R503). -/
structure Err where
  buf : List ErrRec := []
  /-- SEV 2 records and above that found every entry full (R502) -/
  late : List ErrRec := []
  lost : Nat := 0
  ce : Nat := 0
  contained : Nat := 0
  /-- the newest record of SEV 2 or above as 64 bytes, zero before the first -/
  last : Nat := 0
  /-- count of each agent's last record (10 R282) -/
  stamps : SMap Nat := []
  /-- counts of the causes that MGMT packets brought, by agent (10 R283, R285), and whether one has come since the cold reset -/
  heard : SMap Nat := []
  met : Bool := false
  /-- known-bad lines: die p at p, stack s at 8 + s (R494) -/
  bad : SMap (List Nat) := []
  orders : List Order := []
  ringTail : List Nat := [0, 0]
  ringWrap : List Bool := [false, false]
  /-- next line of each background scrub, keyed as `bad`, die p's group g at 100 + 16p + g -/
  scrub : SMap Nat := []
  /-- errors not yet met -/
  upsets : List Upset := []
  deriving DecidableEq, Repr

/-- Snapshot state of a counter collector, die p at p and the module's at 8 (R507). -/
structure Coll where
  seq : Nat := 0
  busy : Bool := false
  done : Bool := false
  deriving DecidableEq, Repr

end Sys2Proof.Machine
end

