-- ==== Sys2Proof/Machine/XltState.lean ====
section
/-! DEFINITION. State of address translation: TLBs, fault queues and batches, migration and invalidation in progress
(spec/11_translation_faults). -/

namespace Sys2Proof.Machine

/-- A leaf as a TLB holds it (R298): its address space, its virtual base and size, and the entry. -/
structure TlbEnt where
  asid : Nat
  base : Nat
  /-- log2 of the leaf's size: 16, 26 or 36 -/
  size : Nat
  entry : Nat
  deriving DecidableEq, Repr

/-- Who waits on a fault (R303, R307). -/
inductive Waiter where
  | core (k : Nat)
  /-- an AOP parked at admission on a die: its source and place -/
  | aop (die src ix : Nat)
  /-- a descriptor in flight: queue and number -/
  | desc (q ix : Nat)
  /-- work of a die's TXU -/
  | txu (die id : Nat)
  deriving DecidableEq, Repr

/-- A fault as it is raised (R301). -/
structure FaultReq where
  waiter : Waiter
  asid : Nat
  /-- lowest address touched in the faulting page -/
  va : Nat
  kind : Acc
  cause : Nat
  level : Nat
  entry : Nat
  master : Nat
  queue : Nat
  cls : Nat
  rsv : Bool
  port : Nat
  part : Option Nat
  deriving DecidableEq, Repr

/-- A fault-queue entry (R303): its record's content and the requesters waiting on it. -/
structure FaultEnt where
  req : FaultReq
  index : Nat
  stamp : Nat
  waiters : List Waiter
  deriving DecidableEq, Repr

/-- Where a batch stands (R302, R304). -/
inductive BatchSt where
  | open | closed | written
  deriving DecidableEq, Repr

/-- A batch of a die (R304). -/
structure Batch where
  /-- batch ID: die in bits 15:13, port in bit 12, SEQ in bits 11:0 -/
  id : Nat
  port : Nat
  rsv : Bool
  st : BatchSt := .open
  ents : List FaultEnt := []
  deriving DecidableEq, Repr

/-- One die's fault queue (R303-R306). -/
structure XltDie where
  /-- unanswered batches, oldest first -/
  batches : List Batch := []
  seqNext : Nat := 0
  stalls : Nat := 0
  /-- requests waiting for an entry, oldest first (R305) -/
  waiting : List FaultReq := []
  /-- IDs of answered batches since the ID was last opened (R316) -/
  answered : List Nat := []
  deriving DecidableEq, Repr

/-- Work that holds a translation (R312): an array operation's AOP by its source's turn and place, a transfer of a queue at a
page, by the bytes before it, an instruction of a core that waits for answers. -/
inductive Holding where
  | aop (turn ix : Nat)
  | xfer (q ix base : Nat)
  | core (k id : Nat)
  deriving DecidableEq, Repr

/-- An on-module invalidation in progress (R318), and the holdings it waits for. -/
structure InvCmd where
  fence : Bool
  holds : List Holding
  deriving DecidableEq, Repr

/-- A PREFETCH in progress (R310): its queue and descriptor, the page it works on, pages moved and skipped, the leaf being moved
(the address of the entry, the memory type and port it is read through, and what it was), and the holdings of the old translation. -/
structure Prefetch where
  q : Nat
  ix : Nat
  page : Nat := 0
  moved : Nat := 0
  skipped : Nat := 0
  moving : Option Nat := none
  ty : Nat := 0
  port : Nat := 0
  leaf : Nat := 0
  holds : List Holding := []
  deriving DecidableEq, Repr

/-- Translation state of the module. -/
structure Xlt where
  /-- TLBs by structure: core L1 at the core's index, cluster L2 at 1000 + cluster, then per die DMA 1100+, array 1110+,
  TXU 1120+ -/
  tlbs : SMap (List TlbEnt) := []
  dies : SMap XltDie := []
  inv : SMap (Option InvCmd) := []
  prefetch : List Prefetch := []
  ringTail : List Nat := [0, 0]
  ringWrap : List Bool := [false, false]
  /-- translation FENCEs running, by queue and descriptor, with the holdings they wait for (R314) -/
  fences : List (Nat × Nat × List Holding) := []
  /-- holdings of removed translations that have not ended -/
  withdrawn : List Holding := []
  deriving DecidableEq, Repr

end Sys2Proof.Machine
end

