-- ==== Sys2Proof/Machine/State.lean ====
section
/-! DEFINITION. The state of the module. -/

namespace Sys2Proof.Machine

structure State where
  /-- draws made from the source of free values (log entry 1): the MODEL's own field -/
  free : Nat := 0
  /-- stored words of registers by BAR0 offset; a register not listed holds its Reset value -/
  regs : SMap (Option Nat) := []
  /-- memory by device physical address: HBM, near memory, Gatehouse and Orangery SRAM (09 R237) -/
  mem : Mem := []
  /-- the two hosts' memories, keyed port * 2^64 + bus address -/
  host : Mem := []
  /-- cores by CoreIx (06 R156) -/
  cores : SMap Core := []
  arr : SMap Arr := []
  sage : SMap Sage := []
  memsys : MemSys := {}
  ptr : Ptr := {}
  ints : SMap IntCtl := []
  queues : SMap Queue := []
  ports : SMap PciPort := []
  xlt : Xlt := {}
  err : Err := {}
  colls : SMap Coll := []
  trl : Trl := {}
  txu : Txu := {}
  ldg : Ldg := {}
  org : Org := {}
  boot : Boot := {}
  pwr : Pwr := {}
  smb : Smb := {}
  /-- commands waiting, first in, first out: the MODEL's own field -/
  pending : List Instr := []
  deriving DecidableEq, Repr

/-- Why a step stops with a fault. -/
inductive Fault where
  /-- No command raises it: every effect of the spec is a next state. Safe. -/
  | none
  deriving DecidableEq, Repr

/-- Why a command has no meaning. -/
inductive Refusal where
  /-- Raised by exec for a row that is not modelled; no row is (NOTES.md). Safe. -/
  | notModelled (mnemonic : String)
  deriving DecidableEq, Repr

/-- The cores right after a cold reset (06 R157, R160): each Pavilion core at GFC_BOOT_PC's Reset value (R186), management cores and the
Orangery core deterministic. -/
def coresAtReset : SMap Core :=
  (List.range 521).map (fun k => (k, Core.afterReset (if k < 512 then BitVec.ofNat 64 (0x10000000000 + k / 64 * 0x10000000) else 0) (decide (512 ≤ k))))

/-- The module right after a cold reset, before the first step of its start (17 R449, R453): every register at its Reset value,
the factory image (01 R18, R47), memories zeroised (09 R257), every core held in reset (06 R160). Values no rule gives are those of
log entries 4 and 35. -/
def State.reset : State := { cores := coresAtReset, pwr := { input := true } }

end Sys2Proof.Machine
end

