-- ==== Sys2Proof/Machine/Ops.lean ====
section
/-! DEFINITION. The named operations every family shares: free values, registers, partitions and masters, access checks,
error records, interrupts and MSI-X, memory accesses by engines. -/

namespace Sys2Proof.Machine

/-! ### Free values -/

/-- Draw one value the spec leaves open (log entry 1). -/
def State.draw (s : State) : Nat × State := (Config.freeValue s.free, { s with free := s.free + 1 })

/-! ### Errors in protected structures (19 R492; log entry 99)

When and where an error arises is not stated: time that passes leaves one of any kind, or none, in any place. -/

/-- The error a free value spells, if it spells one. -/
def upsetOf (v : Nat) : List Upset :=
  if 1 ≤ v % 16 ∧ v % 16 ≤ 13 then [{ code := v % 16, unit := v / 16 % 1024, line := v / 2 ^ 15, unc := v.testBit 14 }] else []
/-- The oldest error that an access meets, which it then is no more. -/
def State.upset (s : State) (p : Upset → Bool) : Option (Upset × State) :=
  (s.err.upsets.find? p).map (fun u => (u, { s with err := { s.err with upsets := s.err.upsets.erase u } }))

/-! ### Parts of the state by number -/

def State.core (s : State) (k : Nat) : Core := SMap.get {} s.cores k
def State.setCore (s : State) (k : Nat) (c : Core) : State := { s with cores := SMap.set {} s.cores k c }
def State.onCore (s : State) (k : Nat) (f : Core → Core) : State := s.setCore k (f (s.core k))
def State.ar (s : State) (p : Nat) : Arr := SMap.get {} s.arr p
def State.setAr (s : State) (p : Nat) (a : Arr) : State := { s with arr := SMap.set {} s.arr p a }
def State.sg (s : State) (p : Nat) : Sage := SMap.get {} s.sage p
def State.setSg (s : State) (p : Nat) (a : Sage) : State := { s with sage := SMap.set {} s.sage p a }
def State.queue (s : State) (q : Nat) : Queue := SMap.get {} s.queues q
def State.setQueue (s : State) (q : Nat) (x : Queue) : State := { s with queues := SMap.set {} s.queues q x }
def State.port (s : State) (n : Nat) : PciPort := SMap.get {} s.ports n
def State.setPort (s : State) (n : Nat) (x : PciPort) : State := { s with ports := SMap.set {} s.ports n x }
def State.fn (s : State) (n f : Nat) : PciFn := SMap.get {} (s.port n).fns f
def State.setFn (s : State) (n f : Nat) (x : PciFn) : State :=
  s.setPort n { s.port n with fns := SMap.set {} (s.port n).fns f x }

/-- Is a domain clocked (18 R472, R474): in this power state, and with its PLL in lock, SVC, ORANG and DBG from REFXO in SLEEP? In a start that has
not completed the steps say which units act (17 R449), so that only the state counts. -/
def State.runs (s : State) (d : Dom) : Bool :=
  d.runsIn s.pwr.st &&
    (s.boot.phase != 12 || s.pwr.st == .sleep || (match d.pll with | some i => s.pwr.lock.testBit i | none => true))
/-- What a unit does in a domain that is clocked; with its clock stopped it holds its state (18 R472). -/
def State.on (s : State) (d : Dom) (t : State) : State := if s.runs d then t else s

/-- A link settles at a rate of at most `cap`, with a width, an order of lanes and a mode that its partner decides: free values (12 R319; log
entry 107). -/
def State.linkUp (s : State) (n cap : Nat) : State :=
  let (v, s1) := s.draw
  let rate := 1 + v % cap
  s1.setPort n { s1.port n with link := if rate < 3 then 3 else 2, rate := rate, width := 2 ^ (v / 8 % 5),
                                flit := rate == 6 || (v / 64).testBit 0, reversed := (v / 64).testBit 1 }
/-- A link with no reset goes on (12 R346): one that trains settles, at 2.5 GT/s until step 10 of a start and at no more than 16 GT/s in Shed
mode (17 R454, R463); one that is down trains when a partner is there. -/
def State.linkTick (s : State) (n : Nat) : State :=
  let p := s.port n
  if p.perst || !p.cfgUp then s
  else if p.link = 1 then s.linkUp n (if s.boot.phase = 13 then 4 else if s.boot.phase < 10 then 1 else 6)
  else if p.link = 0 then
    (let (v, s1) := s.draw
     if v.testBit 0 then s1.setPort n { p with link := 1 } else s1)
  else s

/-- Time passes (log entries 38, 99, 107). -/
def State.tick (s : State) : State :=
  let (v, s1) := s.draw
  let s2 := { s1 with err := { s1.err with upsets := s1.err.upsets ++ upsetOf v } }
  (s2.linkTick 0).linkTick 1
def State.stack (s : State) (k : Nat) : Stack := SMap.get {} s.memsys.hbms k
def State.setStack (s : State) (k : Nat) (x : Stack) : State :=
  { s with memsys := { s.memsys with hbms := SMap.set {} s.memsys.hbms k x } }
def State.xdie (s : State) (p : Nat) : XltDie := SMap.get {} s.xlt.dies p
def State.setXdie (s : State) (p : Nat) (x : XltDie) : State :=
  { s with xlt := { s.xlt with dies := SMap.set {} s.xlt.dies p x } }
def State.intc (s : State) (p : Nat) : IntCtl := SMap.get {} s.ints p
def State.setIntc (s : State) (p : Nat) (x : IntCtl) : State := { s with ints := SMap.set {} s.ints p x }

/-! ### Registers (01 R35, R36) -/

/-- A register's Reset value; GFC_BOOT_PC's names the die (06 R186). -/
def Reg.resetVal (r : Reg) : Nat :=
  match r.k with
  | .gfcBootPc => 0x010000000000 + r.i * 0x10000000
  | k => k.reset

/-- The stored word of a register. -/
def State.rget (s : State) (r : Reg) : Nat := (SMap.get none s.regs r.addr).getD r.resetVal
def State.rset (s : State) (r : Reg) (v : Nat) : State := { s with regs := SMap.set none s.regs r.addr (some v) }
/-- Bits of the stored word, and a field replaced by the hardware. -/
def State.rf (s : State) (r : Reg) (hi lo : Nat) : Nat := natBits (s.rget r) hi lo
def State.rput (s : State) (r : Reg) (hi lo v : Nat) : State := s.rset r (natPut (s.rget r) hi lo v)
/-- Return registers to their Reset values. -/
def State.rclear (s : State) (p : Nat → Bool) : State := { s with regs := SMap.drop s.regs p }

/-- A clamped write of a register (01 R36, R48): it is counted, with its offset and its source. -/
def State.clampLog (s : State) (src off : Nat) : State :=
  let r : Reg := ⟨.ptrClamplog, 0, 0, 0⟩
  s.rset r (min (s.rf r 31 0 + 1) 0xFFFFFFFF + off % 2 ^ 25 * 2 ^ 32 + src % 4 * 2 ^ 60)
/-! ### Performance counters (19 R504, R505) -/

/-- Counter and configuration registers of a block. -/
def pmcCtrReg : PmcBlock → Nat → Reg
  | .die p b, c => ⟨.pmcCtr, p.val, b.val, c⟩
  | .module b, c => ⟨.pmcCtrM, b.val, c, 0⟩
def pmcEvtReg : PmcBlock → Nat → Reg
  | .die p b, c => ⟨.pmcEvt, p.val, b.val, c⟩
  | .module b, c => ⟨.pmcEvtM, b.val, c, 0⟩

/-- Add to one counter: it wraps at 2^48 and sets OVF; overflows go on to the next counter under CHAIN. -/
def State.pmcBump (s : State) (b : PmcBlock) (c n : Nat) : State :=
  let v := s.rget (pmcCtrReg b c) + n
  let s1 := s.rset (pmcCtrReg b c) (v % 2 ^ 48)
  if v < 2 ^ 48 then s1
  else
    let s2 := s1.rput (pmcEvtReg b c) 11 11 1
    let e := pmcEvtReg b (c + 1)
    if c % 2 = 1 ∨ s2.rf (pmcEvtReg b c) 9 9 = 0 ∨ s2.rf e 8 8 = 0 then s2
    else
      let w := s2.rget (pmcCtrReg b (c + 1)) + v / 2 ^ 48
      let s3 := s2.rset (pmcCtrReg b (c + 1)) (w % 2 ^ 48)
      if w < 2 ^ 48 then s3 else s3.rput e 11 11 1
/-- Is a counter fed by its own event: enabled, and not chained to the one before it? -/
def State.pmcOwn (s : State) (b : PmcBlock) (c ev : Nat) : Bool :=
  s.rf (pmcEvtReg b c) 8 8 == 1 && s.rf (pmcEvtReg b c) 7 0 == ev && !(c % 2 == 1 && s.rf (pmcEvtReg b (c - 1)) 9 9 == 1)
/-- `n` events of a code in a block: every enabled counter whose EVENT names the code adds them (R504, R505). -/
def State.count (s : State) (b : PmcBlock) (ev n : Nat) : State :=
  if s.regs = [] then s else (List.range 8).foldl (fun s c => if s.pmcOwn b c ev then s.pmcBump b c n else s) s
/-- A block of a die, and a module-wide block, by number. -/
def pmcDie (p b : Nat) : PmcBlock := .die ⟨p % 8, Nat.mod_lt _ (by decide)⟩ ⟨b % 70, Nat.mod_lt _ (by decide)⟩
def pmcMod (b : Nat) : PmcBlock := .module ⟨b % 24, Nat.mod_lt _ (by decide)⟩
/-- Events of a core, which only a Pavilion core's block counts. -/
def State.countCore (s : State) (k ev n : Nat) : State := if k < 512 then s.count (pmcDie (k / 64) (k % 64)) ev n else s

/-- Source code of a master: port A, port B, or one on the module; 2 is the SMBus's. -/
def clampSrc (m : Nat) : Nat := if 0x300 ≤ m ∧ m < 0x340 then 0 else if 0x380 ≤ m ∧ m < 0x3C0 then 1 else 3

/-! ### Partitions and masters (01 R21, R28, R33) -/

def State.entry (s : State) (i : Nat) : PartEntry := nth {} s.ptr.image.parts i
def PartEntry.inUse (e : PartEntry) : Bool := e.dies != 0
def findPart (img : Image) (p : PartEntry → Bool) : Option Nat :=
  (List.range 8).find? (fun i => let e := nth {} img.parts i; e.inUse && p e)
def Image.dieOwner (img : Image) (d : Nat) : Option Nat := findPart img (fun e => e.dies.testBit d)
def Image.stackOwner (img : Image) (k : Nat) : Option Nat := findPart img (fun e => e.hbms.testBit k)
def Image.queueOwner (img : Image) (q : Nat) : Option Nat :=
  findPart img (fun e => decide (e.qfirst ≤ q) && decide (q < e.qfirst + e.qcount))
def State.dieOwner (s : State) (d : Nat) : Option Nat := s.ptr.image.dieOwner d
def State.stackOwner (s : State) (k : Nat) : Option Nat := s.ptr.image.stackOwner k
def State.queueOwner (s : State) (q : Nat) : Option Nat := s.ptr.image.queueOwner q

/-- The die a partition's engines start from: its lowest (19 R496). -/
def PartEntry.lowDie (e : PartEntry) : Nat := ((maskBits 8 e.dies).head?).getD 0

/-- The factory QUEUE_BIND entry of a queue (01 R47). -/
def factoryBind (q : Nat) : Nat :=
  let port := q / 2048
  let o := q % 2048
  let ty := if o = 0 then 4 else if o < 512 then 0 else if o < 1024 then 1 else if o < 1536 then 2 else 3
  port + ty * 2 ^ 7 + port * 2 ^ 32

def Image.bind (img : Image) (q : Nat) : Nat :=
  match img.qbind with
  | none => factoryBind q
  | some m => SMap.get 0 m q
def State.qPort (s : State) (q : Nat) : Nat := (s.ptr.image.bind q) % 2
def State.qFunc (s : State) (q : Nat) : Nat := natBits (s.ptr.image.bind q) 6 1
def State.qType (s : State) (q : Nat) : Nat := natBits (s.ptr.image.bind q) 9 7
def State.qAsid (s : State) (q : Nat) : Nat := natBits (s.ptr.image.bind q) 43 32
/-- Master ID of a port's function (R28). -/
def fnMaster (port f : Nat) : Nat := 0x300 + port * 0x80 + f
def State.qMaster (s : State) (q : Nat) : Nat := fnMaster (s.qPort q) (s.qFunc q)

/-- The Pavilion die of an on-die master (R28). -/
def masterDie (m : Nat) : Option Nat :=
  if m < 0x200 then some (m / 64)
  else if m < 0x280 then some ((m - 0x200) / 16)
  else if m < 0x288 then some (m - 0x280)
  else if m < 0x290 then some (m - 0x288)
  else if m < 0x2A0 then some ((m - 0x290) / 2)
  else none

/-- Orangery and management masters, which meet PM everywhere (R33). -/
def isMgmt (m : Nat) : Bool := decide (0x500 ≤ m) && decide (m ≤ 0x509)
/-- Port and function of a PCIe master. -/
def masterFn (m : Nat) : Option (Nat × Nat) :=
  if 0x300 ≤ m ∧ m < 0x340 then some (0, m - 0x300)
  else if 0x380 ≤ m ∧ m < 0x3C0 then some (1, m - 0x380)
  else none

def PartEntry.hasFn (e : PartEntry) (port f : Nat) : Bool := (if port = 0 then e.funcA else e.funcB).testBit f

/-- Is a master a member of partition `i` (R33)? -/
def State.member (s : State) (m i : Nat) : Bool :=
  match masterDie m, masterFn m with
  | some d, _ => s.dieOwner d == some i
  | none, some (port, f) => (s.entry i).inUse && (s.entry i).hasFn port f
  | none, none =>
    if 0x400 ≤ m ∧ m < 0x500 then natBits (SMap.get 0 s.ptr.image.tags (m - 0x400)) 34 32 == i else false

/-- The partition of a requester that belongs to exactly one (19 R526). -/
def State.partOf (s : State) (m : Nat) : Option Nat :=
  match (List.range 8).filter (fun i => s.member m i) with
  | [i] => some i
  | _ => none

/-! ### Targets and access tables (01 R29-R34) -/

def hbmTop : Nat := 0x010000000000
def nearBase : Nat := 0x010000000000
def nearSize : Nat := 0x10000000
def nearOf (p : Nat) : Nat := nearBase + p * nearSize
def mmioBase : Nat := 0x011000000000

/-- What a device physical address names (09 R237). -/
inductive Place where
  | hbm (stack : Nat)
  | near (die : Nat)
  | mmio (off : Nat)
  | gwSram | geSram | orgSram | mgmtRegs
  | nowhere
  deriving DecidableEq, Repr

def placeOf (a : Nat) : Place :=
  if a < hbmTop then .hbm (a / 0x1000000000)
  else if a < nearBase + 8 * nearSize then .near ((a - nearBase) / nearSize)
  else if mmioBase ≤ a ∧ a < mmioBase + 0x2000000 then .mmio (a - mmioBase)
  else if mmioBase + 0x2000000 ≤ a ∧ a < mmioBase + 0x2200000 then .gwSram
  else if mmioBase + 0x2200000 ≤ a ∧ a < mmioBase + 0x2400000 then .geSram
  else if mmioBase + 0x2400000 ≤ a ∧ a < mmioBase + 0x2800000 then .orgSram
  else if mmioBase + 0x2800000 ≤ a ∧ a < mmioBase + 0x3000000 then .mgmtRegs
  else .nowhere

/-- Access-table target of a BAR0 offset, and its owner key: the die or queue, for PM (R29, R33). -/
inductive Owner where
  | stack (k : Nat) | die (d : Nat) | queue (q : Nat) | none
  deriving DecidableEq, Repr

/-- Target and owner of a register offset; none outside every block of the map (12 R322). -/
def mmioTarget (off : Nat) : Option (Nat × Owner) :=
  if off < 0x10000 then some (1152, .none)
  else if 0x100000 ≤ off ∧ off < 0x110000 then some (1153, .none)
  else if 0x200000 ≤ off ∧ off < 0x230000 then some (1154, .none)
  else if 0x400000 ≤ off ∧ off < 0x1400000 then
    (let d := (off - 0x400000) / 0x200000
     if (off - 0x400000) % 0x200000 < 0xA0000 then some (1155 + d, .die d) else none)
  else if 0x1400000 ≤ off ∧ off < 0x1500000 then some (1163, .none)
  else if 0x1500000 ≤ off ∧ off < 0x1510000 then some (1164, .none)
  else if 0x1600000 ≤ off ∧ off < 0x1640000 then some (1184 + (off - 0x1600000) / 0x1000, .queue ((off - 0x1600000) / 0x40))
  else if 0x1700000 ≤ off ∧ off < 0x1730000 then some (1166, .none)
  else if 0x1800000 ≤ off ∧ off < 0x1810000 then some (1167, .none)
  else if 0x1900000 ≤ off ∧ off < 0x1910000 then some (1168, .none)
  else if 0x1A00000 ≤ off ∧ off < 0x1A10000 then some (1169, .none)
  else if 0x1B00000 ≤ off ∧ off < 0x1B10000 then some (1170, .none)
  else if 0x1C00000 ≤ off ∧ off < 0x1C10000 then some (1171, .none)
  else none

/-- Target and owner of a device physical address (R29). -/
def targetOf (a : Nat) : Option (Nat × Owner) :=
  match placeOf a with
  | .hbm k => some (a / 2 ^ 30, .stack k)
  | .near d => some (1024 + (a - nearBase) / 2 ^ 24, .die d)
  | .mmio off => mmioTarget off
  | .nowhere => none
  | _ => some (1172, .none)

/-- The agent that stands at a target (10 R282): the die, the stack's base die, else GW (log entry 22). -/
def agentAt (a : Nat) : Nat :=
  match placeOf a with
  | .hbm k => 0x10 + k
  | .near d => d
  | .mmio off => (match mmioTarget off with | some (_, .die d) => d | _ => 8)
  | .geSram => 9
  | .orgSram => 0x0A
  | _ => 8

/-- The factory template's entry for a master (R47). -/
def factoryAccess (m : Nat) : Nat :=
  if m = 0x300 ∨ m = 0x380 ∨ isMgmt m then 0b01111 else if m < 0x2A0 then 0b11111 else 0

/-- The access-table entry of a target for a master (R28, R31). -/
def Image.access (img : Image) (target m : Nat) : Nat :=
  match img.templates with
  | none => factoryAccess m
  | some ts => SMap.get 0 (nth [] ts (SMap.get 0 img.amap target)) m

def State.ownerOf (s : State) : Owner → Option Nat
  | .stack k => s.stackOwner k
  | .die d => s.dieOwner d
  | .queue q => s.queueOwner q
  | .none => none

def Acc.bit : Acc → Nat
  | .rd => 0 | .wr => 1 | .ex => 2 | .at => 3

/-- Is the target a queue outside every partition's range, every access to which is denied (R24)? -/
def State.unassigned (s : State) : Owner → Bool
  | .queue q => (s.queueOwner q).isNone
  | _ => false

/-- May the master make the access (R24, R32, R33)? -/
def State.permits (s : State) (m : Nat) (k : Acc) (t : Nat) (o : Owner) : Bool :=
  let e := s.ptr.image.access t m
  e.testBit k.bit && !s.unassigned o &&
    (!e.testBit 4 || isMgmt m || (match s.ownerOf o with | some i => s.member m i | none => false))

/-- The access table's hint for a permitted access (R32, 09 R247). -/
def State.tableHint (s : State) (m t : Nat) : Nat := natBits (s.ptr.image.access t m) 6 5

/-- Shed mode (17 R463). -/
def State.inShed (s : State) : Bool := decide (s.boot.phase = 13)
/-- Is a die's partition released, so that its cores and engines may run: not while a commit applies it (01 R40) nor while it is held
for a degraded stack (01 R44)? In Shed mode cluster 0 of P0 runs although partition 0 reads HELD_DEGRADED (17 R463). -/
def State.dieReleased (s : State) (p : Nat) : Bool :=
  match s.dieOwner p with
  | some i => nth .unused s.ptr.parts i != .applying && (s.inShed || nth .unused s.ptr.parts i != .heldDegraded)
  | none => true
/-- Do the registers at a BAR0 offset answer? In Shed mode GLB, PTR, ORG, BOOT, GFC and INT of P0, and queue 0 (17 R464; log entry
45). -/
def State.mmioServed (s : State) (off : Nat) : Bool :=
  !s.inShed || decide (off < 0x10000) || rangeIn off 1 0x100000 0x10000 || rangeIn off 1 0x200000 0x30000 || rangeIn off 1 0x420000 0x10000
    || rangeIn off 1 0x440000 0x10000 || rangeIn off 1 0x1600000 0x40 || rangeIn off 1 0x1C00000 0x10000

/-- Does a line exist for a master (09 R237, R245; Orangery SRAM answers 0x500 and 0x501 only; in Shed mode 64 MiB of P0's near
memory, 17 R463)? -/
def State.lineExists (s : State) (m a : Nat) : Bool :=
  match placeOf a with
  | .hbm k => match (s.stack k).st with
    | .ready => true | .hot => true
    | .selfref => isMgmt m
    | _ => false
  | .near _ => s.pwr.st != .sleep && (!s.inShed || decide (a < nearBase + 0x4000000))
  | .mmio off => (mmioTarget off).isSome && s.mmioServed off
  | .geSram => !s.inShed
  | .orgSram => m == 0x500 || m == 0x501
  | .nowhere => false
  | _ => true

/-- The 64-byte lines an access touches (09 R238). -/
def linesOf (a n : Nat) : List Nat := (upFrom (a / 64) ((a + n - 1) / 64 + 1 - a / 64)).map (· * 64)

/-- Why an access to memory fails. -/
inductive AccFail where
  | denied (addr : Nat)
  | absent (addr : Nat)
  | bad (addr : Nat)
  deriving DecidableEq, Repr

/-- The known-bad list key of a line (19 R494): die p, or 8 + stack; and the line address. -/
def badKey (a : Nat) : Option (Nat × Nat) :=
  match placeOf a with
  | .hbm k => some (8 + k, a / 128 * 128)
  | .near d => some (d, a / 64 * 64)
  | _ => none

def State.isBad (s : State) (a : Nat) : Bool :=
  match badKey a with
  | some (k, l) => (SMap.get [] s.err.bad k).contains l
  | none => false

/-- First failing line of an access: routing first, then the access table (09 R238), then known-bad data on a read. -/
def State.accCheck (s : State) (m : Nat) (k : Acc) : List Nat → Option AccFail
  | [] => none
  | l :: ls =>
    if !s.lineExists m l then some (.absent l)
    else match targetOf l with
      | none => some (.absent l)
      | some (t, o) =>
        if !s.permits m k t o then some (.denied l)
        else if (k = .rd ∨ k = .ex ∨ k = .at) ∧ s.isBad l then some (.bad l)
        else s.accCheck m k ls

/-- The lowest address of the access within a failing line. -/
def failAddr (a l : Nat) : Nat := max a l

/-! A line's number in the L1 tags and buffers of cores comes from one address: a device physical address, or
(1 + port) * 2^64 + bus address in host memory. -/

def uniHost (port a : Nat) : Nat := (1 + port) * 2 ^ 64 + a

/-- Remove lines. -/
def Cache.dropLines (c : Cache) (p : Nat → Bool) : Cache := c.filter (fun e => !p e.2.line)

/-- Is a line among those of bytes `a … a+n-1`? -/
def inLines (a n l : Nat) : Bool := decide (a / 64 ≤ l) && decide (l ≤ (a + n - 1) / 64)

/-- Copies of bytes `a … a+n-1` are removed from every L1D but the writer's, from every other cluster's L2, and from the L1 caches such an
L2 line's loss of permission empties (10 R262; 06 R183 keeps a writer's own cluster's instruction lines). -/
def State.dropCopies (s : State) (own : Option Nat) (a n : Nat) : State :=
  if n = 0 then s
  else
    let hit := inLines a n
    let c := (own.filter (fun k => decide (k < 512))).map (fun k => k / 8)
    let s1 := s.cores.foldl (fun s e =>
      let i := decide (e.1 < 512) && c != some (e.1 / 8) && e.2.l1i.any (fun w => hit w.2.line)
      if (some e.1 ≠ own ∧ e.2.l1d.any (fun w => hit w.2.line)) ∨ i then
        s.onCore e.1 (fun c => { c with l1d := if some e.1 ≠ own then c.l1d.dropLines hit else c.l1d,
                                        l1i := if i then c.l1i.dropLines hit else c.l1i })
      else s) s
    if s.memsys.l2 = [] then s1
    else { s1 with memsys := { s1.memsys with l2 := s.memsys.l2.foldl (fun m e =>
      if c ≠ some e.1 ∧ e.2.any (fun x => hit x.line) then SMap.set [] m e.1 (e.2.filter (fun x => !hit x.line)) else m) s.memsys.l2 } }

/-! ### Trace buffers (16 R440, R442) -/

/-- Does a session trace an agent: every one, or, for TENANT, the dies of its partition? -/
def State.traces (s : State) (j : Nat) (x : Sess) (agent : Nat) : Bool :=
  x.trace.isSome && (decide (8 ≤ j) || (decide (agent < 8) && s.dieOwner agent == some x.part))

/-- Copy 64 bytes to one session's trace buffer, by master 0x501 under the access tables; a full buffer takes no more (log entry 46). -/
def State.traceTo (s : State) (j agent raw : Nat) : State :=
  match SMap.get none s.org.sess j with
  | none => s
  | some x =>
    match x.trace with
    | none => s
    | some (a, n, w) =>
      if s.traces j x agent ∧ w + 64 ≤ n ∧ s.accCheck 0x501 .wr (linesOf (a + w) 64) = none then
        let s1 := s.dropCopies none (a + w) 64
        { s1 with mem := Mem.writeN s1.mem (a + w) (leBytes 64 raw)
                  org := { s1.org with sess := SMap.set none s1.org.sess j (some { x with trace := some (a, n, w + 64) }) } }
      else s
/-- A stamped record of an agent, or a halt event, reaches every trace buffer that takes it. -/
def State.trace (s : State) (agent raw : Nat) : State :=
  if s.org.sess = [] then s else (List.range 10).foldl (fun s j => s.traceTo j agent raw) s

/-! ### Stamps and error records (10 R283; 19 R500-R502) -/

def stampCount (st : Nat) : Nat := st % 2 ^ 56

/-- Post at an agent: its new stamp. -/
def State.stamp (s : State) (a cause : Nat) : Nat × State :=
  let c0 := max (SMap.get 0 s.err.stamps a) (SMap.get 0 s.err.heard a)
  let c1 := if cause = 0 then c0 else max c0 (stampCount cause)
  let c := min (c1 + 1) (2 ^ 56 - 1)
  (a * 2 ^ 56 + c, { s with err := { s.err with stamps := SMap.set 0 s.err.stamps a c } })

/-- The stamp of GW's last record; zero before the first. -/
def State.gwStamp (s : State) : Nat := let c := SMap.get 0 s.err.stamps 8; if c = 0 then 0 else 8 * 2 ^ 56 + c
/-- The stamp of a MGMT packet is a cause for what GW posts next; that of the first after a cold reset is one for every agent
(10 R283, R285; log entry 111). -/
def State.heed (s : State) (cause : Nat) : State :=
  let as_ := if s.err.met then [8] else List.range 32
  let up := fun (m : SMap Nat) (a : Nat) => SMap.modify 0 m a (fun c => max c (stampCount cause))
  { s with err := { s.err with heard := as_.foldl up s.err.heard, met := true } }

/-- A port has issued a posted write, with Relaxed Ordering or without (10 R276; 12 R326). -/
def State.issued (s : State) (n : Nat) (ro : Bool) : State := if (s.port n).ro = ro then s else s.setPort n { s.port n with ro := ro }

/-- MSI-X vectors of a function (12 R320). -/
def lastVec (f : Nat) : Nat := if f = 0 then 2047 else 63

/-- Send or hold pending a function's MSI-X message (12 R326, R339; log entry 23): a message is a posted write of the vector's
data at its address in the port's host memory. -/
def State.msix (s : State) (port f vec : Nat) : State :=
  let fn := s.fn port f
  let e := SMap.get {} fn.msix vec
  if fn.bme && fn.msixEn && !fn.msixMask && !e.masked then
    ({ s with host := Mem.writeN s.host (port * 2 ^ 64 + e.addr) (leBytes 4 e.data) } : State).issued port false
  else s.setFn port f { fn with msix := SMap.set {} fn.msix vec { e with pending := true } }

/-- INT_TARGET of a source (08 R235). -/
def intTarget (p n : Nat) : Reg := ⟨.intTarget, p, n, 0⟩

/-- The MSI-X message of a source (08 R231): in SLEEP it is held, and a module-wide source sends a PME (08 R234; 18 R484). -/
def State.message (s : State) (p n : Nat) : State :=
  let t := s.rget (intTarget p n)
  let port := natBits t 16 16
  if s.pwr.st = .sleep then
    let c := s.intc p
    let s1 := s.setIntc p { c with msgs := c.msgs ||| 2 ^ n }
    if 256 ≤ n ∧ n < 512 then s1.setPort port { s1.port port with pme := true } else s1
  else s.msix port (natBits t 22 17) (natBits t 33 23)
/-- The messages held in SLEEP are sent, in ascending source order, to the ports whose PF0 is in D0. -/
def State.sendHeld (s : State) : State :=
  if s.pwr.st = .sleep then s
  else (List.range 8).foldl (fun s p =>
    let goes := (maskBits 1024 (s.intc p).msgs).filter (fun n => !(s.fn (natBits (s.rget (intTarget p n)) 16 16) 0).d3)
    goes.foldl (fun s n =>
      let c := s.intc p
      (s.setIntc p { c with msgs := c.msgs - 2 ^ n }).message p n) s) s

/-- An event at one source of one die (08 R231), reserved sources excepted (R230); true when its message was dropped because
the function is not one of the die's partition. -/
def State.event1 (s : State) (p n : Nat) : State × Bool :=
  if (231 ≤ n ∧ n ≤ 255) ∨ (263 ≤ n ∧ n ≤ 511) ∨ 1024 ≤ n then (s, false)
  else
    let t := s.rget (intTarget p n)
    let cen := t.testBit 6
    let men := t.testBit 7
    let c := s.intc p
    let s1 := if men && !cen then s else s.setIntc p { c with pend := c.pend ||| 2 ^ n }
    if men && !(cen && c.pend.testBit n) then
      let port := natBits t 16 16
      let f := natBits t 22 17
      match s.dieOwner p with
      | some i => if (s.entry i).hasFn port f then (s1.message p n, false) else (s1, true)
      | none => (s1, true)
    else (s1, false)

/-- Is the error ring of a port enabled and does its filter take the record (19 R502)? -/
def State.ringTakes (s : State) (n : Nat) (r : ErrRec) : Bool :=
  (s.rget ⟨.errRing, n, 0, 0⟩).testBit 0 &&
    (match r.part with
     | some i => (s.rget ⟨.errRingPtr, n, 0, 0⟩).testBit (43 + i)
     | none => (s.rget ⟨.errRingPtr, n, 0, 0⟩).testBit 51)

/-- Merge a record into the newest buffered one of its LOC and KIND: the list from newest to oldest. -/
def mergeRec (r : ErrRec) : List ErrRec → Option (List ErrRec)
  | [] => none
  | x :: xs =>
    if x.loc = r.loc ∧ x.kind = r.kind then some ({ x with count := min (x.count + 1) 0xFFFF } :: xs)
    else match mergeRec r xs with
      | some ys => some (x :: ys)
      | none => none

/-- Put a record into the buffer (19 R502). -/
def State.buffer (s : State) (r : ErrRec) : State :=
  if !(s.ringTakes 0 r || s.ringTakes 1 r) then s
  else
    let e := s.err
    let low := (e.buf.filter (fun x => decide (x.sev < 2))).length
    let full := decide (256 ≤ e.buf.length) || (decide (r.sev < 2) && decide (224 ≤ low))
    if !full then { s with err := { e with buf := e.buf ++ [r] } }
    else if 2 ≤ r.sev then { s with err := { e with late := e.late ++ [r] } }
    else match mergeRec r e.buf.reverse with
      | some l => { s with err := { e with buf := l.reverse } }
      | none => { s with err := { e with lost := min (e.lost + 1) 0xFFFF } }

/-- The record's stamp, its counters and the buffer; the sources it raises come after. -/
def State.record (s : State) (r : ErrRec) : ErrRec × State :=
  let (st, s1) := s.stamp r.loc r.cause
  let r := { r with stamp := st, start := s1.boot.count % 2 ^ 32 }
  let s2 := s1.buffer r
  let e := s2.err
  let e := if r.sev = 1 then { e with ce := min (e.ce + 1) 0xFFFF } else e
  let e := if 2 ≤ r.sev then { e with last := r.raw } else e
  (r, ({ s2 with err := e }).trace r.loc r.raw)

/-- The sources a record raises: 229 on its die, 257 mirrored on every die (19 R502). -/
def recSources (r : ErrRec) : List (Nat × Nat) :=
  (if r.loc < 8 then [(r.loc, 229)] else []) ++
  (if 2 ≤ r.sev ∨ 8 ≤ r.loc then (List.range 8).map (fun p => (p, 257)) else [])

/-- Events at several sources; how many messages were dropped. -/
def State.events : List (Nat × Nat) → State → State × List Nat
  | [], s => (s, [])
  | (p, n) :: l, s =>
    let (s1, d) := s.event1 p n
    let (s2, ds) := State.events l s1
    (s2, if d then p :: ds else ds)

/-- The record of a dropped message. -/
def State.dropRecord (s : State) (p : Nat) : State :=
  (s.record { sev := 0, kind := 0x0B, loc := p, part := s.dieOwner p, info := Config.configReason 0 % 2 ^ 64 }).2
/-- A dropped message is itself recorded (08 R231), and its record raises source 229 (19 R502); where that source's own message is dropped, it
is recorded and raises nothing more (log entry 24). -/
def State.dropRecords : List Nat → State → State
  | [], s => s
  | p :: ps, s =>
    let (s1, ds) := State.events [(p, 229)] (s.dropRecord p)
    State.dropRecords ps (ds.foldl State.dropRecord s1)

/-- Raise an event at a source of a die; sources 256-511 are mirrored at every die (08 R230). -/
def State.raise (s : State) (p n : Nat) : State :=
  let l := if 256 ≤ n ∧ n < 512 then (List.range 8).map (fun d => (d, n)) else [(p, n)]
  let (s1, ds) := State.events l s
  State.dropRecords ds s1

/-! ### Messages to the Lodge (15 R402) -/

/-- Does a MGMT message of an opcode expect an answer (15 R402)? -/
def msgAwaits (opc : Nat) : Bool := [0x41, 0x43, 0x45, 0x47, 0x49, 0x4B, 0x4C, 0x51].contains opc

/-- Send a MGMT message: the next sequence number, and the stamp of its cause, or of GW's last record where it has none of its own
(10 R285; log entry 111). -/
def State.mgmt (s : State) (opc dst : Nat) (args : List Nat) (stamp : Nat) : State :=
  let l := s.ldg
  let m : Msg := { opc := opc, dst := dst, seq := l.seq % 2 ^ 32, args := args, stamp := if stamp = 0 then s.gwStamp else stamp }
  { s with ldg := { l with seq := l.seq + 1, out := l.out ++ [m], await := if msgAwaits opc then l.await ++ [m] else l.await } }

/-- A NOTICE of an event to the plot side's parent (15 R402): kind 0 error, 1 port, 2 commit, 3 budget, 4 containment. GW posts it:
it carries GW's new stamp, which follows its cause's (10 R283). -/
def State.notice (s : State) (kind : Nat) (args : List Nat) (cause : Nat) : State :=
  match s.ldg.pparent with
  | some d => let (st, s1) := s.stamp 8 cause; s1.mgmt 0x44 d (kind :: args) st
  | none => s

/-- Post an error record (19 R500-R502): its stamp as posted. -/
def State.postRec (s : State) (r : ErrRec) : Nat × State :=
  let (r1, s1) := s.record r
  let (s2, ds) := State.events (recSources r1) s1
  let s3 := State.dropRecords ds s2
  let s4 := if 2 ≤ r1.sev then { s3 with smb := { s3.smb with alert := true } } else s3
  (r1.stamp, if 2 ≤ r1.sev then s4.notice 0 [r1.kind, r1.part.getD 8] r1.stamp else s4)

def State.post (s : State) (r : ErrRec) : State := (s.postRec r).2

/-- The record of a refused access (01 R34; 09 R238; 12 R322; 19 R526). -/
def State.postDenied (s : State) (m a : Nat) : State :=
  s.post { sev := 0, kind := 0x04, loc := agentAt a, master := some m, part := s.partOf m, addr := a,
           info := (match targetOf a with | some (t, _) => t | none => 0) }
def State.postAbsent (s : State) (m a : Nat) : State :=
  s.post { sev := 0, kind := 0x05, loc := agentAt a, master := some m, part := s.partOf m, addr := a }

/-- The owner of a memory line (19 R492): partition of its die or stack. -/
def State.lineOwner (s : State) (a : Nat) : Option Nat :=
  match placeOf a with
  | .hbm k => s.stackOwner k
  | .near d => s.dieOwner d
  | _ => none

/-- Structure code of a memory address (19 R501). -/
def structOf (a : Nat) : Nat :=
  match placeOf a with
  | .hbm _ => 4
  | .near _ => 1
  | _ => 12

/-- Order containment of a partition (19 R496 steps 2, 3): the order carries the record's stamp; none when the partition is
already containing or contained (R499). -/
def State.order (s : State) (i stamp : Nat) : State :=
  if s.err.contained.testBit i || s.err.orders.any (fun o => o.part == i) then s
  else { s with err := { s.err with orders := s.err.orders ++ [{ part := i, stamp := stamp }] } }

/-- Where an error of a structure lies (19 R492, R501): for a cluster's L2 (code 2) the requesting core's die and its owner, for any
other structure the line's agent and owner. -/
def State.errPlace (s : State) (code : Nat) (m : Option Nat) (a : Nat) : Nat × Option Nat :=
  match (if code = 2 then m.bind masterDie else none) with
  | some d => (d, s.dieOwner d)
  | none => (agentAt a, s.lineOwner a)

/-- An uncorrectable error of a line in a structure (19 R492-R494, R499, R503). An L2's lines have no known-bad list. -/
def State.uncorrectableIn (s : State) (code : Nat) (m : Option Nat) (a info : Nat) (inj : Bool) : State :=
  let (loc, owner) := s.errPlace code m a
  let listed := s.isBad a
  let everyone := code = 12
  let sev := if listed then 2 else if everyone then 4 else if owner.isSome then 3 else 2
  let (st, s1) := s.postRec { sev := sev, inj := inj, kind := 0x02, loc := loc, master := m, part := owner, addr := a,
                              info := code + info }
  let s2 :=
    if listed || inj || decide (code = 2) then s1
    else match badKey a with
      | some (k, l) =>
        let old := SMap.get [] s1.err.bad k
        if 64 ≤ old.length then s1 else { s1 with err := { s1.err with bad := SMap.set [] s1.err.bad k (old ++ [l]) } }
      | none => s1
  if listed then s2
  else if everyone then
    (List.range 8).foldl (fun s i => if (s.entry i).inUse then s.order i st else s) s2
  else match owner with
    | some i => s2.order i st
    | none => s2
def State.uncorrectable (s : State) (m : Option Nat) (a info : Nat) (inj : Bool) : State := s.uncorrectableIn (structOf a) m a info inj

/-- A corrected error of a line in a structure (19 R492, R526). -/
def State.correctedIn (s : State) (code : Nat) (m : Option Nat) (a info : Nat) (inj : Bool) : State :=
  let counted := match placeOf a with
    | .hbm k => if code = 2 then s else s.count (pmcMod k) 8 1
    | .near d => if code = 2 then s else s.count (pmcDie d 68) 5 1
    | _ => s
  counted.post { sev := 1, inj := inj, kind := 0x01, loc := (s.errPlace code m a).1, master := m, part := (s.errPlace code m a).2, addr := a,
                 info := code + info }
def State.corrected (s : State) (m : Option Nat) (a info : Nat) (inj : Bool) : State := s.correctedIn (structOf a) m a info inj

/-- An error in a structure with no line of memory: KIND 0x01 or 0x02 where a code finds it, KIND 0x03 where parity does, with the
structure's code; an error that is not corrected orders its owner's containment, or, for structure 13, every partition's (19 R492, R501,
R526). -/
def State.structErr (s : State) (code die : Nat) (m : Option Nat) (a : Nat) (parity corrected : Bool) : State :=
  let owner := s.dieOwner die
  let (v, s0) := if parity then (0, s) else s.draw
  let (st, s1) := s0.postRec { sev := if corrected then 1 else if code = 13 then 4 else if owner.isSome then 3 else 2,
                               kind := if parity then 0x03 else if corrected then 0x01 else 0x02, loc := die, master := m, part := owner,
                               addr := a, info := code + v % 2 ^ 16 * 2 ^ 16 }
  if corrected then s1
  else if code = 13 then (List.range 8).foldl (fun s i => if (s.entry i).inUse then s.order i st else s) s1
  else match owner with
    | some i => s1.order i st
    | none => s1

/-! ### Meters (15 R410, R412, R415) -/

/-- Device number of the module (01 R25). -/
def State.device (s : State) : Nat :=
  let i := s.ptr.image
  i.z * 4096 + i.y * 64 + i.x

def State.ldgPart (s : State) (i : Nat) : LdgPart := nth {} s.ldg.parts i
def State.setLdgPart (s : State) (i : Nat) (p : LdgPart) : State := { s with ldg := { s.ldg with parts := s.ldg.parts.set i p } }

/-- The total a budget limits, in the budget's unit as an exact comparison: meters 0-6, 9-10 and 14 (R407, R410). -/
def LdgPart.spent (p : LdgPart) (b : Nat) : Nat :=
  let t := fun m => SMap.get 0 p.total m
  if b = 0 then t 0 + t 1 + t 2 + t 3 + t 4 + t 5 + t 6 else if b = 1 then t 9 + t 10 else t 14
/-- One unit of a budget, in 2^-16 units of its meters. -/
def budgetUnit (b : Nat) : Nat := if b = 0 then 2 ^ 34 else 2 ^ 16

/-- Budgets that a partition has newly exceeded. -/
def LdgPart.newOver (p : LdgPart) : List Nat :=
  (List.range 3).filter (fun b => nth 0 p.budget b != 0 && !p.isOver.testBit b &&
    decide (nth 0 p.budget b * budgetUnit b < p.spent b))

/-- Add to a meter of a partition, in units of 2^-16 (R415); a total that first exceeds its share sets OVER and sends a
NOTICE (R410). -/
def State.meterRaw (s : State) (part : Option Nat) (m v : Nat) : State :=
  match part with
  | none => s
  | some i =>
    if v = 0 then s
    else
      let p := s.ldgPart i
      let p := { p with total := SMap.modify 0 p.total m (· + v), count := SMap.modify 0 p.count m (· + v) }
      let new := p.newOver
      let s1 := s.setLdgPart i { p with isOver := new.foldl (fun a b => a ||| 2 ^ b) p.isOver }
      new.foldl (fun s b => s.notice 3 [i, b] 0) s1

def State.meter (s : State) (part : Option Nat) (m v : Nat) : State := s.meterRaw part m (v * 2 ^ 16)

/-- Partition a master's memory traffic is metered to (R412): its own, or the LOCALPART of a remote tag. -/
def State.meterPart (s : State) (m : Nat) : Option Nat :=
  match masterDie m with
  | some d => s.dieOwner d
  | none => s.partOf m

/-- Meter bytes moved at a device address (R412: HBM_READ, HBM_WRITE, NEAR); the counters of the stack or of the near memory count
them too (19 R505). -/
def State.meterMem (s : State) (m : Nat) (wr : Bool) (a n : Nat) : State :=
  match placeOf a with
  | .hbm k => (s.meter (s.meterPart m) (if wr then 10 else 9) n).count (pmcMod k) 6 n
  | .near d => (s.meter (s.meterPart m) 11 n).count (pmcDie d 68) (if wr then 3 else 2) ((a + n - 1) / 64 + 1 - a / 64)
  | _ => s

/-! ### Requests to a stack (09 R245-R250, R259) and the L2s' part in coherence (10 R262; log entry 102) -/

def State.keepWays (s : State) (k : Nat) : Nat := natBits (s.rget ⟨.mscCtl, k, 0, 0⟩) 3 0

/-- The effective hint of a request (09 R247): the access table's, the request's own, its page's default, NORMAL. -/
def effHint (tbl req pte : Nat) : Nat := if tbl ≠ 0 then tbl else if req ≠ 0 then req else pte
/-- The access table's hint for a master at an address. -/
def State.hintAt (s : State) (m a : Nat) : Nat := match targetOf a with | some (t, _) => s.tableHint m t | none => 0

/-- A stack's new state, its write-backs and its retirements with a read counted (19 R505). -/
def State.putStack (s : State) (k reads : Nat) (y : Stack) : State :=
  ((s.count (pmcMod k) 4 ((s.stack k).msc.writeBacks y.msc)).count (pmcMod k) 5 reads).setStack k y

/-- While a command of the MSC runs, how far it has come is a free value (R259). -/
def State.mscPass (s : State) (k : Nat) : State :=
  if (s.stack k).cmd = 0 then s
  else
    let (v, s1) := s.draw
    s1.putStack k 0 ((s1.stack k).pass (v % 16385))

/-- One request of at most one 128-byte line reaches a stack's MSC; it wakes the stack from SELFREF (R245, R248, R250). -/
def State.mscLine (s : State) (k line off n : Nat) (kind : MemKind) (h : Nat) : State :=
  let s := s.mscPass k
  let x := s.stack k
  let x := if x.st = .selfref then { x with st := .ready, woken := true } else x
  let ev := if (x.msc.find 16 (mscSet line) line).isSome then 2 else 3
  (s.count (pmcMod k) ev 1).putStack k (x.readRetires line n kind) (x.request (s.keepWays k) line off n kind (hintOf h))

/-- The 128-byte lines of bytes `a … a+n-1`: line, first byte in it, number of bytes. -/
def lines128 (a n : Nat) : List (Nat × Nat × Nat) :=
  (upFrom (a / 128) ((a + n - 1) / 128 + 1 - a / 128)).map (fun l =>
    let lo := max a (l * 128)
    (l, lo - l * 128, min (a + n) (l * 128 + 128) - lo))

/-- An access that reaches a stack passes through its MSC, line by line; `h` is the hint it carries, else its page's. -/
def State.mscAcc (s : State) (m : Nat) (kind : MemKind) (h a n : Nat) : State :=
  match placeOf a with
  | .hbm k => (lines128 a n).foldl (fun s l => s.mscLine k l.1 l.2.1 l.2.2 kind (effHint (s.hintAt m (l.1 * 128)) h 0)) s
  | _ => s

/-- An access at its home: bytes cross the stack's port or the near memory's (15 R412). An atomic's write is metered where it writes. -/
def State.memPort (s : State) (m : Nat) (kind : MemKind) (h a n : Nat) : State :=
  (s.meterMem m (kind == .write) a n).mscAcc m kind h a n

/-- A dirty line of an L2 is written back (06 R181); host lines are held write-through (10 R271). -/
def State.l2Back (s : State) (x : L2Line) : State :=
  if x.dirty && decide (x.line < 2 ^ 58) then s.memPort x.core .write x.hint (x.line * 64) 64 else s

/-- The dirty L2 lines of bytes `a … a+n-1` in clusters but one are written back, and stay clean. -/
def State.recall (s : State) (own : Option Nat) (a n : Nat) : State :=
  if s.memsys.l2 = [] then s
  else
    let hit := fun (x : L2Line) => x.dirty && inLines a n x.line
    let xs := s.memsys.l2.flatMap (fun e => if some e.1 = own then [] else e.2.filter hit)
    if xs = [] then s
    else
      let s1 := xs.foldl State.l2Back s
      { s1 with memsys := { s1.memsys with l2 := s1.memsys.l2.map (fun e =>
        if some e.1 = own then e else (e.1, e.2.map (fun x => if hit x then { x with dirty := false } else x))) } }

/-- The L2 caches of a die's clusters are emptied, their dirty lines written back. -/
def State.l2Empty (s : State) (p : Nat) : State :=
  let here := fun (c : Nat) => c / 8 == p
  let s1 := ((s.memsys.l2.filter (fun e => here e.1)).flatMap (fun e => e.2)).foldl State.l2Back s
  { s1 with memsys := { s1.memsys with l2 := s1.memsys.l2.filter (fun e => !here e.1) } }

/-- An access by an engine or function: dirty copies are written back, and it goes to its home. -/
def State.traffic (s : State) (m : Nat) (kind : MemKind) (h a n : Nat) : State := (s.recall none a n).memPort m kind h a n

/-- Every copy of bytes but the writer's own is removed, dirty ones written back, before a write is performed (10 R262). -/
def State.snoop (s : State) (own : Option Nat) (a n : Nat) : State :=
  (s.recall ((own.filter (fun k => decide (k < 512))).map (fun k => k / 8)) a n).dropCopies own a n

/-- Does an address lie in a stack that is HOT, whose port holds requests (09 R256)? -/
def State.hotAt (s : State) (a : Nat) : Bool := match placeOf a with | .hbm k => (s.stack k).st == .hot | _ => false
def State.hotLoc (s : State) : Loc → Bool
  | .dev a => s.hotAt a
  | _ => false

/-! ### Error injection (19 R503) -/

def regErrInj : Reg := ⟨.errInj, 0, 0, 0⟩

/-- Does an access of lines `ls` meet the armed injection? `cached` names a core's access through its L2. -/
def State.injHit (s : State) (cached : Bool) (ls : List Nat) : Bool :=
  let v := s.rget regErrInj
  let a := natBits v 51 0
  let t := natBits v 54 52
  v.testBit 63 && ls.contains (a / 64 * 64) &&
    (match placeOf a with
     | .hbm _ => t == 3 || t == 4 || (t == 2 && cached)
     | .near _ => t == 1 || (t == 2 && cached)
     | _ => false)

/-- Meet the injection: ARM clears, the error is handled as a real one of the structure named, by a requester or by a scrub, which sets
`flag`; true when it was uncorrectable. -/
def State.injMeet (s : State) (m : Option Nat) (a : Nat) (flag : Nat := 0) : Bool × State :=
  let v := s.rget regErrInj
  let s1 := s.rput regErrInj 63 63 0
  let (synd, s2) := s1.draw
  let info := synd % 2 ^ 16 * 2 ^ 16 + flag
  let t := natBits v 54 52
  if natBits v 57 56 = 2 then (true, s2.uncorrectableIn t m a info true) else (false, s2.correctedIn t m a info true)

/-- Does an access of lines meet an error that stands in memory, an MSC, or the core's cluster's L2 (19 R492)? -/
def Upset.hits (u : Upset) (cached : Bool) (m : Nat) (ls : List Nat) : Bool :=
  ls.contains (u.line / 64 * 64) &&
    (match placeOf u.line with
     | .hbm _ => u.code == 3 || u.code == 4 || (u.code == 2 && cached && decide (m < 512) && u.unit == m / 8)
     | .near _ => u.code == 1 || (u.code == 2 && cached && decide (m < 512) && u.unit == m / 8)
     | .gwSram | .geSram | .orgSram => u.code == 12
     | _ => false)

/-- Meet it: the line in error, when the error is not corrected. -/
def State.upsetMeet (s : State) (cached : Bool) (m a : Nat) (ls : List Nat) : Option Nat × State :=
  match s.upset (fun u => u.hits cached m ls) with
  | none => (none, s)
  | some (u, s1) =>
    let l := u.line / 64 * 64
    let (synd, s2) := s1.draw
    let info := synd % 2 ^ 16 * 2 ^ 16
    if u.unc then (some l, s2.uncorrectableIn u.code (some m) (failAddr a l) info false)
    else (none, s2.correctedIn u.code (some m) (failAddr a l) info false)

/-! ### Memory by engines and functions -/

/-- Record a failed access (R34, R238, R493). -/
def State.failed (s : State) (m a : Nat) : AccFail → State
  | .denied l => s.postDenied m (failAddr a l)
  | .absent l => s.postAbsent m (failAddr a l)
  | .bad l => s.uncorrectable (some m) (failAddr a l) 0 false

/-- Does a memory access succeed? Its failure, if any, has been recorded. -/
def State.tryAcc (s : State) (m : Nat) (k : Acc) (cached : Bool) (a n : Nat) : Option AccFail × State :=
  let ls := linesOf a n
  match s.accCheck m k ls with
  | some f => (some f, s.failed m a f)
  | none =>
    if k ≠ .wr ∧ s.injHit cached ls then
      let (u, s1) := s.injMeet (some m) (failAddr a (natBits (s.rget regErrInj) 51 0 / 64 * 64))
      (if u then some (.bad (natBits (s.rget regErrInj) 51 0 / 64 * 64)) else none, s1)
    else if k = .wr ∨ s.err.upsets = [] then (none, s)
    else match s.upsetMeet cached m a ls with
      | (some l, s1) => (some (.bad l), s1)
      | (none, s1) => (none, s1)

/-- A write of a whole line takes it off the known-bad list (19 R494). -/
def State.clearBad (s : State) (a n : Nat) : State :=
  let upd := fun (m : SMap (List Nat)) (l : Nat) =>
    match badKey l with
    | some (k, b) =>
      let sz := if k < 8 then 64 else 128
      if a ≤ b ∧ b + sz ≤ a + n then SMap.set [] m k ((SMap.get [] m k).filter (· != b)) else m
    | none => m
  if s.err.bad = [] then s else { s with err := { s.err with bad := (linesOf a n).foldl upd s.err.bad } }

/-- Store bytes in device memory, access already checked; the line's copies elsewhere go first. -/
def State.storeBy (s : State) (own : Option Nat) (a : Nat) (bs : List Byte) : State :=
  let s := s.snoop own a bs.length
  let s1 := { s with mem := Mem.writeN s.mem a bs }
  s1.clearBad a bs.length
def State.store (s : State) (a : Nat) (bs : List Byte) : State := s.storeBy none a bs

/-- Read device memory under the access rules, with a hint: the bytes, or nothing with the failure recorded. -/
def State.devRead (s : State) (m a n : Nat) (h : Nat := 0) : Option (List Byte) × State :=
  match s.tryAcc m .rd false a n with
  | (some _, s1) => (none, s1)
  | (none, s1) => (some (Mem.readN s1.mem a n), s1.traffic m .read h a n)

/-- Write device memory under the access rules: true when performed. -/
def State.devWrite (s : State) (m a : Nat) (bs : List Byte) (h : Nat := 0) : Bool × State :=
  match s.tryAcc m .wr false a bs.length with
  | (some _, s1) => (false, s1)
  | (none, s1) => (true, (s1.store a bs).memPort m .write h a bs.length)

/-- Host memory of a port. -/
def State.hostRead (s : State) (port a n : Nat) : List Byte := Mem.readN s.host (port * 2 ^ 64 + a) n
/-- A read through a port ends in error (12 R327): PCI_OUTERR, AER, and a record. Kinds: 1 UR, 2 CA, 3 timeout, 4 poisoned. -/
def State.outErr (s : State) (n kind m a : Nat) : State :=
  let p := s.port n
  let bit := if kind = 4 then 1 else if kind = 3 then 2 else 4
  let s1 := s.setPort n { p with outKind := kind, outMaster := m, outCount := min (p.outCount + 1) 0xFFFFFFFF, aer := p.aer ||| bit }
  (if kind = 3 then s1.count (pmcMod (22 + n)) 6 1 else s1).post { sev := 0, kind := 0x07, loc := 8 + n, master := some m, part := s.partOf m, addr := a, info := n + kind * 2 ^ 8 }
/-- Of a read that no command's operand speaks of: how it ends is a free value (log entry 1). -/
def anyEnd : Nat := 5
def State.readEnd (s : State) (e : Nat) : Nat × State :=
  if e < 5 then (e, s)
  else
    let (v, s1) := s.draw
    (v % 5, s1)
/-- Read host memory through a port as a master, ending as given: the bytes, or nothing with the error reported (12 R327). -/
def State.hostGet (s : State) (e port m a n : Nat) : Option (List Byte) × State :=
  let (k, s1) := s.readEnd e
  if k = 0 then (some (s1.hostRead port a n), s1) else (none, s1.outErr port k m a)
/-- A posted write through a port, snooping every copy but the writer's own. -/
def State.hostWriteBy (s : State) (own : Option Nat) (ro : Bool) (port a : Nat) (bs : List Byte) : State :=
  let s := s.snoop own (uniHost port a) bs.length
  ({ s with host := Mem.writeN s.host (port * 2 ^ 64 + a) bs } : State).issued port ro
/-- A record or a table entry: Relaxed Ordering clear. -/
def State.hostWrite (s : State) (port a : Nat) (bs : List Byte) : State := s.hostWriteBy none false port a bs
/-- Data: Relaxed Ordering as Enable Relaxed Ordering says, PF0's for every function of the port (R326; log entry 107). -/
def State.hostData (s : State) (own : Option Nat) (port a : Nat) (bs : List Byte) : State := s.hostWriteBy own (s.fn port 0).relaxed port a bs

end Sys2Proof.Machine
end

