-- ==== Sys2Proof/Machine/Xlt.lean ====
section
/-! DEFINITION. Address translation: contexts, table walks, TLBs, and raising a translation fault into a batch
(spec/11_translation_faults R286-R306). -/

namespace Sys2Proof.Machine

/-! ### Entries (R292-R295) -/

def leafType (e : Nat) : Nat := natBits e 3 2
def leafClass (e : Nat) : Nat := natBits e 4 4
def leafHint (e : Nat) : Nat := natBits e 10 9
def leafPart (e : Nat) : Nat := natBits e 15 13
def leafAdv (e : Nat) : Nat := natBits e 57 56
def leafPort (e : Nat) : Nat := natBits e 62 62
def leafCoh (e : Nat) : Bool := e.testBit 11
def leafMoving (e : Nat) : Bool := e.testBit 12

/-- log2 of the bytes a leaf of a level maps (R287). -/
def levelSize (lv : Nat) : Nat := 16 + 10 * lv

/-- Does a valid entry keep R295 at its level, MOVING aside? -/
def entryOk (e lv : Nat) : Bool :=
  if !e.testBit 1 then
    lv != 0 && leafType e != 3 && natBits e 12 4 == 0 && natBits e 61 56 == 0 && (leafType e == 2 || leafPort e == 0)
  else if lv = 3 then false
  else
    let size := levelSize lv
    let frame := natBits e 55 16 * 2 ^ 16
    match leafType e with
    | 0 => !leafCoh e && leafPort e == 0 && frame % 2 ^ size == 0 && decide (frame < hbmTop)
    | 1 => !leafCoh e && leafPort e == 0 && lv != 2 && frame % 2 ^ size == 0 && decide (nearBase ≤ frame) &&
           decide (frame + 2 ^ size ≤ nearBase + 8 * nearSize) &&
           decide ((frame - nearBase) / nearSize = (frame + 2 ^ size - 1 - nearBase) / nearSize)
    | 2 => frame % 2 ^ size == 0
    | _ => lv == 0 && !leafCoh e && !leafMoving e && natBits e 62 59 == 0 &&
           (!e.testBit 40 || decide (natBits e 39 16 * 2 ^ 16 < 0x80000000))

/-- Does a leaf permit an access of a kind by a partition (R296)? The cause when it does not. -/
def leafPermits (e : Nat) (k : Acc) (part : Option Nat) : Option Nat :=
  if part ≠ some (leafPart e) then some 4
  else
    let bit := match k with | .rd => 5 | .wr => 6 | .ex => 7 | .at => 8
    if e.testBit bit then none else some 3

/-! ### The walk (R287-R299) -/

/-- How a walk ends: the leaf, a fault, or waiting for a page that PREFETCH is moving (R311), or for the Bus Master Enable of the
function that reads a HOST table (R290; 12 R326). -/
inductive Walk where
  | ok (t : TlbEnt)
  | fault (cause level entry : Nat)
  | moving
  deriving DecidableEq, Repr

def regAsidtab : Reg := ⟨.xltAsidtab, 0, 0, 0⟩

/-- The 16 bytes of an ASID's context (R288). -/
def State.ctxAddr (s : State) (asid : Nat) : Nat := natBits (s.rget regAsidtab) 51 16 * 2 ^ 16 + 16 * asid

/-- A context's fields; none when it is not valid, has a set reserved bit, a reserved RTYPE or a misaligned ROOT (R289). -/
structure Ctx where
  rtype : Nat
  port : Nat
  part : Nat
  rsv : Bool
  root : Nat
  deriving DecidableEq, Repr

def ctxOf (w : Nat) : Option Ctx :=
  if !w.testBit 0 || natBits w 2 1 == 3 || natBits w 31 8 != 0 || natBits w 63 32 != 0 || natBits w 76 64 != 0 then none
  else some ⟨natBits w 2 1, natBits w 3 3, natBits w 6 4, w.testBit 7, natBits w 127 64⟩

/-- The context as memory holds it; the port of its reads is judged from the word itself (R290). -/
def State.context (s : State) (asid : Nat) : Option Ctx :=
  if (s.rget regAsidtab).testBit 0 then ctxOf (Mem.readLE s.mem (s.ctxAddr asid) 16) else none

/-- Read the 16 bytes of a context, under the master of the port it names (R290). -/
def State.ctxRead (s : State) (asid : Nat) : Option Nat × State :=
  let pre := natBits (Mem.readLE s.mem (s.ctxAddr asid) 1) 3 3
  let (r, s1) := s.devRead (fnMaster pre 0) (s.ctxAddr asid) 16
  (r.map leNat, s1)

/-- Read 8 bytes of a table for the walker, under the master of the context's port `cport`: device memory under the access rules, host
memory through a port, whose read ends as `hostErr` says (R290; 12 R327). -/
def State.walkRead (s : State) (cport ty port a : Nat) (hostErr : Nat) : Option Nat × State :=
  let m := fnMaster cport 0
  let (r, s1) := if ty = 2 then s.hostGet hostErr port m a 8 else s.devRead m a 8
  (r.map leNat, s1)

/-- Does a read of a table wait: it lies in host memory, and PF0 of the port may issue no request (R290; 12 R326), or in a stack that is HOT
(09 R256)? -/
def State.tableWaits (s : State) (ty port a : Nat) : Bool := if ty = 2 then !(s.fn port 0).bme else s.hotAt a

/-- Is the entry at an address of memory of a type, read through a port, the leaf of a page that a PREFETCH moves (R295, R310)? -/
def State.movesAt (s : State) (ty port ea : Nat) : Bool :=
  s.xlt.prefetch.any (fun p => p.moving == some ea && (p.ty == 2) == (ty == 2) && (ty != 2 || p.port == port))

/-- The levels below a table at address `a` of memory type `ty`. -/
def State.walkLevels (s : State) (hostErr : Nat) (asid va : Nat) (k : Acc) (part : Option Nat) (port : Nat) :
    Nat → Nat → Nat → Nat → Walk × State
  | 0, _, _, _ => (.fault 5 0 0, s)
  | fuel + 1, ty, a, tport =>
    let lv := fuel
    let idx := natBits va (25 + 10 * lv) (16 + 10 * lv)
    let ea := a + 8 * idx
    let (r, s1) := s.walkRead port ty tport ea hostErr
    if s.tableWaits ty tport ea then (.moving, s)
    else match r with
    | none => (.fault 6 lv 0, s1)
    | some e =>
      if !e.testBit 0 then (.fault 2 lv e, s1)
      else if !entryOk e lv then (.fault 5 lv e, s1)
      else if !e.testBit 1 then
        State.walkLevels s1 hostErr asid va k part port fuel (leafType e) (natBits e 55 13 * 2 ^ 13) (leafPort e)
      else if leafType e ≠ 3 ∧ leafMoving e then
        (if s1.movesAt ty tport ea then (.moving, s1) else (.fault 5 lv e, s1))
      else match leafPermits e k part with
        | some c => (.fault c lv e, s1)
        | none => (.ok ⟨asid, va / 2 ^ levelSize lv * 2 ^ levelSize lv, levelSize lv, e⟩, s1)

/-- A whole walk from the context (R289, R299). -/
def State.walk (s : State) (hostErr : Nat) (asid va : Nat) (k : Acc) (part : Option Nat) : Walk × State :=
  if !(s.rget regAsidtab).testBit 0 then (.fault 1 4 0, s)
  else
    let (r, s1) := s.ctxRead asid
    if s.hotAt (s.ctxAddr asid) then (.moving, s)
    else match r with
    | none => (.fault 6 4 0, s1)
    | some w =>
      match ctxOf w with
      | none => (.fault 1 4 0, s1)
      | some c =>
        if part ≠ some c.part then (.fault 4 4 0, s1)
        else s1.walkLevels hostErr asid va k part c.port 4 c.rtype c.root c.port

/-! ### TLBs (R298, R299) -/

/-- TLB of a requester, and its capacity. -/
def tlbCore (k : Nat) : Nat := k
def tlbCluster (k : Nat) : Nat := 1000 + k / 8
def tlbDma (d : Nat) : Nat := 1100 + d
def tlbArray (d : Nat) : Nat := 1110 + d
def tlbTxu (d : Nat) : Nat := 1120 + d
def tlbCap (t : Nat) : Nat := if t < 1000 then 64 else if t < 1100 then 2048 else 512
/-- Die a TLB serves. -/
def tlbDie (t : Nat) : Nat := if t < 1000 then t / 64 else if t < 1100 then (t - 1000) / 8 else t % 10

def TlbEnt.covers (t : TlbEnt) (asid va : Nat) : Bool :=
  t.asid == asid && decide (va / 2 ^ t.size * 2 ^ t.size = t.base)

def State.tlbFind (s : State) (t asid va : Nat) : Option TlbEnt :=
  (SMap.get [] s.xlt.tlbs t).find? (fun e => e.covers asid va)

/-- Hold a leaf; which entry a full TLB gives up is unspecified (R298): a free value picks it. -/
def State.tlbFill (s : State) (t : Nat) (e : TlbEnt) : State :=
  let old := (SMap.get [] s.xlt.tlbs t).filter (fun x => !x.covers e.asid e.base)
  let (v, s1) := if tlbCap t ≤ old.length then s.draw else (0, s)
  let kept := if tlbCap t ≤ old.length then old.eraseIdx (v % old.length) else old
  { s1 with xlt := { s1.xlt with tlbs := SMap.set [] s1.xlt.tlbs t (kept ++ [e]) } }

/-- A parity error in a TLB that an access finds: the entry is discarded, to be walked again, and a corrected error is recorded (R299; 19
R492). -/
def State.tlbParity (s : State) (t : Nat) (e : TlbEnt) (va : Nat) : Option TlbEnt × State :=
  match s.upset (fun u => u.code == 10 && u.unit == t % 1024) with
  | some (_, s1) =>
    let drop := fun (m : SMap (List TlbEnt)) (i : Nat) => SMap.modify [] m i (fun l => l.filter (fun x => x != e))
    let s2 := { s1 with xlt := { s1.xlt with tlbs := if t < 512 then drop (drop s1.xlt.tlbs t) (tlbCluster t) else drop s1.xlt.tlbs t } }
    (none, s2.structErr 10 (tlbDie t) none va true true)
  | none => (some e, s)

/-- Translate one address: a cached leaf that permits the access serves it; otherwise the tables are walked afresh, so no fault
is found against a cached entry alone (R299). -/
def State.translate (s : State) (t : Nat) (hostErr : Nat) (asid va : Nat) (k : Acc) (part : Option Nat) : Walk × State :=
  let hit := match s.tlbFind t asid va with
    | some e => if leafPermits e.entry k part = none then some e else none
    | none => none
  let hit := match hit with
    | some e => some e
    | none => if t < 512 then
        (match s.tlbFind (tlbCluster t) asid va with
         | some e => if leafPermits e.entry k part = none then some e else none
         | none => none)
      else none
  let (hit, s) := match hit with
    | none => (none, s)
    | some e => if s.err.upsets = [] then (some e, s) else s.tlbParity t e va
  match hit with
  | some e => (.ok e, s)
  | none =>
    let s := if t < 512 then s.countCore t 7 1 else s
    match (s.count (pmcDie (tlbDie t) 67) 2 1).walk hostErr asid va k part with
    | (.ok e, s1) => (.ok e, (if t < 512 then (s1.tlbFill (tlbCluster t) e) else s1).tlbFill t e)
    | r => r

def TlbEnt.loc (t : TlbEnt) (va : Nat) : Loc :=
  let e := t.entry
  let a := natBits e 55 16 * 2 ^ 16 + va % 2 ^ t.size
  match leafType e with
  | 0 => .dev a
  | 1 => .dev a
  | 2 => .host (leafPort e) a (leafCoh e)
  | _ => .peer (natBits e 58 41)
      ((if e.testBit 40 then nearBase + natBits e 39 16 * 2 ^ 16 else natBits e 39 16 * 2 ^ 16) + va % 2 ^ 16)

/-- The PTE's default hint of a permitted load or store (R296). -/
def TlbEnt.hint (t : TlbEnt) (k : Acc) : Nat :=
  if leafHint t.entry = 0 ∧ leafAdv t.entry = 1 ∧ k = .rd then 2 else leafHint t.entry

/-! ### Faults and batches (R301-R305) -/

def FaultReq.key (r : FaultReq) : Nat × Nat × Acc := (r.asid, r.va / 2 ^ 16, r.kind)

/-- Build a fault from a walk's outcome (R301, R302). `qport` is the queue's port, or none for core and core-ring work. -/
def State.faultReq (s : State) (w : Waiter) (asid va : Nat) (k : Acc) (cause lv entry master queue : Nat)
    (qport : Option Nat) : FaultReq :=
  let c := s.context asid
  let usable := c.isSome && cause != 1 && !(cause == 6 && lv == 4)
  { waiter := w, asid := asid, va := va % 2 ^ 56, kind := k, cause := cause, level := lv,
    entry := if cause = 1 ∨ cause = 6 then 0 else entry, master := master, queue := queue,
    cls := if lv = 0 ∨ entry.testBit 0 && entry.testBit 1 then leafClass entry else 0,
    rsv := usable && (c.map (fun c => c.rsv)).getD false,
    port := if usable then (c.map (fun c => c.port)).getD 0 else qport.getD 0,
    part := s.partOf master }

def XltDie.used (x : XltDie) : Nat := (x.batches.map (fun b => b.ents.length)).foldl (· + ·) 0
def XltDie.rsvUsed (x : XltDie) : Nat :=
  ((x.batches.filter (fun b => b.rsv)).map (fun b => b.ents.length)).foldl (· + ·) 0

/-- The unanswered batch and entry of a key. -/
def XltDie.findKey (x : XltDie) (key : Nat × Nat × Acc) : Option Nat :=
  (x.batches.find? (fun b => b.ents.any (fun e => e.req.key == key))).map (fun b => b.id)

def XltDie.attach (x : XltDie) (key : Nat × Nat × Acc) (w : Waiter) : XltDie :=
  { x with batches := x.batches.map (fun b => { b with ents := b.ents.map (fun e =>
      if e.req.key == key then { e with waiters := if e.waiters.contains w then e.waiters else e.waiters ++ [w] } else e) }) }

/-- Is there an entry for a fault of this kind (R304, R306)? -/
def XltDie.room (x : XltDie) (rsv : Bool) : Bool :=
  decide (x.used < 1024) && (rsv || decide (x.used - x.rsvUsed < 992))

/-- Open a batch: the next SEQ of the die (R301, R304). -/
def XltDie.openBatch (x : XltDie) (p port : Nat) (rsv : Bool) : Nat × XltDie :=
  let id := p * 2 ^ 13 + port * 2 ^ 12 + x.seqNext % 4096
  (id, { x with batches := x.batches ++ [{ id := id, port := port, rsv := rsv }], seqNext := (x.seqNext + 1) % 4096,
                answered := x.answered.filter (· != id) })

def XltDie.addEnt (x : XltDie) (id : Nat) (r : FaultReq) (stamp : Nat) : XltDie :=
  { x with batches := x.batches.map (fun b =>
      if b.id = id then { b with ents := b.ents ++ [{ req := r, index := b.ents.length, stamp := stamp, waiters := [r.waiter] }] }
      else b) }

/-- A batch that closes goes to the end of the list: closed batches stand in the order they closed. -/
def XltDie.closeBatch (x : XltDie) (id : Nat) : XltDie :=
  match x.batches.find? (fun b => b.id == id && b.st == .open) with
  | some b => { x with batches := x.batches.filter (fun b => b.id != id) ++ [{ b with st := .closed }] }
  | none => x

def XltDie.openOf (x : XltDie) (port : Nat) : Option Batch :=
  x.batches.find? (fun b => b.st == .open && b.port == port && !b.rsv)

/-- Close open batches that hold MAXREC records (R304; XLT_BATCHCTL is compared in every cycle). -/
def XltDie.closeFull (x : XltDie) (maxrec : Nat) : XltDie :=
  ((x.batches.filter (fun b => b.st == .open && decide (maxrec ≤ b.ents.length))).map (fun b => b.id)).foldl XltDie.closeBatch x

def State.maxrec (s : State) : Nat := natBits (s.rget ⟨.xltBatchctl, 0, 0, 0⟩) 6 0

/-- Put back a die's fault queue whose full batches have been closed, counting them (19 R505). -/
def State.closeCount (s : State) (p : Nat) (x : XltDie) : State :=
  let opened := fun (x : XltDie) => (x.batches.filter (fun b => b.st == .open)).length
  let s1 := s.setXdie p x
  if opened x < opened (s.xdie p) ∨ (opened x = opened (s.xdie p) ∧ x.batches.length ≠ (s.xdie p).batches.length) then
    s1.count (pmcDie p 67) 4 1 else s1

/-- XLT_BATCHCTL is compared in every cycle: a batch that a new MAXREC fills closes at once (R304). -/
def State.closeOver (s : State) : State := (List.range 8).foldl (fun s p => s.closeCount p ((s.xdie p).closeFull s.maxrec)) s

/-- Place a fault on a die (R304): the batch that holds its record, or none while it waits for an entry. -/
def State.fault (s : State) (p : Nat) (r : FaultReq) : Option Nat × State :=
  let x := s.xdie p
  match x.findKey r.key with
  | some id => (some id, s.setXdie p (x.attach r.key r.waiter))
  | none =>
    if x.waiting.any (fun w => w.key == r.key && w.waiter == r.waiter) then (none, s)
    else if !x.room r.rsv then
      (none, (s.setXdie p { x with stalls := min (x.stalls + 1) 0xFFFFFFFF, waiting := x.waiting ++ [r] }).count (pmcDie p 67) 5 1)
    else
      let (st, s1) := (s.count (pmcDie p 67) 3 1).stamp p 0
      let s1 := if r.cause = 6 then
          s1.post { sev := 0, kind := 0x0C, loc := p, master := some r.master, part := r.part, addr := r.va, info := r.asid }
        else s1
      let x := s1.xdie p
      if r.rsv then
        let (id, x1) := x.openBatch p r.port true
        (some id, (s1.setXdie p ((x1.addEnt id r st).closeBatch id)).count (pmcDie p 67) 4 1)
      else match x.openOf r.port with
        | some b => (some b.id, s1.closeCount p ((x.addEnt b.id r st).closeFull s1.maxrec))
        | none =>
          let (id, x1) := x.openBatch p r.port false
          (some id, s1.closeCount p ((x1.addEnt id r st).closeFull s1.maxrec))

/-- The 64 bytes of a fault record as a number (R301). -/
def faultRaw (b : Batch) (e : FaultEnt) (last wrap : Bool) : Nat :=
  let r := e.req
  let w0 := 0x01 + r.cause * 2 ^ 8 + r.kind.code * 2 ^ 12 + r.cls * 2 ^ 14 + b2n r.rsv * 2 ^ 15 + r.asid * 2 ^ 16
    + r.level * 2 ^ 28
  let w1 := r.master + b.id * 2 ^ 16
  let w2 := e.index + b2n last * 2 ^ 6 + b2n wrap * 2 ^ 7
  w0 + w1 * 2 ^ 32 + w2 * 2 ^ 64 + r.queue * 2 ^ 96 + r.va * 2 ^ 128 + (r.entry % 2 ^ 64) * 2 ^ 192 + e.stamp * 2 ^ 256

/-- Remove translations of a range or of a whole ASID from every TLB (R313). -/
def State.invalidate (s : State) (asid va len : Nat) (all : Bool) : State :=
  let s := (List.range 8).foldl (fun s p => s.count (pmcDie p 67) 6 1) s
  let hit := fun (e : TlbEnt) => e.asid == asid && (all || (decide (e.base < va + len) && decide (va < e.base + 2 ^ e.size)))
  { s with xlt := { s.xlt with tlbs := (s.xlt.tlbs.map (fun p => (p.1, p.2.filter (fun e => !hit e)))).filter (fun p => p.2 ≠ []) } }

end Sys2Proof.Machine
end

