-- ==== Sys2Proof/Machine/Queue.lean ====
section
/-! DEFINITION. Descriptors in flight (spec/12_queues_pcie R329-R336): which one starts next, how one ends, and how its
addresses are translated and read. -/

namespace Sys2Proof.Machine

/-- Bits `hi:lo` of word `w` of a descriptor. -/
def QDesc.f (d : QDesc) (w hi lo : Nat) : Nat := natBits d.raw (32 * w + hi) (32 * w + lo)
def QDesc.opcode (d : QDesc) : Nat := d.f 0 7 0
def QDesc.fence (d : QDesc) : Bool := d.f 0 8 8 == 1
def QDesc.isDone (d : QDesc) : Bool := match d.st with | .done _ _ _ => true | _ => false
/-- A 56-bit address in words `w` and `w+1`. -/
def QDesc.addr (d : QDesc) (w : Nat) : Nat := natBits d.raw (32 * w + 55) (32 * w)
/-- A 40-bit length in words `w` and `w+1`. -/
def QDesc.len40 (d : QDesc) (w : Nat) : Nat := natBits d.raw (32 * w + 39) (32 * w)

/-- Are words `a` to 15 of a descriptor zero? Operand bits that no table lists are reserved (R13; log entry 105). -/
def QDesc.zeroFrom (d : QDesc) (a : Nat) : Bool := natBits d.raw 511 (32 * a) == 0
/-- Bits beyond the 56 and 40 of the addresses in words 5:4 and 7:6 and the length in words 9:8. -/
def QDesc.rangesRsv (d : QDesc) : Bool := d.f 5 31 24 != 0 || d.f 7 31 24 != 0 || d.f 9 31 8 != 0

/-- The 32 bytes of a completion record (R335). -/
def complRaw (status phase sqhead queue opcode tsf tag cookie result : Nat) : Nat :=
  status % 2 ^ 8 + phase % 2 * 2 ^ 8 + sqhead % 2 ^ 16 * 2 ^ 16 + (queue % 2 ^ 13 + opcode % 2 ^ 8 * 2 ^ 16) * 2 ^ 32
    + tsf % 2 ^ 32 * 2 ^ 64 + tag % 2 ^ 16 * 2 ^ 96 + cookie % 2 ^ 64 * 2 ^ 128 + result % 2 ^ 64 * 2 ^ 192

/-- Queue types (01 R23). -/
def tyCompute : Nat := 0
def tyCopy : Nat := 1
def tyTrellis : Nat := 2
def tyService : Nat := 3
def tyAdmin : Nat := 4

def State.desc (s : State) (q ix : Nat) : Option QDesc := (s.queue q).flight.find? (fun d => d.ix == ix)
def State.updDesc (s : State) (q ix : Nat) (f : QDesc → QDesc) : State :=
  let x := s.queue q
  s.setQueue q { x with flight := x.flight.map (fun d => if d.ix = ix then f d else d) }
/-- A descriptor ends: its record waits to be written (R331). -/
def State.descDone (s : State) (q ix status tsf result : Nat) : State :=
  s.updDesc q ix (fun d => { d with st := .done status tsf result, batches := [] })
def State.descRun (s : State) (q ix : Nat) : State := s.updDesc q ix (fun d => { d with st := .running })

/-- States in which fetched descriptors run (R333, R340). -/
def QSt.runs : QSt → Bool
  | .enabled => true | .draining => true | .error => true | _ => false

/-- The next descriptor of a queue to start (R331, R336): the first not yet started, when no fence holds it, no earlier ADMIN
command runs, no earlier fenced descriptor waits, and no reset of its function stops it (R341). -/
def State.nextStart (s : State) (q : Nat) : Option QDesc :=
  let x := s.queue q
  if !x.st.runs || x.resetting then none
  else match x.flight.find? (fun d => d.st == .waiting) with
    | none => none
    | some d =>
      let earlier := x.flight.takeWhile (fun e => e.ix != d.ix)
      let alone := d.fence && s.qType q != tyCompute || s.qType q == tyAdmin
      if alone && earlier.any (fun e => !e.isDone) then none else some d

/-- The descriptor a command row starts: type and opcode must be the row's. -/
def State.startOp (s : State) (q ty opc : Nat) : Option QDesc :=
  match s.nextStart q with
  | some d => if s.qType q = ty ∧ d.opcode = opc then some d else none
  | none => none

/-! ### Addresses of descriptors -/

/-- How a translation for an engine ends: a leaf, or the request is held on a fault or a moving page. -/
inductive XRes where
  | ok (t : TlbEnt)
  | held
  deriving DecidableEq, Repr

/-- Translate for a waiter on a die; a fault is raised into a batch (11 R301-R305), whose ID is answered. -/
def State.xlate (s : State) (w : Waiter) (p tlb asid va : Nat) (k : Acc) (part : Option Nat) (master queue : Nat)
    (qport : Option Nat) (hostErr : Nat) : XRes × Option Nat × State :=
  match s.translate tlb hostErr asid va k part with
  | (.ok t, s1) => (if s1.hotLoc (t.loc va) then .held else .ok t, none, s1)
  | (.moving, s1) => (.held, none, s1)
  | (.fault c lv e, s1) =>
    let (b, s2) := s1.fault p (s1.faultReq w asid va k c lv e master queue qport)
    (.held, b, s2)

/-- The DMA engine of die `p` that serves a descriptor; which one is not specified (log entry 26). -/
def dmaMaster (p q ix : Nat) : Nat := 0x200 + p * 16 + Config.dmaEngine q ix % 16

/-- Translate an address of a descriptor in its queue's ASID; a transfer that needs the port waits while Bus Master Enable of the
queue's function is 0 (R326). -/
def State.descXlate (s : State) (q ix p va : Nat) (k : Acc) (hostErr : Nat) : XRes × State :=
  let (r, b, s1) := s.xlate (.desc q ix) p (tlbDma p) (s.qAsid q) va k (s.queueOwner q) (dmaMaster p q ix) q (some (s.qPort q)) hostErr
  let r := match r with
    | .ok t => (match t.loc va with
      | .host _ _ _ => if (s.fn (s.qPort q) (s.qFunc q)).bme then .ok t else .held
      | _ => .ok t)
    | .held => .held
  let s1 := match r with | .ok _ => s1.count (pmcDie p 66) 5 1 | .held => s1
  match b with
  | some id => (r, s1.updDesc q ix (fun d => { d with batches := if d.batches.contains id then d.batches else d.batches ++ [id] }))
  | none => (r, s1)

/-- A transfer ends: its engine raises its completion source, or its error source (08 R230), and the descriptor ends. -/
def State.dmaEnd (s : State) (q ix p status prog : Nat) : State :=
  let e := Config.dmaEngine q ix % 16
  (((s.raise p ((if status = 0 then 192 else 208) + e)).count (pmcDie p 66) 4 1)).descDone q ix status 0 prog

/-- Pieces of a virtual range, one for each 64 KiB page. -/
def pagesOf (va n : Nat) : List (Nat × Nat) :=
  if n = 0 then []
  else (upFrom (va / 65536) ((va + n - 1) / 65536 + 1 - va / 65536)).map (fun p =>
    let lo := max va (p * 65536)
    let hi := min (va + n) ((p + 1) * 65536)
    (lo, hi - lo))

/-- Translate every page of a range; held on the first that faults. -/
def State.descPages (q ix p : Nat) (k : Acc) (hostErr : Nat) : List (Nat × Nat) → State → Option (List Piece) × State
  | [], s => (some [], s)
  | (va, n) :: l, s =>
    match s.descXlate q ix p va k hostErr with
    | (.held, s1) => (none, s1)
    | (.ok t, s1) =>
      match State.descPages q ix p k hostErr l s1 with
      | (some r, s2) => (some (⟨t.loc va, n, t.hint k⟩ :: r), s2)
      | (none, s2) => (none, s2)

/-- Read bytes at translated places as a master, with the hint the request carries; none when an access fails (R327, R34, R238). A PEER
leaf serves no engine but a transfer of 13 R369 (log entry 27). -/
def State.readLocs (m : Nat) (hostErr : Nat) (req : Nat) : List Piece → State → Option (List Byte) × State
  | [], s => (some [], s)
  | x :: ls, s =>
    match x.loc with
    | .peer _ _ => (none, s)
    | .host port a _ =>
      match s.hostGet hostErr port m a x.n with
      | (none, s1) => (none, s1)
      | (some b, s1) =>
        match State.readLocs m hostErr req ls s1 with
        | (some r, s2) => (some (b ++ r), s2)
        | (none, s2) => (none, s2)
    | .dev a =>
      match s.devRead m a x.n (effHint 0 req x.pte) with
      | (none, s1) => (none, s1)
      | (some b, s1) =>
        match State.readLocs m hostErr req ls s1 with
        | (some r, s2) => (some (b ++ r), s2)
        | (none, s2) => (none, s2)

/-- The status of a queue's operation whose access failed between two states (19 R493): CONTAINED where the failure ordered the containment of
the queue's own partition, ACCESS otherwise. -/
def State.failStatus (s s1 : State) (q : Nat) : Nat :=
  match s.queueOwner q with
  | some i =>
    let ordered := fun (s : State) => s.err.orders.any (fun o => o.part == i)
    if ordered s1 && !ordered s then 6 else 2
  | none => 2

/-- Would writes at translated places be permitted? Nothing is written unless all are. -/
def State.writable (s : State) (m : Nat) : List Piece → Option (Nat × AccFail)
  | [] => none
  | x :: ls =>
    match x.loc with
    | .peer _ a => some (a, .denied a)
    | .host _ _ _ => s.writable m ls
    | .dev a => match s.accCheck m .wr (linesOf a x.n) with
      | some f => some (a, f)
      | none => s.writable m ls

def State.putLocs (m req : Nat) : List Piece → List Byte → State → State
  | [], _, s => s
  | x :: ls, bs, s =>
    let s1 := match x.loc with
      | .peer _ _ => s
      | .host port a _ => s.hostData none port a (bs.take x.n)
      | .dev a => (s.store a (bs.take x.n)).memPort m .write (effHint 0 req x.pte) a x.n
    State.putLocs m req ls (bs.drop x.n) s1

/-- Write bytes at translated places as a master, all or nothing. -/
def State.writeLocs (s : State) (m req : Nat) (ls : List Piece) (bs : List Byte) : Bool × State :=
  match s.writable m ls with
  | some (a, f) => (false, s.failed m a f)
  | none => (true, State.putLocs m req ls bs s)

/-- An operation of a descriptor has written host memory through a port (10 R276). -/
def State.wroteHost (s : State) (q ix port : Nat) : State :=
  if port = s.qPort q then s else s.updDesc q ix (fun d => { d with other := true })
/-- Write bytes at translated places for a descriptor, noting the host memory of the other port. -/
def State.descWrite (s : State) (q ix m req : Nat) (ls : List Piece) (bs : List Byte) : Bool × State :=
  match s.writeLocs m req ls bs with
  | (false, s1) => (false, s1)
  | (true, s1) => (true, ls.foldl (fun s x => match x.loc with | .host port _ _ => s.wroteHost q ix port | _ => s) s1)

/-- Does an untranslated access of a queue's command wait: it needs the port, and the queue's function may issue no request (R326), or a
stack that is HOT (09 R256)? -/
def State.rawWaits (s : State) (q loc a : Nat) : Bool := if loc = 0 then !(s.fn (s.qPort q) (s.qFunc q)).bme else s.hotAt a

/-- Does an access at a translated place wait likewise? -/
def State.pieceWaits (s : State) (q : Nat) (x : Piece) : Bool :=
  match x.loc with
  | .host _ _ _ => !(s.fn (s.qPort q) (s.qFunc q)).bme
  | l => s.hotLoc l

/-- Read an untranslated source (R328 LOC): a bus address on a port, or a device physical address as a master. -/
def State.readRaw (s : State) (m loc port a n : Nat) (hostErr : Nat) : Option (List Byte) × State :=
  if loc = 0 then s.hostGet hostErr port m a n else s.devRead m a n
def State.writeRaw (s : State) (m loc port a : Nat) (bs : List Byte) : Bool × State :=
  if loc = 0 then (true, s.hostWrite port a bs) else s.devWrite m a bs

end Sys2Proof.Machine
end

