-- ==== Sys2Proof/Machine/Trellis.lean ====
section
/-! DEFINITION. The Trellis fabric (spec/13_trellis_fabric): ports and training, the link layer, routing, detours and
injection, transaction tags, and the transfers PUT and GET. -/

namespace Sys2Proof.Machine

def State.tport (s : State) (n : Nat) : TrlPort := SMap.get {} s.trl.ports n
def State.setTport (s : State) (n : Nat) (p : TrlPort) : State := { s with trl := { s.trl with ports := SMap.set {} s.trl.ports n p } }

/-- Agent of a port's events: the Gatehouse that holds it (R347). -/
def portAgent (n : Nat) : Nat := if n % 2 = 0 then 8 else 9

/-- A partition's level (R366, R371): TRL_JOBFLOOR, whose Reset value is the image's FLOOR. -/
def State.jobFloor (s : State) (i : Nat) : Nat :=
  (SMap.get none s.regs (Reg.addr ⟨.trlJobfloor, i, 0, 0⟩)).getD s.ptr.image.floor

/-! ### Coordinates and routes (R347, R360, R361; 01 R25) -/

def devCoord (dev d : Nat) : Nat := if d = 0 then dev % 64 else if d = 1 then dev / 64 % 64 else dev / 4096
def State.size (s : State) (d : Nat) : Nat := if d = 0 then s.ptr.image.xs else if d = 1 then s.ptr.image.ys else s.ptr.image.zs
/-- A device number names coordinates inside the torus. -/
def State.inTorus (s : State) (dev : Nat) : Bool := (List.range 3).all (fun d => decide (devCoord dev d < s.size d))
def setCoord (dev d c : Nat) : Nat :=
  if d = 0 then dev / 64 * 64 + c else if d = 1 then dev / 4096 * 4096 + c * 64 + dev % 64 else c * 4096 + dev % 4096
/-- The neighbour of a device on a port (R347). -/
def State.neighbour (s : State) (dev n : Nat) : Nat :=
  let d := n / 2
  let z := s.size d
  let c := devCoord dev d
  setCoord dev d (if n % 2 = 1 then (c + 1) % z else (c + z - 1) % z)
/-- The port at the other end of a cable. -/
def mirrorPort (n : Nat) : Nat := if n % 2 = 0 then n + 1 else n - 1

/-- The port a packet for `tgt` leaves by at `dev`; none when it is there (R360). -/
def State.hop (s : State) (dev tgt : Nat) : Option Nat :=
  match (List.range 3).find? (fun d => devCoord dev d != devCoord tgt d) with
  | none => none
  | some d =>
    let z := s.size d
    let plus := (devCoord tgt d + z - devCoord dev d) % z
    let minus := (devCoord dev d + z - devCoord tgt d) % z
    some (if plus < minus ∨ (plus = minus ∧ !s.ptr.image.seed.testBit d) then 2 * d + 1 else 2 * d)

/-- Links of the dimension-ordered path: device and port of each (R364). -/
def State.path (s : State) : Nat → Nat → Nat → List (Nat × Nat)
  | 0, _, _ => []
  | f + 1, dev, tgt =>
    match s.hop dev tgt with
    | none => []
    | some p => (dev, p) :: State.path s f (s.neighbour dev p) tgt

/-- Does the link at a device's port cross the dateline of its ring (R361)? -/
def State.dateline (s : State) (dev n : Nat) : Bool :=
  let c := devCoord dev (n / 2)
  if n % 2 = 1 then c + 1 == s.size (n / 2) else c == 0

/-- A packet's target here (R360). -/
def Packet.target (p : Packet) : Nat := if p.esc && p.ph == 0 then p.inter else p.dst

/-- At INTER a detoured packet turns to its second phase (R361, R364). -/
def State.arrive (s : State) (p : Packet) : Packet :=
  if p.esc && p.ph == 0 && p.inter == s.device then (p.put 0 12 12 1).put 0 13 13 0 else p

/-! ### Detours (R364) -/

def State.detour (s : State) (b j : Nat) : Nat := s.rget ⟨.trlDetour, b, j, 0⟩

/-- Does a path meet an entry? -/
def State.meets (s : State) (e : Nat) (links : List (Nat × Nat)) : Bool :=
  let dev := natBits e 25 8
  let port := natBits e 4 2
  if e.testBit 1 then links.any (fun l => l.1 == dev || s.neighbour l.1 l.2 == dev)
  else links.any (fun l => (l.1 == dev && l.2 == port) || (s.neighbour l.1 l.2 == dev && mirrorPort l.2 == port))

/-- The lowest-numbered valid entry of a bank that a path meets. -/
def State.findDetour (s : State) (bank : Nat) (links : List (Nat × Nat)) : Option Nat :=
  ((List.range 64).map (s.detour bank)).find? (fun e => e.testBit 0 && s.meets e links)

def State.activeBank (s : State) : Nat := s.rget ⟨.trlDetourSel, 0, 0, 0⟩ % 2

/-! ### Port states (R349-R352) -/

/-- A change of a port's state posts a record, and FAILED, MISWIRED and REFUSED send a notice (R352; INFO: log entry 29). -/
def State.portState (s : State) (n : Nat) (st : LinkSt) (why : Nat) : State :=
  let old := s.tport n
  let p := { old with st := st, why := why }
  let p := if st = .down ∨ st = .training then
      { p with txSeq := 0, rxSeq := 0, replay := [], bad := false, nakSent := none, used := [], owed := [], rx := [], tx := [], turn := 13, fwd := 0 }
    else p
  let s1 := s.setTport n p
  if old.st = st then s1
  else
    let (stamp, s2) := s1.postRec { sev := 0, kind := 0x08, loc := portAgent n, info := Config.trellisInfo n st.code why % 2 ^ 64 }
    if st = .failed ∨ st = .miswired ∨ st = .refused ∨ st = .up then s2.notice 1 [n, st.code, why] stamp else s2

/-- Lane test (R350 step 2, R351): failing lanes, 16 and 17 the spares. A pairing in use is kept while its spare passes; a failing lane
that has none takes a free spare. None: more than two failing lanes, or more than the spares replace. -/
def laneTest (keep : List (Option Nat)) (failing : BitVec 18) : Option (List (Option Nat)) :=
  let bad := maskBits 18 failing.toNat
  let held := (List.range 2).map (fun j => if bad.contains (16 + j) then none else nth none keep j)
  let need := (List.range 16).filter (fun l => (bad.contains l || keep.contains (some l)) && !held.contains (some l))
  let free := (List.range 2).filter (fun j => nth none held j == none && !bad.contains (16 + j))
  if free.length < need.length ∨ 2 < bad.length then none
  else some ((free.zip need).foldl (fun m p => m.set p.1 (some p.2)) held)

/-- Steps 3 and 4 of training: WHY of the refusal, zero for UP (R350). -/
def State.judgePartner (s : State) (n : Nat) (i : PartnerId) : LinkSt × Nat × Nat :=
  let img := s.ptr.image
  let lvl := min s.trl.max i.max.val
  if i.xs.val ≠ img.xs ∨ i.ys.val ≠ img.ys ∨ i.zs.val ≠ img.zs ∨ i.dev.val ≠ s.neighbour s.device n ∨ i.port.val ≠ mirrorPort n then
    (.miswired, 3, lvl)
  else if lvl < img.floor ∨ lvl < i.floor.val then (.refused, 1, lvl)
  else if s.trl.max + 1 < i.max.val ∨ i.max.val + 1 < s.trl.max then (.refused, 2, lvl)
  else (.up, 0, lvl)

/-- The outcome of a lane test and an identity exchange on a port. -/
def State.trained (s : State) (n : Nat) (keep : List (Option Nat)) (failing : BitVec 18) (i : PartnerId) : State :=
  match laneTest keep failing with
  | none => s.portState n .failed 4
  | some lanes =>
    let (st, why, lvl) := s.judgePartner n i
    let s1 := s.setTport n { s.tport n with lanes := lanes, level := lvl, pmax := i.max.val, partner := i.dev.val, pport := i.port.val }
    s1.portState n st why

/-- May a port leave DOWN (R347, R374; 20 R519)? -/
def State.portAllowed (s : State) (n : Nat) : Bool :=
  s.trl.on && (s.tport n).mated && s.rf ⟨.trlPortcfg, n, 0, 0⟩ 0 0 == 1 && decide (1 < s.size (n / 2))
    && !s.org.fuses.scrap && s.pwr.st != .sleep && s.pwr.st != .off
    && (match s.pwr.req with | some r => !(r.begun && r.target == .sleep) | none => true)

/-! ### The link layer (R353-R356) -/

/-- The 64 bytes of a flit as a number (R353). -/
def flitRaw (data ty vcs : Nat) (sop : Bool) (seq ack : Nat) : Nat :=
  let w := ty + vcs * 2 ^ 2 + b2n sop * 2 ^ 6 + seq * 2 ^ 8 + ack * 2 ^ 18
  let body := data % 2 ^ 448 + w * 2 ^ 448
  body + crc32 (leBytes 60 body) * 2 ^ 480

/-- SEQ of the last flit received in order. -/
def TrlPort.ackSeq (p : TrlPort) : Nat := (p.rxSeq + 1023) % 1024

/-- Append a flit to what the port has sent; it stays in the replay buffer until ACK covers it. -/
def TrlPort.sendFlit (p : TrlPort) (data ty vcs : Nat) (sop : Bool) : TrlPort :=
  { p with replay := p.replay ++ [{ seq := p.txSeq, raw := flitRaw data ty vcs sop p.txSeq p.ackSeq }], txSeq := (p.txSeq + 1) % 1024 }

/-- A packet's bytes as data of its flits (R354). -/
def Packet.bytes (p : Packet) : List Byte := leBytes 32 p.hdr ++ p.data.take p.len
def Packet.flitData (p : Packet) : List Nat := (chunksOf 56 p.flits p.bytes).map leNat

/-- Has a subchannel a credit, and the replay buffer room, for a flit (R355, R356)? -/
def TrlPort.hasRoom (p : TrlPort) (sub : Nat) : Bool := decide (p.replay.length < 512) && decide (SMap.get 0 p.used sub < subCap sub)
/-- Room for a packet's first flit: the packet before it in its subchannel has gone. -/
def TrlPort.canSend (p : TrlPort) (pk : Packet) : Bool := SMap.get [] p.tx pk.sub == [] && p.hasRoom pk.sub

/-- Send flits of a subchannel, in order, until none goes; what is left waits. -/
def TrlPort.pumpSub (sub : Nat) : List RxFlit → TrlPort → TrlPort
  | [], p => { p with tx := SMap.set [] p.tx sub [] }
  | f :: fs, p =>
    if p.hasRoom sub then
      let p1 := p.sendFlit f.data 1 sub f.sop
      TrlPort.pumpSub sub fs { p1 with used := SMap.modify 0 p1.used sub (· + 1) }
    else { p with tx := SMap.set [] p.tx sub (f :: fs) }
/-- Waiting flits go as they can, those of MGMT first (R363). -/
def TrlPort.pump (p : TrlPort) : TrlPort :=
  if p.st ≠ .up then p
  else ([8, 9, 0, 1, 2, 3, 4, 5, 6, 7, 10, 11, 12, 13] : List Nat).foldl (fun q sub => TrlPort.pumpSub sub (SMap.get [] q.tx sub) q) p

/-- A packet takes its subchannel; `forwarded`, or injected here. -/
def TrlPort.sendPacket (p : TrlPort) (pk : Packet) (forwarded : Bool) : TrlPort :=
  let fs : List RxFlit := pk.flitData.zipIdx.map (fun d => { sop := d.2 == 0, data := d.1 })
  let k := pk.sub
  { p with tx := SMap.set [] p.tx k fs, turn := if k = 8 ∨ k = 9 then p.turn else k,
           fwd := if p.fwd.testBit k = forwarded then p.fwd else p.fwd ^^^ 2 ^ k }.pump

/-- ACK covers every flit up to and including its sequence number. -/
def TrlPort.acked (p : TrlPort) (ack : Nat) : TrlPort :=
  if p.replay.any (fun f => f.seq == ack) then
    { p with replay := (p.replay.dropWhile (fun f => f.seq != ack)).drop 1 }
  else p

/-- The packet whose flits stand at the head of a receive buffer, if all have arrived. -/
def TrlPort.headPacket (p : TrlPort) (sub : Nat) : Option Packet :=
  match SMap.get [] p.rx sub with
  | [] => none
  | f :: fs =>
    let hdr := f.data % 2 ^ 256
    let n := ceilDiv (32 + natBits hdr 28 16) 56
    let l := (f :: fs).take n
    if l.length < n then none
    else some { hdr := hdr, data := ((l.flatMap (fun x => leBytes 56 x.data)).drop 32).take (natBits hdr 28 16) }

/-- Flits of a subchannel that occupy its receive buffer: a packet longer than the buffer leaves it as it arrives (log entry 25). -/
def TrlPort.occ (p : TrlPort) (sub : Nat) : Nat :=
  match SMap.get [] p.rx sub with
  | [] => 0
  | f :: fs =>
    let n := ceilDiv (32 + natBits f.data 28 16) 56
    (f :: fs).length - (if subCap sub < n then min (f :: fs).length n else 0)
/-- The receive buffer of a subchannel becomes `l`, `arrived` flits having come in: the credits of those that left it are owed. -/
def TrlPort.setRx (p : TrlPort) (sub arrived : Nat) (l : List RxFlit) : TrlPort :=
  let q := { p with rx := SMap.set [] p.rx sub l }
  { q with owed := SMap.modify 0 p.owed sub (· + (p.occ sub + arrived - q.occ sub)) }
/-- Take the head packet out; its credits go back to the partner. -/
def TrlPort.popPacket (p : TrlPort) (sub : Nat) : TrlPort :=
  match p.headPacket sub with
  | none => p
  | some pk => p.setRx sub 0 ((SMap.get [] p.rx sub).drop pk.flits)

/-- The packet a source holds for this module, as it stands after R364's turn at INTER. -/
def State.peekPacket (s : State) : PktSrc → Option Packet
  | .port n sub =>
    match (s.tport n.val).headPacket sub.val with
    | some p => let p := s.arrive p
                if p.target = s.device then some p else none
    | none => none
  | .loop => s.trl.loop.head?

/-- Credits owed go back in a CTRL flit as soon as the replay buffer takes one (R356; log entry 25). -/
def TrlPort.credit (p : TrlPort) : TrlPort :=
  if p.owed = [] ∨ 512 ≤ p.replay.length ∨ p.st ≠ .up then p
  else { p.sendFlit (Config.ctrlData p.owed) 2 0 false with owed := [] }

def State.dropPacket (s : State) : PktSrc → State
  | .port n sub => s.setTport n.val ((s.tport n.val).popPacket sub.val).credit
  | .loop => { s with trl := { s.trl with loop := s.trl.loop.drop 1 } }

/-! ### Forming and sending packets (R357, R363-R366) -/

/-- A packet formed here. -/
def State.mkPacket (s : State) (opc cls dst part plvl tag status : Nat) (addr aux : Nat) (data : List Byte) : Packet :=
  { hdr := opc + cls * 2 ^ 8 + data.length * 2 ^ 16 + dst * 2 ^ 32 + (s.device + part * 2 ^ 18 + plvl * 2 ^ 21) * 2 ^ 64
      + (tag + status * 2 ^ 16) * 2 ^ 128 + (addr % 2 ^ 52) * 2 ^ 160 + (aux % 2 ^ 32) * 2 ^ 224,
    data := data }

def State.queuePkt (s : State) (p : Packet) (part : Option Nat) : State :=
  { s with trl := { s.trl with out := s.trl.out ++ [{ pkt := p, part := part }] } }

/-- Count a discard at an output and record it (R363). -/
def State.discardAt (s : State) (n : Nat) : State :=
  let p := s.tport n
  (s.setTport n { p with discards := min (p.discards + 1) 0x7FFF }).post
    { sev := 0, kind := 0x08, loc := portAgent n, info := Config.trellisInfo n 7 0 % 2 ^ 64 }

/-- Put a packet on an output port: DL and HOPS for the link it takes (R357, R361). `turned`: it enters a new dimension. -/
def State.output (s : State) (n : Nat) (p : Packet) (turned : Bool) : Packet :=
  let dl := if s.dateline s.device n then 1 else if turned then 0 else p.dl
  (p.put 0 13 13 dl).put 1 25 18 (p.hops + 1)

/-- How an attempt to send a packet on ends. -/
inductive Sent where
  | sent | held | discarded
  deriving DecidableEq, Repr

/-! ### Arbitration at an output (R363) -/

/-- Is a partition's new Trellis traffic stopped: a commit quiesces it, its job ends or takes a checkpoint, it is contained? -/
def State.injStopped (s : State) (i : Nat) : Bool :=
  (s.ptr.phase == .quiescing && s.ptr.affected.testBit i) || (s.ldgPart i).st == .ending || (s.ldgPart i).held || nth .unused s.ptr.parts i == .contained
/-- The detour entry that applies to a packet injected here (R364). -/
def State.detourOf (s : State) (o : OutPkt) : Option Nat :=
  s.findDetour (o.bank.getD s.activeBank) (s.path 96 s.device o.pkt.dst)
/-- The packet with its detour. -/
def State.detoured (s : State) (o : OutPkt) : Packet :=
  match s.detourOf o with
  | some e => (o.pkt.put 0 11 11 1).put 3 17 0 (natBits e 49 32)
  | none => o.pkt
/-- The port a packet leaves by, with its detour. -/
def State.injPort (s : State) (o : OutPkt) : Option Nat := s.hop s.device (s.detoured o).target
/-- Flits a partition may send on a port in a window (R363). -/
def State.shareOf (s : State) (part n : Nat) : Nat := nth 0 (s.entry part).shares n * 256
/-- Has a packet's partition sent its share on a port in this window? -/
def State.shareSpent (s : State) (o : OutPkt) (n : Nat) : Bool :=
  match o.part with | some i => decide (s.shareOf i n ≤ SMap.get 0 (s.tport n).share i) | none => false
/-- Is a packet's partition held from injecting? -/
def State.outStopped (s : State) (o : OutPkt) : Bool := match o.part with | some j => o.pkt.cls != 1 && s.injStopped j | none => false

/-- Subchannels of a port that a forwarded packet waits for. -/
def State.fwdWants (s : State) (n : Nat) : List Nat :=
  (List.range 6).flatMap (fun i => (List.range 14).filterMap (fun k => match (s.tport i).headPacket k with
    | some p0 =>
      let p := s.arrive p0
      if p.target ≠ s.device ∧ s.hop s.device p.target = some n then some (s.output n p (i / 2 != n / 2)).sub else none
    | none => none))
/-- Subchannels of a port that a packet injected here waits for. -/
def State.injWants (s : State) (n : Nat) : List Nat :=
  s.trl.out.filterMap (fun o =>
    if s.inTorus o.pkt.dst ∧ o.pkt.dst ≠ s.device ∧ s.injPort o = some n ∧ !s.shareSpent o n ∧ !s.outStopped o then
      some (s.output n (s.detoured o) true).sub
    else none)
/-- Is it the turn of a subchannel at a port, and in it of a forwarded packet or of an injected one? MGMT goes first; the others are
served in turn among those with a credit, and within one subchannel the two kinds take turns. -/
def State.hasSlot (s : State) (n k : Nat) (forwarded : Bool) : Bool :=
  let p := s.tport n
  let f := s.fwdWants n
  let j := s.injWants n
  let ready := fun (i : Nat) => (f.contains i || j.contains i) && SMap.get [] p.tx i == [] && p.hasRoom i
  let before := fun (i : Nat) => decide ((i + 13 - p.turn) % 14 < (k + 13 - p.turn) % 14)
  let own := if forwarded then !(j.contains k && p.fwd.testBit k) else !(f.contains k && !p.fwd.testBit k)
  own && (k == 8 || k == 9 || !(List.range 14).any (fun i => i != k && ready i && (i == 8 || i == 9 || before i)))

/-- A port's waiting flits go, and are counted. -/
def State.pumpPort (s : State) (n : Nat) : State :=
  let p := s.tport n
  let left := fun (x : TrlPort) => ((List.range 14).map (fun k => (SMap.get [] x.tx k).length)).foldl (· + ·) 0
  (s.setTport n p.pump).count (pmcMod (16 + n)) 2 (left p - left p.pump)

/-- Send a packet toward its target (R362, R363): discarded past 255 hops, outside the torus, or at a port that is not UP. -/
def State.sendOn (s : State) (p : Packet) (inPort : Option Nat) : Sent × State :=
  match s.hop s.device p.target with
  | none => (.held, s)
  | some n =>
    let turned := match inPort with | some i => i / 2 != n / 2 | none => true
    if 255 ≤ p.hops ∨ !s.inTorus p.dst ∨ (p.esc ∧ !s.inTorus p.inter) ∨ (s.tport n).st ≠ .up then
      (if (s.tport n).st = .retrain then (.held, s) else (.discarded, s.discardAt n))
    else
      let q := s.output n p turned
      let p1 := (s.tport n).sendPacket q inPort.isSome
      if (s.tport n).canSend q && s.hasSlot n q.sub inPort.isSome then
        (.sent, (s.setTport n p1).count (pmcMod (16 + n)) 2 (q.flits - (SMap.get [] p1.tx q.sub).length))
      else (.held, s)

/-- Intermediate modules of a path (15 R413). -/
def pathForwards (links : List (Nat × Nat)) : Nat := links.length - 1

/-- How an injection ends (R363, R364, R368). -/
inductive Inj where
  | sent | held | unreachable | malformed | discarded
  deriving DecidableEq, Repr

/-- Inject one packet (R363, R364): a packet outside the torus is refused, a detour is applied, the share is charged, and
REQ, DISP and COLL packets are metered (15 R413). -/
def State.inject (s : State) (o : OutPkt) : Inj × State :=
  let p := o.pkt
  if !s.inTorus p.dst then (.malformed, s)
  else if p.dst = s.device then (.sent, { s with trl := { s.trl with loop := s.trl.loop ++ [p] } })
  else
    let links := s.path 96 s.device p.dst
    let det := s.detourOf o
    if det.any (fun e => e.testBit 50) then (.unreachable, s)
    else
      let p1 := s.detoured o
      let links := match det with
        | some e => s.path 96 s.device (natBits e 49 32) ++ s.path 96 (natBits e 49 32) p.dst
        | none => links
      match s.hop s.device p1.target with
      | none => (.held, s)
      | some n =>
        if s.shareSpent o n then (.held, s)
        else match s.sendOn p1 none with
          | (.held, s1) => (.held, s1)
          | (.discarded, s1) => (.discarded, s1)
          | (.sent, s1) =>
            let s2 := match o.part with
              | some i => s1.setTport n { s1.tport n with share := SMap.modify 0 (s1.tport n).share i (· + p1.flits) }
              | none => s1
            if p.cls = 0 ∨ p.opc = 0x20 ∨ p.cls = 3 then
              (.sent, (s2.meter o.part 12 (64 * p1.flits)).meter o.part 13 (64 * p1.flits * pathForwards links))
            else (.sent, s2)

/-- Meter a packet received that answers a transaction of this module (15 R413). -/
def State.meterRx (s : State) (part : Option Nat) (p : Packet) : State :=
  (s.meter part 12 (64 * p.flits)).meter part 13 (64 * p.flits * (p.hops - 1))

/-! ### Transaction tags (R366, R368) -/

def State.tag (s : State) (t : Nat) : Option TagEnt := SMap.get none s.trl.tags t
def State.setTag (s : State) (t : Nat) (e : Option TagEnt) : State := { s with trl := { s.trl with tags := SMap.set none s.trl.tags t e } }

/-- The lowest free tag (which free tag is taken is not specified: log entry 31). -/
def freeTag (m : SMap (Option TagEnt)) : Nat → Nat → Option Nat
  | 0, _ => none
  | f + 1, t => if t ≥ 8192 then none else if SMap.get none m t = none then some t else freeTag m f (t + 1)

/-- Send a request, or let it wait for a tag. -/
def State.request (s : State) (req : TrlReq) (len : Nat) (p : Packet) (part : Option Nat) : State :=
  match if s.trl.waiting = [] then freeTag s.trl.tags (s.trl.tags.length + 1) 0 else none with
  | some t => (s.setTag t (some { req := req, len := len })).queuePkt (p.put 4 15 0 t) part
  | none => { s with trl := { s.trl with waiting := s.trl.waiting ++ [{ req := req, len := len, pkt := p, part := part }] } }

/-- Requests that waited for a tag proceed while tags are free. -/
def State.serveWaiting : Nat → State → State
  | 0, s => s
  | f + 1, s =>
    match s.trl.waiting, freeTag s.trl.tags (s.trl.tags.length + 1) 0 with
    | w :: ws, some t =>
      State.serveWaiting f
        ((({ s with trl := { s.trl with waiting := ws } } : State).setTag t (some { req := w.req, len := w.len })).queuePkt (w.pkt.put 4 15 0 t) w.part)
    | _, _ => s

def State.freeTagOf (s : State) (t : Nat) : State := State.serveWaiting (s.trl.waiting.length) (s.setTag t none)

/-- The outcome record of R368. -/
def State.trlOutcome (s : State) (status : Nat) : State :=
  s.post { sev := 0, kind := 0x08, loc := 8, info := Config.trellisInfo 8 8 status % 2 ^ 64 }

/-! ### PUT and GET (R369) -/

def State.findXfer (s : State) (q ix : Nat) : Option Xfer := s.trl.xfers.find? (fun x => x.q == q && x.ix == ix)
def State.dropXfer (s : State) (q ix : Nat) : State :=
  { s with trl := { s.trl with xfers := s.trl.xfers.filter (fun x => !(x.q == q && x.ix == ix)) } }
def State.updXfer (s : State) (q ix : Nat) (f : Xfer → Xfer) : State :=
  { s with trl := { s.trl with xfers := s.trl.xfers.map (fun x => if x.q == q && x.ix == ix then f x else x) } }

/-- A transfer's destination page: the part of the range from `prog` on in one 64 KiB page of the destination. -/
def pageLen (dst prog len : Nat) : Nat := min (len - prog) (65536 - (dst + prog) % 65536)

/-- Pieces of at most 4,096 bytes that do not cross a 4 KiB boundary of the peer address (R366): offset and length. -/
def pieces (a : Nat) : Nat → Nat → Nat → List (Nat × Nat)
  | 0, _, _ => []
  | f + 1, off, n =>
    if n = 0 then []
    else
      let k := min n (4096 - (a + off) % 4096)
      (off, k) :: pieces a f (off + k) (n - k)

/-- Every page of the peer side as (device, address, length); none where a page maps no PEER leaf (R369). -/
def peerLocs : List Piece → Option (List (Nat × Nat × Nat))
  | [] => some []
  | x :: l => match x.loc with
    | .peer d a => (peerLocs l).map (fun r => (d, a, x.n) :: r)
    | _ => none

/-- Does a piece lie in a peer module? -/
def Piece.isPeer (x : Piece) : Bool := match x.loc with | .peer _ _ => true | _ => false

/-- Offsets into the page of each peer piece: (device, address, offset, length). -/
def peerPieces : Nat → List (Nat × Nat × Nat) → List (Nat × Nat × Nat × Nat)
  | _, [] => []
  | base, (d, a, n) :: l => (pieces a 17 0 n).map (fun p => (d, a + p.1, base + p.1, p.2)) ++ peerPieces (base + n) l

/-- Begin a destination page of a PUT or GET: translate both sides, then send its requests; a fault holds it, and a side of
the wrong kind ends it ACCESS. -/
def State.xferPage (s : State) (q : Nat) (d : QDesc) (hostErr : Nat) : State :=
  let put := d.opcode = 1
  let loc := d.addr 4
  let rem := d.addr 6
  let len := d.len40 8
  let p := d.f 10 2 0
  let n := pageLen (if put then rem else loc) d.prog len
  let m := dmaMaster p q d.ix
  let part := s.queueOwner q
  match State.descPages q d.ix p (if put then .rd else .wr) hostErr (pagesOf (loc + d.prog) n) s with
  | (none, s1) => s1
  | (some ls, s1) =>
    match State.descPages q d.ix p (if put then .wr else .rd) hostErr (pagesOf (rem + d.prog) n) s1 with
    | (none, s2) => s2
    | (some rs, s2) =>
      match peerLocs rs, ls.any Piece.isPeer with
      | some rl, false =>
        let ps := peerPieces 0 rl
        let x : Xfer := { q := q, ix := d.ix, base := d.prog, len := n, left := ps.length, dst := if put then [] else ls }
        let i := part.getD 0
        let lvl := s2.jobFloor i
        let add := fun (s : State) => { s with trl := { s.trl with xfers := s.trl.xfers ++ [x] } }
        if put then
          match State.readLocs m hostErr 0 ls s2 with
          | (none, s3) => s3.dmaEnd q d.ix p (s2.failStatus s3 q) d.prog
          | (some bs, s3) =>
            ps.foldl (fun s (dv, a, off, k) =>
              s.request (.xfer q d.ix off) 0 (s.mkPacket 0x02 0 dv i lvl 0 0 a 0 ((bs.drop off).take k)) part) (add (s3.count (pmcDie p 66) 2 n))
        else
          ps.foldl (fun s (dv, a, off, k) =>
            s.request (.xfer q d.ix off) k (s.mkPacket 0x01 0 dv i lvl 0 0 a k []) part) (add s2)
      | _, _ => s2.dmaEnd q d.ix p 2 d.prog

/-- Start a PUT or GET (R369). -/
def State.xferStart (s : State) (q : Nat) (d : QDesc) (hostErr : Nat) : State :=
  let len := d.len40 8
  let dieOk := (s.queueOwner q).isSome && s.dieOwner (d.f 10 2 0) == s.queueOwner q
  if len = 0 ∨ 2 ^ 56 < d.addr 4 + len ∨ 2 ^ 56 < d.addr 6 + len ∨ !dieOk ∨ d.rangesRsv ∨ d.f 10 31 3 ≠ 0 ∨ !d.zeroFrom 11 then s.descDone q d.ix 1 0 0
  else (s.descRun q d.ix).xferPage q d hostErr

/-- A response for a piece of a transfer arrives: data, or the failure that ends it. -/
def State.xferPiece (s : State) (q ix off : Nat) (r : Option (List Byte)) (status : Nat) : State :=
  s.updXfer q ix (fun x => { x with left := x.left - 1,
                                    got := match r with | some b => x.got ++ [(off, b)] | none => x.got,
                                    fail := if r.isNone && x.fail.isNone then some status else x.fail })

/-- Bytes of a page from its pieces in any order. -/
def assemble (got : List (Nat × List Byte)) (n : Nat) : List Byte :=
  Mem.readN (got.foldl (fun m g => Mem.writeN m g.1 g.2) []) 0 n

/-- A transfer's page with every response in: the destination page of a GET is written whole, and the next page begins
(R369). Under a function-level reset no other page begins, and a write that Bus Master Enable holds is dropped (`last`; 12 R341). -/
def State.xferStep (s : State) (q : Nat) (d : QDesc) (last : Bool) (hostErr : Nat) : State :=
  match s.findXfer q d.ix with
  | none => if d.batches = [] then s.xferPage q d hostErr else s
  | some x =>
    if x.left ≠ 0 then s
    else match x.fail with
      | some st => (s.dropXfer q d.ix).dmaEnd q d.ix (d.f 10 2 0) st d.prog
      | none =>
        let p := d.f 10 2 0
        let next := fun (s : State) =>
          let s := s.dropXfer q d.ix
          let prog := d.prog + x.len
          if prog = d.len40 8 ∨ last then s.dmaEnd q d.ix p (if prog = d.len40 8 then 0 else 5) prog
          else
            let d1 := { d with prog := prog }
            (s.updDesc q d.ix (fun e => { e with prog := prog })).xferPage q d1 hostErr
        if d.opcode = 1 then next s
        else if last && x.dst.any (fun y => (match y.loc with | .host _ _ _ => true | _ => false) && s.pieceWaits q y) then
          (s.dropXfer q d.ix).dmaEnd q d.ix p 5 d.prog
        else if x.dst.any (s.pieceWaits q) then s
        else match s.descWrite q d.ix (dmaMaster p q d.ix) 0 x.dst (assemble x.got x.len) with
          | (true, s2) => next (s2.count (pmcDie p 66) 3 x.len)
          | (false, s2) => (s2.dropXfer q d.ix).dmaEnd q d.ix p 2 d.prog

/-! ### Serving a request (R367) -/

/-- Tag of an arriving packet: the lowest-numbered valid entry that matches its source (01 R27). -/
def State.remoteTag (s : State) (dev part : Nat) : Option (Nat × Nat) :=
  (s.ptr.image.tags.find? (fun e => e.2.testBit 22 && natBits e.2 17 0 == dev && (e.2.testBit 21 || natBits e.2 20 18 == part))).map
    (fun e => (e.1, natBits e.2 34 32))

/-- Steps 1 to 3: the master and its partition, or the status of the NACK. -/
def State.admitReq (s : State) (p : Packet) : Except Nat (Nat × Nat) :=
  match s.remoteTag p.src p.srcpart with
  | none => .error 2
  | some (t, i) =>
    if p.plvl > s.trl.max ∨ p.plvl < s.ptr.image.floor then .error 7
    else match nth .unused s.ptr.parts i with
      | .contained => .error 6
      | .applying => .error 5
      | _ => .ok (0x400 + t, i)

/-- Answer a request: the response travels back to its source, injected by the partition served. -/
def State.respond (s : State) (p : Packet) (opc status : Nat) (data : List Byte) (part : Option Nat) : State :=
  s.queuePkt (s.mkPacket opc 1 p.src (part.getD 0) p.plvl p.tag status 0 0 data) part

/-- NACK with its record (R368). -/
def State.nackReq (s : State) (p : Packet) (status : Nat) (part : Option Nat) : State := s.respond p 0x13 status [] part

/-- Is a REQ packet well formed (R357, R359)? -/
def Packet.reqOk (p : Packet) : Bool :=
  p.reserved == 0 && p.status == 0 &&
    (if p.opc = 1 then p.len == 0 && decide (1 ≤ p.aux) && decide (p.aux ≤ 4096) && p.aop == 0 && p.asz == 0
     else if p.opc = 2 then decide (1 ≤ p.len) && decide (p.len ≤ 4096) && p.aux == 0 && p.aop == 0 && p.asz == 0
     else if p.opc = 3 then decide (p.aop ≤ 9) && p.aux == 0 && p.addr % (if p.asz = 1 then 8 else 4) == 0 &&
       p.len == (if p.aop = 9 then 2 else 1) * (if p.asz = 1 then 8 else 4)
     else false)

/-- Complete opcodes of the responses and of the other classes (R359): is the opcode allocated? -/
def Packet.known (p : Packet) : Bool :=
  match p.cls with
  | 0 => p.opc == 1 || p.opc == 2 || p.opc == 3
  | 1 => decide (0x10 ≤ p.opc) && decide (p.opc ≤ 0x13)
  | 2 => decide (0x20 ≤ p.opc) && decide (p.opc ≤ 0x24)
  | 3 => p.opc == 0x30 || p.opc == 0x31
  | 4 => decide (0x40 ≤ p.opc) && decide (p.opc ≤ 0x52)
  | _ => false

/-- The fields of a TOK packet that are zero (14 R382). -/
def Packet.tokOk (p : Packet) : Bool :=
  natBits p.addr 51 31 == 0 && p.tag == 0 && (p.opc == 0x24 || p.status == 0) && (p.opc != 0x21 || decide (p.aux < 32))
    && (decide (p.opc < 0x22) || p.len == 0) && (p.opc != 0x22 || natBits p.addr 10 3 == 0)
/-- The subheader of a COLL packet (14 R398). -/
def Packet.collSub (p : Packet) : Nat := leNat (p.data.take 32)
/-- The fields of a COLL packet that are zero, its length, and its phase (14 R398). -/
def Packet.collOk (p : Packet) : Bool :=
  let h := p.collSub
  p.tag == 0 && p.addr == 0 && p.aux == 0 && (if p.opc = 0x30 then p.status == 0 && decide (32 ≤ p.len) else p.len == 32)
    && natBits h 31 29 == 0 && natBits h 95 82 == 0 && natBits h 255 152 == 0 && natBits h 19 18 != 3

/-- Opcode, reserved fields and length of a packet are legal; AUX is zero where no chapter defines it (R357, R359). -/
def Packet.wellFormed (p : Packet) : Bool :=
  p.known && p.reserved == 0 && decide (p.len ≤ 4096) && (p.cls != 1 || p.aux == 0) && (p.cls != 2 || p.tokOk) && (p.cls != 3 || p.collOk)

/-- A packet for this module that R359 turns away as it arrives: REQ answered MALFORMED, any other discarded with a record. -/
def State.turnAway (s : State) (src : PktSrc) : State :=
  match s.peekPacket src with
  | none => s
  | some p =>
    if p.wellFormed then s
    else
      let s1 := s.dropPacket src
      if p.cls = 0 then s1.nackReq p 1 none
      else s1.post { sev := 0, kind := 0x08, loc := 8, info := Config.trellisInfo 8 9 0 % 2 ^ 64 }

end Sys2Proof.Machine
end

