-- ==== Sys2Proof/Machine/Txu.lean ====
section
/-! DEFINITION. The Token Exchange Unit (spec/14_token_exchange R376-R392, R399): contexts, dispatch, expert input queues and
combining. -/

namespace Sys2Proof.Machine

def State.tdie (s : State) (p : Nat) : TxuDie := SMap.get {} s.txu.dies p
def State.setTdie (s : State) (p : Nat) (x : TxuDie) : State := { s with txu := { s.txu with dies := SMap.set {} s.txu.dies p x } }
def State.eq32 (s : State) (p q : Nat) : Eq32 := SMap.get {} (s.tdie p).eqs q
def State.setEq (s : State) (p q : Nat) (e : Eq32) : State :=
  s.setTdie p { s.tdie p with eqs := SMap.set {} (s.tdie p).eqs q e }

/-! ### Contexts (R376, R377, R399) -/

def ctxReg (c : Nat) : Reg := ⟨.txuCtxCfg, 0, c, 0⟩
def State.ctx (s : State) (c hi lo : Nat) : Nat := s.rf (ctxReg c) hi lo
def State.ctxEn (s : State) (c : Nat) : Bool := s.ctx c 0 0 == 1
def State.ctxPart (s : State) (c : Nat) : Nat := s.ctx c 3 1
def State.ctxHidden (s : State) (c : Nat) : Nat := s.ctx c 30 16
def State.slotsOf (s : State) (c : Nat) : Nat := nth 0 s.ptr.image.txuCap c
/-- First placement entry of a context (R377). -/
def State.slotBase (s : State) (c : Nat) : Nat := (s.ptr.image.txuCap.take c).foldl (· + ·) 0
def State.place (s : State) (c e : Nat) : Nat := SMap.get 0 s.txu.place (s.slotBase c + e)
def placeTarget (w : Nat) : Target := ⟨natBits w 17 0, natBits w 20 18, natBits w 25 21⟩

def entKey (c cent : Nat) : Nat := c * 8192 + cent
def State.ent (s : State) (p key : Nat) : Option CombEnt := SMap.get none (s.tdie p).ents key
def State.setEnt (s : State) (p key : Nat) (e : Option CombEnt) : State :=
  s.setTdie p { s.tdie p with ents := SMap.set none (s.tdie p).ents key e }
def State.updEnt (s : State) (p key : Nat) (f : CombEnt → CombEnt) : State :=
  match s.ent p key with
  | some e => s.setEnt p key (some (f e))
  | none => s

/-- TXU_EVLOG (R399). -/
def State.evlog (s : State) (p status c queue side dev : Nat) : State :=
  s.rset ⟨.txuEvlog, p, 0, 0⟩ (status + c * 2 ^ 8 + queue * 2 ^ 12 + side * 2 ^ 17 + dev * 2 ^ 18)

/-- Contexts of a partition read EN = 0: it is contained, or a commit that affects it applies (R392). -/
def State.ctxStop (s : State) (i : Nat) : State :=
  (List.range 16).foldl (fun s c => if s.rf (ctxReg c) 3 1 = i then s.rput (ctxReg c) 0 0 0 else s) s
/-- Has a partition no token in flight (R392)? -/
def State.noTokens (s : State) (i : Nat) : Bool :=
  s.txu.dies.all (fun d => d.2.ents.all (fun x => x.2 == none || s.ctxPart (x.1 / 8192) != i))

/-- Advance a context's counters (R390, R399). -/
def State.ctxCount (s : State) (c : Nat) (written passed failed : Bool) : State :=
  let r : Reg := ⟨.txuCtxCount, 0, c, 0⟩
  let s1 := if written then s.rput r 31 0 (s.rf r 31 0 + 1) else s
  let s2 := if passed then s1.rput r 47 32 (min (s1.rf r 47 32 + 1) 0xFFFF) else s1
  if failed then s2.rput r 62 48 (min (s2.rf r 62 48 + 1) 0x7FFF) else s2

/-! ### Accepting a ROUTE (R379, R380) -/

inductive RouteRes where
  | refused (code : Nat)
  | held
  | taken (cent : Nat)
  deriving DecidableEq, Repr

/-- Do two choices name one queue? -/
def dupTargets : List Target → Bool
  | [] => false
  | t :: ts => ts.contains t || dupTargets ts

def State.routeCheck (s : State) (p : Nat) (r : SageRoute) : RouteRes :=
  let words := r.experts.map (s.place r.ctx)
  if !s.ctxEn r.ctx ∨ s.dieOwner p ≠ some (s.ctxPart r.ctx) ∨ (s.tdie p).stopped then .refused 0xF1
  else if r.k = 0 ∨ s.ctx r.ctx 35 31 < r.k then .refused 0xF2
  else if r.experts.any (fun e => decide (s.slotsOf r.ctx ≤ e)) || words.any (fun w => !w.testBit 31) then .refused 0xF3
  else if dupTargets (words.map placeTarget) then .refused 0xF4
  else if 32 ≤ (s.tdie p).dbuf.length then .held
  else match (List.range (s.ctx r.ctx 53 40)).find? (fun e => s.ent p (entKey r.ctx e) == none) with
    | none => .held
    | some e => .taken e

/-- A refused ROUTE is logged and raises source 227; a taken one enters the dispatch buffer with its combine entry. -/
def State.routeTake (s : State) (p : Nat) (r : SageRoute) : RouteRes × State :=
  match s.routeCheck p r with
  | .refused c => (.refused c, (s.evlog p c r.ctx 0 0 0).raise p 227)
  | .held => (.held, s)
  | .taken e =>
    let dest := (r.token + s.rf ⟨.txuCtxDelta, 0, r.ctx, 0⟩ 55 0) % 2 ^ 56
    let s1 := s.setEnt p (entKey r.ctx e) (some { token := r.token, dest := dest, weights := r.weights, slots := r.experts,
                                                   st := List.replicate r.k .wait })
    (.taken e, s1.setTdie p { s1.tdie p with dbuf := (s1.tdie p).dbuf ++ [(r.ctx, e)] })

/-! ### Memory of the TXU (R376, R391) -/

def txuDisp (p : Nat) : Nat := 0x290 + 2 * p
def txuComb (p : Nat) : Nat := 0x291 + 2 * p

/-- Translate a range of a context; the batches of the faults met. -/
def State.txuPages (p id c m : Nat) (k : Acc) : List (Nat × Nat) → State → Option (List Piece) × List Nat × State
  | [], s => (some [], [], s)
  | (va, n) :: l, s =>
    match s.xlate (.txu p id) p (tlbTxu p) (s.ctx c 15 4) va k (some (s.ctxPart c)) m 4097 none anyEnd with
    | (.held, b, s1) => (none, b.toList, s1)
    | (.ok t, _, s1) =>
      match State.txuPages p id c m k l s1 with
      | (some r, b, s2) => (some (⟨t.loc va, n, t.hint k⟩ :: r), b, s2)
      | (none, b, s2) => (none, b, s2)

/-- Read a virtual range: `.error true` while held on a fault, `.error false` when the access fails. -/
def State.txuRead (s : State) (p id c m va n : Nat) : Except Bool (List Byte) × List Nat × State :=
  match State.txuPages p id c m .rd (pagesOf va n) s with
  | (none, b, s1) => (.error true, b, s1)
  | (some ls, _, s1) =>
    match State.readLocs m anyEnd 0 ls s1 with
    | (some bs, s2) => (.ok bs, [], s2)
    | (none, s2) => (.error false, [], s2)

/-! ### TOK packets (R382) -/

structure TokAddr where
  tdie : Nat
  chunk : Nat
  last : Nat
  odie : Nat
  cent : Nat
  ctx : Nat

def Packet.tok (p : Packet) : TokAddr :=
  let a := p.addr
  ⟨natBits a 2 0, natBits a 6 3, natBits a 10 7, natBits a 13 11, natBits a 26 14, natBits a 30 27⟩
def TokAddr.bits (t : TokAddr) : Nat :=
  t.tdie + t.chunk * 2 ^ 3 + t.last * 2 ^ 7 + t.odie * 2 ^ 11 + t.cent * 2 ^ 14 + t.ctx * 2 ^ 27

/-- Send a TOK packet for a partition; one for this module goes over the bridges and not through Trellis (R381). -/
def State.sendTok (s : State) (opc dst part : Nat) (bank : Option Nat) (t : TokAddr) (aux status : Nat) (data : List Byte) : State :=
  let p := s.mkPacket opc 2 dst part (s.jobFloor part) 0 status t.bits aux data
  if dst = s.device then { s with trl := { s.trl with loop := s.trl.loop ++ [p] } }
  else { s with trl := { s.trl with out := s.trl.out ++ [{ pkt := p, part := some part, bank := bank }] } }

/-- Chunks of a row (R380): index and bytes. -/
def rowChunks (bs : List Byte) : List (Nat × List Byte) :=
  let cs := chunksOf 4096 (bs.length / 4096 + 1) bs
  (List.range cs.length).zip cs

/-! ### Dispatch (R381) -/

/-- Does a TOK packet of an opcode with these fields still wait to be injected? -/
def State.tokWaits (s : State) (f : Packet → Bool) : Bool := s.trl.out.any (fun o => o.pkt.cls == 2 && f o.pkt)
/-- The oldest token leaves the dispatch buffer once all its packets have been sent (R381). -/
def State.dispFree (s : State) (p : Nat) : State :=
  let t := s.tdie p
  match t.dbuf with
  | (c, cent) :: rest =>
    if t.going && !s.tokWaits (fun k => k.opc == 0x20 && k.tok.odie == p && k.tok.cent == cent && k.tok.ctx == c) then
      s.setTdie p { t with dbuf := rest, going := false }
    else s
  | [] => s
/-- A token whose dispatch ends without packets leaves the buffer. -/
def TxuDie.dropTok (t : TxuDie) (x : Nat × Nat) : TxuDie :=
  let n := if t.going then 1 else 0
  { t with dbuf := t.dbuf.take n ++ (t.dbuf.drop n).filter (fun y => y != x) }

/-- Settle every choice of a token still waiting. -/
def CombEnt.settle (e : CombEnt) (st : ChSt) : CombEnt := { e with st := e.st.map (fun x => if x = .wait then st else x) }

/-- Distinct destinations in order of the lowest choice that names each. -/
def destsOf : List Target → List (Nat × Nat)
  | [] => []
  | t :: ts => (t.dev, t.die) :: (destsOf ts).filter (fun d => d != (t.dev, t.die))

/-- Send a token's row to the queues of `mask` on each destination. -/
def State.sendRow (s : State) (p c cent : Nat) (row : List Byte) (dests : List ((Nat × Nat) × Nat)) : State :=
  let cs := rowChunks row
  let bank := some s.activeBank
  dests.foldl (fun s d =>
    cs.foldl (fun s ch =>
      s.sendTok 0x20 d.1.1 (s.ctxPart c) bank ⟨d.1.2, ch.1, cs.length - 1, p, cent, c⟩ d.2 0 ch.2) s) s

/-- Queues of a destination among targets: the packet's QMASK. -/
def qmaskOf (ts : List Target) (d : Nat × Nat) : Nat :=
  ts.foldl (fun m t => if (t.dev, t.die) = d then m ||| 2 ^ t.queue else m) 0

/-- The oldest token of a die's dispatch buffer goes, once the one before it has been sent (R381). -/
def State.dispatch (s : State) (p : Nat) : State :=
  match (s.tdie p).dbuf with
  | [] => s
  | (c, cent) :: rest =>
    let key := entKey c cent
    if (s.tdie p).going then s
    else match s.ent p key with
    | none => s.setTdie p { s.tdie p with dbuf := rest }
    | some e =>
      if e.batches ≠ [] then s
      else match s.txuRead p key c (txuDisp p) e.token (2 * s.ctxHidden c) with
        | (.error true, b, s1) => s1.setEnt p key (some { e with batches := b })
        | (.error false, _, s1) =>
          (s1.setEnt p key (some (e.settle (.failed 2)))).setTdie p { (s1.setEnt p key (some (e.settle (.failed 2)))).tdie p with dbuf := rest }
        | (.ok row, _, s1) =>
          let ts := e.slots.map (fun x => placeTarget (s1.place c x))
          let s2 := s1.setEnt p key (some { e with targets := ts, sent := true })
          let s3 := s2.setTdie p { s2.tdie p with going := true }
          ((s3.count (pmcDie p 69) 2 1).sendRow p c cent row ((destsOf ts).map (fun d => (d, qmaskOf ts d)))).dispFree p

/-! ### Expert input queues (R383-R388) -/

def eqCfg (p q : Nat) : Reg := ⟨.txuEqCfg, p, q, 0⟩
def State.eqF (s : State) (p q hi lo : Nat) : Nat := s.rf (eqCfg p q) hi lo
def State.tmplAddr (s : State) (p q stage : Nat) : Nat := s.rf ⟨.txuEqTmpl, p, q, 0⟩ 55 7 * 128 + 128 * stage
/-- Number that names expert queue `q` among the TXU's waiters. -/
def eqWaiter (q : Nat) : Nat := 2 ^ 20 + q

/-- A FAIL to the origin (R384, R388), logged (log entry 32). -/
def State.sendFail (s : State) (p src part status : Nat) (t : TokAddr) (mask : Nat) : State :=
  (s.sendTok 0x24 src part none t mask status []).evlog p status t.ctx ((maskBits 32 mask).headD 0) 1 src

/-- The conversion of a chunk into a queue's IFMT (R386): element bytes and scale bytes. -/
def convertChunk (ifmt : Nat) (bs : List Byte) : List Byte × List Byte :=
  if ifmt = 4 then (bs, [])
  else
    let vs := (chunksOf 2 (bs.length / 2 + 1) bs).map (fun x => fpDecode bf16 (leNat x))
    let blocks := chunksOf 32 (vs.length / 32 + 1) vs
    let one := fun b => let X := mxScale ifmt b; (X, b.map (mxElem ifmt X .rne))
    let rs := blocks.map one
    (packBytes (fmtBits ifmt) (rs.map (fun r => r.2)).flatten, rs.map (fun r => BitVec.ofNat 8 r.1))

/-- The slot of an arriving row that its later chunks find (R385). -/
def Eq32.find (e : Eq32) (src odie cent : Nat) : Option Nat :=
  (e.slots.find? (fun x => match x.2 with
    | some v => v.src == src && v.odie == odie && v.cent == cent && !v.ready
    | none => false)).map (fun x => x.1)

/-- The next free slot in ring order (R385). -/
def Eq32.free (e : Eq32) (cap : Nat) : Option Nat :=
  ((List.range cap).map (fun i => (e.next + i) % cap)).find? (fun i => SMap.get none e.slots i == none)
/-- A slot is freed. -/
def Eq32.drop (e : Eq32) (i : Nat) : Eq32 := { e with slots := SMap.set none e.slots i none, order := e.order.filter (· != i) }
/-- A row that can not go on gives its slot back. -/
def State.dropRow (s : State) (p q : Nat) (pk : Packet) : State :=
  let e := s.eq32 p q
  match e.find pk.src pk.tok.odie pk.tok.cent with
  | some i => s.setEq p q (e.drop i)
  | none => s

/-- What a DISP chunk does at one queue. -/
inductive DispAct where
  | write (slot : Nat) (new : Bool) (a : List Piece) (sc : List Piece) (data scales : List Byte)
  | full
  | drop
  | denied

/-- Plan a chunk at a queue: its slot, and the places its bytes go to; `.error` while held on a fault. -/
def State.dispPlan (s : State) (p q : Nat) (pk : Packet) : Except (List Nat) DispAct × State :=
  let t := pk.tok
  let e := s.eq32 p q
  let cap := s.eqF p q 22 10
  let slot : Option (Nat × Bool) :=
    if t.chunk = 0 then (e.free cap).map (fun x => (x, true))
    else (e.find pk.src t.odie t.cent).map (fun x => (x, false))
  match slot with
  | none => (.ok (if t.chunk = 0 then .full else .drop), s)
  | some (sl, new) =>
    match s.txuRead p (eqWaiter q) t.ctx (txuDisp p) (s.tmplAddr p q 0) 128 with
    | (.error true, b, s1) => (.error b, s1)
    | (.error false, _, s1) => (.ok .denied, s1)
    | (.ok tb, _, s1) =>
      let tm : Aop := leNat tb
      let ifmt := s.eqF p q 9 5
      let (data, scales) := convertChunk ifmt pk.data
      let a := (tm.aAddr + sl * tm.aStride + t.chunk * (256 * fmtBits ifmt)) % 2 ^ 56
      let sc := (tm.asAddr + sl * tm.asStride + t.chunk * 64) % 2 ^ 56
      match State.txuPages p (eqWaiter q) t.ctx (txuDisp p) .wr (pagesOf a data.length) s1 with
      | (none, b, s2) => (.error b, s2)
      | (some la, _, s2) =>
        match State.txuPages p (eqWaiter q) t.ctx (txuDisp p) .wr (pagesOf sc scales.length) s2 with
        | (none, b, s3) => (.error b, s3)
        | (some ls, _, s3) => (.ok (.write sl new la ls data scales), s3)

/-- Plan every queue of a packet; held on the first that faults. -/
def State.dispPlans (p : Nat) (pk : Packet) : List Nat → State → Except (List Nat) (List (Nat × DispAct)) × State
  | [], s => (.ok [], s)
  | q :: qs, s =>
    match s.dispPlan p q pk with
    | (.error b, s1) => (.error b, s1)
    | (.ok a, s1) =>
      match State.dispPlans p pk qs s1 with
      | (.ok r, s2) => (.ok ((q, a) :: r), s2)
      | (.error b, s2) => (.error b, s2)

/-- Carry out a plan at one queue. -/
def State.dispDo (s : State) (p part : Nat) (pk : Packet) (loc : Bool) (qa : Nat × DispAct) : State :=
  let q := qa.1
  let t := pk.tok
  match qa.2 with
  | .drop => s
  | .denied => (s.dropRow p q pk).sendFail p pk.src part 2 t (2 ^ q)
  | .full =>
    let e := s.eq32 p q
    if s.ctx t.ctx 36 36 = 0 then
      ((s.setEq p q { e with holds := min (e.holds + 1) 0xFFFF }).count (pmcDie p 69) 4 1).sendTok 0x22 pk.src part none { t with chunk := 0, last := 0 } (2 ^ q) 0 []
    else ((s.setEq p q { e with passes := min (e.passes + 1) 0xFFFF }).count (pmcDie p 69) 5 1).sendTok 0x23 pk.src part none t (2 ^ q) 0 []
  | .write sl new la ls data scales =>
    let (ok, s1) := s.writeLocs (txuDisp p) 0 la data
    let (ok2, s2) := s1.writeLocs (txuDisp p) 0 ls scales
    let e := s2.eq32 p q
    if !(ok && ok2) then
      (s2.dropRow p q pk).sendFail p pk.src part 2 t (2 ^ q)
    else
      let v : EqSlot := { src := pk.src, odie := t.odie, cent := t.cent, ctx := t.ctx, loc := loc, ready := t.chunk == t.last }
      let s2 := if t.chunk = t.last then s2.count (pmcDie p 69) 3 1 else s2
      s2.setEq p q { e with slots := SMap.set none e.slots sl (some v),
                            next := if new then (sl + 1) % s.eqF p q 22 10 else e.next,
                            order := if new then e.order ++ [sl] else e.order }

/-- Packets of one row go in order: is an earlier one of this packet's row held? -/
def State.rowWaits (s : State) (p : Nat) (pk : Packet) : Bool :=
  let row := fun (x : Packet) => (x.opc, x.src, { x.tok with chunk := 0, last := 0 }.bits, if x.opc = 0x20 then 0 else x.aux % 32)
  (s.tdie p).held.any (fun h => row h.pkt == row pk)
/-- Hold a packet at a die. -/
def State.holdPkt (s : State) (p : Nat) (h : TxuHeld) : State := s.setTdie p { s.tdie p with held := (s.tdie p).held ++ [h] }

/-- A DISP chunk arrives at an expert die (R384-R386). -/
def State.recvDisp (s : State) (pk : Packet) (loc : Bool) : State :=
  let t := pk.tok
  let p := t.tdie
  let own := s.dieOwner p
  let part := own.getD 0
  let mask := pk.aux % 2 ^ 32
  let ok := own == some (s.ctxPart t.ctx) &&
    (loc || (match s.remoteTag pk.src pk.srcpart with | some (_, i) => own == some i | none => false))
  if !ok then s.sendFail p pk.src part 2 t mask
  else if pk.plvl > s.trl.max ∨ pk.plvl < s.ptr.image.floor then s.sendFail p pk.src part 7 t mask
  else match nth .unused s.ptr.parts part with
    | .contained => s.sendFail p pk.src part 6 t mask
    | .applying => s.sendFail p pk.src part 5 t mask
    | _ =>
      if (s.tdie p).stopped then s.sendFail p pk.src part 6 t mask
      else if s.rowWaits p pk then s.holdPkt p ⟨pk, loc, [], none⟩
      else
        let qs := maskBits 32 mask
        let good := qs.filter (fun q => s.eqF p q 4 1 == t.ctx &&
          (s.eqF p q 0 0 == 1 || (t.chunk != 0 && ((s.eq32 p q).find pk.src t.odie t.cent).isSome)))
        let badMask := (qs.filter (fun q => !good.contains q)).foldl (fun m q => m ||| 2 ^ q) 0
        let s1 := if badMask ≠ 0 then s.sendFail p pk.src part 4 t badMask else s
        match State.dispPlans p pk good s1 with
        | (.error b, s2) =>
          let only := { pk with hdr := natPut pk.hdr 255 224 (good.foldl (fun m q => m ||| 2 ^ q) 0) }
          s2.holdPkt p ⟨only, loc, b, good.head?.map eqWaiter⟩
        | (.ok as, s2) => as.foldl (fun s a => s.dispDo p part pk loc a) s2

/-- Consecutive READY slots from the oldest not yet submitted, to the end of the ring at most (R387). -/
def Eq32.run (e : Eq32) : Nat → Nat → Nat
  | 0, _ => 0
  | f + 1, i =>
    match SMap.get none e.slots i with
    | some v => if v.ready && !v.submitted then e.run f (i + 1) + 1 else 0
    | none => 0

/-- Set a stage AOP's fields from its template (R387). -/
def stageAop (tm : Aop) (rows slot : Nat) : Aop :=
  let a := natPut tm (32 * 2 + 23) (32 * 2) rows
  let a := natPut a 215 160 ((tm.aAddr + slot * tm.aStride) % 2 ^ 56)
  let a := if tm.asAddr = 0 then a else natPut a 311 256 ((tm.asAddr + slot * tm.asStride) % 2 ^ 56)
  let a := natPut a 727 672 ((tm.outAddr + slot * tm.outStride) % 2 ^ 56)
  natPut a (32 * 26 + 15) (32 * 26) slot

def State.updChunk (s : State) (p q id : Nat) (f : EqChunk → EqChunk) : State :=
  let e := s.eq32 p q
  s.setEq p q { e with chunks := e.chunks.map (fun c => if c.id = id then f c else c) }

/-- The rows of a chunk whose results are still to be formed. -/
def EqChunk.left (c : EqChunk) : List Nat := upFrom (c.first + c.out) (c.rows - c.out)
/-- A chunk ends: the slots of rows that have sent nothing are freed. -/
def State.freeChunk (s : State) (p q : Nat) (c : EqChunk) : State :=
  let e := s.eq32 p q
  s.setEq p q { e with slots := c.left.foldl (fun m i => SMap.set none m i none) e.slots,
                       chunks := e.chunks.filter (fun x => x.id != c.id) }
/-- Slots whose results have been sent are free (R388). -/
def State.slotFree (s : State) (p q : Nat) : State :=
  let e := s.eq32 p q
  let waits := fun (v : EqSlot) => s.tokWaits (fun k => k.opc == 0x21 && k.tok.tdie == p && k.aux % 32 == q && k.dst == v.src &&
    k.tok.odie == v.odie && k.tok.cent == v.cent && k.tok.ctx == v.ctx)
  let gone := e.slots.filter (fun x => match x.2 with | some v => v.sent && !waits v | none => false)
  s.setEq p q (gone.foldl (fun e x => e.drop x.1) e)
/-- A TOK packet has been sent: what waited for that. -/
def State.tokSent (s : State) (k : Packet) : State :=
  if k.cls ≠ 2 then s else if k.opc = 0x20 then s.dispFree k.tok.odie else if k.opc = 0x21 then s.slotFree k.tok.tdie (k.aux % 32) else s

/-- Each row of a chunk is answered with FAIL, and its slot freed (R388). -/
def State.failChunk (s : State) (p q : Nat) (c : EqChunk) (status : Nat) : State :=
  let e := s.eq32 p q
  let rows := c.left.filterMap (fun i => SMap.get none e.slots i)
  let s1 := rows.foldl (fun s v => s.sendFail p v.src (s.ctxPart v.ctx) status ⟨p, 0, 0, v.odie, v.cent, v.ctx⟩ (2 ^ q)) s
  s1.freeChunk p q c

/-- Submit a chunk's current stage to the die's sequencer; a fault of the template's read holds it. -/
def State.submitStage (s : State) (p q : Nat) (c : EqChunk) : State :=
  let ctx := s.eqF p q 4 1
  match s.txuRead p (eqWaiter q) ctx (txuDisp p) (s.tmplAddr p q c.stage) 128 with
  | (.error true, b, s1) => s1.updChunk p q c.id (fun x => { x with batches := b })
  | (.error false, _, s1) => s1.failChunk p q c 2
  | (.ok tb, _, s1) =>
    let aop := stageAop (leNat tb) c.rows c.first
    let s2 := s1.updChunk p q c.id (fun x => { x with todo := false, done := none, batches := [] })
    s2.setTdie p { s2.tdie p with aops := (s2.tdie p).aops ++ [{ queue := q, chunk := c.id, aop := aop, ctx := ctx }] }

/-- Submit a chunk of the READY rows (R387); `force`: the WAIT of the oldest has passed. -/
def State.submitChunk (s : State) (p q : Nat) (force : Bool) : State :=
  let e := s.eq32 p q
  let cap := s.eqF p q 22 10
  let lim := s.eqF p q 28 23
  let first := e.order.headD 0
  let run := if e.order = [] then 0 else min lim (e.run (cap - first) first)
  if run = 0 ∨ (!force ∧ run < lim) ∨ (s.tdie p).stopped then s
  else
    let c : EqChunk := { id := e.nextChunk, first := first, rows := run }
    let mark := fun m i => SMap.modify none m i (fun v => v.map (fun x : EqSlot => { x with submitted := true }))
    let s1 := s.setEq p q { e with slots := (upFrom first run).foldl mark e.slots,
                                   order := e.order.filter (fun i => !(upFrom first run).contains i),
                                   chunks := e.chunks ++ [c], nextChunk := e.nextChunk + 1 }
    s1.submitStage p q c

/-- Read and send the results of a chunk's rows (R388). -/
def State.sendResults (p q : Nat) (tm : Aop) (c : EqChunk) : List Nat → State → Except (List Nat) Bool × State
  | [], s => (.ok true, s)
  | i :: is, s =>
    match SMap.get none (s.eq32 p q).slots i with
    | none => State.sendResults p q tm c is s
    | some v =>
      let n := s.ctxHidden v.ctx * (if s.ctx v.ctx 39 39 = 1 then 4 else 2)
      match s.txuRead p (eqWaiter q) v.ctx (txuDisp p) ((tm.outAddr + (i - c.first) * tm.outStride) % 2 ^ 56) n with
      | (.error true, b, s1) => (.error b, s1)
      | (.error false, _, s1) => (.ok false, s1)
      | (.ok row, _, s1) =>
        let cs := rowChunks row
        let s2 := cs.foldl (fun s ch =>
          s.sendTok 0x21 v.src (s.ctxPart v.ctx) none ⟨p, ch.1, cs.length - 1, v.odie, v.cent, v.ctx⟩ q 0 ch.2) s1
        let e := s2.eq32 p q
        let s3 := s2.setEq p q { e with slots := SMap.set none e.slots i (some { v with sent := true }) }
        State.sendResults p q tm c is ((s3.updChunk p q c.id (fun x => { x with out := i + 1 - c.first })).slotFree p q)

/-- A stage AOP has completed (R388): the next stage, the results, or FAILs. -/
def State.stageDone (s : State) (p q : Nat) : State :=
  match (s.eq32 p q).chunks.find? (fun c => c.batches == [] && (c.done.isSome || c.todo)) with
  | none => s
  | some c =>
    match c.done with
    | none => s.submitStage p q c
    | some st =>
      if st ≠ 0 then s.failChunk p q c st
      else if c.stage < s.eqF p q 30 29 then
        let c1 := { c with stage := c.stage + 1, done := none, todo := true }
        (s.updChunk p q c.id (fun _ => c1)).submitStage p q c1
      else
        let ctx := s.eqF p q 4 1
        match s.txuRead p (eqWaiter q) ctx (txuDisp p) (s.tmplAddr p q c.stage) 128 with
        | (.error true, b, s1) => s1.updChunk p q c.id (fun x => { x with batches := b })
        | (.error false, _, s1) => s1.failChunk p q c 2
        | (.ok tb, _, s1) =>
          let tm := stageAop (leNat tb) c.rows c.first
          let now := fun (s : State) => ((s.eq32 p q).chunks.find? (fun x => x.id == c.id)).getD c
          match State.sendResults p q tm c c.left s1 with
          | (.ok true, s2) => s2.freeChunk p q (now s2)
          | (.ok false, s2) => s2.failChunk p q (now s2) 2
          | (.error b, s2) => s2.updChunk p q c.id (fun x => { x with batches := b })

/-! ### At the origin (R389-R391) -/

/-- The choice of an entry that a target names, and its state. -/
def CombEnt.choice (e : CombEnt) (t : Target) : Option Nat := (List.range e.targets.length).find? (fun j => nth ⟨0, 0, 0⟩ e.targets j == t)

def CombEnt.setChoice (e : CombEnt) (j : Nat) (st : ChSt) : CombEnt := { e with st := e.st.set j st }

/-- Staging row of a choice (R389). -/
def State.stageRow (s : State) (p c cent j : Nat) : Nat :=
  let rrow := s.ctxHidden c * (if s.ctx c 39 39 = 1 then 4 else 2)
  (s.rf ⟨.txuCtxStage, 0, c, 0⟩ 55 6 * 64 + ((p * s.ctx c 53 40 + cent) * s.ctx c 35 31 + j) * rrow) % 2 ^ 56

/-- Settle the waiting choices that a packet's queues name. -/
def State.settlePkt (s : State) (pk : Packet) (st : ChSt) : State :=
  let t := pk.tok
  let key := entKey t.ctx t.cent
  s.updEnt t.odie key (fun e => (maskBits 32 (pk.aux % 2 ^ 32)).foldl (fun e q =>
    match e.choice ⟨pk.src, t.tdie, q⟩ with
    | some j => if nth .wait e.st j = .wait then e.setChoice j st else e
    | none => e) e)

/-- A RESULT chunk arrives at the origin (R389). -/
def State.recvResult (s : State) (pk : Packet) (loc : Bool) : State :=
  let t := pk.tok
  let p := t.odie
  let key := entKey t.ctx t.cent
  match s.ent p key with
  | none => s
  | some e =>
    match e.choice ⟨pk.src, t.tdie, pk.aux % 32⟩ with
    | none => s
    | some j =>
      if nth .passed e.st j ≠ .wait then s
      else
        let s0 := if loc then s else s.meterRx (some (s.ctxPart t.ctx)) pk
        if s0.rowWaits p pk then s0.holdPkt p ⟨pk, true, [], none⟩ else
        let va := (s0.stageRow p t.ctx t.cent j + 4096 * t.chunk) % 2 ^ 56
        match State.txuPages p key t.ctx (txuComb p) .wr (pagesOf va pk.len) s0 with
        | (none, b, s1) => s1.holdPkt p ⟨pk, true, b, some key⟩
        | (some ls, _, s1) =>
          match s1.writeLocs (txuComb p) 0 ls pk.data with
          | (false, s2) => s2.setEnt p key (some (e.setChoice j (.failed 2)))
          | (true, s2) => if t.chunk = t.last then s2.setEnt p key (some (e.setChoice j .result)) else s2

/-- A held packet is taken up again. -/
def State.heldGo (s : State) (h : TxuHeld) : State := if h.pkt.opc = 0x20 then s.recvDisp h.pkt h.loc else s.recvResult h.pkt h.loc
/-- Held packets that wait for no batch are tried again, in order: their page or stack may serve them, and their row may go on. -/
def State.heldAgain (s : State) (p : Nat) : State :=
  let t := s.tdie p
  let stays := fun (h : TxuHeld) => h.batches != [] || (s.xdie p).waiting.any (fun w => h.wid.any (fun i => w.waiter == .txu p i))
  (t.held.filter (fun h => !stays h)).foldl State.heldGo (s.setTdie p { t with held := t.held.filter stays })
def State.heldAll (s : State) : State := (List.range 8).foldl (fun s p => if (s.tdie p).held = [] then s else s.heldAgain p) s

/-- A HOLD leaves the choice waiting and schedules the row again (R389). -/
def State.recvHold (s : State) (pk : Packet) (loc : Bool) : State :=
  let t := pk.tok
  let s0 := if loc then s else s.meterRx (some (s.ctxPart t.ctx)) pk
  s0.updEnt t.odie (entKey t.ctx t.cent) (fun e => (maskBits 32 (pk.aux % 2 ^ 32)).foldl (fun e q =>
    match e.choice ⟨pk.src, t.tdie, q⟩ with
    | some j => if nth .passed e.st j = .wait ∧ !e.retry.contains j then { e with retry := e.retry ++ [j] } else e
    | none => e) e)

/-- The row is sent again to the queues that held it; a context now disabled fails the choices (R389, R392). -/
def State.holdRetry (s : State) (p c cent : Nat) : State :=
  let key := entKey c cent
  match s.ent p key with
  | none => s
  | some e =>
    let js := e.retry.filter (fun j => nth .passed e.st j == .wait)
    if e.retry = [] ∨ e.batches ≠ [] then s
    else if !s.ctxEn c then
      s.setEnt p key (some (js.foldl (fun e j => e.setChoice j (.failed 4)) { e with retry := [] }))
    else match s.txuRead p key c (txuDisp p) e.token (2 * s.ctxHidden c) with
      | (.error true, b, s1) => s1.setEnt p key (some { e with batches := b })
      | (.error false, _, s1) => s1.setEnt p key (some (js.foldl (fun e j => e.setChoice j (.failed 2)) { e with retry := [] }))
      | (.ok row, _, s1) =>
        let ts := js.map (fun j => nth ⟨0, 0, 0⟩ e.targets j)
        (s1.setEnt p key (some { e with retry := [] })).sendRow p c cent row ((destsOf ts).map (fun d => (d, qmaskOf ts d)))

/-- The sum of one element over the choices that returned a result, from `acc` (R390). -/
def combineSum (acc : Nat) : List (Nat × Nat) → Nat
  | [] => acc
  | (w, r) :: l => combineSum (fpFma fp32 .rne w r acc).1 l

def elemAt (w : Nat) (row : List Byte) (i : Nat) : Nat := leNat ((row.drop (w * i)).take w)

/-- The combined row (R390). -/
def State.combineRow (s : State) (c : Nat) (e : CombEnt) (dest : List Byte) (rows : List (Nat × List Byte)) : List Byte :=
  let cw := if s.ctx c 38 38 = 1 then 2 else 4
  let rw := if s.ctx c 39 39 = 1 then 4 else 2
  let widen := fun w x => if w = 2 then x * 2 ^ 16 else x
  (List.range (s.ctxHidden c)).flatMap (fun i =>
    let acc := if s.ctx c 37 37 = 1 then widen cw (elemAt cw dest i) else 0
    let acc := combineSum acc (rows.map (fun r => (nth 0 e.weights r.1, widen rw (elemAt rw r.2 i))))
    leBytes cw (if cw = 4 then acc else cvtFp bf16 .rne (fpDecode fp32 acc)))

/-- Read the staging rows of the choices that returned a result. -/
def State.readRows (p c cent key n : Nat) : List Nat → State → Except (List Nat) (Option (List (Nat × List Byte))) × State
  | [], s => (.ok (some []), s)
  | j :: js, s =>
    match s.txuRead p key c (txuComb p) (s.stageRow p c cent j) n with
    | (.error true, b, s1) => (.error b, s1)
    | (.error false, _, s1) => (.ok none, s1)
    | (.ok row, _, s1) =>
      match State.readRows p c cent key n js s1 with
      | (.ok (some r), s2) => (.ok (some ((j, row) :: r)), s2)
      | r => r

def locIsNear (x : Piece) : Bool :=
  match x.loc with
  | .dev a => (match placeOf a with | .near _ => true | _ => false)
  | _ => false

/-- Free a token's entry, advancing the context's counters (R390); `failed`: the destination is not written, for `why`. -/
def State.tokenEnd (s : State) (p c key : Nat) (e : CombEnt) (failed : Bool) (why : Nat := 2) : State :=
  let fst := e.st.find? (fun x => match x with | .failed _ => true | _ => false)
  let isFail := failed || fst.isSome
  let s1 := s.ctxCount c (!failed) (e.st.contains .passed) isFail
  let s2 := if isFail then
      let st := match fst with | some (.failed x) => x | _ => why
      let j := (List.range e.st.length).find? (fun j => match nth .wait e.st j with | .failed _ => true | _ => false)
      let t := nth ⟨0, 0, 0⟩ e.targets (j.getD 0)
      (s1.evlog p st c t.queue 0 t.dev).raise p 227
    else s1
  s2.setEnt p key none

/-- Every choice of a token has settled: the weighted sum is written and the entry freed (R390). -/
def State.combine (s : State) (p c cent : Nat) : State :=
  let key := entKey c cent
  match s.ent p key with
  | none => s
  | some e =>
    if e.st.contains .wait ∨ e.batches ≠ [] ∨ (s.tdie p).stopped then s
    else
      let rn := s.ctxHidden c * (if s.ctx c 39 39 = 1 then 4 else 2)
      let dn := s.ctxHidden c * (if s.ctx c 38 38 = 1 then 2 else 4)
      let js := (List.range e.st.length).filter (fun j => nth .wait e.st j == .result)
      match State.readRows p c cent key rn js s with
      | (.error b, s1) => s1.setEnt p key (some { e with batches := b })
      | (.ok none, s1) => s1.tokenEnd p c key e true
      | (.ok (some rows), s1) =>
        let rd := if s.ctx c 37 37 = 1 then s1.txuRead p key c (txuComb p) e.dest dn else (.ok [], [], s1)
        match rd with
        | (.error true, b, s2) => s2.setEnt p key (some { e with batches := b })
        | (.error false, _, s2) => s2.tokenEnd p c key e true
        | (.ok dest, _, s2) =>
          match State.txuPages p key c (txuComb p) .wr (pagesOf e.dest dn) s2 with
          | (none, b, s3) => s3.setEnt p key (some { e with batches := b })
          | (some ls, _, s3) =>
            if !ls.all locIsNear then s3.tokenEnd p c key e true
            else match s3.writeLocs (txuComb p) 0 ls (s3.combineRow c e dest rows) with
              | (true, s4) => (s4.count (pmcDie p 69) 6 1).tokenEnd p c key e false
              | (false, s4) => s4.tokenEnd p c key e true

/-! ### PLACE (R378) -/

def State.placeWrite (s : State) (c first : Nat) (words : List Nat) : State :=
  let b := s.slotBase c
  { s with txu := { s.txu with place := (words.zipIdx).foldl (fun m w => SMap.set 0 m (b + first + w.2) w.1) s.txu.place } }

/-- Die whose DMA reads PLACE's entries and COLL's operands: the queue's partition's lowest (log entry 33). -/
def State.homeDie (s : State) (q : Nat) : Nat := match s.queueOwner q with | some i => (s.entry i).lowDie | none => 0

/-- The descriptor a command starts, or one it started before and that no longer waits for a fault. -/
def State.opDesc (s : State) (q ty opc : Nat) : Option QDesc :=
  match (s.queue q).flight.find? (fun d => d.st == .running && d.opcode == opc) with
  | some d => if s.qType q = ty ∧ d.batches = [] then some d else none
  | none => s.startOp q ty opc

def State.doPlace (s : State) (q : Nat) (d : QDesc) (hostErr : Nat) : State :=
  let c := d.f 4 3 0
  let first := d.f 5 16 0
  let count := d.f 6 17 0
  let p := s.homeDie q
  if d.f 4 31 4 ≠ 0 ∨ d.f 5 31 17 ≠ 0 ∨ d.f 6 31 18 ≠ 0 ∨ d.f 7 31 0 ≠ 0 ∨ d.f 9 31 24 ≠ 0 ∨ !d.zeroFrom 10 ∨ count = 0 ∨ 65536 < count ∨ s.slotsOf c < first + count
      ∨ 2 ^ 56 < d.addr 8 + 4 * count then s.descDone q d.ix 1 0 0
  else if some (s.ctxPart c) ≠ s.queueOwner q then s.descDone q d.ix 2 0 0
  else match State.descPages q d.ix p .rd hostErr (pagesOf (d.addr 8) (4 * count)) s with
    | (none, s1) => s1.descRun q d.ix
    | (some ls, s1) =>
      match State.readLocs (dmaMaster p q d.ix) hostErr 0 ls s1 with
      | (none, s2) => s2.descDone q d.ix (s1.failStatus s2 q) 0 0
      | (some bs, s2) =>
        let words := (chunksOf 4 count bs).map leNat
        if words.any (fun w => natBits w 30 26 != 0) then s2.descDone q d.ix 1 0 0
        else (s2.placeWrite c first words).descDone q d.ix 0 0 0

end Sys2Proof.Machine
end

