-- ==== Sys2Proof/Machine/Array.lean ====
section
/-! DEFINITION. Operations of the array sequencer and the array (spec/03_sprinbet_dataflow R74-R101;
spec/04_sprinbet_operations R102-R124): geometry of passes, slices and their identity, vectors, accumulation, halts, and the
ends of operations. -/

namespace Sys2Proof.Machine

/-! ### Gangs (03 R94, R95) -/

def State.gangLog (s : State) (p : Nat) : Nat := match s.dieOwner p with | some i => (s.entry i).gang | none => 0
/-- Master die of a die's gang, and the gang's dies by rank. -/
def State.gangMaster (s : State) (p : Nat) : Nat := p / 2 ^ s.gangLog p * 2 ^ s.gangLog p
def State.gang (s : State) (p : Nat) : List Nat := upFrom (s.gangMaster p) (2 ^ s.gangLog p)
def State.isMaster (s : State) (p : Nat) : Bool := s.gangMaster p == p
def State.rank (s : State) (p : Nat) : Nat := p - s.gangMaster p
/-- Master IDs of a die's loaders and of its Sage engine (01 R28). -/
def loaderM (p : Nat) : Nat := 0x280 + p
def sageM (p : Nat) : Nat := 0x288 + p

/-! ### Shape of an operation (03 R74; 04 R108, R117) -/

def noAop : AopRec := { aop := 0, src := .cring 0, ix := 0, asid := 0, func := none }
def noReq : Req := { aopr := noAop, row0 := 0, rows := 0 }
/-- The AOP of the first requester. A gathered operation takes the fields its key does not hold, REUSE among them, from it (DESIGN
CHOICE, log entry 100). -/
def ArrOp.aop (o : ArrOp) : Aop := match o.reqs with | r :: _ => r.aopr.aop | [] => 0
/-- The requester through whose translations W, its metadata and a bias are read: the first that no function-level reset has removed
(R121, R122); by their key all name the same bytes. -/
def ArrOp.lead (o : ArrOp) : AopRec := match o.reqs.find? (fun r => !r.removed) with | some r => r.aopr | none => (o.reqs.headD noReq).aopr
def ArrOp.m (o : ArrOp) : Nat := (o.reqs.map (fun r => r.rows)).foldl (· + ·) 0
def ArrOp.cls (o : ArrOp) : FmtClass := o.aop.cls.getD .h16
/-- Tiles per row group and rows per tile; a gathered operation is one tile. -/
def ArrOp.ts (o : ArrOp) : Nat := if o.gathered then 1 else o.aop.group + 1
def ArrOp.tm (o : ArrOp) : Nat := if o.gathered then o.m else o.aop.tileM
def ArrOp.groupRows (o : ArrOp) : Nat := o.ts * o.tm
def ArrOp.rowGroups (o : ArrOp) : Nat := ceilDiv o.m o.groupRows
def ArrOp.kPasses (o : ArrOp) : Nat := ceilDiv o.aop.k o.cls.kv
def ArrOp.passes (o : ArrOp) (g : Nat) : Nat := ceilDiv o.aop.n (512 * g) * o.rowGroups * o.kPasses

/-- A pass: its column block, row group and K slice. -/
structure Pass where
  nb : Nat
  rg : Nat
  kp : Nat
  deriving DecidableEq, Repr

def ArrOp.passAt (o : ArrOp) (i : Nat) : Pass :=
  ⟨i / (o.rowGroups * o.kPasses), i / o.kPasses % o.rowGroups, i % o.kPasses⟩
/-- First row of a row group, its rows and its tiles. -/
def ArrOp.row0 (o : ArrOp) (x : Pass) : Nat := x.rg * o.groupRows
def ArrOp.passRows (o : ArrOp) (x : Pass) : Nat := min (o.row0 x + o.groupRows) o.m - o.row0 x
def ArrOp.tiles (o : ArrOp) (x : Pass) : Nat := min o.ts (ceilDiv (o.m - o.row0 x) o.tm)
/-- First K index of a slice and the indices it holds. -/
def ArrOp.k0 (o : ArrOp) (x : Pass) : Nat := x.kp * o.cls.kv
def ArrOp.kc (o : ArrOp) (x : Pass) : Nat := min o.cls.kv (o.aop.k - o.k0 x)
/-- First column of a rank in a column block, and its tile width W; a die whose width is zero takes no part (R94). -/
def ArrOp.n0 (o : ArrOp) (g : Nat) (x : Pass) (rank : Nat) : Nat := x.nb * 512 * g + rank * 512
def ArrOp.cols (o : ArrOp) (g : Nat) (x : Pass) (rank : Nat) : Nat := min 512 (o.aop.n - o.n0 g x rank)
/-- Cell rows a slice uses. -/
def ArrOp.cellRows (o : ArrOp) (x : Pass) : Nat := ceilDiv (o.kc x) o.cls.perRow
/-- The bias and the residual row an element needs, numbered per column block. -/
def ArrOp.biasIx (o : ArrOp) (x : Pass) : Nat := x.nb * o.rowGroups + x.rg
def ArrOp.residIx (o : ArrOp) (x : Pass) (row : Nat) : Nat := x.nb * o.m + row

/-- Requester that owns a row of the operation, by index. -/
def ArrOp.reqOf (o : ArrOp) (row : Nat) : Option Nat :=
  (List.range o.reqs.length).find? (fun i => match o.reqs[i]? with
    | some r => decide (r.row0 ≤ row) && decide (row < r.row0 + r.rows)
    | none => false)

def State.opOf (s : State) (p id : Nat) : Option ArrOp := (s.ar (s.gangMaster p)).ops.find? (fun o => o.id == id)
def State.updOp (s : State) (p id : Nat) (f : ArrOp → ArrOp) : State :=
  let m := s.gangMaster p
  let a := s.ar m
  s.setAr m { a with ops := a.ops.map (fun o => if o.id = id then f o else o) }
/-- Dies of the gang that take part in a pass. -/
def State.partDies (s : State) (p : Nat) (o : ArrOp) (x : Pass) : List Nat :=
  (s.gang p).filter (fun d => decide (0 < o.cols (s.gang p).length x (s.rank d)))

/-! ### Operand bytes through held translations (R111) -/

/-- Device physical address of a virtual address the admission translated. -/
def AopRec.pa (r : AopRec) (va : Nat) : Nat :=
  match r.pages.find? (fun h => h.page == va % 2 ^ 56 / 65536) with
  | some h => h.pa + va % 65536
  | none => va % 65536

/-- Read a virtual range as the die's loader; the bytes count as near-memory or HBM traffic (15 R412). -/
def AopRec.bytes (r : AopRec) (s : State) (va n : Nat) : List Byte :=
  ((pagesOf va n).map (fun p => Mem.readN s.mem (r.pa p.1) p.2)).flatten
/-- The default hint of the held page that lies at a device address (09 R247). -/
def AopRec.hintFor (r : AopRec) (a : Nat) : Nat :=
  match r.pages.find? (fun h => decide (h.pa ≤ a) && decide (a < h.pa + 65536)) with
  | some h => h.hint
  | none => 0
/-- Does a virtual range meet a stack that is HOT, whose port holds its requests (09 R256)? -/
def State.runHot (s : State) (r : AopRec) (va n : Nat) : Bool := (pagesOf va n).any (fun p => s.hotAt (r.pa p.1))
def AopRec.meterRead (r : AopRec) (m va n : Nat) (s : State) : State :=
  (pagesOf va n).foldl (fun s p => s.traffic m .read (r.hintFor (r.pa p.1)) (r.pa p.1) p.2) s

/-- The bytes of a virtual range as device bytes by physical address give them. -/
def AopRec.bytesVia (r : AopRec) (rd : Nat → Byte) (va n : Nat) : List Byte := (upFrom va n).map (fun v => rd (r.pa v))

/-- Element `k` of a packed column or row at `base`. -/
def AopRec.elem (r : AopRec) (rd : Nat → Byte) (base w k : Nat) : Nat :=
  let nb := (k * w % 8 + w + 7) / 8
  leNat (r.bytesVia rd (base + k * w / 8) nb) >>> (k * w % 8) % 2 ^ w

/-- Element W[k][n] as a bank holds it: an integer weight expanded (02 R58, R59), any other as stored. -/
def AopRec.weight (r : AopRec) (rd : Nat → Byte) (k n : Nat) : Nat :=
  let a := r.aop
  let w := fmtBits a.fmtW
  let q := r.elem rd (a.wAddr + n * a.wStride) w k
  if !fmtIsIntW a.fmtW then q
  else
    let g := k / 2 ^ a.glog2
    let out := if a.outfmt = 1 then e4m3 else bf16
    let v := if a.method = 1 then expandSZ w a.signed out (leNat (r.bytesVia rd (a.wmAddr + n * a.wmStride + 4 * g) 4)) q
      else expandTBL (r.bytesVia rd (a.wmAddr + n * a.wmStride + 32 * g) 32) q
    (fpEncode out .rne v).1

/-- Virtual ranges of column `n`'s elements and of its metadata for K indices `k … k+c-1`. -/
def AopRec.colRanges (r : AopRec) (n k c : Nat) : List (Nat × Nat) :=
  let a := r.aop
  let w := fmtBits a.fmtW
  let b := a.wAddr + n * a.wStride
  let m := a.wmAddr + n * a.wmStride
  let span := fun (g sz : Nat) => (m + k / g * sz, ((k + c - 1) / g + 1 - k / g) * sz)
  if c = 0 then []
  else (b + k * w / 8, ceilDiv ((k + c) * w) 8 - k * w / 8) ::
    (if fmtIsMX a.fmtW then [span 32 1] else if fmtIsIntW a.fmtW then [span (2 ^ a.glog2) (if a.method = 1 then 4 else 32)] else [])

/-- The identity of a slice (R112). -/
def ArrOp.slice (o : ArrOp) (g : Nat) (x : Pass) (rank : Nat) : SliceId :=
  let r := o.lead
  let a := r.aop
  let k0 := o.k0 x
  let rs := (upFrom (o.n0 g x rank) (o.cols g x rank)).map (fun n => r.colRanges n k0 (o.kc x))
  let pas := fun (l : List (Nat × Nat)) => l.flatMap (fun v => (pagesOf v.1 v.2).map (fun p => r.pa p.1))
  { wPages := rs.flatMap (fun l => pas (l.take 1))
    mPages := rs.flatMap (fun l => pas (l.drop 1))
    fields := [a.wStride, a.wmStride, a.fmtW, a.method, b2n a.signed, a.glog2, a.outfmt, k0, o.kc x, o.n0 g x rank,
               o.cols g x rank] }

/-- The bank in which a slice is resident, READY or ACTIVE (R112). -/
def Arr.resident (a : Arr) (id : SliceId) : Option Nat :=
  [0, 1].find? (fun b => ((a.bank b).st == .ready || (a.bank b).st == .active) && (a.bank b).slice == some id)
def Arr.activeBank (a : Arr) : Option Nat := [0, 1].find? (fun b => (a.bank b).st == .active)
/-- The bank kept for a pass of an operation. -/
def Arr.keptFor (a : Arr) (st : BankSt) (op pass : Nat) : Option Nat :=
  [0, 1].find? (fun b => (a.bank b).st == st && (a.bank b).keep.contains (op, pass))
/-- The pass starts on the die: its slice is kept for it no more. -/
def Arr.unkeep (a : Arr) (op pass : Nat) : Arr :=
  let f := fun (b : Bank) => { b with keep := b.keep.filter (· != (op, pass)) }
  { a with bankA := f a.bankA, bankB := f a.bankB }

/-! ### Reports (03 R96, R101) -/

/-- A die reports to its gang's master: at once on the master, else when READINESS_REPORT delivers it. -/
def State.report (s : State) (d : Nat) (r : Readiness) : State :=
  let a := s.ar d
  s.setAr d { a with reports := a.reports ++ [(d, r)] }
def State.reported (s : State) (p d : Nat) (r : Readiness) : Bool := (s.ar (s.gangMaster p)).reports.contains (d, r)

/-! ### The stationary loader (03 R81-R85) -/

/-- The operation and pass a die's loader takes next: in issue order, and none in a block the die takes no part in. -/
def State.loadNext (s : State) (d : Nat) : Option (ArrOp × Nat) :=
  let g := (s.gang d).length
  let next := (s.ar d).nextLoad
  ((s.ar (s.gangMaster d)).ops.filter (fun o => o.issued && o.fate == .run)).findSome? (fun o =>
    let i := SMap.get 0 next o.id
    if i < o.passes g ∧ 0 < o.cols g (o.passAt i) (s.rank d) then some (o, i) else none)

/-- K indices of bank row `r` of a slice, counted from the slice's first. -/
def ArrOp.rowKs (o : ArrOp) (x : Pass) (r : Nat) : List Nat := (upFrom (o.cls.perRow * r) o.cls.perRow).filter (fun j => decide (j < o.kc x))
/-- The 64-byte lines a bank row takes its elements and metadata from. -/
def ArrOp.rowLines (o : ArrOp) (g : Nat) (x : Pass) (rank r : Nat) : List Nat :=
  let ks := o.rowKs x r
  ((upFrom (o.n0 g x rank) (o.cols g x rank)).flatMap (fun n => (o.lead.colRanges n (o.k0 x + o.cls.perRow * r) ks.length).flatMap (fun v =>
    (pagesOf v.1 v.2).flatMap (fun p => linesOf (o.lead.pa p.1) p.2)))).eraseDups
/-- Element and metadata bytes a bank row adds (Be and Bm of R81): a group's metadata counts in the row of its first K index. -/
def ArrOp.rowBytes (o : ArrOp) (g : Nat) (x : Pass) (rank r : Nat) : Nat :=
  let a := o.aop
  let ks := o.rowKs x r
  let new := fun (n : Nat) => (ks.filter (fun j => j == 0 || (o.k0 x + j) % n == 0)).length
  let cs := o.cols g x rank
  ceilDiv (ks.length * cs * fmtBits a.fmtW) 8 +
    (if fmtIsMX a.fmtW then cs * new 32 else if fmtIsIntW a.fmtW then cs * new (2 ^ a.glog2) * (if a.method = 1 then 4 else 32) else 0)

/-- Bank row `r` of a slice out of the bytes read: elements and scale tags by their bank keys. -/
def ArrOp.bankRow (o : ArrOp) (rd : Nat → Byte) (g : Nat) (x : Pass) (rank r : Nat) : SMap Nat × SMap Nat :=
  let q := o.lead
  let a := q.aop
  let js := o.rowKs x r
  let cs := List.range (o.cols g x rank)
  let put := fun (m : SMap Nat) (k v : Nat) => SMap.set 0 m k v
  (js.foldl (fun m j => cs.foldl (fun m c => put m (j * 512 + c) (q.weight rd (o.k0 x + j) (o.n0 g x rank + c))) m) [],
   if !fmtIsMX a.fmtW then []
   else ((js.map (· / 32)).eraseDups).foldl (fun m b => cs.foldl (fun m c => put m (b * 512 + c)
     (leNat (q.bytesVia rd (a.wmAddr + (o.n0 g x rank + c) * a.wmStride + o.k0 x / 32 + b) 1))) m) [])

/-- Merge the entries of a row into a slice's. -/
def mergeMap (m r : SMap Nat) : SMap Nat := r.foldl (fun m e => SMap.set 0 m e.1 e.2) m

/-- A byte of the lines a load holds. -/
def lineByte (lines : SMap (Option Nat)) (a : Nat) : Byte :=
  BitVec.ofNat 8 ((SMap.get none lines (a / 64 * 64)).getD 0 >>> (8 * (a % 64)))

/-- The loader reads lines it does not yet hold, each whole as one access (R82); they count as its traffic (15 R412). -/
def State.readLines (s : State) (m : Nat) (r : AopRec) (ls : List Nat) (held : SMap (Option Nat)) : SMap (Option Nat) × State :=
  ls.foldl (fun (q : SMap (Option Nat) × State) l =>
    if (SMap.get none q.1 l).isSome then q
    else (SMap.set none q.1 l (some (Mem.readLE q.2.mem l 64)), q.2.traffic m .read (r.hintFor l) l 64)) (held, s)

/-- Bytes staged by the loads in hand. -/
def Arr.staged (a : Arr) : Nat := (a.loads.map (fun l => l.staged)).foldl (· + ·) 0

/-- The next row of a load, the last of those in hand, arrives in the staging buffer, space permitting (R82). -/
def State.stageRow1 (s : State) (d : Nat) (l : Load) (o : ArrOp) : State :=
  let g := (s.gang d).length
  let x := o.passAt l.pass
  let rank := s.rank d
  let n := if l.bank = none then o.rowBytes g x rank l.arrived else 0
  let a := s.ar d
  let reads := (o.rowLines g x rank l.arrived).filter (fun a => (SMap.get none l.lines a).isNone)
  if l.rows ≤ l.arrived ∨ 65536 < a.staged + n ∨ reads.any s.hotAt then s
  else
    let (lines, s1) := s.readLines (loaderM d) o.lead (o.rowLines g x rank l.arrived) l.lines
    let (es, ts) := o.bankRow (lineByte lines) g x rank l.arrived
    let next := if l.arrived + 1 < l.rows then o.rowLines g x rank (l.arrived + 1) else []
    let l1 := { l with arrived := l.arrived + 1, staged := l.staged + n, lines := lines.filter (fun e => next.contains e.1),
                       elems := mergeMap l.elems es, tags := mergeMap l.tags ts }
    s1.setAr d { s1.ar d with loads := (a.loads.dropLast) ++ [l1] }

/-- A staging read arrives: for the load in hand, or the first of the next load once every read of the load before has been issued; a
pass whose slice is resident is skipped when the operation reuses slices (R112), judged once no earlier load waits for a bank (DESIGN
CHOICE, log entry 100). -/
def State.stagingRead (s : State) (d : Nat) : State :=
  let a := s.ar d
  let begin := fun (_ : Unit) =>
    match s.loadNext d with
    | none => s
    | some (o, i) =>
      let g := (s.gang d).length
      let x := o.passAt i
      let id := o.slice g x (s.rank d)
      if o.aop.reuse && a.loads.any (fun l => l.bank == none) then s
      else match (if o.aop.reuse then a.resident id else none) with
      | some b =>
        let a1 := a.setBank b { a.bank b with keep := (a.bank b).keep ++ [(o.id, i)] }
        let s1 := s.setAr d { a1 with nextLoad := SMap.set 0 a1.nextLoad o.id (i + 1) }
        ((s1.updOp d o.id (fun o => { o with reused := true })).report d (.shadow o.id i)).count (pmcDie d 64) 6 1
      | none =>
        let l : Load := { op := o.id, pass := i, slice := id, rows := o.cellRows x }
        (s.setAr d { a with loads := a.loads ++ [l], nextLoad := SMap.set 0 a.nextLoad o.id (i + 1) }).stageRow1 d l o
  match a.loads.getLast? with
  | none => begin ()
  | some l =>
    if l.rows ≤ l.arrived then (if 2 ≤ a.loads.length then s else begin ())
    else match s.opOf d l.op with
      | some o => s.stageRow1 d l o
      | none => s

/-- May a load write a bank (R85): not ACTIVE, no vector in flight, and not a slice kept for a pass that has not started on the die? -/
def State.bankFree (s : State) (d b : Nat) : Bool :=
  let k := (s.ar d).bank b
  (k.st == .invalid || k.st == .ready) && k.inFlight == 0 &&
    !(k.st == .ready && k.keep.any (fun e => match s.opOf d e.1 with
      | some o => o.issued && o.fate == .run
      | none => false))

/-- The first write of the oldest load: with both banks open to it, it takes bank A (DESIGN CHOICE, log entry 98). -/
def State.firstWrite (s : State) (d : Nat) : State :=
  let a := s.ar d
  match a.loads with
  | l :: rest =>
    if l.bank ≠ none ∨ l.arrived = 0 then s
    else match [0, 1].find? (s.bankFree d) with
      | none => s
      | some b =>
        let a1 := a.setBank b { st := .loading, keep := [(l.op, l.pass)] }
        s.setAr d { a1 with loads := { l with bank := some b, staged := 0 } :: rest }
  | [] => s

def State.lastWrite (s : State) (d : Nat) : State :=
  let a := s.ar d
  match a.loads with
  | l :: rest =>
    match l.bank with
    | some b =>
      if l.arrived < l.rows then s
      else
        let a1 := a.setBank b { a.bank b with st := .ready, slice := some l.slice, elems := l.elems, tags := l.tags }
        ((s.setAr d { a1 with loads := rest }).report d (.shadow l.op l.pass)).count (pmcDie d 64) 5 1
    | none => s
  | [] => s

/-! ### Passes and swaps (03 R84, R86; 04 R113) -/

/-- The operation whose vectors enter: the first issued one still streaming. -/
def State.curOp (s : State) (p : Nat) : Option ArrOp :=
  (s.ar p).ops.find? (fun o => o.issued && o.fate == .run && !o.streamed)
def ArrOp.nextPass (o : ArrOp) : Nat := match o.pass with | none => 0 | some i => i + 1
/-- Have all rows of the current pass entered? -/
def ArrOp.passDone (o : ArrOp) : Bool :=
  match o.pass with | none => true | some i => decide (o.passRows (o.passAt i) ≤ o.entered)

/-- Slots a row group takes, lowest first: FREE on every die that takes part; none when too few are. -/
def State.freeSlots (s : State) (ds : List Nat) (n : Nat) : Option (List Nat) :=
  let free := (List.range 4).filter (fun j => ds.all (fun d => (nth {} (s.ar d).slots j).st == .free))
  if n ≤ free.length then some (free.take n) else none

/-- Claim slots on one die for a row group's tiles (R113). -/
def State.claimSlots (s : State) (d : Nat) (o : ArrOp) (pass : Nat) (slots : List Nat) : State :=
  let x := o.passAt pass
  let g := (s.gang d).length
  let a := s.ar d
  s.setAr d { a with slots := slots.zipIdx.foldl (fun l jt =>
    let r0 := o.row0 x + jt.2 * o.tm
    let rows := min o.tm (o.m - r0)
    l.set jt.1 { st := .filling, op := o.id, rows := rows, cols := o.cols g x (s.rank d), pass0 := pass, row0 := r0,
                 n0 := o.n0 g x (s.rank d), f64 := o.cls == .f64, left := rows * o.kPasses, touched := [] }) a.slots }

/-- A swap on one die: the READY bank of the pass becomes ACTIVE and the ACTIVE one READY; no swap when the slice is ACTIVE. -/
def Arr.swapTo (a : Arr) (op pass : Nat) : Arr :=
  let a0 := a.unkeep op pass
  match a.keptFor .active op pass, a.keptFor .ready op pass with
  | none, some b =>
    let a1 := match a0.activeBank with | some c => a0.setBank c { a0.bank c with st := .ready } | none => a0
    a1.setBank b { a1.bank b with st := .active }
  | _, _ => a0

/-- Start a pass on the master: swap, claim, tell the followers. -/
def State.startPass (s : State) (p : Nat) (o : ArrOp) (slots : List Nat) : State :=
  let i := o.nextPass
  let x := o.passAt i
  let ds := s.partDies p o x
  let fresh := decide (x.kp = 0)
  let slots := if fresh then slots else o.slots
  let s0 := if ((s.ar p).keptFor .ready o.id i).isSome then s.count (pmcDie p 64) 4 1 else s
  let s1 := s0.setAr p { (s0.ar p).swapTo o.id i with seq := .stream }
  let s2 := if fresh then s1.claimSlots p o i slots else s1
  let s3 := s2.updOp p o.id (fun o => { o with pass := some i, entered := 0, slots := slots,
                                                tilesOut := if fresh then o.tilesOut + slots.length * ds.length else o.tilesOut })
  (ds.filter (· != p)).foldl (fun s d =>
    s.setAr d { s.ar d with relay := (s.ar d).relay ++ [.swap o.id i slots] }) s3

/-- May the next pass start: every follower's report is in, and a fresh row group finds its slots? -/
def State.passReady (s : State) (p : Nat) (o : ArrOp) : Option (List Nat) :=
  let i := o.nextPass
  let x := o.passAt i
  let ds := s.partDies p o x
  if !o.passDone || decide (o.passes (s.gang p).length ≤ i) || !ds.all (fun d => s.reported p d (.shadow o.id i)) then none
  else if x.kp = 0 then s.freeSlots ds (o.tiles x) else some []

def State.swap (s : State) (p : Nat) : State :=
  let a := s.ar p
  if s.isMaster p then
    (if a.seq ≠ .prep ∧ a.seq ≠ .stream then s
     else match s.curOp p with
      | none => s
      | some o =>
        if (a.keptFor .ready o.id o.nextPass).isNone then s
        else match s.passReady p o with
          | some l => s.startPass p o l
          | none => s)
  else match a.relay with
    | .swap op i slots :: rest =>
      let s0 := if (a.keptFor .ready op i).isSome then s.count (pmcDie p 64) 4 1 else s
      let s1 := s0.setAr p { a.swapTo op i with relay := rest }
      (match s1.opOf p op with
       | some o => if (o.passAt i).kp = 0 then s1.claimSlots p o i slots else s1
       | none => s1)
    | _ => s

/-! ### Vectors (03 R77-R79, R84, R101) -/

/-- Where row `row`'s part of a pass lies: its requester, and the ranges of its elements and of its scales. Of a requester that a
function-level reset has removed nothing is read (R122). -/
def ArrOp.rowRuns (o : ArrOp) (x : Pass) (row : Nat) : Option (AopRec × (Nat × Nat) × (Nat × Nat)) :=
  match (o.reqOf row).bind (fun i => o.reqs[i]?) with
  | none => none
  | some r =>
    let a := r.aopr.aop
    let m := row - r.row0
    if r.removed then none
    else some (r.aopr, (a.aAddr + m * a.aStride + o.k0 x * fmtBits a.fmtA / 8, ceilDiv (o.kc x * fmtBits a.fmtA) 8),
      (a.asAddr + m * a.asStride + o.k0 x / 32, if fmtIsMX a.fmtA then ceilDiv (o.kc x) 32 else 0))

/-- Row `row` of the operation: the pass's elements and scales. The rows of a removed requester enter as zeros that no tile row shows (R121;
log entry 100). -/
def ArrOp.vector (o : ArrOp) (s : State) (x : Pass) (row : Nat) : List Nat × List Nat :=
  match o.rowRuns x row with
  | none => (List.replicate (o.kc x) 0, List.replicate (ceilDiv (o.kc x) 32) 0x7F)
  | some (r, e, c) => ((List.range (o.kc x)).map (packedGet (fmtBits r.aop.fmtA) (r.bytes s e.1 e.2)),
      (r.bytes s c.1 c.2).map (fun b => b.toNat))

/-- The meter of a vector's entry on a die (15 R412), and its entry cycles (19 R505). -/
def State.meterVec (s : State) (d : Nat) (o : ArrOp) (x : Pass) : State :=
  let c := o.cls
  let ix := match c with | .f64 => 0 | .f19 => 1 | .h16 => 2 | .q8f => 3 | .q8i => 4 | .q8m => 5 | .q4 => 6
  (s.meter (s.dieOwner d) ix (c.entry * o.cellRows x * o.cols (s.gang d).length x (s.rank d))).count (pmcDie d 64) 2 c.entry

/-- A vector enters one die under its ACTIVE bank. -/
def State.enterVec (s : State) (d : Nat) (v : Vec) (o : ArrOp) (x : Pass) : State :=
  let a := s.ar d
  match a.activeBank with
  | none => s
  | some b =>
    let a1 := a.setBank b { a.bank b with inFlight := (a.bank b).inFlight + 1 }
    (s.setAr d { a1 with pipe := a1.pipe ++ [{ v with bank := b }] }).meterVec d o x

/-- Is everything the row needs held on every die (R96, R101)? -/
def State.rowHeld (s : State) (p : Nat) (o : ArrOp) (x : Pass) (row : Nat) : Bool :=
  let ds := s.partDies p o x
  match o.aop.preload with
  | 1 => ds.all (fun d => s.reported p d (.bias o.id (o.biasIx x)))
  | 2 => x.kp != 0 || ds.all (fun d => s.reported p d (.residual o.id (o.residIx x row)))
  | _ => true

/-- The master's loader reads a row's part of a pass (15 R412). -/
def State.rowRead (s : State) (p : Nat) (o : ArrOp) (x : Pass) (row : Nat) : State :=
  match o.rowRuns x row with
  | none => s
  | some (r, e, c) => r.meterRead (loaderM p) c.1 c.2 (r.meterRead (loaderM p) e.1 e.2 s)
def State.rowHot (s : State) (o : ArrOp) (x : Pass) (row : Nat) : Bool :=
  match o.rowRuns x row with
  | none => false
  | some (r, e, c) => s.runHot r e.1 e.2 || s.runHot r c.1 c.2

/-- The next row of a pass enters on the master and goes to the followers' relays. -/
def State.enterNext (s : State) (p : Nat) (o : ArrOp) (i : Nat) : State :=
  let x := o.passAt i
  let row := o.row0 x + o.entered
  if o.passRows x ≤ o.entered ∨ !s.rowHeld p o x row ∨ s.rowHot o x row then s
  else
    let (es, sc) := o.vector s x row
    let s := s.rowRead p o x row
    let j := row - o.row0 x
    let v : Vec := { op := o.id, pass := i, row := row, bank := 0, slot := nth 0 o.slots (j / o.tm), slotRow := j % o.tm,
                     elems := es, scales := sc }
    let s1 := s.enterVec p v o x
    let last := decide (o.passRows x ≤ o.entered + 1) && decide (o.passes (s.gang p).length ≤ i + 1)
    let s2 := s1.updOp p o.id (fun o => { o with entered := o.entered + 1, streamed := last })
    ((s.partDies p o x).filter (· != p)).foldl (fun s d =>
      s.setAr d { s.ar d with relay := (s.ar d).relay ++ [.vec v] }) s2

def State.vectorEntry (s : State) (p : Nat) : State :=
  let a := s.ar p
  if s.isMaster p then
    (if a.seq ≠ .prep ∧ a.seq ≠ .stream then s
     else match s.curOp p with
      | none => s
      | some o =>
        -- a slice found ACTIVE starts its pass with no swap (R113)
        let s1 := if o.passDone && (a.keptFor .active o.id o.nextPass).isSome then
            (match s.passReady p o with | some l => s.startPass p o l | none => s)
          else s
        match s1.curOp p with
        | some o =>
          (match o.pass with
           | some i => s1.enterNext p o i
           | none => s1)
        | none => s1)
  else match a.relay with
    | .vec v :: rest =>
      (match s.opOf p v.op with
       | some o => (s.setAr p { a with relay := rest }).enterVec p v o (o.passAt v.pass)
       | none => s.setAr p { a with relay := rest })
    | _ => s

/-! ### Accumulation (02 R61-R71; 03 R79, R98-R100) -/

/-- Bytes of an ACB element, and its address. -/
def accBytes (f64 : Bool) : Nat := if f64 then 8 else 4
def acbAddr (slot row c : Nat) (f64 : Bool) : Nat := slot * 2 ^ 21 + (row * 512 + c) * accBytes f64

/-- Combine partial results in the order an image fixes (02 R68), each addition an IEEE addition (R67). -/
def combineAll (f : FpFmt) (id cls k kp : Nat) : Nat → List Nat → Nat × ArrFlags
  | 0, l => (nth 0 l 0, {})
  | fuel + 1, l =>
    match l with
    | [] => (0, {})
    | [x] => (x, {})
    | _ =>
      let i := Config.combinePick id cls k kp (2 * l.length) % l.length
      let x := nth 0 l i
      let l1 := l.eraseIdx i
      let j := Config.combinePick id cls k kp (2 * l.length + 1) % l1.length
      let (r, fl) := accumulate f x (nth 0 l1 j)
      let (t, fl2) := combineAll f id cls k kp fuel (l1.set j r)
      (t, fl.or fl2)

def FmtClass.ix : FmtClass → Nat
  | .f64 => 0 | .f19 => 1 | .h16 => 2 | .q8f => 3 | .q8i => 4 | .q8m => 5 | .q4 => 6

/-- The column result of a vector: its block sums combined, in an order that the image, the class, K and the K slice fix, the same in every
column, whatever the gang and the row's place (02 R68, R97; DESIGN CHOICE, log entry 98). -/
def ArrOp.column (o : ArrOp) (id : Nat) (x : Pass) (v : Vec) (b : Bank) (c : Nat) : Nat × ArrFlags :=
  let a := o.aop
  let cls := o.cls
  let g := cls.group
  let fa := cellFmt a.fmtA 0
  let fb := cellFmt a.fmtW a.outCode
  let av := v.elems.map (elemVal a.fmtA)
  let wOf := fun k =>
    let q := SMap.get 0 b.elems (k * 512 + c)
    if fmtIsIntW a.fmtW then fpDecode fb q else elemVal a.fmtW q
  let sums := (List.range (ceilDiv (o.kc x) g)).map (fun j =>
    let ks := (upFrom (j * g) g).filter (fun k => decide (k < o.kc x))
    blockSum cls fa fb (ks.map (fun k => nth (.fin false 0 0) av k)) (ks.map wOf)
      (if fmtIsMX a.fmtA then nth 0 v.scales j else 0x7F) (if fmtIsMX a.fmtW then SMap.get 0 b.tags (j * 512 + c) else 0x7F))
  let (r, fl) := combineAll cls.accFmt id cls.ix a.k x.kp sums.length (sums.map (fun p => p.1))
  (r, sums.foldl (fun f p => f.or p.2) fl)

/-- What an element holds before its first addition (R100). -/
def Arr.preloadVal (a : Arr) (o : ArrOp) (x : Pass) (row c : Nat) : Nat :=
  match o.aop.preload with
  | 1 => (match a.bias.find? (fun b => b.op == o.id && b.ix == o.biasIx x) with | some b => nth 0 b.vals c | none => 0)
  | 2 => (match a.resid.find? (fun b => b.op == o.id && b.ix == o.residIx x row) with | some b => nth 0 b.vals c | none => 0)
  | _ => 0

/-- Write a row of the ACB. -/
def acbRow (acb : Mem) (slot row : Nat) (f64 : Bool) (vals : List Nat) : Mem :=
  Mem.writeN acb (acbAddr slot row 0 f64) ((vals.map (leBytes (accBytes f64))).flatten)

/-- One vector's AC stage on a die: the row, and the flags raised. -/
def State.accRow (s : State) (d : Nat) (o : ArrOp) (v : Vec) (sl : Slot) : Arr × ArrFlags :=
  let a := s.ar d
  let x := o.passAt v.pass
  let first := !sl.touched.contains v.slotRow
  let f := o.cls.accFmt
  let res := (List.range 512).map (fun c =>
    let old := if first then (if c < sl.cols then a.preloadVal o x v.row c else 0)
      else Mem.readLE a.acb (acbAddr v.slot v.slotRow c sl.f64) (accBytes sl.f64)
    if c < sl.cols then
      let (r, fl) := o.column s.ptr.image.id x v (a.bank v.bank) c
      let (t, fl2) := accumulate f old r
      (t, fl.or fl2)
    else (old, {}))
  let sl1 := { sl with left := sl.left - 1, touched := if first then sl.touched ++ [v.slotRow] else sl.touched }
  let whole := decide (sl1.left = 0)
  let sl2 := if whole then { sl1 with st := .complete } else sl1
  let slots := a.slots.set v.slot sl2
  ({ a with acb := acbRow a.acb v.slot v.slotRow sl.f64 (res.map (fun p => p.1)), slots := slots,
            ftq := if whole then a.ftq ++ [v.slot] else a.ftq,
            bias := a.bias.filter (fun b => b.op != o.id ||
              slots.any (fun l => l.st == .filling && l.op == o.id && o.biasIx (o.passAt l.pass0) == b.ix)),
            resid := a.resid.filter (fun b => !(first && b.op == o.id && b.ix == o.residIx x v.row)) },
   res.foldl (fun f p => f.or p.2) {})

/-- What the sequencer reads as: a follower's is FOLLOW while the gang's shape stands (R114). -/
def State.seqOf (s : State) (p : Nat) : SeqSt := if s.isMaster p then (s.ar p).seq else .follow

/-- With its last AC and nothing admitted the sequencer is IDLE (R114). -/
def State.seqRest (s : State) (p : Nat) : State :=
  let a := s.ar p
  if s.isMaster p && a.seq == .stream && a.pipe == [] && a.ops.all (fun o => o.issued && o.streamed) then
    s.setAr p { a with seq := .idle }
  else s

/-- DISCARDED slots whose vectors have drained from the die are FREE (R99). -/
def Arr.freeDrained (a : Arr) : Arr :=
  { a with slots := a.slots.zipIdx.map (fun x => if x.1.st = .discarded ∧ a.pipe.all (fun v => v.slot != x.2) then {} else x.1) }

/-- The ACB row a vector names meets an error (R93): none, one corrected, or one that is not. -/
def State.acbUpset (s : State) (d : Nat) (v : Vec) : Option (Upset × State) :=
  if s.err.upsets = [] then none else s.upset (fun u => u.code == 5 && u.unit % 8 == d && u.line % 4 == v.slot)

/-- A vector's AC stage (R79). A parity error of its bank's data at the CM read, or an ACB error that is not corrected, orders
containment, and no block sum of the failing data reaches a tile: the vector adds nothing, and its slot never completes (R93). -/
def State.vectorAcc (s : State) (d : Nat) : State :=
  let a := s.ar d
  match a.pipe with
  | [] => s
  | v :: rest =>
    let b := a.bank v.bank
    let sl := nth {} a.slots v.slot
    let done := fun (a : Arr) => ({ (a.setBank v.bank { b with inFlight := b.inFlight - 1 }) with pipe := rest }).freeDrained
    match s.opOf d v.op with
    | some o =>
      if sl.st = .filling ∧ sl.op = v.op then
        match (if s.err.upsets = [] then none else s.upset (fun u => u.code == 11 && u.unit % 8 == d && u.line % 2 == v.bank)) with
        | some (_, s0) => ((s0.setAr d (done a)).structErr 11 d none 0 true false).seqRest d
        | none =>
          let (lost, s0) := match s.acbUpset d v with
            | some (u, s0) => (u.unc, s0.structErr 5 d none 0 false (!u.unc))
            | none => (false, s)
          if lost then (s0.setAr d (done a)).seqRest d
          else
            let (a1, fl) := s0.accRow d o v sl
            let s1 := s0.setAr d (done a1)
            let s2 := s1.updOp d o.id (fun o => { o with reqs := match o.reqOf v.row with
              | some i => modNth noReq o.reqs i (fun r => { r with flags := r.flags.or fl })
              | none => o.reqs })
            s2.seqRest d
      else (s.setAr d (done a)).seqRest d
    | none => s.setAr d (done a)

/-! ### Preloads (R100, R101) -/

def preFmt (n : Nat) : FpFmt := match n with | 0 => fp32 | 1 => bf16 | 2 => fp16 | _ => fp64
def preBytes (n : Nat) : Nat := match n with | 0 => 4 | 3 => 8 | _ => 2

/-- Preload values of a run of columns, converted exactly to the accumulation format. -/
def ArrOp.preVals (o : ArrOp) (r : AopRec) (s : State) (va n : Nat) : List Nat :=
  let w := preBytes o.aop.preFmt
  let bs := r.bytes s va (n * w)
  (List.range n).map (fun j => (fpConvert (preFmt o.aop.preFmt) o.cls.accFmt .rne (leNat ((bs.drop (j * w)).take w))).1)

/-- Row groups that fill a die's slots, an operation's earlier one first, in issue order of the operations: what the preload readers work
for. -/
def State.preGroups (s : State) (d : Nat) : List (ArrOp × Pass) :=
  let slots := (s.ar d).slots.filter (fun l => l.st == .filling)
  (s.ar (s.gangMaster d)).ops.flatMap (fun o =>
    let ps := ((slots.filter (fun l => l.op == o.id)).map (fun l => l.pass0)).eraseDups
    let lo := ps.foldl min (ps.headD 0)
    ((if ps = [] then [] else [lo]) ++ ps.filter (· != lo)).map (fun i => (o, o.passAt i)))

/-- Bytes the preload buffer holds, as values of the accumulation format (DESIGN CHOICE, log entry 100), and room for `n` more values. -/
def Preload.bytes (b : Preload) : Nat := b.vals.length * accBytes b.f64
def Arr.preRoom (a : Arr) (o : ArrOp) (n : Nat) : Bool :=
  decide (((a.bias ++ a.resid).map Preload.bytes).foldl (· + ·) 0 + n * accBytes (o.cls == .f64) ≤ 65536)

/-- The bias of the first row group that has none arrives, room permitting. -/
def State.biasHeld (s : State) (d : Nat) : State :=
  let a := s.ar d
  match (s.preGroups d).find? (fun e => e.1.aop.preload == 1 && !a.bias.any (fun b => b.op == e.1.id && b.ix == e.1.biasIx e.2)) with
  | some (o, x) =>
    let g := (s.gang d).length
    let n := o.cols g x (s.rank d)
    let r := o.lead
    let va := r.aop.preAddr + o.n0 g x (s.rank d) * preBytes o.aop.preFmt
    if !a.preRoom o n || s.runHot r va (n * preBytes o.aop.preFmt) then s
    else
      let s1 := r.meterRead (loaderM d) va (n * preBytes o.aop.preFmt)
        (s.setAr d { a with bias := a.bias ++ [⟨o.id, o.biasIx x, o.preVals r s va n, o.cls == .f64⟩] })
      s1.report d (.bias o.id (o.biasIx x))
  | none => s

/-- The first row of a group whose residual has not arrived and which no vector has touched, in the order of first touch; rows of tiles
already whole are past. -/
def State.residNext (s : State) (d : Nat) (o : ArrOp) (x : Pass) : Option Nat :=
  let a := s.ar d
  (upFrom (o.row0 x) (o.passRows x)).find? (fun row =>
    !a.resid.any (fun b => b.op == o.id && b.ix == o.residIx x row) &&
      a.slots.any (fun l => l.st == .filling && l.op == o.id && o.biasIx (o.passAt l.pass0) == o.biasIx x && decide (l.row0 ≤ row) &&
        decide (row < l.row0 + l.rows) && !l.touched.contains (row - l.row0)))

/-- The next residual row arrives, room permitting. -/
def State.residHeld (s : State) (d : Nat) : State :=
  let a := s.ar d
  match (s.preGroups d).findSome? (fun e => if e.1.aop.preload == 2 then (s.residNext d e.1 e.2).map (fun r => (e.1, e.2, r)) else none) with
  | some (o, x, row) =>
    let g := (s.gang d).length
    let n := o.cols g x (s.rank d)
    let r := o.lead
    let va := r.aop.preAddr + row * r.aop.preStride + o.n0 g x (s.rank d) * preBytes o.aop.preFmt
    if !a.preRoom o n || s.runHot r va (n * preBytes o.aop.preFmt) then s
    else
      let s1 := r.meterRead (loaderM d) va (n * preBytes o.aop.preFmt)
        (s.setAr d { a with resid := a.resid ++ [⟨o.id, o.residIx x row, o.preVals r s va n, o.cls == .f64⟩] })
      s1.report d (.residual o.id (o.residIx x row))
  | none => s

/-- A follower's reports reach the master. -/
def State.deliver (s : State) (d : Nat) : State :=
  if s.isMaster d then s
  else
    let m := s.gangMaster d
    let l := (s.ar d).reports
    let s1 := s.setAr d { s.ar d with reports := [] }
    s1.setAr m { s1.ar m with reports := (s1.ar m).reports ++ l }

/-! ### Completion (R119, R120) -/

/-- The result word of R119. -/
def arrResult (f : ArrFlags) (detail : Nat) (gathered reused : Bool) (epi : Nat) : Nat :=
  b2n f.inv + 2 * b2n f.ovf + 4 * b2n f.unf + 8 * b2n f.inx + detail * 2 ^ 8 + b2n gathered * 2 ^ 16 + b2n reused * 2 ^ 17
    + epi * 2 ^ 24

/-- The EPI byte of a requester (05 R151). -/
def Req.epi (r : Req) : Nat := r.epiErr + 16 * b2n r.sovf + 32 * b2n r.sinv

/-- An AOP completes toward its source; a completion that is not OK is latched in ARR_REJECT and raises source 225. -/
def State.aopDone (s : State) (p : Nat) (r : AopRec) (status word : Nat) : State :=
  let s1 := match r.src with
    | .queue q => s.descDone q r.ix status word 0
    | .cring d => s.setAr d { s.ar d with cringDone := (s.ar d).cringDone.map (fun (e : Nat × Option (Nat × Nat × Nat)) =>
        if e.1 = r.ix ∧ e.2 = none then (e.1, some (status, word, r.aop.tag + r.aop.opcode * 2 ^ 16)) else e) }
    | .txu d e => s.updChunk d e r.ix (fun c => { c with done := some status })
  let s1 := s1.count (pmcDie p 64) 8 1
  if status = 0 then s1
  else
    let s2 := s1.rset ⟨.arrReject, p, 0, 0⟩ (status + natBits word 15 8 * 2 ^ 8 + r.aop.tag * 2 ^ 16 + r.src.code * 2 ^ 32)
    s2.raise p 225

/-- Status and detail of an operation that ended early (R121). -/
def OpEnd.status : OpEnd → Nat × Nat
  | .run => (0, 0) | .aborted => (3, 0x20) | .reset => (5, 0) | .contained => (6, 0)

/-- A requester that a function-level reset removed completes RESET, once (R121). -/
def State.removedEnd (s : State) (p : Nat) (o : ArrOp) (r : Req) : State :=
  match r.aopr.src with
  | .queue q => (match s.desc q r.aopr.ix with
    | some d => if d.isDone then s else s.aopDone p r.aopr 5 (arrResult r.flags 0 o.gathered o.reused r.epi)
    | none => s)
  | _ => s

/-- Every requester of an operation completes, and the operation is gone. -/
def State.opDone (s : State) (p : Nat) (o : ArrOp) : State :=
  let (st, de) := o.fate.status
  let s1 := o.reqs.foldl (fun s r => if r.removed then s.removedEnd p o r
    else s.aopDone p r.aopr st (arrResult r.flags de o.gathered o.reused r.epi)) s
  let a := s1.ar p
  s1.setAr p { a with ops := a.ops.filter (fun x => x.id != o.id), nextLoad := SMap.erase a.nextLoad o.id,
                      reports := a.reports.filter (fun e => match e.2 with
                        | .shadow op _ => op != o.id | .bias op _ => op != o.id | .residual op _ => op != o.id) }

/-- Every tile released, or the operation halted and its draining tiles released. -/
def State.opOver (s : State) (p : Nat) (o : ArrOp) : Bool :=
  o.issued && o.tilesOut == 0 && (if o.fate = .run then o.streamed else (s.ar p).seq != .halting)

def State.opComplete (s : State) (p : Nat) : State :=
  match (s.ar p).ops.find? (fun o => s.opOver p o) with
  | some o => (s.opDone p o).seqRest p
  | none => s

/-! ### Halts and stops (03 R89, R90; 04 R121) -/

/-- On one die, the slots of halted operations: FILLING become DISCARDED, COMPLETE leave the FTQ and are FREE; the loads
stop. -/
def Arr.haltDie (a : Arr) (ids : List Nat) : Arr × Nat :=
  let hit := fun (l : Slot) => ids.contains l.op
  let freed := (List.range 4).filter (fun j => let l := nth {} a.slots j; l.st == .complete && hit l)
  -- loads stop, and one that is writing leaves its bank INVALID; an operation the halt spares loads the pass again
  let a1 : Arr := a.loads.reverse.foldl (fun (a : Arr) (l : Load) =>
    let a := match l.bank with | some b => a.setBank b {} | none => a
    { a with loads := [], nextLoad := if ids.contains l.op then a.nextLoad else SMap.set 0 a.nextLoad l.op l.pass }) a
  let gone := (a.slots.filter (fun l => hit l && (l.st == .filling || l.st == .complete))).length
  let a2 : Arr := { a1 with
    slots := a1.slots.map (fun (l : Slot) =>
      if hit l && l.st == .filling then { l with st := .discarded } else if hit l && l.st == .complete then {} else l)
    ftq := a1.ftq.filter (fun j => !freed.contains j)
    bias := a1.bias.filter (fun b => !ids.contains b.op)
    resid := a1.resid.filter (fun b => !ids.contains b.op) }
  (a2.freeDrained, gone)

/-- Operations a halt acts on: issued, and their last vector not yet accumulated. -/
def State.running (s : State) (p : Nat) : List Nat :=
  ((s.ar p).ops.filter (fun o => o.issued && o.fate == .run &&
    (!o.streamed || (s.gang p).any (fun d => (s.ar d).pipe.any (fun v => v.op == o.id) ||
      (s.ar d).relay.any (fun r => match r with | .vec v => v.op == o.id | _ => false))))).map (fun o => o.id)

/-- Close every open group (R116). -/
def State.closeGroups (s : State) (p : Nat) : State := s.setAr p { s.ar p with groups := [] }

/-- Tiles of operations that will never be drained leave their counts. -/
def State.dropTiles (s : State) (p : Nat) (ids : List Nat) (before after : List Slot) : State :=
  ids.foldl (fun s id =>
    let n := fun (l : List Slot) => (l.filter (fun x => x.op == id && (x.st == .filling || x.st == .complete || x.st == .draining))).length
    s.updOp p id (fun o => { o with tilesOut := o.tilesOut - (n before - n after) })) s

/-- Halt the running operations of a gang with a fate: the master at once, the followers when the halt reaches them. -/
def State.halt (s : State) (p : Nat) (fate : OpEnd) (sel : ArrOp → Bool) : State :=
  let ids := (s.running p).filter (fun id => match s.opOf p id with | some o => sel o | none => false)
  let a := s.ar p
  if a.seq = .halting ∨ a.seq = .stopped then s
  else
    let s0 := s.closeGroups p
    let s1 := ids.foldl (fun s id => s.updOp p id (fun o => { o with fate := fate })) s0
    let (a1, _) := (s1.ar p).haltDie ids
    let before := (s1.ar p).slots
    let s2 := s1.setAr p { a1 with seq := .halting }
    let s3 := s2.dropTiles p ids before a1.slots
    ((s.gang p).filter (· != p)).foldl (fun s d => s.setAr d { s.ar d with relay := (s.ar d).relay ++ [.halt] }) s3

/-- A halt reaches a follower (R95). -/
def State.haltFollower (s : State) (d : Nat) : State :=
  let a := s.ar d
  match a.relay with
  | .halt :: rest =>
    let ids := ((s.ar (s.gangMaster d)).ops.filter (fun o => o.fate != .run)).map (fun o => o.id)
    let (a1, _) := a.haltDie ids
    (s.setAr d { a1 with relay := rest }).dropTiles d ids a.slots a1.slots
  | _ => s

/-- With every pipeline of the gang empty, the sequencer is IDLE; where the halt spared a running operation, the sequencer takes it up
again (log entry 52). -/
def State.haltDone (s : State) (p : Nat) : State :=
  let a := s.ar p
  if a.seq = .halting ∧ (s.gang p).all (fun d => (s.ar d).pipe == [] && (s.ar d).relay == []) then
    s.setAr p { s.ar p with seq := match s.curOp p with
      | some o => if o.pass.isSome then .stream else .prep
      | none => .idle }
  else s

/-- A stop (R90) on one die: banks INVALID, slots FREE, nothing in flight; it takes no operation until released. -/
def Arr.stop (a : Arr) : Arr :=
  { a with seq := .stopped, bankA := {}, bankB := {}, loads := [], nextLoad := [], pipe := [], relay := [],
           slots := [{}, {}, {}, {}], ftq := [], bias := [], resid := [], reports := [] }

/-- Containment stops a die's array; every AOP it holds completes CONTAINED at once (R121). -/
def State.stopArray (s : State) (d : Nat) : State :=
  let a := s.ar d
  let held := (a.ops.map (fun o => o.reqs.filterMap (fun r => if r.removed then none else some (r.aopr, arrResult r.flags 0 o.gathered o.reused r.epi)))).flatten
    ++ (a.admitting.toList ++ a.parked.map (fun p => p.1)).map (fun r => (r, 0))
  let s1 := s.setAr d { a.stop with ops := [], groups := [], admitting := none, parked := [] }
  held.foldl (fun s r => s.aopDone d r.1 6 r.2) s1

end Sys2Proof.Machine
end

