-- ==== Sys2Proof/Machine/Admission.lean ====
section
/-! DEFINITION. Admission of array operations and gathering (spec/04_sprinbet_operations R102-R117, R120), and the commands of the
array and its sequencer. -/

namespace Sys2Proof.Machine

/-! ### Sources (R102-R104) -/

def arrReg (k : RegK) (p : Nat) : Reg := ⟨k, p, 0, 0⟩

/-- Does a source have work admitted, parked or in admission on some die? -/
def State.srcParked (s : State) (src : AopSrc) : Bool := s.arr.any (fun e => e.2.parked.any (fun x => x.1.src == src))
def State.srcBusy (s : State) (src : AopSrc) : Bool :=
  s.srcParked src || s.arr.any (fun e => (e.2.admitting.toList ++ (e.2.ops.map (fun o => o.reqs.map (fun r => r.aopr))).flatten).any
    (fun r => r.src == src))

/-- Does the sequencer of die `p` take an AOP of a queue: its DIE lies in `p`'s gang, or, for a DIE outside the partition, `p` is
the master of the partition's lowest die, where it completes MALFORMED. -/
def State.takesDie (s : State) (p : Nat) (part : Option Nat) (die : Nat) : Bool :=
  if s.dieOwner die = part then s.gangMaster die == p
  else match part with
    | some i => s.gangMaster (s.entry i).lowDie == p
    | none => false

/-- Is an AOP of the source in admission at some sequencer (R104)? -/
def State.srcAdmits (s : State) (src : AopSrc) : Bool := s.arr.any (fun e => e.2.admitting.toList.any (fun r => r.src == src))

/-- Core-ring size of a die. -/
def State.cringLog (s : State) (d : Nat) : Nat := s.rf (arrReg .arrCring d) 55 52
def State.cringTail (s : State) (d : Nat) : Nat := s.rf (arrReg .arrCringPtr d) 15 0

/-- The AOP a source offers: its place, its bits, and its address space. -/
def State.offer (s : State) (p : Nat) (src : AopSrc) : Option (Nat × Nat × Nat) :=
  match src with
  | .queue q =>
    if s.qType q ≠ tyCompute then none
    else match s.nextStart q with
      | none => none
      | some d =>
        let earlier := (s.queue q).flight.takeWhile (fun e => e.ix != d.ix)
        if !s.takesDie p (s.queueOwner q) (Aop.die d.raw) || s.srcAdmits src || (Aop.fence d.raw && earlier.any (fun e => !e.isDone)) then none
        else some (d.ix, d.raw, s.qAsid q)
  | .cring d =>
    let h := (s.ar d).cringHead
    if s.rf (arrReg .arrCring d) 63 63 = 0 ∨ h = s.cringTail d then none
    else
      let raw := Mem.readLE s.mem (s.rf (arrReg .arrCring d) 51 12 * 4096 + 128 * h) 128
      if Aop.fence raw && s.srcBusy src then none
      else some ((h + 1) % 2 ^ s.cringLog d, raw, s.rf (arrReg .arrCringAsid d) 11 0)
  | .txu d e =>
    match (s.tdie d).aops.find? (fun a => a.queue == e) with
    | none => none
    | some a => if Aop.fence a.aop && s.srcBusy src then none else some (a.chunk, a.aop, s.ctx a.ctx 15 4)

/-- A parked AOP whose batches are all answered is admitted again (R110). -/
def State.reAdmit (s : State) (p : Nat) (src : AopSrc) : Option AopRec :=
  ((s.ar p).parked.find? (fun x => x.1.src == src && x.2.1 == [] &&
    !(s.xdie p).waiting.any (fun w => w.waiter == .aop p src.turn x.1.ix))).map (fun x => x.1)

/-- Sources in the order of R103 that have an AOP for the sequencer: queues, the core rings and the TXU queues of its gang's dies. -/
def State.sources (s : State) (p : Nat) : List AopSrc :=
  let qs := match s.dieOwner p with
    | some i => (SMap.keys s.queues).filter (fun q => s.queueOwner q == some i)
    | none => []
  let all := qs.map AopSrc.queue ++ (s.gang p).map AopSrc.cring ++
    ((s.gang p).map (fun d => (List.range 32).map (fun e => AopSrc.txu d e))).flatten
  all.filter (fun src => (s.reAdmit p src).isSome || (!s.srcParked src && (s.offer p src).isSome))

/-- The source served next: the first at or after the rotation's place, else the first of all. -/
def State.nextSource (s : State) (p : Nat) : Option AopSrc :=
  let l := s.sources p
  match l.find? (fun x => decide ((s.ar p).rot ≤ x.turn)) with
  | some x => some x
  | none => l.head?

/-- Take an AOP out of its source. -/
def State.takeAop (s : State) (src : AopSrc) (ix : Nat) : State :=
  match src with
  | .queue q => s.descRun q ix
  | .cring d => s.setAr d { s.ar d with cringHead := ix, cringDone := (s.ar d).cringDone ++ [(ix, none)] }
  | .txu d e =>
    let t := s.tdie d
    match t.aops.findIdx? (fun a => a.queue == e) with
    | some i => s.setTdie d { t with aops := t.aops.eraseIdx i }
    | none => s

/-- Function a source is bound to. -/
def State.srcFunc (s : State) : AopSrc → Option Nat
  | .queue q => some (s.qPort q * 64 + s.qFunc q)
  | _ => none

/-- AOP_ADMIT (R103): one AOP enters admission unless 16 admitted AOPs that are not gather members wait for issue; none while the
die's partition is not released (01 R44). -/
def State.aopAdmit (s : State) (p : Nat) : State :=
  let a := s.ar p
  let waiting := (a.ops.filter (fun o => !o.issued && !o.gathered)).length
  if !s.isMaster p ∨ a.seq = .stopped ∨ !s.dieReleased p ∨ a.admitting ≠ none ∨ 16 ≤ waiting then s
  else match s.nextSource p with
    | none => s
    | some src =>
      match s.reAdmit p src with
      | some r => s.setAr p { a with admitting := some { r with pages := [] }, rot := src.turn + 1,
                                     parked := a.parked.filter (fun x => !(x.1.src == r.src && x.1.ix == r.ix)) }
      | none =>
        match s.offer p src with
        | none => s
        | some (ix, raw, asid) =>
          let s1 := s.takeAop src ix
          let n := (s1.ar p).taken
          let r : AopRec := { aop := raw, src := src, ix := ix, asid := asid, func := s.srcFunc src,
                              no := match src with | .queue _ => ix | _ => n }
          s1.setAr p { s1.ar p with admitting := some r, rot := src.turn + 1, taken := n + 1 }

/-! ### The checks of R107 -/

def Aop.isF64 (a : Aop) : Bool := a.cls == some .f64
/-- Packed bytes of `n` elements of a format. -/
def packedLen (c n : Nat) : Nat := ceilDiv (fmtBits c * n) 8
/-- Does W need metadata (R107 LAYOUT)? -/
def Aop.needsMeta (a : Aop) : Bool := fmtIsMX a.fmtW || fmtIsIntW a.fmtW
def Aop.g (a : Aop) : Nat := 2 ^ a.glog2
/-- METHOD and G as R58 to R60 allow. -/
def Aop.expandOk (a : Aop) : Bool :=
  if !fmtIsIntW a.fmtW then a.method == 0
  else if a.method = 1 then decide (5 ≤ a.glog2) && decide (a.glog2 ≤ 7)
  else a.method == 2 && decide (5 ≤ a.glog2) && decide (a.glog2 ≤ 12) && a.outfmt == 0
/-- Metadata bytes of a column. -/
def Aop.metaLen (a : Aop) : Nat :=
  if fmtIsMX a.fmtW then ceilDiv a.k 32 else if fmtIsIntW a.fmtW then (if a.method = 1 then 4 else 32) * ceilDiv a.k a.g else 0

/-- The work V of R108. -/
def Aop.work (a : Aop) (g : Nat) : Nat :=
  let c := a.cls.getD .h16
  c.entry * a.m * ceilDiv a.k c.kv * ceilDiv a.n (512 * g)

/-- The detail code of the first rule of R107 that fails, 0 when all hold. -/
def State.aopDetail (s : State) (a : Aop) (part : Option Nat) : Nat :=
  let al := fun x => x % 64 == 0
  if a.reserved ≠ 0 then 1
  else if a.opcode ≠ 1 then 2
  else if !fmtLegal a.fmtW || !fmtLegal a.fmtA then 3
  else if !fmtPairOk a.fmtW a.fmtA a.outCode then 4
  else if a.m = 0 ∨ a.k = 0 ∨ a.n = 0 ∨ ((fmtIsMX a.fmtW || fmtIsMX a.fmtA) ∧ a.k % 32 ≠ 0) ∨ a.tileM = 0 ∨
      (if a.isF64 then 512 else 1024) < a.tileM then 5
  else if !([a.aAddr, a.aStride, a.asAddr, a.asStride, a.wAddr, a.wStride, a.wmAddr, a.wmStride, a.preAddr, a.preStride,
             a.outAddr, a.outStride, a.argAddr].all al) ∨
      a.aStride < packedLen a.fmtA a.k ∨ a.wStride < packedLen a.fmtW a.k ∨
      (fmtIsMX a.fmtA ∧ (a.asStride < a.k / 32 ∨ a.asAddr = 0)) ∨ (fmtIsMX a.fmtW ∧ a.wmStride < a.k / 32) ∨
      (!fmtIsMX a.fmtA ∧ (a.asAddr ≠ 0 ∨ a.asStride ≠ 0)) ∨
      (if a.needsMeta then a.wmAddr = 0 else a.wmAddr ≠ 0 ∨ a.wmStride ≠ 0) then 6
  else if !a.expandOk || (fmtIsIntW a.fmtW && decide (a.wmStride < a.metaLen)) then 7
  else if a.preload = 3 ∨
      (a.preload ≠ 0 ∧ (if a.isF64 then a.preFmt ≠ 3 ∧ a.preFmt ≠ 0 else a.preFmt = 3)) ∨
      (a.preload = 2 ∧ a.preStride < a.n * preBytes a.preFmt) ∨ (a.preload = 0 ∧ a.preAddr ≠ 0) ∨
      (a.preload ≠ 2 ∧ a.preStride ≠ 0) then 8
  else if part = none ∨ s.dieOwner a.die ≠ part then 9
  else if s.rf (arrReg .arrWorkLimit (s.gangMaster a.die)) 39 0 < a.work (s.gang a.die).length then 10
  else 0

/-! ### The ranges of R109 -/

/-- Which masters touch a range, which types it may lie in. -/
inductive RangeKind where
  | load | resid | out | arg
  deriving DecidableEq, Repr

/-- Base, extent and kind of every range an AOP names. -/
def Aop.ranges (a : Aop) : List (Nat × Nat × RangeKind) :=
  [(a.aAddr, (a.m - 1) * a.aStride + packedLen a.fmtA a.k, .load)] ++
  (if fmtIsMX a.fmtA then [(a.asAddr, (a.m - 1) * a.asStride + ceilDiv a.k 32, .load)] else []) ++
  [(a.wAddr, (a.n - 1) * a.wStride + packedLen a.fmtW a.k, .load)] ++
  (if a.needsMeta then [(a.wmAddr, (a.n - 1) * a.wmStride + a.metaLen, .load)] else []) ++
  (if a.preload = 1 then [(a.preAddr, a.n * preBytes a.preFmt, .load)]
   else if a.preload = 2 then [(a.preAddr, a.m * a.preStride, .resid)] else []) ++
  [(a.outAddr, a.m * a.outStride, .out)] ++ (if a.argAddr = 0 then [] else [(a.argAddr, 256, .arg)])

/-- The master of a die that touches a range (R109). -/
def RangeKind.master (k : RangeKind) (d : Nat) : Nat := match k with | .out => sageM d | .arg => sageM d | _ => loaderM d

/-- What the translation of the pages of an AOP met (R109). -/
structure Admit where
  pages : List HeldPage := []
  placement : Bool := false
  denied : Option (Nat × AccFail × Nat) := none
  /-- page, kind, cause, level, entry, and the master that touches it (11 R301) -/
  faults : List (Nat × Acc × Nat × Nat × Nat × Nat) := []
  moving : Bool := false

/-- Routing and access table of a page for a master. -/
def State.pageFail (s : State) (m : Nat) (k : Acc) (a : Nat) : Option AccFail :=
  match s.accCheck m .wr [a / 64 * 64] with
  | some (.absent l) => some (.absent l)
  | _ => match targetOf a with
    | none => some (.absent a)
    | some (t, o) => if s.permits m k t o then none else some (.denied a)

/-- Judge one translated page. -/
def State.judgePage (s : State) (part : Option Nat) (ds : List Nat) (kind : RangeKind) (va pa ty hint : Nat) (ad : Admit) : Admit :=
  let okType := match kind with
    | .resid => ty == 1 && (match placeOf pa with | .near d => s.dieOwner d == part | _ => false)
    | _ => ty == 0 || ty == 1
  let k := if kind = .out then Acc.wr else Acc.rd
  let ms := ds.map kind.master
  let bad := ms.findSome? (fun m => (s.pageFail m k pa).map (fun f => (m, f, pa)))
  { ad with pages := ad.pages ++ [⟨va / 65536, pa / 65536 * 65536, hint⟩], placement := ad.placement || !okType,
            denied := if ad.denied.isSome then ad.denied else if okType then bad else none }

/-- Translate the pages of a range. -/
def State.admitPages (r : AopRec) (p : Nat) (part : Option Nat) (ds : List Nat) (kind : RangeKind) :
    List (Nat × Nat) → Admit → State → Admit × State
  | [], ad, s => (ad, s)
  | (va, _) :: l, ad, s =>
    let k := if kind = .out then Acc.wr else Acc.rd
    let (w, s1) := s.translate (tlbArray p) anyEnd r.asid va k part
    let ad1 := match w with
      | .ok t => (match t.loc va with
        | .dev a => s1.judgePage part ds kind va a (leafType t.entry) (t.hint k) ad
        | _ => { ad with placement := true })
      | .fault c lv e => { ad with faults := ad.faults ++ [(va, k, c, lv, e, kind.master (s.gangMaster r.aop.die))] }
      | .moving => { ad with moving := true }
    State.admitPages r p part ds kind l ad1 s1

def State.admitRanges (r : AopRec) (p : Nat) (part : Option Nat) (ds : List Nat) :
    List (Nat × Nat × RangeKind) → Admit → State → Admit × State
  | [], ad, s => (ad, s)
  | (va, n, kind) :: l, ad, s =>
    let (ad1, s1) := State.admitPages r p part ds kind (pagesOf va n) ad s
    State.admitRanges r p part ds l ad1 s1

/-! ### Gathering (R115-R117) -/

/-- Is an admitted AOP a gather candidate? -/
def State.candidate (s : State) (p : Nat) (a : Aop) : Bool :=
  a.gather && s.rf (arrReg .arrGctl p) 0 0 == 1 && decide (a.m ≤ 63) && (a.preload == 0 || a.preload == 1)

/-- The key of a candidate: what R115 lists, every slice's identity by the physical pages of W and its metadata. -/
def AopRec.key (r : AopRec) : List Nat :=
  let a := r.aop
  let pas := fun va n => (pagesOf va n).map (fun p => r.pa p.1)
  [a.wStride, a.wmStride, a.fmtW, a.fmtA, a.method, b2n a.signed, a.glog2, a.outfmt, a.k, a.n, a.epi, a.preload, a.preFmt,
   if a.preload = 1 then r.pa a.preAddr else 0] ++ pas a.wAddr ((a.n - 1) * a.wStride + packedLen a.fmtW a.k) ++
  (if a.needsMeta then pas a.wmAddr ((a.n - 1) * a.wmStride + a.metaLen) else [])

def Group.hasSrc (g : Group) (ops : List ArrOp) (src : AopSrc) : Bool :=
  (ops.find? (fun o => o.id == g.id)).any (fun o => o.reqs.any (fun r => r.aopr.src == src))
def Arr.closeGroup (a : Arr) (id : Nat) : Arr := { a with groups := a.groups.filter (fun g => g.id != id) }

/-- Place an admitted candidate: it joins the open group of its key, or opens one. -/
def State.gather (s : State) (p : Nat) (r : AopRec) : State :=
  let a := s.ar p
  let f64 := r.aop.isF64
  let cap := if f64 then 512 else 1024
  let key := r.key
  -- a member's source that admits a candidate of another key, and a group of this key without room, close first
  let a := { a with groups := a.groups.filter (fun g => !(g.hasSrc a.ops r.src && g.key != key) &&
    !(g.key == key && decide (cap < g.rows + r.aop.m))) }
  let joins := a.groups.find? (fun g => g.key == key &&
    s.arr.all (fun e => e.2.ops.all (fun o => o.issued || (e.1 == p && o.id == g.id) || !o.reqs.any (fun q => q.aopr.src == r.src))))
  let target := let f := s.rf (arrReg .arrFillTarget p) 10 0; if f64 then min f 512 else f
  match joins with
  | some g =>
    let rows := g.rows + r.aop.m
    let a1 := { a with
      ops := a.ops.map (fun o => if o.id = g.id then { o with reqs := o.reqs ++ [{ aopr := r, row0 := g.rows, rows := r.aop.m }] } else o)
      groups := a.groups.map (fun x => if x.id = g.id then { x with rows := rows } else x) }
    s.setAr p (if target ≤ rows then a1.closeGroup g.id else a1)
  | none =>
    let gs := if 8 ≤ a.groups.length then a.groups.drop 1 else a.groups
    let o : ArrOp := { id := a.nextId, reqs := [{ aopr := r, row0 := 0, rows := r.aop.m }], gathered := true }
    let g : Group := ⟨a.nextId, r.aop.m, key, s.rf (arrReg .arrBatchBudget p) 23 0⟩
    let a1 := { a with nextId := a.nextId + 1, ops := a.ops ++ [o], groups := gs ++ [g] }
    s.setAr p (if target ≤ r.aop.m then a1.closeGroup g.id else a1)

/-- An admitted AOP that runs alone waits for issue. -/
def State.admitAlone (s : State) (p : Nat) (r : AopRec) : State :=
  let a := s.ar p
  s.setAr p { a with nextId := a.nextId + 1,
                     ops := a.ops ++ [{ id := a.nextId, reqs := [{ aopr := r, row0 := 0, rows := r.aop.m }], gathered := false }] }

/-! ### The end of admission (R109, R110) -/

/-- Fault each page of a list into the die's fault queue, gathering the batches. -/
def State.raiseFaults (w : Waiter) (p asid queue : Nat) (qport : Option Nat) :
    List (Nat × Acc × Nat × Nat × Nat × Nat) → State → List Nat × State
  | [], s => ([], s)
  | (va, k, c, lv, e, master) :: l, s =>
    let (b, s1) := s.fault p (s.faultReq w asid va k c lv e master queue qport)
    let (bs, s2) := State.raiseFaults w p asid queue qport l s1
    (match b with | some i => if bs.contains i then bs else i :: bs | none => bs, s2)

def State.srcPart (s : State) : AopSrc → Option Nat
  | .queue q => s.queueOwner q
  | .cring d => s.dieOwner d
  | .txu d _ => s.dieOwner d

/-- Admission of the AOP in hand ends. An AOP admitted runs on the gang of the die it names (R106), which the sequencer that took it
passes it to where that is another gang of the partition. -/
def State.admissionDone (s : State) (p : Nat) : State :=
  let a := s.ar p
  match a.admitting with
  | none => s
  | some r =>
    let part := s.srcPart r.src
    let isOver := s.setAr p { a with admitting := none }
    let de := if r.judged then 0 else s.aopDetail r.aop part
    if de ≠ 0 then isOver.aopDone p r 1 (arrResult {} de false false 0)
    else if r.aop.ranges.any (fun x => decide (2 ^ 56 < x.1 + x.2.1)) then isOver.aopDone p r 1 (arrResult {} 6 false false 0)
    else
      let (ad, s1) := State.admitRanges r p part (s.gang r.aop.die) r.aop.ranges {} s
      let over1 := s1.setAr p { s1.ar p with admitting := none }
      if ad.placement then over1.aopDone p r 1 (arrResult {} 11 false false 0)
      else match ad.denied with
        | some (m, f, pa) => ((over1.failed m pa f).aopDone p r 2 (arrResult {} 0x10 false false 0))
        | none =>
          if ad.faults ≠ [] then
            let qp := match r.src with | .queue q => some (s.qPort q) | _ => none
            let (bs, s2) := State.raiseFaults (.aop p r.src.turn r.ix) p r.asid r.src.code qp ad.faults over1
            s2.setAr p { s2.ar p with parked := (s2.ar p).parked ++ [({ r with judged := true }, bs, 0)] }
          else if ad.moving then s1
          else
            let r1 := { r with pages := ad.pages }
            let g := s1.gangMaster r.aop.die
            if s1.candidate g r.aop then over1.gather g r1 else over1.admitAlone g r1

/-! ### Issue (R105, R124) -/

/-- Is the completion ring of a die full? -/
def State.ccmpFull (s : State) (d : Nat) : Bool :=
  ((s.ar d).ccmpTail + 1) % 2 ^ s.cringLog d == s.rf (arrReg .arrCcmpPtr d) 31 16 % 2 ^ s.cringLog d

/-- Issue waits for room in the completion ring, and for earlier AOPs of the same source that another gang has yet to issue (R104,
R124). -/
def State.issueBlocked (s : State) (o : ArrOp) : Bool :=
  o.reqs.any (fun r => (match r.aopr.src with | .cring d => s.ccmpFull d | _ => false) ||
    s.arr.any (fun e => e.2.ops.any (fun y => !y.issued && y.reqs.any (fun q => q.aopr.src == r.aopr.src && decide (q.aopr.no < r.aopr.no) &&
      !o.reqs.any (fun z => z.aopr.src == q.aopr.src && z.aopr.no == q.aopr.no)))))

/-- OPERATION_ISSUE: the next admitted operation, once the last swap of the one before has passed. -/
def State.opIssue (s : State) (p : Nat) : State :=
  let a := s.ar p
  let g := (s.gang p).length
  let ready := a.ops.all (fun o => !o.issued || o.fate != .run || (match o.pass with
    | some i => decide (o.passes g ≤ i + 1)
    | none => false))
  if !s.isMaster p ∨ (a.seq ≠ .idle ∧ a.seq ≠ .stream) ∨ !ready then s
  else match a.ops.find? (fun o => !o.issued) with
    | none => s
    | some o =>
      if a.groups.any (fun x => x.id == o.id) || s.issueBlocked o then s
      else
        let s0 := if o.gathered then s.count (pmcDie p 64) 7 1 else s
        let s1 := s0.setAr p { a with seq := .prep, ops := a.ops.map (fun x => if x.id = o.id then { x with issued := true } else x) }
        (s.gang p).foldl (fun s d => s.setAr d { s.ar d with nextLoad := SMap.set 0 (s.ar d).nextLoad o.id 0 }) s1

/-! ### The core ring (R123, R124) -/

/-- ARR_CRING_PTR.TAIL as a write by one of the module's cores stores it, clamped (01 R35, R36). -/
def State.cringTailWrite (s : State) (p v : Nat) : State :=
  let s1 := s.rput (arrReg .arrCringPtr p) 15 0 (v % 2 ^ 16 % 2 ^ s.cringLog p)
  if 2 ^ s.cringLog p ≤ v % 2 ^ 16 then s1.clampLog 3 (arrReg .arrCringPtr p).addr else s1

/-- The oldest core-ring AOP's completion record is written once it has ended and the ring has room, and raises source 224 (R104,
R124). -/
def State.cringRecord (s : State) (p : Nat) : State :=
  let a := s.ar p
  match a.cringDone with
  | (next, some (status, word, tag)) :: rest =>
    if s.ccmpFull p then s
    else
      let base := s.rf (arrReg .arrCcmp p) 51 12 * 4096
      let size := 2 ^ s.cringLog p
      let raw := complRaw status (1 - (a.ccmpTail / size) % 2) next 4096 (tag / 2 ^ 16) word (tag % 2 ^ 16) 0 0
      let s1 := s.store (base + 32 * (a.ccmpTail % size)) (leBytes 32 raw)
      (s1.setAr p { s1.ar p with cringDone := rest, ccmpTail := (a.ccmpTail + 1) % (2 * size) }).raise p 224
  | _ => s

/-- ARR_ABORT (R121, R123): no effect while IDLE, HALTING or STOPPED, nor on a follower die. -/
def State.arrAbort (s : State) (p v : Nat) : State :=
  if v % 2 = 1 ∧ s.isMaster p ∧ ((s.ar p).seq = .prep ∨ (s.ar p).seq = .stream) then s.halt p .aborted (fun _ => true) else s

end Sys2Proof.Machine
end

