-- ==== Sys2Proof/Machine/ArrayRows.lean ====
section
/-! DEFINITION. The commands of the array and its sequencer (spec/03_sprinbet_dataflow, spec/04_sprinbet_operations). -/

namespace Sys2Proof.Machine

/-- AOP_ADMIT (04 R103). -/
def execAopAdmit (p : DieIx) (s : State) : Host.Outcome State Fault Refusal := .next (s.on .array (s.aopAdmit p.val))
/-- AOP_ADMISSION_DONE (04 R109, R110, R115, R116). -/
def execAopAdmissionDone (p : DieIx) (s : State) : Host.Outcome State Fault Refusal := .next (s.on .array (s.admissionDone p.val))
/-- GATHER_BUDGET_EXPIRE (04 R116): the i-th open group, in the order they opened, closes. -/
def execGatherBudgetExpire (p : DieIx) (i : Fin 16) (s : State) : Host.Outcome State Fault Refusal :=
  .next (s.on .array (s.setAr p.val { s.ar p.val with groups := (s.ar p.val).groups.eraseIdx i.val }))
/-- A write of 1 to ARR_GCTL.FLUSH (04 R116, R123); a follower's has no effect. -/
def execArrGctlFlush (p : DieIx) (s : State) : Host.Outcome State Fault Refusal :=
  .next (if s.isMaster p.val then s.closeGroups p.val else s)
/-- OPERATION_ISSUE (04 R105, R114). -/
def execOperationIssue (p : DieIx) (s : State) : Host.Outcome State Fault Refusal := .next (s.on .array (s.opIssue p.val))
/-- STAGING_READ_ARRIVE (03 R82; 04 R112). -/
def execStagingReadArrive (p : DieIx) (s : State) : Host.Outcome State Fault Refusal := .next (s.on .array (s.stagingRead p.val))
/-- LOAD_FIRST_WRITE (03 R83, R85). -/
def execLoadFirstWrite (p : DieIx) (s : State) : Host.Outcome State Fault Refusal := .next (s.on .array (s.firstWrite p.val))
/-- LOAD_LAST_WRITE (03 R83). -/
def execLoadLastWrite (p : DieIx) (s : State) : Host.Outcome State Fault Refusal := .next (s.on .array (s.lastWrite p.val))
/-- SWAP (03 R86; 04 R113). -/
def execSwap (p : DieIx) (s : State) : Host.Outcome State Fault Refusal := .next (s.on .array (s.swap p.val))
/-- VECTOR_ENTRY (03 R77, R84, R85). -/
def execVectorEntry (p : DieIx) (s : State) : Host.Outcome State Fault Refusal := .next (s.on .array (s.vectorEntry p.val))
/-- VECTOR_ACCUMULATE (03 R79, R99, R100). -/
def execVectorAccumulate (p : DieIx) (s : State) : Host.Outcome State Fault Refusal := .next (s.on .array (s.vectorAcc p.val))
/-- BIAS_HELD (03 R101). -/
def execBiasHeld (p : DieIx) (s : State) : Host.Outcome State Fault Refusal := .next (s.on .array (s.biasHeld p.val))
/-- RESIDUAL_ROW_HELD (03 R101). -/
def execResidualRowHeld (p : DieIx) (s : State) : Host.Outcome State Fault Refusal := .next (s.on .array (s.residHeld p.val))
/-- READINESS_REPORT (03 R96). -/
def execReadinessReport (p : DieIx) (s : State) : Host.Outcome State Fault Refusal := .next (s.on .array (s.deliver p.val))
/-- ARRAY_HALT (03 R89): a halt request at the master's sequencer, which ends its running operations as ARR_ABORT does; at a
follower, the halt relayed to it. -/
def execArrayHalt (p : DieIx) (s : State) : Host.Outcome State Fault Refusal :=
  .next (if s.isMaster p.val then s.halt p.val .aborted (fun _ => true) else s.haltFollower p.val)
/-- HALT_COMPLETE (03 R89, R99; 04 R114). -/
def execHaltComplete (p : DieIx) (s : State) : Host.Outcome State Fault Refusal := .next (s.on .array (s.haltDone p.val))
/-- ARR_ABORT (04 R121, R123), written by a master: refused by the access tables, it has no other effect (01 R34). -/
def execArrAbort (p : DieIx) (m : BitVec 12) (v : BitVec 32) (s : State) : Host.Outcome State Fault Refusal :=
  let a := mmioBase + (Reg.addr ⟨.arrAbort, p.val, 0, 0⟩)
  .next (match s.tryAcc m.toNat .wr false a 4 with
    | (some _, s1) => s1
    | (none, s1) => s1.arrAbort p.val v.toNat)
/-- OPERATION_COMPLETE (04 R119-R121). -/
def execOperationComplete (p : DieIx) (s : State) : Host.Outcome State Fault Refusal := .next (s.on .array (s.opComplete p.val))
/-- CRING_TAIL_WRITE (04 R123, R124). -/
def execCringTailWrite (p : DieIx) (v : BitVec 16) (s : State) : Host.Outcome State Fault Refusal :=
  .next (s.cringTailWrite p.val v.toNat)
/-- CRING_COMPLETION_WRITE (04 R124). -/
def execCringCompletionWrite (p : DieIx) (s : State) : Host.Outcome State Fault Refusal := .next (s.on .array (s.cringRecord p.val))

end Sys2Proof.Machine
end

