-- ==== Sys2Proof/Machine/CoreBase.lean ====
section
/-! DEFINITION. A core's place in the module: its master ID, its store and merging buffers and L1 tags, release and reset
(spec/06_gelfort_core R160, R178-R187; spec/10_ordering_coherence R267, R268), and the interrupt controllers' register
actions (spec/08_exceptions_interrupts R232-R235). -/

namespace Sys2Proof.Machine

/-- Master ID of a core (R28). -/
def coreMaster (k : Nat) : Nat := if k < 512 then k else if k < 520 then 0x502 + (k - 512) else 0x500
/-- Vexten is on the Pavilion cores only (07 R188). -/
def coreHasV (k : Nat) : Bool := decide (k < 512)
/-- Cores of a die. -/
def dieCores (p : Nat) : List Nat := upFrom (64 * p) 64

/-! ### L1 tags (R178, R179) -/

/-- Raise every age of a set so that the largest is 3 (R179 step 3). -/
def Cache.age3 (c : Cache) (nw set : Nat) : Cache :=
  let m := ((List.range nw).map (fun w => (c.way nw set w).age)).foldl max 0
  if 3 ≤ m then c
  else (List.range nw).foldl (fun c w => let x := c.way nw set w; c.put nw set w { x with age := x.age + (3 - m) }) c

/-- A hit, or a fill in place of the victim (R179). -/
def Cache.l1 (c : Cache) (line hint : Nat) : Cache :=
  let set := line % 256
  match c.find 4 set line with
  | some w => c.put 4 set w { c.way 4 set w with age := 0 }
  | none =>
    let x : CacheWay := { valid := true, line := line, age := if hint = 1 ∨ hint = 3 then 3 else 0 }
    match (List.range 4).find? (fun w => !(c.way 4 set w).valid) with
    | some w => c.put 4 set w x
    | none =>
      let c := c.age3 4 set
      match (List.range 4).find? (fun w => (c.way 4 set w).age == 3) with
      | some w => c.put 4 set w x
      | none => c

/-- A store that hits makes its line the youngest and allocates nothing (R178, R179). -/
def Cache.l1Store (c : Cache) (line : Nat) : Cache :=
  match c.find 4 (line % 256) line with
  | some w => c.put 4 (line % 256) w { c.way 4 (line % 256) w with age := 0 }
  | none => c

/-! ### Store buffer and merging buffer (R180; 10 R267, R268)

A buffered store names its place by one number: a device physical address, or (1 + port) * 2^64 + bus address in a coherent
HOST page. -/

/-- Merge one byte into the entry of its line, or open one. -/
def mergeByte (ms : List MergeEnt) (h u : Nat) (b : Byte) : List MergeEnt :=
  if ms.any (fun e => e.line == u / 64) then
    ms.map (fun e => if e.line = u / 64 then { e with bytes := SMap.insert e.bytes (u % 64) b, hint := h } else e)
  else ms ++ [{ line := u / 64, bytes := [(u % 64, b)], hint := h }]

def mergeBytes : List MergeEnt → Nat → Nat → List Byte → List MergeEnt
  | ms, _, _, [] => ms
  | ms, h, u, b :: bs => mergeBytes (mergeByte ms h u b) h (u + 1) bs

/-- New entries a store needs. -/
def newLines (ms : List MergeEnt) (e : StoreEnt) : Nat :=
  ((linesOf e.addr e.bytes.length).filter (fun l => !ms.any (fun m => m.line == l / 64))).length

/-- The oldest buffered store moves to the merging buffer, when its entries fit. -/
def Core.popStore (c : Core) : Option Core :=
  match c.sbuf with
  | [] => none
  | e :: es =>
    if 16 < c.mbuf.length + newLines c.mbuf e then none
    else some { c with sbuf := es, mbuf := mergeBytes c.mbuf e.hint e.addr e.bytes }

def StoreEnt.overlaps (e : StoreEnt) (u n : Nat) : Bool := decide (e.addr < u + n) && decide (u < e.addr + e.bytes.length)

/-- Byte `u` as the core sees it over memory's `b`: the youngest buffered store, else the merging buffer (10 R267, R268). -/
def Core.see (c : Core) (u : Nat) (b : Byte) : Byte :=
  match c.sbuf.reverse.find? (fun e => decide (e.addr ≤ u) && decide (u < e.addr + e.bytes.length)) with
  | some e => nth b e.bytes (u - e.addr)
  | none =>
    match c.mbuf.find? (fun e => e.line == u / 64) with
    | some e => SMap.get b e.bytes (u % 64)
    | none => b

def Core.seeN (c : Core) (u : Nat) : List Byte → List Byte
  | [] => []
  | b :: bs => c.see u b :: Core.seeN c (u + 1) bs

/-! ### The cluster L2s (06 R181; 10 R262, R271; log entry 102) -/

def State.l2Of (s : State) (c : Nat) : List L2Line := SMap.get [] s.memsys.l2 c
def State.setL2 (s : State) (c : Nat) (l : List L2Line) : State := { s with memsys := { s.memsys with l2 := SMap.set [] s.memsys.l2 c l } }

/-- Has a core an L2: the Pavilion cores, eight to a cluster? -/
def hasL2 (k : Nat) : Bool := decide (k < 512)

/-- A line leaves an L2: written back if dirty, and with it every L1 copy in the cluster. -/
def State.l2Evict (s : State) (c : Nat) (x : L2Line) : State :=
  let s1 := (s.setL2 c ((s.l2Of c).filter (fun y => y.line != x.line))).l2Back x
  let gone := fun (l : Nat) => l == x.line
  (upFrom (8 * c) 8).foldl (fun s k =>
    if (s.core k).l1d.any (fun w => gone w.2.line) || (s.core k).l1i.any (fun w => gone w.2.line) then
      s.onCore k (fun c => { c with l1d := c.l1d.dropLines gone, l1i := c.l1i.dropLines gone })
    else s) s1

/-- A line enters the L2 of a core's cluster; in a full set another leaves, which one is not specified (log entry 102). -/
def State.l2Fill (s : State) (k line h : Nat) (dirty : Bool) : State :=
  let c := k / 8
  let set := (s.l2Of c).filter (fun x => x.line % 2048 == line % 2048)
  let s1 := if set.length < 16 then s
    else
      let (v, s0) := s.draw
      match set[v % 16]? with
      | some x => s0.l2Evict c x
      | none => s0
  s1.setL2 c (s1.l2Of c ++ [⟨line, dirty, h, k⟩])

/-- A core's access to a line of its L2: a miss is counted, and the line is read from its home, unless the core writes it whole. Host lines
are held write-through. -/
def State.l2Acc (s : State) (k line h : Nat) (wr whole : Bool) : State :=
  let c := k / 8
  let dev := decide (line < 2 ^ 58)
  if (s.l2Of c).any (fun x => x.line == line) then
    s.setL2 c ((s.l2Of c).map (fun x => if x.line = line then { x with dirty := x.dirty || (wr && dev), hint := h, core := k } else x))
  else
    let s1 := s.countCore k 5 1
    let s2 := if dev && !whole then (s1.recall (some c) (line * 64) 64).memPort (coreMaster k) .read h (line * 64) 64 else s1
    s2.l2Fill k line h (wr && dev)

/-- A cacheable read that L1D does not serve, `n` bytes at `u`: from the cluster's L2, or, for a core that has none, from their home. -/
def State.l2Read (s : State) (k u n h : Nat) : State :=
  if hasL2 k then (linesOf u n).foldl (fun s l => s.l2Acc k (l / 64) h false false) s
  else if u < 2 ^ 64 then s.traffic (coreMaster k) .read h u n
  else s

/-- Is a device address that of cacheable memory (R178)? -/
def cacheableAt (a : Nat) : Bool := match placeOf a with | .hbm _ => true | .near _ => true | _ => false

/-- A core's write is performed: in the cluster's L2, in memory where the core has none or does not cache (R184), or in host memory
through a port, where it counts as a posted write (10 R271). -/
def State.coreWrite (s : State) (k u : Nat) (bs : List Byte) (h : Nat := 0) : State :=
  let n := bs.length
  if u < 2 ^ 64 then
    (if hasL2 k && !(s.core k).det && cacheableAt u then
      ((linesOf u n).foldl (fun s l => s.l2Acc k (l / 64) h true (decide (u ≤ l) && decide (l + 64 ≤ u + n))) s).storeBy (some k) u bs
    else (s.storeBy none u bs).memPort (coreMaster k) .write h u n)
  else
    let port := u / 2 ^ 64 - 1
    (s.hostData (some k) port (u % 2 ^ 64) bs).onCore k (fun c => { c with posted := SMap.set none c.posted port (some (u % 2 ^ 64)) })

/-- An atomic's write of its own location, at its home (10 R261). -/
def State.atomWrite (s : State) (k u : Nat) (bs : List Byte) : State :=
  if u < 2 ^ 64 then (s.storeBy none u bs).meterMem (coreMaster k) true u bs.length else s.coreWrite k u bs

/-! ### Draining (R180, R183, R184, R187; 10 R267, R269) -/

/-- Runs of adjacent bytes of a merging-buffer entry. -/
def runsOf : List (Nat × Byte) → List (Nat × List Byte)
  | [] => []
  | (o, b) :: l =>
    match runsOf l with
    | (o', bs) :: r => if o + 1 = o' then (o, b :: bs) :: r else (o, [b]) :: (o', bs) :: r
    | [] => [(o, [b])]

/-- A parity error in a merging-buffer entry that drains contains the core's partition (R182). -/
def State.mbufParity (s : State) (k : Nat) (e : MergeEnt) : State :=
  if s.err.upsets = [] then s
  else match s.upset (fun u => u.code == 9 && u.unit == k && u.line % 16 == e.line % 16) with
    | some (_, s1) => s1.structErr 9 (k / 64) (some (coreMaster k)) (e.line * 64) true false
    | none => s

/-- One merging-buffer entry is written. -/
def State.drainEnt (s : State) (k : Nat) (e : MergeEnt) : State :=
  (runsOf e.bytes).foldl (fun s r => s.coreWrite k (e.line * 64 + r.1) r.2 e.hint) (s.mbufParity k e)

/-- The oldest buffered store leaves the store buffer: to the merging buffer, whose oldest entry drains first where it has no room, or, in
deterministic mode, whose merging buffer is empty, to memory (R184). -/
def State.popOldest (s : State) (k : Nat) : State :=
  let c := s.core k
  match c.sbuf with
  | [] => s
  | e :: es =>
    if c.det ∧ c.mbuf = [] then (s.setCore k { c with sbuf := es }).coreWrite k e.addr e.bytes e.hint
    else match c.popStore with
      | some c1 => s.setCore k c1
      | none => match c.mbuf with
        | m :: ms => (s.setCore k { c with mbuf := ms }).drainEnt k m
        | [] => s

/-- A store enters the store buffer; with all 8 entries held the oldest moves on first, and with no room for it the store stalls: none
(R180). -/
def State.pushStore (s : State) (k : Nat) (e : StoreEnt) : Option State :=
  let add := fun (s : State) => s.onCore k (fun c => { c with sbuf := c.sbuf ++ [e] })
  if (s.core k).sbuf.length < 8 then some (add s)
  else if (s.core k).det then some (add (s.popOldest k))
  else ((s.core k).popStore).map (fun c => add (s.setCore k c))

/-- A load that overlaps a held store, and does not lie whole in the youngest it overlaps, waits until every store it overlaps has left the
store buffer (10 R267). -/
def State.letOut (k u n : Nat) : Nat → State → State
  | 0, s => s
  | f + 1, s =>
    let sb := (s.core k).sbuf
    match sb.reverse.find? (fun e => e.overlaps u n) with
    | none => s
    | some e =>
      if e.addr ≤ u ∧ u + n ≤ e.addr + e.bytes.length then s
      else State.letOut k u n f (s.popOldest k)

/-- The oldest merging-buffer entry drains (R180); buffered stores move up when the merging buffer is empty, and in deterministic mode go to
memory. -/
def State.drainOne (s : State) (k : Nat) : State :=
  let c := s.core k
  if c.det ∧ c.mbuf = [] then s.popOldest k
  else
    let c := if c.mbuf = [] then (c.popStore).getD c else c
    match c.mbuf with
    | [] => s
    | e :: es => (s.setCore k { c with mbuf := es }).drainEnt k e

/-- Both buffers drain, the merging buffer first. -/
def State.drainAll (s : State) (k : Nat) : State :=
  let c := s.core k
  let s := s.setCore k { c with mbuf := [], sbuf := [] }
  let s := c.mbuf.foldl (fun s e => s.drainEnt k e) s
  c.sbuf.foldl (fun s e => s.coreWrite k e.addr e.bytes e.hint) s

/-- Entries that overlap a range drain before a vector load reads it (07 R210); the store buffer has passed them first. -/
def State.drainOver (s : State) (k : Nat) (ls : List Nat) : State :=
  let c := s.core k
  let hitM := fun (e : MergeEnt) => ls.contains (e.line * 64)
  if c.mbuf.any hitM || c.sbuf.any (fun e => (linesOf e.addr e.bytes.length).any ls.contains) then s.drainAll k else s

/-! ### Answers from outside the module (11 R294; 12 R327; 13 R366) -/

def RemotePart.isOver (p : RemotePart) : Bool := p.failed || p.data.isSome

/-- Part `i` of a core's wait is answered with bytes, or fails; once all are answered the wait ends and the instruction takes
them when its command is given again. A wait that is no more keeps nothing. -/
def State.coreAnswer (s : State) (k id i : Nat) (r : Option (List Byte)) : State :=
  let c := s.core k
  match c.wait with
  | none => s
  | some w =>
    if w.id ≠ id then s
    else
      let ps := w.parts.zipIdx.map (fun x => if x.2 = i then { x.1 with data := r, failed := r.isNone } else x.1)
      s.setCore k (if ps.all RemotePart.isOver then { c with wait := none, arrived := c.arrived ++ ps } else { c with wait := some { w with parts := ps } })

/-! ### Release and reset (R160, R187) -/

def bootPc (s : State) (k : Nat) : Word := BitVec.ofNat 64 (natBits (s.rget ⟨.gfcBootPc, k / 64, 0, 0⟩) 51 1 * 2)
/-- Where a core starts: GFC_BOOT_PC, or for management cores and the Orangery core a place the spec does not give (log
entry 4). -/
def State.startPc (s : State) (k : Nat) : Word := if k < 512 then bootPc s k else 0
/-- DETMODE's Reset value (R157): 1 for management cores, the Orangery core and the Lodge service cores. -/
def State.detReset (s : State) (k : Nat) : Bool := decide (512 ≤ k) || (s.ptr.image.lodge && decide (k < 8))
/-- A park is discarded: its records stay in their batches (08 R228, R229); faults of it that have no record yet are no more. -/
def State.dropPark (s : State) (k : Nat) : State :=
  if (s.core k).park = none then s
  else
    let d := if k < 512 then k / 64 else 0
    let x := s.xdie d
    (s.setXdie d { x with waiting := x.waiting.filter (fun w => w.waiter != .core k) }).onCore k
      (fun c => { c with park := none, parked := false })

/-- The core reset of R160; a wait keeps its number so that late answers find nothing. -/
def State.resetCore (s : State) (k : Nat) (run : Bool) : State :=
  let c := s.core k
  (s.dropPark k).setCore k { Core.afterReset (s.startPc k) (s.detReset k) with run := run, waits := c.waits }

/-- May a held core be released: in Shed mode cluster 0 of P0 alone is there (17 R463). -/
def State.mayRelease (s : State) (k : Nat) : Bool :=
  decide (512 ≤ k) || (s.dieReleased (k / 64) && (!s.inShed || decide (k < 8)))

/-- Writing 1 to a held RUN bit releases the core under R160. -/
def State.releaseCore (s : State) (k : Nat) : State :=
  if (s.core k).run || !s.mayRelease k then s else s.resetCore k true
/-- Is the core one of the Lodge service cores, which run whatever RUN is written (01 R26; R186)? -/
def State.serviceCore (s : State) (k : Nat) : Bool := s.ptr.image.lodge && decide (k < 8)
/-- Writing 0 to a running core's RUN bit: it stops at its boundary, its merging buffer drains, the core reset follows, and a
park is discarded. -/
def State.stopCore (s : State) (k : Nat) : State := if (s.core k).run && !s.serviceCore k then (s.drainAll k).resetCore k false else s

/-- In LODGE role the service cores run once their die is released (01 R26; where their code lies is log entry 4's GFC_BOOT_PC). -/
def State.startService (s : State) : State :=
  if s.ptr.image.lodge then (List.range 8).foldl (fun s k => s.releaseCore k) s else s

/-- GFC_RUN as it reads: service cores of a Lodge read 1 (R186). -/
def State.runMask (s : State) (p : Nat) : Nat :=
  ((List.range 64).filter (fun j => (s.core (64 * p + j)).run || s.serviceCore (64 * p + j))).foldl
    (fun a j => a + 2 ^ j) 0
def State.parkedMask (s : State) (p : Nat) : Nat :=
  ((List.range 64).filter (fun j => let c := s.core (64 * p + j); c.parked && !(c.park.map Park.isOver).getD true)).foldl (fun a j => a + 2 ^ j) 0
def State.detMask (s : State) (p : Nat) : Nat :=
  ((List.range 64).filter (fun j => (s.core (64 * p + j)).det || (s.serviceCore (64 * p + j) && !(s.core (64 * p + j)).run))).foldl
    (fun a j => a + 2 ^ j) 0

/-- A write of GFC_RUN (R186, R187); the bits of the Lodge service cores read 1 whatever is written (log entry 96: by any master). -/
def State.runWrite (s : State) (p v : Nat) : State :=
  (List.range 64).foldl (fun s j =>
    if v.testBit j then s.releaseCore (64 * p + j) else s.stopCore (64 * p + j)) s

/-! ### The interrupt controller (08 R231-R235) -/

/-- Sources of a class that name core `j` of die `p` with CEN set and are pending, none that is still active: it is delivered again once it is
done (R232); the lowest. -/
def State.irq (s : State) (p j cls : Nat) : Option Nat :=
  let pend := (s.intc p).pend
  if pend = 0 then none
  else (List.range 1024).find? (fun n =>
    pend.testBit n && !(s.intc p).active.testBit n &&
      (let t := s.rget (intTarget p n); t.testBit 6 && natBits t 5 0 == j && natBits t 8 8 == cls))

/-- Is any source that targets the core pending, enabled or not (06 R169)? -/
def State.anyIrq (s : State) (k : Nat) : Bool :=
  decide (k < 512) && ((s.irq (k / 64) (k % 64) 0).isSome || (s.irq (k / 64) (k % 64) 1).isSome)

/-- A read of INT_CLAIM_N or INT_CLAIM_F by a master (R232). -/
def State.claim (s : State) (p m cls : Nat) : Nat × State :=
  if m / 64 = p ∧ m < 512 then
    match s.irq p (m % 64) cls with
    | some n =>
      let c := s.intc p
      (n + 2 ^ 15 + cls * 2 ^ 16, s.setIntc p { c with pend := c.pend - 2 ^ n, active := c.active ||| 2 ^ n })
    | none => (cls * 2 ^ 16, s)
  else (cls * 2 ^ 16, s)

/-- A write of INT_DONE: the source's active state ends. -/
def State.intDone (s : State) (p v : Nat) : State :=
  let c := s.intc p
  let n := v % 1024
  if c.active.testBit n then s.setIntc p { c with active := c.active - 2 ^ n } else s

/-- A write of INT_SWSET. -/
def State.swset (s : State) (p v : Nat) : State := s.raise p (v % 64)

/-- A W1C write of INT_PEND[w]; a bit whose event arrives in the same cycle stays 1 (R233). -/
def State.pendClear (s : State) (p w v arriving : Nat) : State :=
  let c := s.intc p
  let gone := (List.range 64).filter (fun i => v.testBit i && c.pend.testBit (64 * w + i))
  let s1 := s.setIntc p { c with pend := gone.foldl (fun a i => a - 2 ^ (64 * w + i)) c.pend }
  (maskBits 64 arriving).foldl (fun s i => s.raise p (64 * w + i)) s1

/-- INT_PEND[w] and INT_ACTIVE[w] as they read. -/
def State.pendWord (s : State) (p w : Nat) : Nat := natBits (s.intc p).pend (64 * w + 63) (64 * w)
def State.activeWord (s : State) (p w : Nat) : Nat := natBits (s.intc p).active (64 * w + 63) (64 * w)

/-- A die reset returns every register of the INT block to its Reset value (R234). -/
def State.clearInt (s : State) (p : Nat) : State :=
  let b := 0x440000 + p * 0x200000
  (s.setIntc p {}).rclear (fun a => decide (b ≤ a) && decide (a < b + 0x10000))

end Sys2Proof.Machine
end

