-- ==== Sys2Proof/Machine/SageRows.lean ====
section
/-! DEFINITION. The commands of the Sage post engines (spec/05_sage_engine R125-R155): taking and releasing a slot, rows and
their contexts, the instructions, and the SGE register block. -/

namespace Sys2Proof.Machine

def sgeReg (k : RegK) (p : Nat) : Reg := ⟨k, p, 0, 0⟩

/-! ### The tile (R125-R130, R149) -/

/-- Row contexts of a program (R130, R136): one when a well-formed PROG at its entry declares it, else four. -/
def Sage.contexts (sg : Sage) (entry : Nat) : Nat :=
  let i := SMap.get 0 sg.prog entry
  if siOpc i = 0x02 ∧ sageForm { fm := 1 } i = true ∧ i.testBit 16 = true then 1 else 4

/-- SAGE_TAKE (R125): the head of the finished-tile queue becomes the DRAINING slot. -/
def State.sageTake (s : State) (p : Nat) : State :=
  let a := s.ar p
  let sg := s.sg p
  match sg.tile, a.ftq with
  | none, j :: rest =>
    if s.rf (sgeReg .sgeCtl p) 0 0 = 1 then s
    else
      let sl := nth {} a.slots j
      let entry := match s.opOf p sl.op with | some o => o.aop.epi | none => 0
      let n := sg.contexts entry
      let t : SageTile := { slot := j, rows := sl.rows, cols := sl.cols, f64 := sl.f64, n0 := sl.n0, row0 := sl.row0, entry := entry,
                            op := sl.op, ctxs := (List.range n).map (fun c => { next := c }) }
      (s.setAr p { a with ftq := rest, slots := a.slots.set j { sl with st := .draining } }).setSg p { sg with tile := some t }
  | _, _ => s

/-- Requester of a tile row: its index among the operation's, and itself. -/
def State.rowReq (s : State) (p : Nat) (t : SageTile) (row : Nat) : Option (Nat × Req) :=
  match s.opOf p t.op with
  | none => none
  | some o =>
    match o.reqOf (t.row0 + row) with
    | none => none
    | some i => (o.reqs[i]?).map (fun r => (i, r))

/-- The first row of a context that runs, from `row` on; rows of a requester removed by a function-level reset are skipped
(R149): how many were skipped. -/
def State.skipRows (s : State) (p : Nat) (t : SageTile) : Nat → Nat → Nat × Nat
  | 0, row => (row, 0)
  | f + 1, row =>
    if row < t.rows ∧ (match s.rowReq p t row with | some (_, r) => r.removed | none => false) = true then
      let (r, n) := State.skipRows s p t f (row + t.ctxs.length)
      (r, n + 1)
    else (row, 0)

/-- Read a requester's argument block once before its first row (R149). -/
def State.readArgs (s : State) (p : Nat) (t : SageTile) (i : Nat) (r : Req) : SageTile × State :=
  if t.argsRead.contains i || r.aopr.aop.argAddr == 0 then (t, s)
  else
    let bs := r.aopr.bytes s r.aopr.aop.argAddr 256
    let ws := (chunksOf 4 64 bs).map leNat
    ({ t with argsRead := t.argsRead ++ [i], args := ws.zipIdx.foldl (fun m w => SMap.set 0 m (i * 64 + w.2) w.1) t.args },
     r.aopr.meterRead (sageM p) r.aopr.aop.argAddr 256 s)

/-- SAGE_ROW_START (R129, R130): the context's next row starts with every S register +0. -/
def State.rowStart (s : State) (p x : Nat) : State :=
  let sg := s.sg p
  match sg.tile with
  | none => s
  | some t =>
    match t.ctxs[x]? with
    | some ⟨next, none⟩ =>
      let (row, skipped) := s.skipRows p t (t.rows + 1) next
      let t := { t with ended := t.ended + skipped }
      if row < t.rows then
        match s.rowReq p t row with
        | none => s
        | some (i, r) =>
          if s.runHot r.aopr r.aopr.aop.argAddr 256 then s else
          let (t1, s1) := s.readArgs p t i r
          s1.setSg p { s1.sg p with tile := some { t1 with ctxs := t1.ctxs.set x { next := row + t.ctxs.length,
                                                                                   cur := some { row := row, pc := t.entry } } } }
      else s.setSg p { sg with tile := some { t with ctxs := t.ctxs.set x { next := row } } }
    | _ => s

/-! ### Instructions (R131-R138, R145, R150, R151) -/

/-- What a row of the tile sees (R126, R135). -/
def State.sageEnv (s : State) (p : Nat) (t : SageTile) (row i : Nat) (r : Req) : SageEnv :=
  let acb := (s.ar p).acb
  let col := fun c => if c < t.cols then Mem.readLE acb (acbAddr t.slot row c t.f64) (accBytes t.f64) else 0
  let a := r.aopr.aop
  { w := t.cols, f64 := t.f64, n0 := t.n0, mrow := t.row0 + row - r.row0,
    acc := if t.f64 then ofPairs ((List.range 256).map col) else (List.range 512).map col,
    acc1 := if t.f64 then ofPairs ((List.range 256).map (fun c => col (256 + c))) else List.replicate 512 0,
    args := (List.range 64).map (fun w => SMap.get 0 t.args (i * 64 + w)),
    outAddr := a.outAddr, outStride := a.outStride, n := a.n, seed := a.seed, entry := t.entry }

/-- Perform a row's stores through the requester's held translations. -/
def AopRec.storeAll (r : AopRec) (m : Nat) : List (Nat × List Byte) → State → State
  | [], s => s
  | (va, bs) :: l, s =>
    let s1 := ((pagesOf va bs.length).foldl (fun (q : State × List Byte) pg =>
      ((q.1.store (r.pa pg.1) (q.2.take pg.2)).memPort m .write (r.hintFor (r.pa pg.1)) (r.pa pg.1) pg.2, q.2.drop pg.2)) (s, bs)).1
    AopRec.storeAll r m l s1

/-- End or go on with the row of a context. -/
def State.rowPut (s : State) (p x : Nat) (r : SageRow) (ends : Bool) : State :=
  let sg := s.sg p
  match sg.tile with
  | none => s
  | some t =>
    let c := nth { next := 0 } t.ctxs x
    s.setSg p { sg with tile := some { t with ctxs := t.ctxs.set x { c with cur := if ends then none else some r },
                                              ended := if ends then t.ended + 1 else t.ended } }

/-- Update a requester of the tile's operation. -/
def State.updReq (s : State) (p op i : Nat) (f : Req → Req) : State :=
  s.updOp p op (fun o => { o with reqs := match o.reqs[i]? with | some r => o.reqs.set i (f r) | none => o.reqs })

/-- An error ends its row (R151): kept for the requester's lowest row that had one, latched in SGE_ERRLOG, and an event at
source 226. -/
def State.sageErr (s : State) (p x : Nat) (t : SageTile) (row : SageRow) (i code : Nat) (r : Req) : State :=
  let opRow := t.row0 + row.row
  let s1 := s.updReq p t.op i (fun q => if q.epiErr = 0 ∨ opRow < q.epiRow then { q with epiErr := code, epiRow := opRow } else q)
  let s2 := s1.rset (sgeReg .sgeErrlog p) (code + row.pc % 1024 * 2 ^ 4 + row.row * 2 ^ 14 + r.aopr.aop.tag * 2 ^ 32)
  (s2.rowPut p x row true).raise p 226

/-- Do rows below still owe their ROUTE or their end (R132): a context's row that has not routed, or its rows to come? -/
def SageTile.lowerRows (t : SageTile) (row : Nat) : Bool :=
  t.ctxs.any (fun c => decide (c.next < row) || (match c.cur with
    | some r => decide (r.row < row) && !r.routed
    | none => false))

/-- Does an opcode count toward the SAGE meter (15 R412)? -/
def sageCounts (opc : Nat) : Bool := !([0x01, 0x02, 0x38, 0x39].contains opc)

/-- The row of context `x` issues its next instruction, by the function of the instruction's opcode. -/
def State.sageIssue (s : State) (p x : Nat) (opcs : List Nat) (f : SageEnv → Sage → SageRow → Nat → SageRes) : State :=
  let sg := s.sg p
  if !s.runs .sage then s else
  match sg.tile with
  | none => s
  | some t =>
    match (t.ctxs[x]?).bind (fun c => c.cur) with
    | none => s
    | some row =>
      match s.rowReq p t row.row with
      | none => s
      | some (i, r) =>
        let w := SMap.get 0 sg.prog row.pc
        let meter := fun (s : State) =>
          let s1 := s.count (pmcDie p 65) 2 1
          let s2 := if siOpc w = 0x20 then s1.count (pmcDie p 65) 4 1 else if siOpc w = 0x3C then s1.count (pmcDie p 65) 5 1 else s1
          if sageCounts (siOpc w) then s2.meter (s.dieOwner p) 8 t.cols else s2
        if s.rf (sgeReg .sgeStepLimit p) 15 0 ≤ row.steps then s.sageErr p x t row i sgSTEPS r
        else if 1023 < row.pc then s.sageErr p x t row i sgILLEGAL r
        else if !sageOpcOk (siOpc w) then (meter s).sageErr p x t row i sgILLEGAL r
        else if !opcs.contains (siOpc w) then s
        else match f (s.sageEnv p t row.row i r) sg row w with
          | .err c => (meter s).sageErr p x t row i c r
          | .ok o =>
            if o.stores.any (fun x => s.runHot r.aopr x.1 x.2.length) then s else
            let done := fun (s : State) =>
              let s1 := r.aopr.storeAll (sageM p) o.stores (meter s)
              let s2 := s1.setSg p { s1.sg p with tb := o.tb }
              let s3 := if o.sovf || o.sinv then s2.updReq p t.op i (fun q => { q with sovf := q.sovf || o.sovf, sinv := q.sinv || o.sinv })
                else s2
              s3.rowPut p x o.row (siE w)
            match o.route with
            | none => done s
            | some rt =>
              if t.lowerRows row.row then s
              else match s.routeTake p rt with
                | (.held, s1) => s1
                | (.refused _, s1) => (meter s1).sageErr p x t row i sgROUTE r
                | (.taken _, s1) => done s1

/-! ### The SGE memories (R152, R155) -/

/-- Write bytes of the program memory windows. -/
def Sage.putByte (sg : Sage) (off : Nat) (b : Byte) : Sage :=
  let put := fun (m : SMap Nat) (k i : Nat) => SMap.set 0 m k (natPut (SMap.get 0 m k) (8 * i + 7) (8 * i) b.toNat)
  if 0x8000 ≤ off ∧ off < 0xA000 then { sg with prog := put sg.prog ((off - 0x8000) / 8) (off % 8) }
  else if 0xA000 ≤ off ∧ off < 0x10000 then { sg with const := put sg.const ((off - 0xA000) / 4) (off % 4) }
  else sg
def Sage.putBytes (sg : Sage) : Nat → List Byte → Sage
  | _, [] => sg
  | off, b :: bs => (sg.putByte off b).putBytes (off + 1) bs
def Sage.getByte (sg : Sage) (off : Nat) : Byte :=
  if 0x8000 ≤ off ∧ off < 0xA000 then BitVec.ofNat 8 (SMap.get 0 sg.prog ((off - 0x8000) / 8) >>> (8 * (off % 8)))
  else if 0xA000 ≤ off ∧ off < 0x10000 then BitVec.ofNat 8 (SMap.get 0 sg.const ((off - 0xA000) / 4) >>> (8 * (off % 4)))
  else 0

/-- The selected table word, and the advance of WORD from 783 to 0. -/
def State.tblSel (s : State) (p : Nat) : Nat × Nat := (s.rf (sgeReg .sgeTblSel p) 3 0, s.rf (sgeReg .sgeTblSel p) 13 4)
def State.tblAdvance (s : State) (p : Nat) : State :=
  let w := (s.tblSel p).2
  s.rput (sgeReg .sgeTblSel p) 13 4 (if 783 ≤ w then 0 else w + 1)
def State.tblRead (s : State) (p : Nat) : Nat := tblWord (s.sg p) (s.tblSel p).1 (s.tblSel p).2
def State.tblWrite (s : State) (p v : Nat) : State :=
  let (t, w) := s.tblSel p
  let sg := s.sg p
  (s.setSg p { sg with tbl := SMap.set none sg.tbl (t * 784 + w) (some (v % 2 ^ 32)) }).tblAdvance p

/-- An access of the windows or of SGE_TBL_DATA, now; a read of SGE_TBL_DATA has no bytes. -/
def State.sgeApply (s : State) (p : Nat) (h : SageHeld) : State :=
  if h.off = 0x20 then (if h.bytes = [] then s.tblAdvance p else s.tblWrite p (leNat h.bytes))
  else s.setSg p ((s.sg p).putBytes h.off h.bytes)

/-- An access of the windows or of SGE_TBL_DATA: held while a slot is DRAINING (R152). -/
def State.sgeAccess (s : State) (p : Nat) (h : SageHeld) : State :=
  let sg := s.sg p
  if sg.tile.isSome then s.setSg p { sg with held := sg.held ++ [h] } else s.sgeApply p h

/-- SAGE_SLOT_RELEASE (R127): the slot is FREE, and the accesses held meanwhile are performed in order. -/
def State.sageRelease (s : State) (p : Nat) : State :=
  let sg := s.sg p
  match sg.tile with
  | none => s
  | some t =>
    if t.ended < t.rows then s
    else
      let a := s.ar p
      let s1 := ((s.count (pmcDie p 65) 3 1).setAr p { a with slots := a.slots.set t.slot {} }).setSg p { sg with tile := none, held := [] }
      sg.held.foldl (fun s h => s.sgeApply p h) (s1.updOp p t.op (fun o => { o with tilesOut := o.tilesOut - 1 }))

/-! ### The commands -/

/-- SAGE_TAKE (R125). -/
def execSageTake (p : DieIx) (s : State) : Host.Outcome State Fault Refusal := .next (s.on .sage (s.sageTake p.val))
/-- SAGE_ROW_START (R129, R130). -/
def execSageRowStart (p : DieIx) (x : Fin 4) (s : State) : Host.Outcome State Fault Refusal := .next (s.on .sage (s.rowStart p.val x.val))
/-- SAGE_SLOT_RELEASE (R127, R152). -/
def execSageSlotRelease (p : DieIx) (s : State) : Host.Outcome State Fault Refusal := .next (s.on .sage (s.sageRelease p.val))
/-- SageNop (R136). -/
def execSageNop (p : DieIx) (x : Fin 4) (s : State) : Host.Outcome State Fault Refusal :=
  .next (s.sageIssue p.val x.val [0x01] sgNop)
/-- Prog (R130, R136). -/
def execProg (p : DieIx) (x : Fin 4) (s : State) : Host.Outcome State Fault Refusal :=
  .next (s.sageIssue p.val x.val [0x02] sgProg)
/-- SageFadd (R136, R137). -/
def execSageFadd (p : DieIx) (x : Fin 4) (s : State) : Host.Outcome State Fault Refusal :=
  .next (s.sageIssue p.val x.val [0x08] sgFadd)
/-- SageFsub (R136, R137). -/
def execSageFsub (p : DieIx) (x : Fin 4) (s : State) : Host.Outcome State Fault Refusal :=
  .next (s.sageIssue p.val x.val [0x09] sgFsub)
/-- SageFmul (R136, R137). -/
def execSageFmul (p : DieIx) (x : Fin 4) (s : State) : Host.Outcome State Fault Refusal :=
  .next (s.sageIssue p.val x.val [0x0A] sgFmul)
/-- SageFma (R136, R137). -/
def execSageFma (p : DieIx) (x : Fin 4) (s : State) : Host.Outcome State Fault Refusal :=
  .next (s.sageIssue p.val x.val [0x0B] sgFma)
/-- SageFmax (R136, R137). -/
def execSageFmax (p : DieIx) (x : Fin 4) (s : State) : Host.Outcome State Fault Refusal :=
  .next (s.sageIssue p.val x.val [0x0C] sgFmax)
/-- SageFmin (R136, R137). -/
def execSageFmin (p : DieIx) (x : Fin 4) (s : State) : Host.Outcome State Fault Refusal :=
  .next (s.sageIssue p.val x.val [0x0D] sgFmin)
/-- SageFcmp (R136, R137). -/
def execSageFcmp (p : DieIx) (x : Fin 4) (s : State) : Host.Outcome State Fault Refusal :=
  .next (s.sageIssue p.val x.val [0x0E] sgFcmp)
/-- Sel (R136). -/
def execSel (p : DieIx) (x : Fin 4) (s : State) : Host.Outcome State Fault Refusal :=
  .next (s.sageIssue p.val x.val [0x0F] sgSel)
/-- SageIadd (R136: IADD, ISUB, IMUL, IAND, IOR, IXOR). -/
def execSageIadd (p : DieIx) (x : Fin 4) (s : State) : Host.Outcome State Fault Refusal :=
  .next (s.sageIssue p.val x.val [0x10, 0x11, 0x12, 0x13, 0x14, 0x15] sgIadd)
/-- SageShl (R136: SHL, SHR, SAR). -/
def execSageShl (p : DieIx) (x : Fin 4) (s : State) : Host.Outcome State Fault Refusal :=
  .next (s.sageIssue p.val x.val [0x16, 0x17, 0x18] sgShl)
/-- Movi (R136). -/
def execMovi (p : DieIx) (x : Fin 4) (s : State) : Host.Outcome State Fault Refusal :=
  .next (s.sageIssue p.val x.val [0x19] sgMovi)
/-- Movf (R136). -/
def execMovf (p : DieIx) (x : Fin 4) (s : State) : Host.Outcome State Fault Refusal :=
  .next (s.sageIssue p.val x.val [0x1A] sgMovf)
/-- Cvt (R136). -/
def execCvt (p : DieIx) (x : Fin 4) (s : State) : Host.Outcome State Fault Refusal :=
  .next (s.sageIssue p.val x.val [0x1C] sgCvt)
/-- Lut (R139, R140). -/
def execLut (p : DieIx) (x : Fin 4) (s : State) : Host.Outcome State Fault Refusal :=
  .next (s.sageIssue p.val x.val [0x20] sgLut)
/-- Rsum (R143). -/
def execRsum (p : DieIx) (x : Fin 4) (s : State) : Host.Outcome State Fault Refusal :=
  .next (s.sageIssue p.val x.val [0x28] sgRsum)
/-- Rmax (R143, R144). -/
def execRmax (p : DieIx) (x : Fin 4) (s : State) : Host.Outcome State Fault Refusal :=
  .next (s.sageIssue p.val x.val [0x29] sgRmax)
/-- Rmin (R143, R144). -/
def execRmin (p : DieIx) (x : Fin 4) (s : State) : Host.Outcome State Fault Refusal :=
  .next (s.sageIssue p.val x.val [0x2A] sgRmin)
/-- Rargmax (R144). -/
def execRargmax (p : DieIx) (x : Fin 4) (s : State) : Host.Outcome State Fault Refusal :=
  .next (s.sageIssue p.val x.val [0x2B] sgRargmax)
/-- Topk (R144). -/
def execTopk (p : DieIx) (x : Fin 4) (s : State) : Host.Outcome State Fault Refusal :=
  .next (s.sageIssue p.val x.val [0x2C] sgTopk)
/-- Tbr (R129, R136). -/
def execTbr (p : DieIx) (x : Fin 4) (s : State) : Host.Outcome State Fault Refusal :=
  .next (s.sageIssue p.val x.val [0x30] sgTbr)
/-- Tbw (R129, R136). -/
def execTbw (p : DieIx) (x : Fin 4) (s : State) : Host.Outcome State Fault Refusal :=
  .next (s.sageIssue p.val x.val [0x31] sgTbw)
/-- Jmp (R136, R138). -/
def execJmp (p : DieIx) (x : Fin 4) (s : State) : Host.Outcome State Fault Refusal :=
  .next (s.sageIssue p.val x.val [0x38] sgJmp)
/-- Bnz (R136, R138). -/
def execBnz (p : DieIx) (x : Fin 4) (s : State) : Host.Outcome State Fault Refusal :=
  .next (s.sageIssue p.val x.val [0x39] sgBnz)
/-- Sto (R145-R148). -/
def execSto (p : DieIx) (x : Fin 4) (s : State) : Host.Outcome State Fault Refusal :=
  .next (s.sageIssue p.val x.val [0x3C] sgSto)
/-- Route (R132, R150). -/
def execRoute (p : DieIx) (x : Fin 4) (s : State) : Host.Outcome State Fault Refusal :=
  .next (s.sageIssue p.val x.val [0x3E] sgRoute)
/-- SGE_HOLD (R125, R152): a write of SGE_CTL.HOLD. -/
def execSgeHold (p : DieIx) (hold : Bool) (s : State) : Host.Outcome State Fault Refusal :=
  .next (s.rput (sgeReg .sgeCtl p.val) 0 0 (b2n hold))
/-- SGE_TBL_DATA (R152, R155): a read, or a write of a word. -/
def execSgeTblData (p : DieIx) (wr : Option (BitVec 32)) (s : State) : Host.Outcome State Fault Refusal :=
  .next (s.sgeAccess p.val ⟨0x20, match wr with | some v => leBytes 4 v.toNat | none => []⟩)
/-- SGE_MEMORY_WRITE (R152): a write of 4 or 8 bytes of the windows; other offsets of the block are reserved (12 R322). -/
def execSgeMemoryWrite (p : DieIx) (off : BitVec 17) (wide : Bool) (v : BitVec 64) (s : State) : Host.Outcome State Fault Refusal :=
  let o := alignDown off.toNat (if wide then 8 else 4)
  .next (if 0x8000 ≤ o ∧ o < 0x10000 then s.sgeAccess p.val ⟨o, leBytes (if wide then 8 else 4) v.toNat⟩ else s)
/-- SGE_ERRLOG_CLR (R155). -/
def execSgeErrlogClr (p : DieIx) (s : State) : Host.Outcome State Fault Refusal := .next (s.rset (sgeReg .sgeErrlog p.val) 0)

end Sys2Proof.Machine
end

