-- ==== Sys2Proof/Machine/MemRows.lean ====
section
/-! DEFINITION. Near-memory banks, the memory-side caches and write combining, heat and self-refresh, and their commands
(spec/09_memory_reach R241-R259). -/

namespace Sys2Proof.Machine

/-! ### Near-memory banks (R241) -/

/-- The request a bank serves in a cycle: one that has waited AGE cycles, else an array port of the owning die, else the first to
arrive. -/
def bankPick (age : Nat) (l : List BankReq) : Option Nat :=
  match l.findIdx? (fun r => !r.array && decide (age ≤ r.waited)) with
  | some i => some i
  | none =>
    match l.findIdx? (fun r => r.array) with
    | some i => some i
    | none => if l = [] then none else some 0

/-- A request for the line at an offset of a die's near memory is presented at its bank (R239, R241): a new one arrives; presented again,
it stands for one NEAR cycle, in which the bank serves one request and the others wait (log entry 39). Near memory in SLEEP serves
nothing (R257). -/
def State.bankRequest (s : State) (p off m : Nat) (array : Bool) : State :=
  let key := (p * 16 + natBits off 27 24) * 128 + natBits off 12 6
  let row := natBits off 23 13
  let l := SMap.get [] s.memsys.banks key
  if s.pwr.st = .sleep then s
  else if !l.any (fun r => r.master == m && r.row == row && r.array == array) then
    { s with memsys := { s.memsys with banks := SMap.set [] s.memsys.banks key (l ++ [⟨m, row, array, 0⟩]) } }
  else
    match bankPick (natBits (s.rget ⟨.nmcArb, p, 0, 0⟩) 7 0) l with
    | none => s
    | some i =>
      let who := nth ⟨0, 0, false, 0⟩ l i
      let rest := (l.eraseIdx i).map (fun r => { r with waited := r.waited + 1 })
      { s with memsys := { s.memsys with banks := SMap.set [] s.memsys.banks key rest,
                                         served := SMap.set 0 s.memsys.served key (who.master + 1) } }.count (pmcDie p 68) 4 rest.length

/-! ### Requests to a stack (R245-R250) -/

/-- Serve one request of at most one 128-byte line, or turn it away (R245, R238; 01 R32). -/
def State.serveMsc (s : State) (r : MemReq) : State :=
  let n := max 1 (min r.len (128 - r.addr % 128))
  let kind := match r.kind with | .read => Acc.rd | .write => .wr | .atomic => .at
  if !s.lineExists r.master r.addr then s.postAbsent r.master r.addr
  else match targetOf r.addr with
    | none => s
    | some (t, o) =>
      if !s.permits r.master kind t o then s.postDenied r.master r.addr
      else (s.recall none r.addr n).mscAcc r.master r.kind (effHint 0 r.hint r.pte) r.addr n
/-- MSC_REQUEST: at a HOT stack the request is held at the port (R256). -/
def State.mscRequest (s : State) (r : MemReq) : State :=
  let k := r.addr / 0x1000000000
  let x := s.stack k
  if x.st = .hot then s.setStack k { x with held := x.held ++ [r] } else s.serveMsc r

/-! ### Commands of the MSC (R259) -/

/-- FLUSH and FLUSH_INV: begun when no command runs, with the WCB retired. -/
def State.mscCmd (s : State) (k op : Nat) : State :=
  let x := s.stack k
  if x.cmd ≠ 0 ∨ op = 0 ∨ 2 < op then s else s.putStack k x.wcb.length (x.begin (s.keepWays k) op)
/-- An MSC command finishes. -/
def State.mscDone (s : State) (k : Nat) : State :=
  let x := s.stack k
  if x.cmd = 0 then s else s.putStack k 0 x.finish

/-! ### Heat (R254-R256; 18 R477) -/

/-- Enabled steps of STEP_EN (01 R25). -/
def State.stepOn (s : State) (n : Nat) : Bool := s.ptr.image.stepEn.testBit n
def State.slower (s : State) (d : Nat) : Nat := (((upFrom (d + 1) 3).filter (fun n => decide (n < 4) && s.stepOn n)).head?).getD d
def State.faster (s : State) (d : Nat) : Nat := (((List.range d).filter s.stepOn).getLast?).getD d
def State.slowest (s : State) (d : Nat) : Nat := (((List.range 4).filter s.stepOn).getLast?).getD d
def State.demand (s : State) (p : Nat) : Nat := SMap.get 0 s.memsys.demand p
def State.setDemand (s : State) (p v : Nat) : State := { s with memsys := { s.memsys with demand := SMap.set 0 s.memsys.demand p v } }

/-- A stack passes the hot limit (R256): it enters HOT, but that a DEGRADED one, which serves no request, stays DEGRADED until the next
training (R253). -/
def State.enterHot (s : State) (k t : Nat) : State :=
  let s1 := s.setStack k (let x := s.stack k; { x with st := if x.st = .degraded then .degraded else .hot, hotEv := true })
  let info := Config.thermalInfo (16 + k) t % 2 ^ 64
  let own := s.stackOwner k
  let (st, s2) := s1.postRec { sev := if own.isSome then 3 else 0, kind := 0x09, loc := 0x10 + k, part := own, info := info }
  let s3 := match own with | some i => s2.order i st | none => s2
  let d := k / 2
  (s3.raise d 230).setDemand d (s.slowest (s.demand d))

/-- The requests held at a stack's port proceed. -/
def State.leaveHeld (s : State) (k : Nat) : State :=
  ((s.stack k).held.foldl State.serveMsc (s.setStack k { s.stack k with held := [] })).heldAll
/-- A stack cools (R256): it is READY, or SELFREF where no partition names it, and the requests held at its port proceed. -/
def State.leaveHot (s : State) (k : Nat) : State :=
  (s.setStack k { s.stack k with st := if (s.stackOwner k).isSome then .ready else .selfref }).leaveHeld k

/-- HBM_SAMPLE: the stack's hottest reading, in quarter degrees. -/
def State.hbmSample (s : State) (k t : Nat) : State :=
  let x := s.stack k
  let d := k / 2
  let other := s.stack (if k % 2 = 0 then k + 1 else k - 1)
  let warm := decide (380 ≤ t)
  let x1 := { x with temp := t, peak := max x.peak t, warmEv := x.warmEv || warm,
                     refresh2 := if warm then true else if t < 368 then false else x.refresh2 }
  let s1 := s.setStack k x1
  let dem := s.demand d
  let s2 := if warm ∨ 380 ≤ other.temp then s1.setDemand d (s.slower dem)
    else if t < 368 ∧ other.temp < 368 then s1.setDemand d (s.faster dem) else s1
  if 420 ≤ t ∧ (x.st = .ready ∨ x.st = .selfref ∨ (x.st = .degraded ∧ x.temp < 420)) then s2.enterHot k t
  else if t < 380 ∧ x.st = .hot then s2.leaveHot k
  else s2

/-- SELFREF_TIMEOUT (R245): a stack that a management request woke returns to SELFREF, where no partition names it or in SLEEP. -/
def State.selfrefTimeout (s : State) (k : Nat) : State :=
  let x := s.stack k
  if x.st = .ready ∧ x.woken ∧ (s.stackOwner k = none ∨ s.pwr.st = .sleep) then s.setStack k { x with st := .selfref, woken := false } else s

/-- HBM_TEMP.CLR: PEAK takes TEMP. -/
def State.hbmTempClr (s : State) (k : Nat) : State := s.setStack k { s.stack k with peak := (s.stack k).temp }

/-! ### The commands -/

/-- NEAR_BANK_REQUEST (R239, R241). -/
def execNearBankRequest (p : DieIx) (g : Fin 16) (off : BitVec 24) (m : BitVec 12) (array : Bool) (s : State) :
    Host.Outcome State Fault Refusal := .next (s.on .near (s.bankRequest p.val (g.val * 2 ^ 24 + off.toNat) m.toNat array))
/-- MSC_REQUEST (R247, R248, R250). -/
def execMscRequest (m : BitVec 12) (addr : BitVec 40) (len : Fin 129) (kind : MemKind) (hints : Fin 4 × Fin 4) (s : State) :
    Host.Outcome State Fault Refusal := .next (s.on .msc (s.mscRequest ⟨m.toNat, addr.toNat, len.val, kind, hints.1.val, hints.2.val⟩))
/-- WCB_RETIRE (R250): the oldest entry retires. -/
def execWcbRetire (st : StackIx) (s : State) : Host.Outcome State Fault Refusal :=
  .next (s.on .msc (s.putStack st.val (min 1 (s.stack st.val).wcb.length) ((s.stack st.val).retireOldest (s.keepWays st.val))))
/-- SELFREF_TIMEOUT (R245). -/
def execSelfrefTimeout (st : StackIx) (s : State) : Host.Outcome State Fault Refusal := .next (s.selfrefTimeout st.val)
/-- HBM_TEMP_CLR (R259). -/
def execHbmTempClr (st : StackIx) (s : State) : Host.Outcome State Fault Refusal := .next (s.hbmTempClr st.val)
/-- MSC_FLUSH (R259). -/
def execMscFlush (st : StackIx) (s : State) : Host.Outcome State Fault Refusal := .next (s.on .msc (s.mscCmd st.val 1))
/-- MSC_FLUSH_INV (R259). -/
def execMscFlushInv (st : StackIx) (s : State) : Host.Outcome State Fault Refusal := .next (s.on .msc (s.mscCmd st.val 2))
/-- MSC_CMD_COMPLETE (R259). -/
def execMscCmdComplete (st : StackIx) (s : State) : Host.Outcome State Fault Refusal := .next (s.on .msc (s.mscDone st.val))

end Sys2Proof.Machine
end

