-- ==== Sys2Proof/Machine/Gelfort.lean ====
section
/-! DEFINITION. The Gelfort instructions that touch the core alone: integer, floating point, fixed point, branches, control
registers (spec/06_gelfort_core R162-R173). Each function is one row of the opcode table on a core whose pc is the
instruction's address. -/

namespace Sys2Proof.Machine

def w64 (n : Nat) : Word := BitVec.ofNat 64 n
def wInt (i : Int) : Word := BitVec.ofInt 64 i

/-! ### Integer operations (R164, R165) -/

def aluOp (op : AluOp) (a b : Word) : Word :=
  match op with
  | .add => a + b
  | .sub => a - b
  | .and => a &&& b
  | .or => a ||| b
  | .xor => a ^^^ b
  | .sll => a <<< (b.toNat % 64)
  | .srl => a >>> (b.toNat % 64)
  | .sra => a.sshiftRight (b.toNat % 64)

def cmpOp (op : CmpOp) (a b : Word) : Word :=
  match op with
  | .slt => if a.slt b then 1 else 0
  | .sltu => if a.ult b then 1 else 0
  | .min => if b.slt a then b else a
  | .max => if a.slt b then b else a
  | .minu => if b.ult a then b else a
  | .maxu => if a.ult b then b else a

def mulOp (op : MulOp) (a b : Word) : Word :=
  match op with
  | .mul => a * b
  | .mulh => wInt (a.toInt * b.toInt / (2 ^ 64 : Nat))
  | .mulhu => w64 (a.toNat * b.toNat / 2 ^ 64)
  | .mulhsu => wInt (a.toInt * (b.toNat : Int) / (2 ^ 64 : Nat))

/-- Division with R165's results for zero and for signed overflow, at any width. -/
def divOp {w : Nat} (op : DivOp) (a b : BitVec w) : BitVec w :=
  if b = 0 then
    match op with
    | .div => -1
    | .divu => -1
    | .rem => a
    | .remu => a
  else
    match op with
    | .div => BitVec.ofInt w (a.toInt.tdiv b.toInt)
    | .divu => BitVec.ofNat w (a.toNat / b.toNat)
    | .rem => BitVec.ofInt w (a.toInt.tmod b.toInt)
    | .remu => BitVec.ofNat w (a.toNat % b.toNat)

def aluiOp (op : AluiOp) (a : Word) (imm : BitVec 12) : Word :=
  let i : Word := imm.signExtend 64
  let sh := imm.toNat % 64
  match op with
  | .addi => a + i
  | .andi => a &&& i
  | .ori => a ||| i
  | .xori => a ^^^ i
  | .slti => if a.slt i then 1 else 0
  | .sltiu => if a.ult i then 1 else 0
  | .slli => a <<< sh
  | .srli => a >>> sh
  | .srai => a.sshiftRight sh

def aluwOp (op : AluwOp) (a b : Word) : Word :=
  let x : BitVec 32 := a.setWidth 32
  let y : BitVec 32 := b.setWidth 32
  let r : BitVec 32 := match op with
    | .add => x + y
    | .sub => x - y
    | .sll => x <<< (y.toNat % 32)
    | .srl => x >>> (y.toNat % 32)
    | .sra => x.sshiftRight (y.toNat % 32)
    | .mul => x * y
    | .div => divOp .div x y
    | .divu => divOp .divu x y
    | .rem => divOp .rem x y
    | .remu => divOp .remu x y
  r.signExtend 64

/-- Set FXCTL.SATF (R157). -/
def Core.setSATF (c : Core) : Core := c.crPut crFXCTL 3 3 1
def Core.setAOVF (c : Core) : Core := c.crPut crFXCTL 4 4 1

def gAdd (op : AluOp) (rd rs1 rs2 : GReg) (c : Core) : CoreOut := .ok (c.wg rd (aluOp op (c.rg rs1) (c.rg rs2))) none
def gSlt (op : CmpOp) (rd rs1 rs2 : GReg) (c : Core) : CoreOut := .ok (c.wg rd (cmpOp op (c.rg rs1) (c.rg rs2))) none

/-- QADD and QSUB (R165): the exact sum, saturated when FXCTL.SAT is 1 (setting SATF), else wrapped. -/
def gQadd (sub : Bool) (rd rs1 rs2 : GReg) (c : Core) : CoreOut :=
  let a := (c.rg rs1).toInt
  let b := (c.rg rs2).toInt
  let r := if sub then a - b else a + b
  let lim : Int := ((2 ^ 63 : Nat) : Int)
  if (r < -lim ∨ lim ≤ r) ∧ c.crBit crFXCTL 2 then
    .ok ((c.wg rd (wInt (clampInt (-lim) (lim - 1) r))).setSATF) none
  else .ok (c.wg rd (wInt r)) none

def gMul (op : MulOp) (rd rs1 rs2 : GReg) (c : Core) : CoreOut := .ok (c.wg rd (mulOp op (c.rg rs1) (c.rg rs2))) none
def gDiv (op : DivOp) (rd rs1 rs2 : GReg) (c : Core) : CoreOut := .ok (c.wg rd (divOp op (c.rg rs1) (c.rg rs2))) none
def gAlui (op : AluiOp) (rd rs1 : GReg) (imm : BitVec 12) (c : Core) : CoreOut :=
  .ok (c.wg rd (aluiOp op (c.rg rs1) imm)) none
def gAluw (op : AluwOp) (rd rs1 rs2 : GReg) (c : Core) : CoreOut := .ok (c.wg rd (aluwOp op (c.rg rs1) (c.rg rs2))) none

/-! ### 16-bit forms (R162) -/

def gCMv (rd rs : GReg) (c : Core) : CoreOut := .ok (c.wg rd (c.rg rs)) none
def gCAdd (op : AluOp) (rd rs : GReg) (c : Core) : CoreOut := .ok (c.wg rd (aluOp op (c.rg rd) (c.rg rs))) none
/-- imm5 sign-extended. -/
def imm5s (i : Fin 32) : Word := (BitVec.ofNat 5 i.val).signExtend 64
def gCLi (rd : GReg) (i : Fin 32) (c : Core) : CoreOut := .ok (c.wg rd (imm5s i)) none
def gCAddi (rd : GReg) (i : Fin 32) (c : Core) : CoreOut := .ok (c.wg rd (c.rg rd + imm5s i)) none
def gCSlli (op : AluOp) (rd : GReg) (i : Fin 32) (c : Core) : CoreOut :=
  .ok (c.wg rd (aluOp op (c.rg rd) (w64 i.val))) none
/-- A target `off` halfwords from the instruction's own address. -/
def target (pc : Word) (off : Word) : Word := pc + off * 2
def gCBeqz (rs : GReg) (o : Fin 32) (c : Core) : CoreOut :=
  .ok c (if c.rg rs = 0 then some (target c.pc (imm5s o)) else none)
def gCBnez (rs : GReg) (o : Fin 32) (c : Core) : CoreOut :=
  .ok c (if c.rg rs = 0 then none else some (target c.pc (imm5s o)))
def gCJ (o : Fin 1024) (c : Core) : CoreOut := .ok c (some (target c.pc ((BitVec.ofNat 10 o.val).signExtend 64)))
/-- Clear bit 0 of a target (R162, R164). -/
def evenTarget (t : Word) : Word := t &&& ~~~(1 : Word)
def gCJr (rs : GReg) (link : Bool) (c : Core) : CoreOut :=
  let t := evenTarget (c.rg rs)
  .ok (if link then c.wg 1 (c.pc + 2) else c) (some t)
def gCNop (c : Core) : CoreOut := .ok c none
/-- The M format's registers G8-G15. -/
def mreg (r : Fin 8) : GReg := ⟨8 + r.val, by omega⟩

/-! ### Branches and upper immediates (R164) -/

def brTaken (op : BrOp) (a b : Word) : Bool :=
  match op with
  | .beq => a == b
  | .bne => a != b
  | .blt => a.slt b
  | .bge => !a.slt b
  | .bltu => a.ult b
  | .bgeu => !a.ult b

def gBranch (op : BrOp) (rs1 rs2 : GReg) (off : BitVec 12) (c : Core) : CoreOut :=
  .ok c (if brTaken op (c.rg rs1) (c.rg rs2) then some (target c.pc (off.signExtend 64)) else none)
def gJal (rd : GReg) (off : BitVec 20) (c : Core) : CoreOut :=
  .ok (c.wg rd (c.pc + 4)) (some (target c.pc (off.signExtend 64)))
def gJalr (rd rs1 : GReg) (imm : BitVec 12) (c : Core) : CoreOut :=
  .ok (c.wg rd (c.pc + 4)) (some (evenTarget (c.rg rs1 + imm.signExtend 64)))
def upper (imm : BitVec 20) : Word := (imm.signExtend 64) * 4096
def gLui (rd : GReg) (imm : BitVec 20) (c : Core) : CoreOut := .ok (c.wg rd (upper imm)) none
def gAuipc (rd : GReg) (imm : BitVec 20) (c : Core) : CoreOut := .ok (c.wg rd (c.pc + upper imm)) none

/-! ### Floating point (R164, R166) -/

def Core.fpst (c : Core) : Nat := (c.rc crFPST).toNat
/-- The dynamic rounding mode FPST.RM (legal 0-3). -/
def rmOf (n : Nat) : RMode :=
  match n with
  | 1 => .rz
  | 2 => .rdn
  | 3 => .rup
  | _ => .rne
def Core.frm (c : Core) : RMode := rmOf (natBits c.fpst 7 5)
/-- The rounding F3 selects; 4-6 are no rounding (ILLOP). -/
def f3Round (c : Core) (f3 : Fin 8) : Option RMode :=
  if f3.val = 7 then some c.frm else if f3.val ≤ 3 then some (rmOf f3.val) else none
/-- Set the sticky flags of an operation. -/
def Core.flags (c : Core) (f : FpFlags) : Core := c.wc crFPST (c.rc crFPST ||| w64 f.bits)

def fpFmtOf (dbl : Bool) : FpFmt := if dbl then fp64 else fp32
/-- An operand: the register, or its low word for FP32 (R156). -/
def Core.rf (c : Core) (dbl : Bool) (r : GReg) : Nat := if dbl then (c.rg r).toNat else (c.rg r).toNat % 2 ^ 32

/-- FMIN and FMAX (R166): the canonical NaN when either input is NaN; -0 below +0. -/
def fpMinMax (f : FpFmt) (max : Bool) (a b : Nat) : Nat × FpFlags :=
  let va := fpDecode f a
  let vb := fpDecode f b
  let nv := anySNaN f [a, b]
  if valIsNaN va || valIsNaN vb then (f.nanBits, { nv := nv })
  else
    let aLess := valLt va vb || (valIsZero va && valIsZero vb && valSign va && !valSign vb)
    let bLess := valLt vb va || (valIsZero va && valIsZero vb && valSign vb && !valSign va)
    (if max then (if aLess then b else a) else (if bLess then b else a), {})

/-- FCMP's relations (R164, R166): 0 EQ, 1 LT, 2 LE, 3 UNORD. -/
def fpCompare (f : FpFmt) (rel : Nat) (a b : Nat) : Bool × FpFlags :=
  let va := fpDecode f a
  let vb := fpDecode f b
  let un := valIsNaN va || valIsNaN vb
  let nv := anySNaN f [a, b] || (un && (rel == 1 || rel == 2) && Config.fcmpQuietNaNInvalid)
  let r := match rel with
    | 0 => valEq va vb
    | 1 => valLt va vb
    | 2 => valLt va vb || valEq va vb
    | _ => un
  (r, { nv := nv })

/-- The sign FSGN takes (R164): 0 that of b, 1 its inverse, 2 the exclusive OR of both. -/
def fpSignInj (f : FpFmt) (kind : Nat) (a b : Nat) : Nat :=
  let sb := b.testBit (f.ebits + f.mbits)
  let sa := a.testBit (f.ebits + f.mbits)
  let s := match kind with
    | 0 => sb
    | 1 => !sb
    | _ => sa != sb
  a % 2 ^ (f.ebits + f.mbits) + f.signBit s

/-- A floating-point result with the flags it sets. -/
def fpFin (c : Core) (rd : GReg) (r : Nat × FpFlags) : CoreOut := .ok ((c.wg rd (w64 r.1)).flags r.2) none

def gFp (op : FpOp) (dbl : Bool) (f3 : Fin 8) (rd rs1 rs2 : GReg) (c : Core) : CoreOut :=
  let f := fpFmtOf dbl
  let a := c.rf dbl rs1
  let b := c.rf dbl rs2
  match op with
  | .fcmp =>
    if 3 < f3.val then .illop 1
    else
      let (r, fl) := fpCompare f f3.val a b
      .ok ((c.wg rd (w64 (b2n r))).flags fl) none
  | .fsgn => if 2 < f3.val then .illop 1 else .ok (c.wg rd (w64 (fpSignInj f f3.val a b))) none
  | _ =>
    match f3Round c f3 with
    | none => .illop 1
    | some rm =>
      match op with
      | .fadd => fpFin c rd (fpAdd f rm a b)
      | .fsub => fpFin c rd (fpSub f rm a b)
      | .fmul => fpFin c rd (fpMul f rm a b)
      | .fdiv => fpFin c rd (fpDiv f rm a b)
      | .fsqrt => if rs2.val = 0 then fpFin c rd (fpSqrt f rm a) else .illop 2
      | .fmin => fpFin c rd (fpMinMax f false a b)
      | _ => fpFin c rd (fpMinMax f true a b)

/-- A floating-point value to an integer of `w` bits (R166): saturating, NaN to 0, both setting NV. -/
def fpToInt (f : FpFmt) (signed : Bool) (w : Nat) (rm : RMode) (a : Nat) : Nat × FpFlags :=
  let lo : Int := if signed then -((2 ^ (w - 1) : Nat) : Int) else 0
  let hi : Int := if signed then ((2 ^ (w - 1) : Nat) : Int) - 1 else ((2 ^ w : Nat) : Int) - 1
  match fpDecode f a with
  | .nan => (0, { nv := true })
  | .inf n => (ofSigned w (if n then lo else hi), { nv := true })
  | .fin n m e =>
    let (i, inx) := valToInt rm n m e
    if i < lo ∨ hi < i then (ofSigned w (clampInt lo hi i), { nv := true })
    else (ofSigned w i, { nx := inx })

def intToFp (f : FpFmt) (rm : RMode) (i : Int) : Nat × FpFlags := fpEncode f rm (valOfInt i)

/-- FCVT (R164): an int32 result is sign-extended as every 32-bit integer result of the core is (log entry 5). -/
def gFcvt (kind f3 : Fin 8) (rd rs1 : GReg) (c : Core) : CoreOut :=
  match f3Round c f3 with
  | none => .illop 1
  | some rm =>
    let a := (c.rg rs1).toNat
    let a32 := a % 2 ^ 32
    match kind.val with
    | 0 => fpFin c rd (fpConvert fp32 fp64 rm a32)
    | 1 => fpFin c rd (fpConvert fp64 fp32 rm a)
    | 2 => fpFin c rd (intToFp fp64 rm (toSigned 64 a))
    | 3 => fpFin c rd (intToFp fp64 rm (a : Int))
    | 4 => fpFin c rd (fpToInt fp64 true 64 rm a)
    | 5 => fpFin c rd (fpToInt fp64 false 64 rm a)
    | 6 => fpFin c rd (intToFp fp32 rm (toSigned 32 a32))
    | _ =>
      let (r, fl) := fpToInt fp32 true 32 rm a32
      .ok ((c.wg rd (w64 (signExt 32 64 r))).flags fl) none

/-- The fused product and sum with the flag IEEE leaves open. -/
def fpFmaC (f : FpFmt) (rm : RMode) (a b d : Nat) : Nat × FpFlags :=
  let (r, fl) := fpFma f rm a b d
  let p := valMul (fpDecode f a) (fpDecode f b)
  let qn := valIsNaN (fpDecode f d) && !fpIsSNaN f d && !anySNaN f [a, b]
  if p.2 && qn then (r, { fl with nv := Config.fmaInfZeroNaNInvalid }) else (r, fl)

def gFma (single sub : Bool) (f3 : Fin 8) (rd rs1 rs2 rs3 : GReg) (c : Core) : CoreOut :=
  match f3Round c f3 with
  | none => .illop 1
  | some rm =>
    let f := fpFmtOf (!single)
    let d := c.rf (!single) rs3
    fpFin c rd (fpFmaC f rm (c.rf (!single) rs1) (c.rf (!single) rs2) (if sub then fpNegBits f d else d))

/-! ### Fixed point (R170, R171) -/

/-- An accumulator addition, exact modulo 2^72; an exact result outside the range sets FXCTL.AOVF. -/
def Core.accAdd (c : Core) (ad : Fin 4) (base : Int) (d : Int) : Core :=
  let r := base + d
  let c' := c.wa ad (BitVec.ofInt 72 r)
  let lim : Int := ((2 ^ 71 : Nat) : Int)
  if r < -lim ∨ lim ≤ r then c'.setAOVF else c'

def q31 (w : Word) : Int := toSigned 32 w.toNat
def q15 (w : Word) : Int := toSigned 16 w.toNat
def q15h (w : Word) : Int := toSigned 16 (w.toNat / 2 ^ 16)

/-- The product a MAC form adds (or, for FMUL, stores). -/
def macTerm (op : MacOp) (a b : Word) : Int :=
  match op with
  | .fmacQ31 => q31 a * q31 b * 2
  | .fmsuQ31 => -(q31 a * q31 b * 2)
  | .fmulQ31 => q31 a * q31 b * 2
  | .fmac2Q15 => (q15 a * q15 b + q15h a * q15h b) * 2 ^ 33
  | .fmacQ15 => q15 a * q15 b * 2 ^ 33
  | .fmsuQ15 => -(q15 a * q15 b * 2 ^ 33)

def gFmac (op : MacOp) (ad : Fin 4) (rs1 rs2 : GReg) (c : Core) : CoreOut :=
  let base := if op = .fmulQ31 then 0 else (c.ra ad).toInt
  .ok (c.accAdd ad base (macTerm op (c.rg rs1) (c.rg rs2))) none

/-- Extraction (R171): rounded by FXCTL.RND, then saturated or wrapped; the value and whether it saturated. -/
def extractAcc (rnd : Nat) (sat : Bool) (v : Int) (s : Nat) : Int × Bool :=
  let d : Int := ((2 ^ s : Nat) : Int)
  let q := v / d
  let r := v - q * d
  let half : Int := ((2 ^ (s - 1) : Nat) : Int)
  let q' := match rnd with
    | 1 => if half < r ∨ (r = half ∧ q % 2 = 1) then q + 1 else q
    | 2 => if half ≤ r then q + 1 else q
    | 3 => if v < 0 ∧ r ≠ 0 then q + 1 else q
    | _ => q
  let lim : Int := ((2 ^ (63 - s) : Nat) : Int)
  if lim ≤ q' ∨ q' < -lim then
    (if sat then ((if q' < 0 then -lim else lim - 1), true)
     else (toSigned (64 - s) (ofSigned (64 - s) q'), false))
  else (q', false)

/-- FEXT (R170): the extracted value sign-extended; SATF set when it saturated. -/
def gFext (isQ15 : Bool) (rd : GReg) (acc : Fin 4) (c : Core) : CoreOut :=
  let (q, satd) := extractAcc (c.crBits crFXCTL 1 0) (c.crBit crFXCTL 2) (c.ra acc).toInt (if isQ15 then 48 else 32)
  let c' := c.wg rd (wInt q)
  .ok (if satd then c'.setSATF else c') none

def gMfa (high : Bool) (rd : GReg) (acc : Fin 4) (c : Core) : CoreOut :=
  let v := c.ra acc
  .ok (c.wg rd (if high then (v.extractLsb' 64 8).signExtend 64 else v.setWidth 64)) none

def gMta (ad : Fin 4) (rs1 rs2 : GReg) (c : Core) : CoreOut :=
  .ok (c.wa ad (BitVec.ofNat 72 ((c.rg rs2).toNat % 256 * 2 ^ 64 + (c.rg rs1).toNat))) none

/-! ### Control registers (R157, R159, R169; 07 R190, R191; 08 R219) -/

/-- A control register's access rule: lowest level to read, to write (none: read-only). -/
def crRule (n : Nat) : Option (Nat × Option Nat) :=
  match n with
  | 0x000 => some (0, some 1)
  | 0x001 => some (1, some 1)
  | 0x002 => some (1, none)
  | 0x003 => some (1, none)
  | 0x004 => some (1, some 1)
  | 0x005 => some (3, some 3)
  | 0x006 => some (3, some 3)
  | 0x007 => some (1, some 1)
  | 0x008 => some (3, some 3)
  | 0x009 => some (1, some 1)
  | 0x00A => some (3, some 3)
  | 0x00B => some (3, some 3)
  | 0x00C => some (1, none)
  | 0x00D => some (3, some 3)
  | 0x00E => some (3, none)
  | 0x00F => some (3, none)
  | 0x010 => some (0, some 0)
  | 0x011 => some (0, some 0)
  | 0x012 => some (0, some 3)
  | 0x013 => some (0, some 0)
  | 0x020 => some (0, some 0)
  | 0x021 => some (0, some 0)
  | 0x022 => some (0, some 1)
  | 0x030 => some (0, none)
  | 0x040 => some (1, some 1)
  | _ => none

/-- VLMAX at an element-width code (07 R189). -/
def vlmaxOf (sew : Nat) : Nat := 2048 / 2 ^ sew
def Core.sew (c : Core) : Nat := c.crBits crVTYPE 1 0
def Core.vl (c : Core) : Nat := c.crBits crVL 11 0
/-- A write of VTYPE, which brings VL down to the new VLMAX (07 R191). -/
def Core.setVtype (c : Core) (sew : Nat) : Core :=
  let c' := c.wc crVTYPE (w64 (sew % 4))
  (c'.wc crVL (w64 (min c.vl (vlmaxOf (sew % 4))))).dirty

/-- A control register as a whole, clamped per field (R35; Clamp columns of R157, R190 and R219). -/
def Core.mtcWrite (c : Core) (n : Nat) (v : Nat) : Core :=
  match n with
  | 0x000 =>
    let s := (c.rc crSTATUS).toNat
    let s := natPut s 4 2 (natBits v 4 2)
    c.wc crSTATUS (w64 (if v.testBit 7 then natPut s 7 7 0 else s))
  | 0x001 | 0x00D => c.wc n (w64 (v - v % 2))
  | 0x004 | 0x005 | 0x007 | 0x008 => c.wc n (w64 (v - v % 64))
  | 0x006 => c.wc n (w64 (min (v % 1024) 512))
  | 0x009 | 0x00A => c.wc n (w64 (natBits v 51 6 * 64))
  | 0x00B => c.wc n (w64 (natBits v 51 1 * 2))
  | 0x010 => c.wc n (w64 (v % 2 ^ 32))
  | 0x011 => c.wc n (w64 (v % 32))
  | 0x012 => c.wc n (w64 (v % 2))
  | 0x013 => c.wc n (w64 (if 4 ≤ natBits v 7 5 then v % 32 else v % 128))
  | 0x020 => (c.wc n (w64 (min (v % 4096) (vlmaxOf c.sew)))).dirty
  | 0x021 => c.setVtype (v % 4)
  | 0x022 => c.wc n (w64 (v % 4))
  | 0x040 => c.wc n (w64 (v % 4096))
  | _ => c

/-- Vexten is disabled (07 R190) or absent (07 R188): MFC and MTC of VL and VTYPE raise ILLOP. -/
def vextenOff (hasV : Bool) (c : Core) : Bool := !hasV || !c.crBit crVSTAT 0

/-- MFC; `id` is the core's master ID and `hasV` says that it has a Vexten unit (07 R188). -/
def gMfc (id : Nat) (hasV : Bool) (rd : GReg) (cr : BitVec 12) (c : Core) : CoreOut :=
  let n := cr.toNat
  match crRule n with
  | none => .illop 2
  | some (r, _) =>
    if (n = crVL ∨ n = crVTYPE) ∧ vextenOff hasV c then .illop 5
    else if n = crVSTAT ∧ !hasV then .illop 2
    else if c.priv < r then .illop 3
    else .ok (c.wg rd (if n = crCOREID then w64 id else c.rc n)) none

def gMtc (hasV : Bool) (cr : BitVec 12) (rs1 : GReg) (c : Core) : CoreOut :=
  let n := cr.toNat
  match crRule n with
  | none => .illop 2
  | some (_, none) => .illop 3
  | some (_, some w) =>
    if (n = crVL ∨ n = crVTYPE) ∧ vextenOff hasV c then .illop 5
    else if n = crVSTAT ∧ !hasV then .illop 2
    else if c.priv < w then .illop 3
    else .ok (c.mtcWrite n (c.rg rs1).toNat) none

/-- The STATUS bits a level may set or clear by MSET and MCLR (R169): MCE always, IE and FIE from Supervisor. -/
def msetAllowed (priv : Nat) : Nat := if 1 ≤ priv then 0x1C else 0x10

def gMset (mask : BitVec 12) (c : Core) : CoreOut :=
  let m := mask.toNat
  if m &&& msetAllowed c.priv = m then .ok (c.wc crSTATUS (c.rc crSTATUS ||| w64 m)) none else .illop 3
def gMclr (mask : BitVec 12) (c : Core) : CoreOut :=
  let m := mask.toNat
  if m &&& msetAllowed c.priv = m then .ok (c.wc crSTATUS (c.rc crSTATUS &&& ~~~(w64 m))) none else .illop 3

/-- IWIN (08 R224): a window of the lesser of n and IWIN_MAX, never extending an open one; 0 closes it. -/
def gIwin (n : BitVec 12) (c : Core) : CoreOut :=
  if c.priv = 0 then .illop 3
  else
    let len := min n.toNat (c.crBits crIWINMAX 9 0)
    .ok (c.wc crIWCNT (w64 (if c.iwcnt = 0 then len else min c.iwcnt len))) none

/-- SYSCALL (08 R216): the frame names the next instruction. -/
def gSyscall (_ : Core) : CoreOut := .exc causeSYSCALL 0 0
def gBrk (_ : Core) : CoreOut := .exc causeBREAK 0 0
/-- WFI stalls the core at its own address; it raises ILLOP at User level (R169). -/
def gWfi (c : Core) : CoreOut := if c.priv = 0 then .illop 3 else .ok { c with wfi := true } (some c.pc)

/-- VSETVL (07 R191). -/
def gVsetvl (hasV : Bool) (rd rs1 : GReg) (sew : Fin 4) (c : Core) : CoreOut :=
  if vextenOff hasV c then .illop 5
  else
    let n := min (c.rg rs1).toNat (vlmaxOf sew.val)
    let c' := (c.setVtype sew.val).wc crVL (w64 n)
    .ok (c'.wg rd (w64 n)) none

end Sys2Proof.Machine
end

