-- ==== Sys2Proof/Machine/Coll.lean ====
section
/-! DEFINITION. In-network collectives (spec/14_token_exchange R393-R398). -/

namespace Sys2Proof.Machine

/-! ### The descriptor (R393) -/

def CollRun.f (r : CollRun) (w hi lo : Nat) : Nat := natBits r.raw (32 * w + hi) (32 * w + lo)
def CollRun.op (r : CollRun) : Nat := r.f 4 1 0
def CollRun.dtype (r : CollRun) : Nat := r.f 4 3 2
def CollRun.rop (r : CollRun) : Nat := r.f 4 5 4
def CollRun.cid (r : CollRun) : Nat := r.f 4 31 16
def CollRun.root (r : CollRun) : Nat := r.f 6 31 16
def CollRun.src (r : CollRun) : Nat := natBits r.raw (32 * 8 + 55) (32 * 8)
def CollRun.dst (r : CollRun) : Nat := natBits r.raw (32 * 10 + 55) (32 * 10)
def CollRun.count (r : CollRun) : Nat := natBits r.raw (32 * 12 + 39) (32 * 12)
def CollRun.die (r : CollRun) : Nat := r.f 14 2 0
/-- Chosen dimensions, X first. -/
def CollRun.dims (r : CollRun) : List Nat := maskBits 3 (r.f 4 8 6)
def CollRun.start (r : CollRun) (d : Nat) : Nat := if d = 0 then r.f 5 5 0 else if d = 1 then r.f 5 21 16 else r.f 6 5 0
def CollRun.len (r : CollRun) (d : Nat) : Nat := if d = 0 then r.f 5 12 6 else if d = 1 then r.f 5 28 22 else r.f 6 12 6
def CollRun.members (r : CollRun) : Nat := (r.dims.map r.len).foldl (· * ·) 1
/-- Reserved bits, and fields of dimensions not chosen. -/
def CollRun.reserved (r : CollRun) : Nat :=
  r.f 4 15 9 + r.f 5 15 13 + r.f 5 31 29 + r.f 6 15 13 + r.f 9 31 24 + r.f 11 31 24 + r.f 13 31 8 + r.f 14 31 3 + r.f 15 31 0
    + r.f 7 31 0 + ((List.range 3).filter (fun d => !r.dims.contains d)).foldl (fun n d => n + r.start d + r.len d) 0

/-- This member's offset in a dimension (R394), and the offset of a rank. -/
def State.collOff (s : State) (r : CollRun) (d : Nat) : Nat := (devCoord s.device d + 64 * s.size d - r.start d) % s.size d
def rankOff (r : CollRun) : List Nat → Nat → List (Nat × Nat)
  | [], _ => []
  | d :: ds, k => (d, k % r.len d) :: rankOff r ds (k / r.len d)
def offOf (l : List (Nat × Nat)) (d : Nat) : Nat := ((l.find? (fun x => x.1 == d)).map (fun x => x.2)).getD 0
def rankIn (r : CollRun) (off : Nat → Nat) : List Nat → Nat
  | [] => 0
  | d :: ds => off d + r.len d * rankIn r off ds
def State.collRank (s : State) (r : CollRun) : Nat := rankIn r (s.collOff r) r.dims
/-- The device of the next member of a ring (R394). -/
def State.collNext (s : State) (r : CollRun) (d : Nat) : Nat :=
  setCoord s.device d ((r.start d + (s.collOff r d + 1) % r.len d) % s.size d)

/-- The device of the member before this one in a ring. -/
def State.collPrev (s : State) (r : CollRun) (d : Nat) : Nat :=
  setCoord s.device d ((r.start d + (s.collOff r d + r.len d - 1) % r.len d) % s.size d)

/-- Bytes of an element of DST and SRC, and of a running value (R396, R398). -/
def CollRun.esize (r : CollRun) : Nat := nth 1 [4, 2, 8, 1] r.dtype
def CollRun.rsize (r : CollRun) : Nat := if r.dtype = 2 then 8 else 4
def CollRun.fmt (r : CollRun) : FpFmt := if r.dtype = 2 then fp64 else fp32
/-- A source element as a running value, and a running value as a final element (R396). -/
def CollRun.widen (r : CollRun) (x : Nat) : Nat := if r.dtype = 1 then x * 2 ^ 16 else x
def CollRun.final (r : CollRun) (x : Nat) : Nat := if r.dtype = 1 then cvtFp bf16 .rne (fpDecode fp32 x) else x
/-- The reduction of two values (R396). -/
def CollRun.fold (r : CollRun) (a b : Nat) : Nat :=
  if r.rop = 0 then (fpAdd r.fmt .rne a b).1 else (fpMinMax r.fmt (r.rop == 2) a b).1

/-- Block b of [lo, hi) among n. -/
def blockOf (lo hi n b : Nat) : Nat × Nat :=
  let B := ceilDiv (hi - lo) n
  (min (lo + b * B) hi, min (lo + (b + 1) * B) hi)

/-- The range a member holds after the whole reduce-scatter. -/
def rsRange (r : CollRun) (off : Nat → Nat) : List Nat → Nat × Nat → Nat × Nat
  | [], lh => lh
  | d :: ds, (lo, hi) => rsRange r off ds (blockOf lo hi (r.len d) (off d))

/-- Is a descriptor malformed (R394)? DST of a REDUCE_SCATTER is as long as this member's final range. -/
def State.collBad (s : State) (r : CollRun) (q : Nat) : Bool :=
  let sn := r.esize * r.count
  let mine := rsRange r (s.collOff r) r.dims (0, r.count)
  let dn := if r.op = 2 then sn * r.members else if r.op = 1 then r.esize * (mine.2 - mine.1) else sn
  r.reserved != 0 || r.dims == [] || r.dims.any (fun d => r.len d == 0 || decide (s.size d < r.len d) || decide (r.len d ≤ s.collOff r d))
    || decide (r.members ≤ r.root) || r.rop == 3 || r.count == 0 || (r.dtype == 3 && decide (r.op < 2))
    || !((s.queueOwner q).isSome && s.dieOwner r.die == s.queueOwner q)
    || (rangesMeet r.src sn r.dst dn && !(r.op == 0 && r.src == r.dst))
    || decide (2 ^ 56 < r.src + sn) || decide (2 ^ 56 < r.dst + dn)

/-! ### The plan (R395) -/

/-- Phases: 0 reduce-scatter, 1 all-gather, 2 broadcast, as CDATA's PHASE. The all-gather order Z, Y, X serves ALLGATHER too,
and a broadcast goes along X, then Y, then Z (log entry 34). -/
def CollRun.plan (r : CollRun) : List (Nat × Nat) :=
  match r.op with
  | 0 => r.dims.map (fun d => (0, d)) ++ r.dims.reverse.map (fun d => (1, d))
  | 1 => r.dims.map (fun d => (0, d))
  | 2 => r.dims.reverse.map (fun d => (1, d))
  | _ => [(2, 0)]

/-- Where a rank's piece lies in DST: first element and count. -/
def CollRun.piece (r : CollRun) (k : Nat) : Nat × Nat :=
  if r.op = 2 then (k * r.count, r.count)
  else
    let o := rankOff r r.dims k
    let (lo, hi) := rsRange r (offOf o) r.dims (0, r.count)
    (lo, hi - lo)

/-- Dimensions whose all-gather ring has not run before stage `i`. -/
def CollRun.agLeft (r : CollRun) (i : Nat) : List Nat := ((r.plan.drop i).filter (fun x => x.1 == 1)).map (fun x => x.2)

/-- Ranks whose pieces pass a member in the all-gather ring of stage `i`, at offset `o` of its dimension. -/
def State.agRanks (s : State) (r : CollRun) (i d o : Nat) : List Nat :=
  (List.range r.members).filter (fun k =>
    let off := rankOff r r.dims k
    offOf off d == o && ((r.agLeft i).filter (· != d)).all (fun e => offOf off e == s.collOff r e))

/-- Elements a member receives in a stage. -/
def State.collExpect (s : State) (r : CollRun) : Nat :=
  match r.plan[r.stage]? with
  | none => 0
  | some (ph, d) =>
    let n := r.len d
    let o := s.collOff r d
    if ph = 0 then
      let (a, b) := blockOf r.lo r.hi n ((o + n - 1) % n)
      (r.hi - r.lo) - (b - a)
    else if ph = 1 then
      ((List.range n).filter (· != o)).foldl (fun t x => t + ((s.agRanks r r.stage d x).map (fun k => (r.piece k).2)).foldl (· + ·) 0) 0
    else if s.collRank r = r.root then 0 else r.count

/-! ### Packets (R398) -/

/-- The parameter digest. -/
def CollRun.digest (r : CollRun) : Nat :=
  crc32 (leBytes 12 (natBits r.raw (32 * 6 + 31) (32 * 4)) ++ leBytes 8 (natBits r.raw (32 * 13 + 31) (32 * 12)))

def CollRun.sub (r : CollRun) (dim phase step piece off : Nat) : Nat :=
  r.cid + dim * 2 ^ 16 + phase * 2 ^ 18 + step * 2 ^ 20 + r.die * 2 ^ 26 + r.digest * 2 ^ 32 + piece * 2 ^ 64 + off * 2 ^ 96

def State.collPkt (s : State) (r : CollRun) (opc dst status sub : Nat) (els : List Byte) : State :=
  let part := (s.queueOwner r.q).getD 0
  s.queuePkt (s.mkPacket opc 3 dst part (s.jobFloor part) 0 status 0 0 (leBytes 32 sub ++ els)) (some part)

/-- Send elements of a piece to the next member of a ring, in packets of at most 4,064 element bytes. -/
def State.collSend (s : State) (r : CollRun) (dim phase step piece off w : Nat) (els : List Nat) : State :=
  let per := 4064 / w
  let cs := chunksOf per (els.length / per + 1) els
  ((List.range cs.length).zip cs).foldl (fun s c =>
    s.collPkt r 0x30 (s.collNext r dim) 0 (r.sub dim phase step piece (off + per * c.1)) (c.2.flatMap (leBytes w))) s

/-- The sends that open a stage. -/
def State.collOpen (s : State) (r : CollRun) : State :=
  match r.plan[r.stage]? with
  | none => s
  | some (0, d) =>
    let n := r.len d
    let b := (s.collOff r d + n - 1) % n
    let (lo, hi) := blockOf r.lo r.hi n b
    if n = 1 ∨ hi ≤ lo then s else s.collSend r d 0 1 b 0 r.rsize ((upFrom lo (hi - lo)).map (SMap.get 0 r.vec))
  | some (1, d) =>
    if r.len d = 1 then s
    else (s.agRanks r r.stage d (s.collOff r d)).foldl (fun s k =>
      let (b, n) := r.piece k
      s.collSend r d 1 1 k 0 r.esize ((upFrom b n).map (SMap.get 0 r.out))) s
  | some (_, _) =>
    if s.collRank r = r.root then
      r.dims.foldl (fun s d => if r.len d = 1 then s
        else s.collSend r d 2 1 r.root 0 r.esize ((upFrom 0 r.count).map (SMap.get 0 r.out))) s
    else s

/-- A stage in which everything expected has arrived gives way to the next. -/
def State.collAdvance : Nat → State → CollRun → State × CollRun
  | 0, s, r => (s, r)
  | f + 1, s, r =>
    match r.plan[r.stage]? with
    | none => (s, { r with ready := true })
    | some (ph, d) =>
      if r.got < s.collExpect r then (s, r)
      else
        let r1 := if ph = 0 then
            let (lo, hi) := blockOf r.lo r.hi (r.len d) (s.collOff r d)
            { r with lo := lo, hi := hi, stage := r.stage + 1, got := 0 }
          else { r with stage := r.stage + 1, got := 0 }
        -- the last reduce-scatter of an ALLREDUCE leaves this member's final block
        let r2 := if ph = 0 ∧ (r1.plan[r1.stage]?).any (fun x => x.1 == 1) then
            { r1 with out := (upFrom r1.lo (r1.hi - r1.lo)).foldl (fun m i => SMap.set 0 m i (r1.final (SMap.get 0 r1.vec i))) r1.out }
          else r1
        State.collAdvance f (s.collOpen r2) r2

def State.setColl (s : State) (r : CollRun) : State :=
  { s with txu := { s.txu with colls := s.txu.colls.map (fun x => if x.q == r.q && x.ix == r.ix then r else x) } }
def State.dropColl (s : State) (r : CollRun) : State :=
  { s with txu := { s.txu with colls := s.txu.colls.filter (fun x => !(x.q == r.q && x.ix == r.ix)) } }

/-- A member's collective ends: with a status other than OK it passes CFAIL once to the next member of each chosen ring (log entry 34). -/
def State.collEnd (s : State) (r : CollRun) (status : Nat) : State :=
  let s0 := s.dropColl r
  let s1 := ({ s0 with txu := { s0.txu with ended := SMap.set 0 s0.txu.ended r.cid (if status = 0 then 1 else 2) } } : State).descDone
    r.q r.ix status 0 0
  if status = 0 then s1
  else r.dims.foldl (fun s d => if r.len d = 1 then s else s.collPkt r 0x31 (s.collNext r d) status (r.sub d 0 0 0 0) []) s1

/-- Write the result (R395) once every element is in place; a fault of DST holds it. -/
def State.collFinish (s : State) (r : CollRun) (hostErr : Nat) : State :=
  if !r.ready then s.setColl r
  else
    let els := if r.op = 1 then (upFrom r.lo (r.hi - r.lo)).map (fun i => r.final (SMap.get 0 r.vec i))
      else (upFrom 0 (if r.op = 2 then r.count * r.members else r.count)).map (SMap.get 0 r.out)
    let bs := els.flatMap (leBytes r.esize)
    match State.descPages r.q r.ix r.die .wr hostErr (pagesOf r.dst bs.length) s with
    | (none, s1) => s1.setColl r
    | (some ls, s1) =>
      match s1.descWrite r.q r.ix (dmaMaster r.die r.q r.ix) 0 ls bs with
      | (true, s2) => s2.collEnd r 0
      | (false, s2) => s2.collEnd r 2

/-- Start a collective (R393, R394, R397), or go on with one that a fault of its own pages held. -/
def State.collStart (s : State) (q : Nat) (d : QDesc) (hostErr : Nat) : State :=
  match s.txu.colls.find? (fun x => x.q == q && x.ix == d.ix) with
  | some r => s.collFinish r hostErr
  | none =>
    let r : CollRun := { q := q, ix := d.ix, raw := d.raw }
    if s.txu.colls.any (fun x => x.q == q) then s
    else if s.collBad r q then s.descDone q d.ix 1 0 0
    else
      let reads := r.op ≠ 3 ∨ s.collRank r = r.root
      let n := if reads then r.esize * r.count else 0
      match State.descPages q d.ix r.die .rd hostErr (pagesOf r.src n) s with
      | (none, s1) => s1.descRun q d.ix
      | (some ls, s1) =>
        match State.readLocs (dmaMaster r.die q d.ix) hostErr 0 ls s1 with
        | (none, s2) => s2.descDone q d.ix (s1.failStatus s2 q) 0 0
        | (some bs, s2) =>
          let els := (chunksOf r.esize r.count bs).map leNat
          let r1 := if r.op < 2 then { r with lo := 0, hi := r.count, vec := els.zipIdx.foldl (fun m x => SMap.set 0 m x.2 (r.widen x.1)) [] }
            else
              let b := if r.op = 2 then s2.collRank r * r.count else 0
              { r with out := els.zipIdx.foldl (fun m x => SMap.set 0 m (b + x.2) x.1) [] }
          let s3 := ({ s2 with txu := { s2.txu with colls := s2.txu.colls ++ [r1],
                                                    ended := SMap.set 0 s2.txu.ended r.cid 0 } } : State).descRun q d.ix
          let (s4, r2) := State.collAdvance (r1.plan.length + 1) (s3.collOpen r1) r1
          s4.collFinish r2 hostErr

/-! ### Arriving packets (R398) -/

/-- The first three rows of R384 for a member on die `tdie`: the status of a failed check. -/
def State.collCheck (s : State) (p : Packet) (loc : Bool) (tdie : Nat) : Option Nat :=
  let own := s.dieOwner tdie
  if own.isNone ∨ !(loc || (match s.remoteTag p.src p.srcpart with | some (_, i) => own == some i | none => false)) then some 2
  else if p.plvl > s.trl.max ∨ p.plvl < s.ptr.image.floor then some 7
  else match nth .unused s.ptr.parts (own.getD 0) with
    | .contained => some 6
    | .applying => some 5
    | _ => none

/-- Fold a CDATA's elements in and pass them on; none when it belongs to a stage not yet begun. -/
def State.collTake (s : State) (r : CollRun) (p : Packet) : Option (State × CollRun) :=
  let h := p.collSub
  let dim := natBits h 17 16
  let ph := natBits h 19 18
  let step := natBits h 25 20
  let piece := natBits h 81 64
  let off := natBits h 151 96
  let n := r.len dim
  let w := if ph = 0 then r.rsize else r.esize
  let els := (chunksOf w (p.data.length) (p.data.drop 32)).map leNat
  match r.plan[r.stage]? with
  | none => none
  | some (sph, sd) =>
    if ph ≠ sph ∨ (ph ≠ 2 ∧ dim ≠ sd) then none
    else if ph = 0 then
      let (lo, _) := blockOf r.lo r.hi n piece
      let sums := els.zipIdx.map (fun x => r.fold x.1 (SMap.get 0 r.vec (lo + off + x.2)))
      let r1 := { r with got := r.got + els.length }
      if step + 1 = n then
        some (s, { r1 with vec := sums.zipIdx.foldl (fun m x => SMap.set 0 m (lo + off + x.2) x.1) r1.vec })
      else some (s.collSend r dim 0 (step + 1) piece off w sums, r1)
    else
      let b := if ph = 1 then (r.piece piece).1 else 0
      let r1 := { r with got := r.got + els.length, out := els.zipIdx.foldl (fun m x => SMap.set 0 m (b + off + x.2) x.1) r.out }
      let s1 := if step + 1 = n then s else s.collSend r dim ph (step + 1) piece off w els
      let s2 := if ph = 2 then
          (r.dims.filter (fun e => decide (dim < e) && r.len e != 1)).foldl (fun s e => s.collSend r e 2 1 piece off w els) s1
        else s1
      some (s2, r1)

/-- Does a collective still expect elements from the member before it in ring `d`, in the stage it is in? -/
def State.collWants (s : State) (r : CollRun) (d : Nat) : Bool :=
  match r.plan[r.stage]? with
  | some (ph, sd) => (ph == 2 || sd == d) && decide (r.got < s.collExpect r)
  | none => false
/-- The collective a packet of another CID must have been meant for (R397): it comes from the member before this one in a ring whose
elements the collective waits for, and no other queue of the partition runs collectives. -/
def State.collMeant (s : State) (p : Packet) (tdie : Nat) : Option CollRun :=
  let d := natBits p.collSub 17 16
  let one := fun (r : CollRun) => (SMap.keys s.queues).all (fun q => q == r.q || s.queueOwner q != s.queueOwner r.q || s.qType q != tyTrellis)
  s.txu.colls.find? (fun r => r.die == tdie && r.dims.contains d && p.src == s.collPrev r d && s.collWants r d && one r)

/-- A COLL packet at a source (R397, R398): taken, or left where it is until its collective starts here. One that a check of R384 turns
away is answered with CFAIL; a CFAIL, and any packet of a collective that failed here, is dropped when its collective is over. -/
def State.recvColl (s : State) (src : PktSrc) (p : Packet) (hostErr : Nat) : State :=
  let h := p.collSub
  let tdie := natBits h 28 26
  let s1 := s.dropPacket src
  match s.collCheck p (src == .loop) tdie with
  | some st =>
    if p.opc = 0x31 then s1
    else
      let part := (s.dieOwner tdie).getD 0
      s1.queuePkt (s1.mkPacket 0x31 3 p.src part (s.jobFloor part) 0 st 0 0 (leBytes 32 h)) (some part)
  | none =>
    match s.txu.colls.find? (fun r => r.cid == natBits h 15 0 && s.queueOwner r.q == s.dieOwner tdie) with
    | none =>
      let past := SMap.get 0 s.txu.ended (natBits h 15 0)
      if past = 2 ∨ (past = 1 ∧ p.opc = 0x31) then s1
      else match s.collMeant p tdie with
        | some r => s1.collEnd r 1
        | none => s
    | some r =>
      if p.opc = 0x31 then s1.collEnd r p.status
      else if natBits h 63 32 ≠ r.digest then s1.collEnd r 1
      else match s.collTake r p with
        | none => s
        | some (s2, r1) =>
          let (s3, r2) := State.collAdvance (r1.plan.length + 1) (s2.dropPacket src) r1
          s3.collFinish r2 hostErr

end Sys2Proof.Machine
end

