-- ==== Sys2Proof/Machine/Answer.lean ====
section
/-! DEFINITION. Answers to fault batches, holdings of translations, and withdrawal (spec/11_translation_faults R302-R318;
spec/14_token_exchange R391). -/

namespace Sys2Proof.Machine

/-! ### Waiters (R307, R308) -/

/-- How a batch is answered: by REPLAY, by CANCEL, or by containment. -/
inductive Answer where
  | replay | cancel | contain
  deriving DecidableEq, Repr

/-- Status the work of a waiter ends with. -/
def Answer.status : Answer → Nat
  | .replay => 0 | .cancel => 3 | .contain => 6

/-- Parked AOPs of a die that have been answered whole and cancelled complete CANCELLED, FAULT_CANCELLED (04 R110, R119). -/
def State.parkedEnd (s : State) (p : Nat) : State :=
  let a := s.ar p
  let waits := fun (r : AopRec) => (s.xdie p).waiting.any (fun w => w.waiter == .aop p r.src.turn r.ix)
  let done := fun (x : AopRec × List Nat × Nat) => x.2.1 == [] && x.2.2 != 0 && !waits x.1
  let s1 := s.setAr p { a with parked := a.parked.filter (fun x => !done x) }
  (a.parked.filter done).foldl (fun s x => s.aopDone p x.1 x.2.2 (arrResult {} (if x.2.2 = 3 then 0x21 else 0) false false 0)) s1

/-- Work of a descriptor ends for a batch. -/
def State.endDesc (s : State) (q ix st : Nat) : State :=
  match s.desc q ix with
  | none => s
  | some d =>
    if d.isDone then s
    else match s.txu.colls.find? (fun r => r.q == q && r.ix == ix) with
      | some r => s.collEnd r st
      | none => (s.dropXfer q ix).descDone q ix st 0 d.prog

/-- A token's work is answered (14 R391): REPLAY lets it go on; otherwise its unsettled choices end, or the token has failed. -/
def State.tokenAnswer (s : State) (p key id : Nat) (a : Answer) : State :=
  match s.ent p key with
  | none => s
  | some e =>
    let c := key / 8192
    let cent := key % 8192
    let e1 := { e with batches := e.batches.filter (fun b => b != id) }
    if a = .replay then s.setEnt p key (some e1)
    else if e.st.contains .wait then
      let s1 := s.setEnt p key (some { e1.settle (.failed a.status) with batches := [], retry := [] })
      s1.setTdie p ((s1.tdie p).dropTok (c, cent))
    else s.tokenEnd p c key { e with batches := [] } true a.status

/-- Work of an expert input queue is answered: chunks held on their template or results. -/
def State.chunkAnswer (s : State) (p q id : Nat) (a : Answer) : State :=
  let hit := (s.eq32 p q).chunks.filter (fun c => c.batches.contains id)
  hit.foldl (fun s c =>
    if a = .replay then s.updChunk p q c.id (fun x => { x with batches := x.batches.filter (fun b => b != id) })
    else s.failChunk p q c a.status) s

/-- A held packet ends for an answer other than REPLAY: FAIL, or its choice ended. -/
def State.heldEnd (s : State) (p : Nat) (a : Answer) (h : TxuHeld) : State :=
  let k := h.pkt.tok
  let m := h.pkt.aux % 2 ^ 32
  if h.pkt.opc = 0x20 then
    ((maskBits 32 m).foldl (fun s q => s.dropRow p q h.pkt) s).sendFail p h.pkt.src ((s.dieOwner p).getD 0) a.status k m
  else s.updEnt p (entKey k.ctx k.cent) (fun e => e.settle (.failed a.status))

/-- Packets held on a batch (14 R391): tried again, answered FAIL, or their choices ended. -/
def State.heldAnswer (s : State) (p id : Nat) (a : Answer) : State :=
  let t := s.tdie p
  let hit := t.held.filter (fun h => h.batches.contains id)
  let rest := t.held.filter (fun h => !h.batches.contains id)
  let still := hit.filterMap (fun h =>
    let h1 := { h with batches := h.batches.filter (fun b => b != id) }
    if a = .replay ∧ h1.batches ≠ [] then some h1 else none)
  let s1 := s.setTdie p { t with held := rest ++ still }
  (hit.filter (fun h => !(decide (a = .replay) && (h.batches.filter (fun b => b != id)) != []))).foldl (fun s h =>
    if a = .replay then s.heldGo h else s.heldEnd p a h) s1

/-- One waiter of an entry is answered. -/
def State.wake (s : State) (id page : Nat) (a : Answer) : Waiter → State
  | .core k => s.onCore k (fun c => { c with park := c.park.map (fun x =>
      if x.batches.contains id || id == 2 ^ 17 then
        { x with batches := x.batches.filter (fun b => b != id),
                 cancelled := if a = .replay then x.cancelled else x.cancelled ++ [page] }
      else x) })
  | .aop p turn ix =>
    let r := s.ar p
    s.setAr p { r with parked := r.parked.map (fun x =>
      if x.1.src.turn == turn && x.1.ix == ix then (x.1, x.2.1.filter (fun b => b != id), if x.2.2 = 0 then a.status else x.2.2) else x) }
  | .desc q ix =>
    let s1 := s.updDesc q ix (fun d => { d with batches := d.batches.filter (fun b => b != id) })
    if a = .replay then s1 else s1.endDesc q ix a.status
  | .txu p w => if w < 2 ^ 20 then s.tokenAnswer p w id a else s.chunkAnswer p (w - 2 ^ 20) id a

/-- A waiter takes the batch its fault has been placed in. -/
def State.joinBatch (s : State) (id : Nat) : Waiter → State
  | .core k => s.onCore k (fun c => { c with park := c.park.map (fun x =>
      { x with waiting := x.waiting - 1, batches := if x.batches.contains id then x.batches else x.batches ++ [id] }) })
  | .aop p turn ix =>
    let r := s.ar p
    s.setAr p { r with parked := r.parked.map (fun x =>
      if x.1.src.turn == turn && x.1.ix == ix then (x.1, if x.2.1.contains id then x.2.1 else x.2.1 ++ [id], x.2.2) else x) }
  | .desc q ix => s.updDesc q ix (fun d => { d with batches := if d.batches.contains id then d.batches else d.batches ++ [id] })
  | .txu p w =>
    let t := s.tdie p
    let mine := fun (h : TxuHeld) => h.wid == some w && h.batches == []
    if t.held.any mine then s.setTdie p { t with held := t.held.map (fun h => if mine h then { h with batches := [id] } else h) }
    else if w < 2 ^ 20 then s.updEnt p w (fun e => { e with batches := if e.batches.contains id then e.batches else e.batches ++ [id] })
    else s

/-- Freed entries go to the oldest eligible waiter (R304, R305). -/
def State.admitWaiting (p : Nat) : Nat → State → State
  | 0, s => s
  | f + 1, s =>
    let x := s.xdie p
    match x.waiting.findIdx? (fun w => x.room w.rsv) with
    | none => s
    | some i =>
      match x.waiting[i]? with
      | none => s
      | some w =>
        let s1 := s.setXdie p { x with waiting := x.waiting.eraseIdx i }
        match s1.fault p w with
        | (some id, s2) => State.admitWaiting p f (s2.joinBatch id w.waiter)
        | (none, s2) => s2

/-- A batch is answered: its entries are freed, its waiters end or go on. -/
def State.answerBatch (s : State) (p id : Nat) (a : Answer) : State :=
  let x := s.xdie p
  match x.batches.find? (fun b => b.id == id) with
  | none => s
  | some b =>
    let s1 := s.setXdie p { x with batches := x.batches.filter (fun y => y.id != id), answered := x.answered ++ [id] }
    let s2 := b.ents.foldl (fun s e => e.waiters.foldl (fun s w => s.wake id (e.req.va / 65536) a w) s) s1
    let s3 := ((s2.heldAnswer p id a).heldAgain p).parkedEnd p
    State.admitWaiting p (s3.xdie p).waiting.length s3

/-- Requests of a partition that still wait for an entry of a die end as the batches do (R308). -/
def State.endWaiting (s : State) (p part : Nat) (a : Answer) : State :=
  let x := s.xdie p
  let gone := x.waiting.filter (fun w => w.part == some part)
  let s1 := s.setXdie p { x with waiting := x.waiting.filter (fun w => !(w.part == some part)) }
  let s2 := gone.foldl (fun s w =>
    let s := match w.waiter with
      | .core k => s.onCore k (fun c => { c with park := c.park.map (fun (y : Park) => { y with waiting := y.waiting - 1 }) })
      | .txu p w =>
        let mine := fun (h : TxuHeld) => h.wid == some w && h.batches == []
        let t := s.tdie p
        (t.held.filter mine).foldl (fun s h => s.heldEnd p a h) (s.setTdie p { t with held := t.held.filter (fun h => !mine h) })
      | _ => s
    s.wake (2 ^ 17) (w.va / 65536) a w.waiter) s1
  s2.parkedEnd p

/-- Every unanswered batch of a die is answered, and its partition's waiting requests end (R308). -/
def State.answerDie (s : State) (p part : Nat) (a : Answer) : State :=
  (((s.xdie p).batches.map (fun b => b.id)).foldl (fun s id => s.answerBatch p id a) (s.endWaiting p part a))

/-! ### REPLAY and CANCEL (R316) -/

/-- Why a batch cannot be answered by a port's queue, 0 when it can. -/
def State.batchReason (s : State) (port id : Nat) : Nat :=
  let x := s.xdie (id / 2 ^ 13)
  match x.batches.find? (fun b => b.id == id) with
  | none => if x.answered.contains id then (if id / 2 ^ 12 % 2 = port then 3 else 4) else 1
  | some b =>
    if b.port ≠ port then 4
    else match b.st with
      | .open => 2
      | .closed => 5
      | .written => 0

def State.doAnswer (s : State) (q opc : Nat) (a : Answer) : State :=
  match s.startOp q tyAdmin opc with
  | none => s
  | some d =>
    let id := d.f 4 15 0
    if d.f 4 31 16 ≠ 0 ∨ !d.zeroFrom 5 then s.descDone q d.ix 1 0 0
    else
      let r := s.batchReason (s.qPort q) id
      if r ≠ 0 then s.descDone q d.ix 0x81 r 0
      else (s.answerBatch (id / 2 ^ 13) id a).descDone q d.ix 0 0 0

/-! ### Holdings (R312-R314) -/

/-- Work that holds a translation of the range. -/
def State.holders (s : State) (asid va len : Nat) (all : Bool) : List Holding :=
  let hit := fun (a n : Nat) => all || (decide (a < va + len) && decide (va < a + n))
  let aops := (s.arr.map (fun e => (e.2.ops.map (fun o => o.reqs.filterMap (fun r =>
    if r.aopr.asid == asid && r.aopr.pages.any (fun h => hit (h.page * 65536) 65536) then
      some (Holding.aop r.aopr.src.turn r.aopr.ix) else none))).flatten)).flatten
  let xs := s.trl.xfers.filterMap (fun x =>
    match s.desc x.q x.ix with
    | some d => if s.qAsid x.q == asid && (hit (d.addr 4 + x.base) x.len || hit (d.addr 6 + x.base) x.len) then
        some (Holding.xfer x.q x.ix x.base) else none
    | none => none)
  let ks := s.cores.filterMap (fun e => if e.2.priv = 3 ∨ e.2.asid ≠ asid then none
    else if e.2.tran.any (fun t => hit (t.page * 65536) 65536) then some (Holding.core e.1 (e.2.waits - 1)) else none)
  (aops ++ xs ++ ks).eraseDups

/-- Has a holding not ended? -/
def State.held (s : State) : Holding → Bool
  | .aop t ix => s.arr.any (fun e => e.2.ops.any (fun o => o.reqs.any (fun r => r.aopr.src.turn == t && r.aopr.ix == ix)))
  | .xfer q ix b => s.trl.xfers.any (fun x => x.q == q && x.ix == ix && x.base == b)
  | .core k id => let c := s.core k; !c.tran.isEmpty && c.waits == id + 1

/-- INVALIDATE's removal (R313), noting the holdings of what it removes. -/
def State.withdraw (s : State) (asid va len : Nat) (all : Bool) : State :=
  let s1 := s.invalidate asid va len all
  { s1 with xlt := { s1.xlt with withdrawn := ((s1.xlt.withdrawn ++ s1.holders asid va len all).filter s1.held).eraseDups } }

/-- Buffered stores are accesses through translations: a wait for holdings lets every core's buffers drain (R312). -/
def State.drainCores (s : State) : State :=
  (SMap.keys s.cores).foldl (fun s k => if (s.core k).mbuf = [] ∧ (s.core k).sbuf = [] then s else s.drainAll k) s

end Sys2Proof.Machine
end

