-- ==== Sys2Proof/Machine/XltRows.lean ====
section
/-! DEFINITION. The commands of address translation (spec/11_translation_faults R299-R318). -/

namespace Sys2Proof.Machine

/-! ### Walks and fault rings (R299-R304) -/

/-- Die, TLB, master and QUEUE field of a walker's requester, and a waiter that names it (log entry 40). -/
def walkFor : TlbSel → Nat × Nat × Nat × Nat × Waiter
  | .core k => (k.val / 64, tlbCore k.val, coreMaster k.val, 0x1FFF, .core k.val)
  | .dma p => (p.val, tlbDma p.val, 0x200 + 16 * p.val, 0, .desc 4096 0)
  | .array p => (p.val, tlbArray p.val, loaderM p.val, 4096, .aop p.val 4360 0)
  | .txu p => (p.val, tlbTxu p.val, txuDisp p.val, 4097, .txu p.val (2 ^ 20 + 32))

def accOf (n : Nat) : Acc := match n with | 0 => .rd | 1 => .wr | 2 => .ex | _ => .at

/-- A walk completes: the leaf fills the requester's TLB, or the fault goes to the die's fault queue. -/
def State.walkDone (s : State) (r : TlbSel) (asid va : Nat) (k : Acc) (hostErr : Nat) : State :=
  let (p, t, m, qn, w) := walkFor r
  let part := s.dieOwner p
  match (s.count (pmcDie p 67) 2 1).walk hostErr asid va k part with
  | (.ok e, s1) => (if t < 512 then s1.tlbFill (tlbCluster t) e else s1).tlbFill t e
  | (.moving, s1) => s1
  | (.fault c lv e, s1) => (s1.fault p (s1.faultReq w asid va k c lv e m qn none)).2

def fringReg (k : RegK) (n : Nat) : Reg := ⟨k, 0, n, 0⟩
def State.fringSize (s : State) (n : Nat) : Nat := 2 ^ s.rf (fringReg .xltFringCtl n) 4 1

/-- Write records at consecutive ring entries (R302). -/
def State.ringRecords (n : Nat) (b : Batch) (count : Nat) : List FaultEnt → State → State
  | [], s => s
  | e :: es, s =>
    let size := s.fringSize n
    let t := nth 0 s.xlt.ringTail n
    let w := nth false s.xlt.ringWrap n
    let base := s.rf (fringReg .xltFringBase n) 55 12 * 4096
    let s1 := s.hostWrite n (base + 64 * (t % size)) (leBytes 64 (faultRaw b e (e.index + 1 == count) w))
    let t1 := (t + 1) % size
    let s2 := { s1 with xlt := { s1.xlt with ringTail := s1.xlt.ringTail.set n t1,
                                             ringWrap := if t1 = 0 then s1.xlt.ringWrap.set n (!w) else s1.xlt.ringWrap } }
    State.ringRecords n b count es s2

/-- The first closed batch of a port whose records the ring has room for (R302): its die and itself. -/
def State.nextBatch (s : State) (n : Nat) : Option (Nat × Batch) :=
  (List.range 8).findSome? (fun p =>
    ((s.xdie p).batches.find? (fun b => b.st == .closed && b.port == n)).map (fun b => (p, b)))

def State.batchWrite (s : State) (n : Nat) : State :=
  let size := s.fringSize n
  let head := s.rf (fringReg .xltFringPtr n) 30 16
  let room := (head + size - (nth 0 s.xlt.ringTail n + 1) % size) % size
  match s.nextBatch n with
  | none => s
  | some (p, b) =>
    if s.rf (fringReg .xltFringCtl n) 0 0 = 0 ∨ room < b.ents.length ∨ !(s.fn n 0).bme then s
    else
      let s0 := b.ents.foldl (fun s e => s.trace p (faultRaw b e (e.index + 1 == b.ents.length) (nth false s.xlt.ringWrap n))) s
      let s1 := State.ringRecords n b b.ents.length b.ents s0
      let x := s1.xdie p
      let s2 := s1.setXdie p { x with batches := x.batches.map (fun y => if y.id = b.id then { y with st := .written } else y) }
      (s2.msix n 0 (s2.rf (fringReg .xltFringCtl n) 15 5)).raise p 228

/-! ### INVALIDATE and FENCE (R313-R316) -/

/-- ASID, VA and LENGTH of a command. -/
def QDesc.asid (d : QDesc) : Nat := d.f 4 11 0
def QDesc.va (d : QDesc) : Nat := natBits d.raw (32 * 5 + 63) (32 * 5)
def QDesc.vlen (d : QDesc) : Nat := natBits d.raw (32 * 7 + 63) (32 * 7)
/-- The range rules of R316. -/
def QDesc.badRange (d : QDesc) : Bool :=
  d.va % 65536 != 0 || d.vlen % 65536 != 0 || d.vlen == 0 || decide (2 ^ 56 < d.va + d.vlen)
/-- Does the ASID's context name the other port? -/
def State.otherPort (s : State) (q asid : Nat) : Bool :=
  match s.context asid with | some c => c.port != s.qPort q | none => false

def State.doInvalidate (s : State) (q : Nat) : State :=
  match s.startOp q tyAdmin 0x20 with
  | none => s
  | some d =>
    let all := d.f 4 12 12 == 1
    if d.f 4 31 13 ≠ 0 ∨ !d.zeroFrom 9 ∨ (if all then d.va != 0 || d.vlen != 0 else d.badRange) then s.descDone q d.ix 1 0 0
    else if s.otherPort q d.asid then s.descDone q d.ix 2 0 0
    else (s.withdraw d.asid d.va d.vlen all).descDone q d.ix 0 0 0

def State.fenceStart (s : State) (q : Nat) : State :=
  match s.startOp q tyAdmin 0x21 with
  | none => s
  | some d =>
    if !d.zeroFrom 4 then s.descDone q d.ix 1 0 0
    else
      let s1 := s.descRun q d.ix
      { s1 with xlt := { s1.xlt with fences := s1.xlt.fences ++ [(q, d.ix, s.xlt.withdrawn.filter s.held)] } }

def State.fenceDone (s : State) (q : Nat) : State :=
  match s.xlt.fences.find? (fun f => f.1 == q) with
  | none => s
  | some (_, ix, hs) =>
    if hs.any s.held then s
    else
      let s1 := s.drainCores
      ({ s1 with xlt := { s1.xlt with fences := s1.xlt.fences.filter (fun f => f.1 != q),
                                      withdrawn := s1.xlt.withdrawn.filter s1.held } } : State).descDone q ix 0 0 0

/-! ### Leaves in place, PREFETCH and ADVISE (R310, R311) -/

/-- What stands at level 0 for an address: an entry with its place, nothing, a read that failed, or one that waits (12 R326). -/
inductive LeafAt where
  | entry (ty port a e : Nat)
  | absent
  | failed
  | waits
  deriving DecidableEq, Repr

def State.leafLevels (s : State) (hostErr : Nat) (va cport : Nat) : Nat → Nat → Nat → Nat → LeafAt × State
  | 0, _, _, _ => (.absent, s)
  | lv + 1, ty, a, tport =>
    let ea := a + 8 * natBits va (25 + 10 * lv) (16 + 10 * lv)
    let (r, s1) := s.walkRead cport ty tport ea hostErr
    if s.tableWaits ty tport ea then (.waits, s)
    else match r with
    | none => (.failed, s1)
    | some e =>
      if lv = 0 then (.entry ty tport ea e, s1)
      else if !e.testBit 0 || e.testBit 1 || !entryOk e lv then (.absent, s1)
      else State.leafLevels s1 hostErr va cport lv (leafType e) (natBits e 55 13 * 2 ^ 13) (leafPort e)

def State.leafAt (s : State) (hostErr : Nat) (asid va : Nat) : LeafAt × State :=
  if !(s.rget regAsidtab).testBit 0 then (.absent, s)
  else
    let (r, s1) := s.ctxRead asid
    if s.hotAt (s.ctxAddr asid) then (.waits, s)
    else match r with
    | none => (.failed, s1)
    | some w =>
      match ctxOf w with
      | none => (.absent, s1)
      | some c => s1.leafLevels hostErr va c.port 4 c.rtype c.root c.port

/-- Write a table entry under the port's master. -/
def State.putLeaf (s : State) (m ty port a e : Nat) : Bool × State :=
  if ty = 2 then (true, s.hostWrite port a (leBytes 8 e)) else s.devWrite m a (leBytes 8 e)

/-- Does a level-0 entry map a page PREFETCH moves? -/
def movable (e : Nat) : Bool := e.testBit 0 && entryOk e 0 && leafType e != 3 && !leafMoving e

def State.updPref (s : State) (q : Nat) (f : Prefetch → Prefetch) : State :=
  { s with xlt := { s.xlt with prefetch := s.xlt.prefetch.map (fun p => if p.q = q then f p else p) } }
def State.prefOf (s : State) (q : Nat) : Option Prefetch := s.xlt.prefetch.find? (fun p => p.q == q)

/-- A PREFETCH ends with a status: pages moved and skipped. -/
def State.prefEnd (s : State) (q : Nat) (pf : Prefetch) (status : Nat) : State :=
  ({ s with xlt := { s.xlt with prefetch := s.xlt.prefetch.filter (fun p => p.q != q) } } : State).descDone q pf.ix status
    (pf.moved % 65536 + pf.skipped % 65536 * 65536) 0

/-- Go on from a page: skip pages not mapped, and begin the next one that is: MOVING set, translations removed. -/
def State.prefNext (q : Nat) (d : QDesc) (hostErr : Nat) : Nat → State → Prefetch → State
  | 0, s, pf => s.prefEnd q pf 0
  | f + 1, s, pf =>
    let va := d.va + pf.page * 65536
    match s.leafAt hostErr d.asid va with
    | (.failed, s1) => s1.prefEnd q pf 2
    | (.waits, s1) => s1.updPref q (fun _ => pf)
    | (.absent, s1) => State.prefNext q d hostErr f s1 { pf with page := pf.page + 1, skipped := pf.skipped + 1 }
    | (.entry ty port a e, s1) =>
      if !movable e then State.prefNext q d hostErr f s1 { pf with page := pf.page + 1, skipped := pf.skipped + 1 }
      else match s1.putLeaf (fnMaster (s.qPort q) 0) ty port a (e ||| 2 ^ 12) with
        | (false, s2) => s2.prefEnd q pf 2
        | (true, s2) =>
          let hs := s2.holders d.asid va 65536 false
          (s2.withdraw d.asid va 65536 false).updPref q (fun _ => { pf with moving := some a, ty := ty, port := port, leaf := e, holds := hs })

def prefPages (d : QDesc) (pf : Prefetch) : Nat := d.vlen / 65536 - pf.page
def prefTarget (d : QDesc) : Nat := d.f 4 13 12
def prefDest (d : QDesc) : Nat := natBits d.raw (32 * 9 + 63) (32 * 9)

/-- Is DEST memory of the target's kind that exists? -/
def destOk (d : QDesc) : Bool :=
  let a := prefDest d
  match prefTarget d with
  | 0 => decide (a + d.vlen ≤ hbmTop)
  | 1 => decide (nearBase ≤ a) && decide (a + d.vlen ≤ nearBase + 8 * nearSize)
  | _ => decide (a + d.vlen ≤ 2 ^ 56)

def State.prefetchStart (s : State) (q : Nat) (hostErr : Nat) : State :=
  match s.startOp q tyAdmin 0x24 with
  | none => s
  | some d =>
    let host := prefTarget d == 2
    if d.badRange || d.f 4 31 19 != 0 || !d.zeroFrom 11 || prefTarget d == 3 || prefDest d % 65536 != 0
        || (!host && (d.f 4 14 14 == 1 || d.f 4 15 15 == 1)) || !destOk d then s.descDone q d.ix 1 0 0
    else if s.otherPort q d.asid then s.descDone q d.ix 2 0 0
    else
      let pf : Prefetch := { q := q, ix := d.ix }
      let s1 := s.descRun q d.ix
      State.prefNext q d hostErr (prefPages d pf) { s1 with xlt := { s1.xlt with prefetch := s1.xlt.prefetch ++ [pf] } } pf

/-- The leaf of a page that has been moved. -/
def movedLeaf (e ty frame port coh : Nat) : Nat :=
  natPut (natPut (natPut (natPut (natPut e 3 2 ty) 55 16 (frame / 65536)) 62 62 port) 11 11 coh) 12 12 0

/-- The leaf of the page that a PREFETCH moves: as it stands, or, where its read fails, as it was found. -/
def State.moveLeaf (s : State) (pf : Prefetch) (ea hostErr : Nat) : Nat × State :=
  let (r, s1) := s.walkRead (s.qPort pf.q) pf.ty pf.port ea hostErr
  (r.getD (pf.leaf ||| 2 ^ 12), s1)
/-- The move of a page ends without its new frame: MOVING is cleared (R310). -/
def State.unmove (s : State) (pf : Prefetch) (ea e : Nat) : State :=
  (s.putLeaf (fnMaster (s.qPort pf.q) 0) pf.ty pf.port ea (natPut e 12 12 0)).2

/-- Source and destination of the page in progress. -/
def moveSrc (d : QDesc) (e : Nat) : Piece := ⟨TlbEnt.loc ⟨d.asid, 0, 16, e⟩ 0, 65536, leafHint e⟩
def moveDst (d : QDesc) (pf : Prefetch) (e : Nat) : Piece :=
  let dest := prefDest d + pf.page * 65536
  ⟨if prefTarget d = 2 then .host (d.f 4 14 14) dest (d.f 4 15 15 == 1) else .dev dest, 65536, leafHint e⟩

/-- Does the move of a page wait, for the Bus Master Enable of PF0 of a port that a HOST page needs (12 R326), or for a stack that is HOT (09
R256)? -/
def State.moveWaits (s : State) (q : Nat) (d : QDesc) (pf : Prefetch) (ea : Nat) : Bool :=
  let e := (s.moveLeaf pf ea 0).1
  s.tableWaits pf.ty pf.port ea || s.hotLoc (moveSrc d e).loc || s.hotLoc (moveDst d pf e).loc ||
    ((leafType e == 2 || prefTarget d == 2) && !(s.fn (s.qPort q) 0).bme)

/-- The page in progress is copied by the engines of the die the command names, and its leaf written (R310). -/
def State.prefPageDone (s : State) (q : Nat) (hostErr : Nat) : State :=
  match s.prefOf q with
  | none => s
  | some pf =>
    match s.desc q pf.ix, pf.moving with
    | some d, none => State.prefNext q d hostErr (prefPages d pf) s pf
    | some d, some ea =>
      if pf.holds.any s.held || s.moveWaits q d pf ea then s
      else
        let m := fnMaster (s.qPort q) 0
        let p := d.f 4 18 16
        let (e, s1) := s.drainCores.moveLeaf pf ea hostErr
        let fail := fun (s : State) (st : Nat) => (s.unmove pf ea e).prefEnd q pf st
        match State.readLocs m hostErr 0 [moveSrc d e] s1 with
        | (none, s2) => fail s2 (s1.failStatus s2 q)
        | (some bs, s2) =>
          match (s2.count (pmcDie p 66) 2 65536).descWrite q pf.ix m 0 [moveDst d pf e] bs with
          | (false, s3) => fail s3 2
          | (true, s3) =>
            let (ok, s4) := (s3.count (pmcDie p 66) 3 65536).putLeaf m pf.ty pf.port ea
              (movedLeaf e (prefTarget d) (prefDest d + pf.page * 65536) (d.f 4 14 14) (d.f 4 15 15))
            let pf1 : Prefetch := { pf with page := pf.page + 1, moved := pf.moved + 1, moving := none, holds := [] }
            (if ok then State.prefNext q d hostErr (prefPages d pf1) s4 pf1 else s4.prefEnd q pf 2).heldAll
    | _, _ => s

/-- Write ADV and ARG into the level-0 entries of pages (R311): whether every one was, or none when an access waits. -/
def State.adviseAll (m asid adv arg : Nat) (hostErr : Nat) : Nat → Nat → State → Option Bool × State
  | 0, _, s => (some true, s)
  | n + 1, va, s =>
    match s.leafAt hostErr asid va with
    | (.failed, s1) => (some false, s1)
    | (.waits, s1) => (none, s1)
    | (.absent, s1) => State.adviseAll m asid adv arg hostErr n (va + 65536) s1
    | (.entry ty port a e, s1) =>
      if e.testBit 0 && leafType e == 3 then State.adviseAll m asid adv arg hostErr n (va + 65536) s1
      else match s1.putLeaf m ty port a (natPut (natPut e 57 56 adv) 61 58 arg) with
        | (false, s2) => (some false, s2)
        | (true, s2) => State.adviseAll m asid adv arg hostErr n (va + 65536) s2

def State.doAdvise (s : State) (q : Nat) (hostErr : Nat) : State :=
  match s.startOp q tyAdmin 0x25 with
  | none => s
  | some d =>
    if d.badRange || d.f 4 15 14 != 0 || d.f 4 31 20 != 0 || !d.zeroFrom 9 then s.descDone q d.ix 1 0 0
    else if s.otherPort q d.asid then s.descDone q d.ix 2 0 0
    else
      match State.adviseAll (fnMaster (s.qPort q) 0) d.asid (d.f 4 13 12) (d.f 4 19 16) hostErr (d.vlen / 65536) d.va s with
      | (none, _) => s
      | (some ok, s1) => (s1.withdraw d.asid d.va d.vlen false).descDone q d.ix (if ok then 0 else 2) 0 0

/-! ### On-module invalidation (R317, R318) -/

def State.invBusy (s : State) (p : Nat) : Bool := (SMap.get none s.xlt.inv p).isSome

def State.invStart (s : State) (p asid : Nat) (all fence : Bool) : State :=
  if s.invBusy p then s
  else
    let va := s.rf ⟨.xltInvVa, p, 0, 0⟩ 55 16 * 65536
    let len := s.rf ⟨.xltInvLen, p, 0, 0⟩ 55 16 * 65536
    let s1 := s.withdraw asid va len all
    let c : InvCmd := ⟨fence, if fence then s1.xlt.withdrawn.filter s1.held else []⟩
    { s1 with xlt := { s1.xlt with inv := SMap.set none s1.xlt.inv p (some c) } }

def State.invDone (s : State) (p : Nat) : State :=
  match SMap.get none s.xlt.inv p with
  | none => s
  | some c =>
    if c.holds.any s.held then s
    else
      let s1 := if c.fence then s.drainCores else s
      ({ s1 with xlt := { s1.xlt with inv := SMap.set none s1.xlt.inv p none } } : State).rput ⟨.xltInvCmd, p, 0, 0⟩ 17 17 1

/-! ### The commands -/

/-- TRANSLATION_WALK (R299, R300). -/
def execTranslationWalk (r : TlbSel) (asid : BitVec 12) (va : BitVec 56) (kind : Fin 4) (hostErr : HostErr) (s : State) :
    Host.Outcome State Fault Refusal := .next (s.on .mesh (s.walkDone r asid.toNat va.toNat (accOf kind.val) hostErr))
/-- BATCH_CLOSE (R304). -/
def execBatchClose (p : DieIx) (n : PortIx) (s : State) : Host.Outcome State Fault Refusal :=
  let x := s.xdie p.val
  .next (s.on .mesh (match x.openOf n.val with | some b => (s.setXdie p.val (x.closeBatch b.id)).count (pmcDie p.val 67) 4 1 | none => s))
/-- FAULT_BATCH_WRITE (R302). -/
def execFaultBatchWrite (n : PortIx) (s : State) : Host.Outcome State Fault Refusal := .next (s.on .mesh (s.batchWrite n.val))
/-- INVALIDATE (R313, R316). -/
def execInvalidate (q : QIx) (s : State) : Host.Outcome State Fault Refusal := .next (s.doInvalidate q.val)
/-- TRANSLATION_FENCE (R314). -/
def execTranslationFence (q : QIx) (s : State) : Host.Outcome State Fault Refusal := .next (s.fenceStart q.val)
/-- TRANSLATION_FENCE_DONE (R314). -/
def execTranslationFenceDone (q : QIx) (s : State) : Host.Outcome State Fault Refusal := .next (s.fenceDone q.val)
/-- REPLAY (R307, R316). -/
def execReplay (q : QIx) (s : State) : Host.Outcome State Fault Refusal := .next (s.doAnswer q.val 0x22 .replay)
/-- CANCEL (R307, R316). -/
def execCancel (q : QIx) (s : State) : Host.Outcome State Fault Refusal := .next (s.doAnswer q.val 0x23 .cancel)
/-- PREFETCH (R310, R316). -/
def execPrefetch (q : QIx) (hostErr : HostErr) (s : State) : Host.Outcome State Fault Refusal := .next (s.on .dma (s.prefetchStart q.val hostErr))
/-- PREFETCH_PAGE_DONE (R310). -/
def execPrefetchPageDone (q : QIx) (hostErr : HostErr) (s : State) : Host.Outcome State Fault Refusal :=
  .next (s.on .dma (s.prefPageDone q.val hostErr))
/-- ADVISE (R311, R316). -/
def execAdvise (q : QIx) (hostErr : HostErr) (s : State) : Host.Outcome State Fault Refusal := .next (s.doAdvise q.val hostErr)
/-- XLT_INV_CMD (R317, R318). -/
def execXltInvCmd (p : DieIx) (asid : BitVec 12) (all fence : Bool) (s : State) : Host.Outcome State Fault Refusal :=
  .next (s.invStart p.val asid.toNat all fence)
/-- XLT_INV_DONE (R318). -/
def execXltInvDone (p : DieIx) (s : State) : Host.Outcome State Fault Refusal := .next (s.invDone p.val)

end Sys2Proof.Machine
end

