-- ==== Sys2Proof/Machine/Queues.lean ====
section
/-! DEFINITION. Queues (spec/12_queues_pcie R328-R343): rings, fetching, records, notification, states, and function-level
resets. -/

namespace Sys2Proof.Machine

/-! ### Rings (R328, R329) -/

def Queue.sqSize (x : Queue) : Nat := 2 ^ natBits x.sq 4 1
def Queue.cqSize (x : Queue) : Nat := 2 ^ natBits x.cq 4 1
/-- LOC and BASE of a ring register. -/
def ringLoc (r : Nat) : Nat := r % 2
def ringBase (r : Nat) : Nat := natBits r 55 12 * 4096
/-- A queue's state: outside every partition's range it is UNASSIGNED, in a contained one CONTAINED. -/
def State.qst (s : State) (q : Nat) : QSt :=
  match s.queueOwner q with
  | none => .unassigned
  | some i => if nth .unused s.ptr.parts i == .contained then .contained else (s.queue q).st
def State.qfn (s : State) (q : Nat) : PciFn := s.fn (s.qPort q) (s.qFunc q)
/-- May the queue reach byte `o` of a ring: host memory under Bus Master Enable (R326) and no reset of the port (R342), device memory in
no stack that is HOT (09 R256)? -/
def State.ringReach (s : State) (q r o : Nat) : Bool :=
  if ringLoc r = 1 then !s.hotAt (ringBase r + o) else (s.qfn q).bme && !(s.qfn q).cut
/-- Slots of a descriptor. -/
def State.descSlots (s : State) (q : Nat) : Nat := if s.qType q = tyCompute then 2 else 1
/-- Slots waiting. -/
def Queue.ready (x : Queue) : Nat := (x.sqTail + x.sqSize - x.sqHead) % x.sqSize

/-- Read the descriptor at SQ_HEAD as the bound function. -/
def State.ringRead (s : State) (q : Nat) (hostErr : Nat) : Option (List Byte) × State :=
  let x := s.queue q
  let rd := fun (s : State) (slot : Nat) =>
    s.readRaw (s.qMaster q) (ringLoc x.sq) (s.qPort q) (ringBase x.sq + 64 * (slot % x.sqSize)) 64 hostErr
  match rd s x.sqHead with
  | (none, s1) => (none, s1)
  | (some a, s1) =>
    if s.descSlots q = 1 then (some a, s1)
    else match rd s1 (x.sqHead + 1) with
      | (none, s2) => (none, s2)
      | (some b, s2) => (some (a ++ b), s2)

/-! ### Notification (R339) -/

def State.notify (s : State) (q : Nat) : State :=
  let x := s.queue q
  let s1 := s.setQueue q { x with counted := 0 }
  let s2 := if x.notify.testBit 0 then s1.msix (s.qPort q) (s.qFunc q) (natBits x.notify 11 1) else s1
  if x.notify.testBit 12 then s2.raise (natBits x.notify 15 13) (512 + natBits x.notify 24 16) else s2

/-! ### States (R333, R340) -/

/-- A failed ring access: QUE_STATE.ERR and an error record. -/
def State.ringError (s : State) (q e : Nat) : State :=
  (s.setQueue q { s.queue q with err := e }).post
    { sev := 0, kind := 0x0B, loc := 8, master := some (s.qMaster q), part := s.queueOwner q, info := Config.configReason e % 2 ^ 64 }

/-- A queue enters ERROR and notifies at once. -/
def State.queueError (s : State) (q e : Nat) : State :=
  let s1 := s.setQueue q { s.queue q with st := .error }
  (s1.ringError q e).notify q

/-- A queue becomes DISABLED: records counted are notified, and QUEUE_DISABLE commands that wait for it complete. -/
def State.queueOff (s : State) (q : Nat) : State :=
  let x := s.queue q
  let s1 := s.setQueue q { x with st := .disabled, en := false, disableFor := [] }
  let s2 := if x.counted = 0 then s1 else s1.notify q
  x.disableFor.foldl (fun s a =>
    match (s.queue a).flight.find? (fun d => d.st == .running && d.opcode == 2) with
    | some d => s.descDone a d.ix 0 0 0
    | none => s) s2

/-- A queue becomes DISABLED with its indices zero. -/
def State.queueZero (s : State) (q : Nat) : State :=
  let s1 := s.queueOff q
  s1.setQueue q { s1.queue q with flight := [], sqTail := 0, sqHead := 0, cqTail := 0, cqHead := 0, phase := true, counted := 0 }

/-- A DRAINING queue with nothing in flight and no whole descriptor unfetched, or an UNAVAILABLE one told to stop, is DISABLED; a
CONTAINED one is, with its indices zero, once its partition is released and its records are written (log entry 110). A reset of the
function decides for itself (R341). -/
def State.queueSettle (s : State) (q : Nat) : State :=
  let x := s.queue q
  if x.resetting then s
  else if x.st = .draining ∧ x.flight = [] ∧ x.ready < s.descSlots q then s.queueOff q
  else if x.st = .unavailable ∧ x.en = false ∧ x.flight = [] then s.queueOff q
  else if x.st = .contained ∧ x.flight = [] ∧ s.qst q ≠ .unassigned ∧
    (match s.queueOwner q with | some i => nth .unused s.ptr.parts i != .contained | none => false) = true then s.queueZero q
  else s
/-- A queue whose partition is released (R340; 19 R498). -/
def State.queueFree (s : State) (q : Nat) : State := s.queueSettle q

/-- EN written 1 (R340): no effect before start-complete (17 R454); in DISABLED, while the partition runs, or, in Shed mode or HELD_DEGRADED, UNAVAILABLE. It ends what
ERR reports (DESIGN CHOICE, log entry 110). -/
def State.queueEnable (s : State) (q : Nat) : State :=
  let x := s.queue q
  match s.queueOwner q with
  | none => s
  | some i =>
    if x.st ≠ .disabled ∨ x.resetting ∨ s.boot.phase < 12 then s
    else
      let x := { x with err := 0 }
      let shed := decide (s.boot.phase = 13)
      match nth .unused s.ptr.parts i with
      | .heldDegraded => s.setQueue q { x with en := true, st := if shed && q == 0 then .enabled else .unavailable }
      | .running => s.setQueue q { x with en := true, st := if shed && q != 0 then .unavailable else .enabled }
      | _ => s

/-- EN written 0, or QUEUE_DISABLE; a reset of the function ends in DISABLED by itself. -/
def State.queueDisable (s : State) (q : Nat) : State :=
  let x := s.queue q
  if x.resetting then s
  else match x.st with
  | .enabled => (s.setQueue q { x with en := false, st := .draining }).queueSettle q
  | .error => (s.setQueue q { x with en := false, st := .draining }).queueSettle q
  | .unavailable => (s.setQueue q { x with en := false }).queueSettle q
  | _ => s

/-- RESET written 1: in DISABLED the indices are zeroed and the phase is 1. -/
def State.queueReset (s : State) (q : Nat) : State :=
  let x := s.queue q
  if s.qst q = .disabled ∧ !x.resetting then s.setQueue q { x with sqTail := 0, sqHead := 0, cqTail := 0, cqHead := 0, phase := true } else s

/-- A doorbell write of a master (R325, R329, R340): SQ_TAIL in ENABLED, or denied. -/
def State.mayDrive (s : State) (m q : Nat) : Bool := m == s.qMaster q || isMgmt m
def State.tailWrite (s : State) (q v : Nat) : State :=
  let x := s.queue q
  if s.qst q = .enabled ∧ !x.resetting then s.setQueue q { x with sqTail := v % x.sqSize } else s
def State.headWrite (s : State) (q v : Nat) : State :=
  let x := s.queue q
  s.setQueue q { x with cqHead := v % x.cqSize }
def quePtrAddr (q : Nat) : Nat := mmioBase + Reg.addr ⟨.quePtr, q, 0, 0⟩
def State.doorbell (s : State) (m q v : Nat) : State :=
  if !s.mayDrive m q || s.queueOwner q == none then s.postDenied m (quePtrAddr q)
  else match s.tryAcc m .wr false (quePtrAddr q) 8 with
    | (some _, s1) => s1
    | (none, s1) =>
      let s2 := s1.tailWrite q v
      if s1.qst q = .enabled ∧ (s1.queue q).sqSize ≤ v then s2.clampLog (clampSrc m) (Reg.addr ⟨.quePtr, q, 0, 0⟩) else s2

/-! ### Fetching (R330, R333, R336, R340; 17 R464) -/

/-- Is fetching held for the queue's partition: a commit quiesces or applies it (01 R40), or a checkpoint holds it (15 R420)? -/
def State.fetchHeld (s : State) (q : Nat) : Bool :=
  match s.queueOwner q with
  | none => true
  | some i => (s.ldgPart i).held || (s.ptr.affected.testBit i && (s.ptr.phase == .quiescing || s.ptr.phase == .applying))

/-- The opcodes of each queue type (R336). -/
def listedOpc (ty opc : Nat) : Bool :=
  if ty = tyCompute then true
  else if ty = tyCopy then opc == 1 || opc == 2
  else if ty = tyTrellis then [0x01, 0x02, 0x10, 0x11].contains opc
  else if ty = tyService then [0x40, 0x41, 0x42, 0x43, 0x60, 0x70].contains opc
  else [0x01, 0x02, 0x10, 0x11, 0x12, 0x20, 0x21, 0x22, 0x23, 0x24, 0x25, 0x40, 0x41, 0x60, 0x61].contains opc ||
    (decide (0x30 ≤ opc) && decide (opc ≤ 0x38))

/-- How a fetched descriptor starts: waiting, or already ended: by Shed mode, an unlisted opcode, or a set reserved bit. -/
def State.fetchSt (s : State) (q : Nat) (raw : Nat) : DescSt :=
  let opc := raw % 256
  if s.boot.phase = 13 ∧ !(opc == 1 || (decide (0x30 ≤ opc) && decide (opc ≤ 0x38))) then
    .done 9 (if 0x10 ≤ opc ∧ opc ≤ 0x12 then 0x14 else 0) 0
  else if s.qType q = tyCompute then .waiting
  else if !listedOpc (s.qType q) opc || natBits raw 31 9 != 0 || natBits raw 63 48 != 0 then .done 1 0 0
  else .waiting

/-- A descriptor enters flight, and SQ_HEAD moves past it. -/
def State.enterFlight (s : State) (q raw : Nat) (st : DescSt) : State :=
  let x := s.queue q
  let nx := (x.sqHead + s.descSlots q) % x.sqSize
  s.setQueue q { x with sqHead := nx, nextIx := x.nextIx + 1, flight := x.flight ++ [{ raw := raw, next := nx, st := st, ix := x.nextIx }] }

/-- May a queue fetch (R330): its state allows it, a whole descriptor waits, fewer than 16 are in flight, and the ring is in reach? -/
def State.canFetch (s : State) (q : Nat) : Bool :=
  let x := s.queue q
  let go := match s.qst q with
    | .enabled => !s.fetchHeld q
    | .draining => true
    | .unavailable => true
    | _ => false
  go && s.runs .mesh && !x.resetting && decide (s.descSlots q ≤ x.ready) && decide (x.flight.length < 16) && s.ringReach q x.sq (64 * x.sqHead)

/-- One descriptor is fetched; in DRAINING and UNAVAILABLE it completes without running. -/
def State.fetch1 (s : State) (q : Nat) (hostErr : Nat) : State :=
  let x := s.queue q
  if !s.canFetch q then s
  else match s.ringRead q hostErr with
    | (some bs, s1) =>
      let raw := leNat bs
      let st := match x.st with
        | .draining => DescSt.done 4 0 0
        | .unavailable => DescSt.done 9 0 0
        | _ => s1.fetchSt q raw
      s1.enterFlight q raw st
    | (none, s1) =>
      if x.st = .enabled then s1.queueError q 1
      else ((s1.setQueue q { s1.queue q with sqHead := x.sqTail }).ringError q 1).queueSettle q

/-- Up to `n` descriptors of one turn. -/
def State.fetchN (q hostErr : Nat) : Nat → State → State
  | 0, s => s
  | n + 1, s => State.fetchN q hostErr n (s.fetch1 q hostErr)

/-- Is it the queue's turn (R330): no other queue of its port that may fetch comes before it, in ascending order from the port's turn? -/
def State.hasTurn (s : State) (q : Nat) : Bool :=
  let n := s.qPort q
  let t := (s.port n).turn
  let rank := fun (k : Nat) => if t ≤ k then k - t else k + 4096 - t
  (SMap.keys s.queues).all (fun k => k == q || s.qPort k != n || decide (rank q ≤ rank k) || !s.canFetch k)

/-- A queue's turn of fetching: up to 4 descriptors, and the turn passes to the queues above it (R330). -/
def State.fetch (s : State) (q : Nat) (hostErr : Nat) : State :=
  if !s.canFetch q || !s.hasTurn q then s
  else
    let n := s.qPort q
    let s1 := State.fetchN q hostErr 4 s
    s1.setPort n { s1.port n with turn := (q + 1) % 4096 }

/-! ### Records (R331-R333, R335) -/

def Queue.cqFull (x : Queue) : Bool := (x.cqTail + 1) % x.cqSize == x.cqHead % x.cqSize

/-- Before the record of an operation that wrote host memory through the other port, a zero-length read completes there (10 R276); one
that ends in error gives an operation that had ended OK the status ACCESS (R327; DEDUCED, log entry 110). -/
def State.otherRead (s : State) (q : Nat) (d : QDesc) (status : Nat) : Nat × State :=
  if !d.other then (status, s)
  else match s.hostGet anyEnd (1 - s.qPort q) (s.qMaster q) 0 0 with
    | (some _, s1) => (status, s1)
    | (none, s1) => (if status = 0 then 2 else status, s1)

/-- Write a descriptor's record at CQ_TAIL: false when the write fails. -/
def State.recordWrite (s : State) (q : Nat) (d : QDesc) (status tsf result : Nat) : Bool × State :=
  let (status, s) := s.otherRead q d status
  let x := s.queue q
  let cookie := if s.qType q = tyCompute then 0 else natBits d.raw 127 64
  let tag := if s.qType q = tyCompute then Aop.tag d.raw else d.f 1 15 0
  let raw := complRaw status (b2n x.phase) d.next q d.opcode tsf tag cookie result
  let (ok, s1) := s.writeRaw (s.qMaster q) (ringLoc x.cq) (s.qPort q) (ringBase x.cq + 32 * (x.cqTail % x.cqSize)) (leBytes 32 raw)
  if !ok then (false, s1)
  else
    let y := s1.queue q
    let t := (y.cqTail + 1) % y.cqSize
    (true, s1.setQueue q { y with cqTail := t, phase := if t = 0 then !y.phase else y.phase })

/-- A record write fails (R333): the queue enters ERROR and notifies, but a CONTAINED queue stays so, and one that a reset of its function
stops goes on to DISABLED. -/
def State.recordFail (s : State) (q : Nat) : State :=
  let x := s.queue q
  if x.st = .contained ∨ x.resetting then s.ringError q 2 else s.queueError q 2

/-- May a descriptor's record be written now (R326, R332; 10 R276)? -/
def State.recordGoes (s : State) (q : Nat) (d : QDesc) : Bool :=
  let x := s.queue q
  !x.cqFull && s.ringReach q x.cq (32 * x.cqTail) && (!d.other || (s.qfn q).bme)

/-- The oldest descriptor in flight, once ended, has its record written and leaves; the count may notify, but for the records of a
reset (R341). -/
def State.complete (s : State) (q : Nat) : State :=
  let x := s.queue q
  match x.flight with
  | [] => s.queueSettle q
  | d :: rest =>
    match d.st with
    | .done st tsf result =>
      if x.err = 2 then (s.setQueue q { x with flight := rest }).queueSettle q
      else if !s.recordGoes q d then s
      else match s.recordWrite q d st tsf result with
        | (false, s1) =>
          let s2 := s1.setQueue q { s1.queue q with flight := rest }
          (s2.recordFail q).queueSettle q
        | (true, s1) =>
          let y := s1.queue q
          if y.resetting then s1.setQueue q { y with flight := rest }
          else
            let s2 := s1.setQueue q { y with flight := rest, counted := y.counted + 1 }
            let s3 := if natBits y.notify 39 32 ≤ y.counted + 1 then s2.notify q else s2
            s3.queueSettle q
    | _ => s

/-- TIMER passes with records counted. -/
def State.notifyTimer (s : State) (q : Nat) : State :=
  let x := s.queue q
  if natBits x.notify 55 40 = 0 ∨ x.counted = 0 ∨ x.resetting then s else s.notify q

/-! ### COPY, FILL and MSG (R337, R338) -/

def QDesc.die (d : QDesc) : Nat := d.f 10 2 0
def QDesc.pattern (d : QDesc) : Nat := natBits d.raw (32 * 12 + 63) (32 * 12)

def State.copyBad (s : State) (q : Nat) (d : QDesc) : Bool :=
  let src := d.addr 4
  let dst := d.addr 6
  let n := d.len40 8
  let fill := d.opcode == 2
  n == 0 || decide (2 ^ 56 < dst + n) || (!fill && decide (2 ^ 56 < src + n)) || (s.queueOwner q).isNone
    || s.dieOwner d.die != s.queueOwner q || d.rangesRsv || d.f 10 3 3 != 0 || d.f 10 31 8 != 0 || d.f 11 31 0 != 0 || !d.zeroFrom 14
    || (fill && src != 0) || (!fill && decide (src < dst + n) && decide (dst < src + n))

def State.copyStart (s : State) (q opc : Nat) : State :=
  match s.startOp q tyCopy opc with
  | none => s
  | some d => if s.copyBad q d then s.descDone q d.ix 1 0 0 else s.descRun q d.ix

/-- The next destination page of a COPY or FILL: written whole or not at all. -/
def State.copyPage (s : State) (q : Nat) (d : QDesc) (hostErr : Nat) : State :=
  let dst := d.addr 6 + d.prog
  let n := pageLen (d.addr 6) d.prog (d.len40 8)
  let m := dmaMaster d.die q d.ix
  let fin := fun (s : State) =>
    let prog := d.prog + n
    let s1 := s.updDesc q d.ix (fun e => { e with prog := prog })
    if prog = d.len40 8 then s1.dmaEnd q d.ix d.die 0 prog else s1
  match State.descPages q d.ix d.die .wr hostErr (pagesOf dst n) s with
  | (none, s1) => s1
  | (some ld, s1) =>
    let put := fun (s : State) (bs : List Byte) =>
      match s.descWrite q d.ix m (d.f 10 7 6) ld bs with
      | (true, s2) => fin (s2.count (pmcDie d.die 66) 3 n)
      | (false, s2) => s2.dmaEnd q d.ix d.die 2 d.prog
    if d.opcode = 2 then put s1 ((upFrom dst n).map (fun a => BitVec.ofNat 8 (d.pattern >>> (8 * (a % 8)))))
    else match State.descPages q d.ix d.die .rd hostErr (pagesOf (d.addr 4 + d.prog) n) s1 with
      | (none, s2) => s2
      | (some ls, s2) =>
        match State.readLocs m hostErr (d.f 10 5 4) ls s2 with
        | (none, s3) => s3.dmaEnd q d.ix d.die (s2.failStatus s3 q) d.prog
        | (some bs, s3) => put (s3.count (pmcDie d.die 66) 2 n) bs

/-- DMA_PAGE_COMPLETE: the oldest running transfer of the queue that waits for no batch moves a page. -/
def State.dmaPage (s : State) (q : Nat) (hostErr : Nat) : State :=
  let x := s.queue q
  match x.flight.find? (fun d => d.st == .running && d.batches == [] && (d.opcode == 1 || d.opcode == 2)) with
  | none => s
  | some d =>
    if s.qType q = tyCopy then s.copyPage q d hostErr
    else if s.qType q = tyTrellis then s.xferStep q d x.resetting hostErr
    else s

def State.doMsg (s : State) (q : Nat) (hostErr : Nat) : State :=
  match s.opDesc q tyService 0x70 with
  | none => s
  | some d =>
    let dest := d.addr 4
    let p := s.homeDie q
    if dest % 64 ≠ 0 ∨ d.f 5 31 24 ≠ 0 then s.descDone q d.ix 1 0 0
    else match State.descPages q d.ix p .wr hostErr [(dest, 48)] s with
      | (none, s1) => s1.descRun q d.ix
      | (some ls, s1) =>
        let (ok, s2) := s1.descWrite q d.ix (dmaMaster p q d.ix) 0 ls (leBytes 48 (natBits d.raw 511 128))
        s2.descDone q d.ix (if ok then 0 else 2) 0 0

/-! ### Function-level and port resets (R341-R343; 04 R121) -/

/-- Queues bound to a function. -/
def State.fnQueues (s : State) (port f : Nat) : List Nat :=
  (SMap.keys s.queues).filter (fun q => s.qPort q == port && s.qFunc q == f)

/-- A PREFETCH or FENCE of a queue stops: a page it was moving is left where it is. -/
def State.prefStop (s : State) (q : Nat) : State :=
  let s1 := match s.prefOf q with
    | some pf => (match pf.moving with
      | some ea => (let (e, s0) := s.moveLeaf pf ea anyEnd; s0.unmove pf ea e)
      | none => s)
    | none => s
  { s1 with xlt := { s1.xlt with prefetch := s1.xlt.prefetch.filter (fun p => p.q != q),
                                 fences := s1.xlt.fences.filter (fun f => f.1 != q) } }

/-- A descriptor's work is abandoned; array work and a transfer's page in progress run to their boundary. -/
def State.abandon (s : State) (q : Nat) (d : QDesc) : State :=
  match d.st with
  | .done _ _ _ => s
  | .waiting => s.descDone q d.ix 5 0 0
  | .running =>
    if s.qType q = tyCompute then s
    else if (s.findXfer q d.ix).isSome then s
    else
      let s2 := s.prefStop q
      s2.endDesc q d.ix 5

/-- Array work of a function on one gang master (04 R121): its operations halt, members leave gathered ones, and what has not been
issued ends RESET. -/
def State.arrayFlr (s : State) (p func : Nat) : State :=
  let mine := fun (r : AopRec) => r.func == some func
  let a := s.ar p
  let held := (a.admitting.toList ++ a.parked.map (fun x => x.1)).filter mine
  let s1 := s.setAr p { a with admitting := match a.admitting with | some r => if mine r then none else some r | none => none,
                               parked := a.parked.filter (fun x => !mine x.1) }
  let s2 := held.foldl (fun s r => s.aopDone p r 5 0) s1
  -- operations not issued, wholly the function's
  let solo := ((s2.ar p).ops.filter (fun o => !o.issued && o.reqs.all (fun r => mine r.aopr))).map (fun o => o.id)
  let s3 := solo.foldl (fun s id => match s.opOf p id with
    | some o => (s.opDone p { o with fate := .reset })
    | none => s) s2
  let s3 := s3.setAr p { s3.ar p with groups := (s3.ar p).groups.filter (fun g => !solo.contains g.id) }
  -- members of gathered operations with others; an open group loses the rows
  let s4 := (s3.ar p).ops.foldl (fun s o =>
    if o.gathered && o.reqs.any (fun r => mine r.aopr) && !o.reqs.all (fun r => mine r.aopr) then
      (if o.issued then s.updOp p o.id (fun o => { o with reqs := o.reqs.map (fun r => if mine r.aopr then { r with removed := true } else r) })
       else s.updOp p o.id (fun o => { o with reqs := (o.reqs.filter (fun r => !mine r.aopr)).foldl (fun l r =>
          l ++ [{ r with row0 := (l.map (fun x => x.rows)).foldl (· + ·) 0 }]) [] }))
    else s) s3
  let gone := ((s3.ar p).ops.map (fun o => if o.gathered && !o.issued && !o.reqs.all (fun r => mine r.aopr) then
    o.reqs.filter (fun r => mine r.aopr && !r.removed) else [])).flatten
  let s5 := s4.setAr p { s4.ar p with groups := (s4.ar p).groups.map (fun g => match (s4.ar p).ops.find? (fun o => o.id == g.id) with
    | some o => { g with rows := (o.reqs.map (fun r => r.rows)).foldl (· + ·) 0 }
    | none => g) }
  let s6 := gone.foldl (fun s r => s.aopDone p r.aopr 5 (arrResult r.flags 0 true false r.epi)) s5
  -- running operations, wholly the function's
  let own := fun (o : ArrOp) => o.reqs.all (fun r => mine r.aopr || r.removed)
  if (s6.running p).any (fun id => match s6.opOf p id with | some o => own o | none => false) then s6.halt p .reset own else s6

/-- A function-level reset begins (step 1), of the function alone or with its whole port (R342). -/
def State.flrStart (s : State) (port f : Nat) (cut : Bool := false) : State :=
  let s0 := s.setFn port f { s.fn port f with flr := true, cut := (s.fn port f).cut || cut }
  let s1 := (s0.fnQueues port f).foldl (fun s q =>
    let s := s.setQueue q { s.queue q with resetting := true }
    (s.queue q).flight.foldl (fun s d => s.abandon q d) s) s0
  (List.range 8).foldl (fun s p => if s.isMaster p then s.arrayFlr p (port * 64 + f) else s) s1

/-- Functions a reset of one acts on: PF0's acts on every function of the port. -/
def resetFns (f : Nat) : List Nat := if f = 0 then List.range 64 else [f]

def State.flr (s : State) (port f : Nat) : State :=
  let p := s.port port
  let s1 := s.setPort port { p with flrs := min (p.flrs + 1) 0xFFFFFFFF }
  (resetFns f).foldl (fun s g => s.flrStart port g) s1

/-- Write the records of a reset queue with status `st0` where its work has not ended: those in flight, in order, then the
unfetched descriptors; none where the CQ is full or in
host memory that Bus Master Enable does not reach. -/
def State.resetRecords (q st0 : Nat) (hostErr : Nat) : Nat → State → State
  | 0, s => s
  | f + 1, s =>
    let x := s.queue q
    match x.flight with
    | d :: rest =>
      let (st, tsf, res) := match d.st with | .done st tsf res => (st, tsf, res) | _ => (st0, 0, 0)
      let s1 := if !s.recordGoes q d || x.err == 2 then s
        else match s.recordWrite q d st tsf res with
          | (true, s1) => s1
          | (false, s1) => s1.ringError q 2
      State.resetRecords q st0 hostErr f (s1.setQueue q { s1.queue q with flight := rest })
    | [] =>
      if x.ready < s.descSlots q ∨ !s.ringReach q x.sq (64 * x.sqHead) then s
      else match s.ringRead q hostErr with
        | (some bs, s1) => State.resetRecords q st0 hostErr f (s1.enterFlight q (leNat bs) (.done st0 0 0))
        | (none, s1) => (s1.setQueue q { s1.queue q with sqHead := x.sqTail }).ringError q 1

/-- Step 3 for one queue; a CONTAINED queue stays CONTAINED (R343). What ERR reports is kept (R340). -/
def State.queueClear (s : State) (q : Nat) : State :=
  let x := s.queue q
  let held : Bool := x.st == .contained
  let y : Queue := { nextIx := x.nextIx, err := x.err, st := if held then .contained else .disabled,
                     disableFor := if held then x.disableFor else [] }
  (if held then [] else x.disableFor).foldl (fun s a =>
    match (s.queue a).flight.find? (fun d => d.st == .running && d.opcode == 2) with
    | some d => s.descDone a d.ix 0 0 0
    | none => s) (s.setQueue q y)

/-- Does what a reset still reads or writes of a queue's rings wait for a stack that is HOT (09 R256)? -/
def State.ringsHot (s : State) (q : Nat) : Bool :=
  let x := s.queue q
  let hot := fun (r o : Nat) => ringLoc r == 1 && s.hotAt (ringBase r + o)
  !(x.flight.isEmpty && x.ready == 0) && (hot x.sq (64 * x.sqHead) || hot x.cq (32 * x.cqTail))

/-- Has every descriptor of the function's queues ended, and every operation its array work halted? -/
def State.flrQuiet (s : State) (port f : Nat) : Bool :=
  (s.fnQueues port f).all (fun q => (s.queue q).flight.all (fun d => d.isDone) && !s.ringsHot q) &&
    s.arr.all (fun e => e.2.ops.all (fun o => o.reqs.all (fun r => r.aopr.func != some (port * 64 + f) || (r.removed && o.fate == .run))))

/-- Is a row of a requester in a Sage context of the gang? -/
def State.rowBusy (s : State) (p op i : Nat) : Bool :=
  (s.gang p).any (fun d => match (s.sg d).tile with
    | some t => t.op == op && t.ctxs.any (fun c => match c.cur with
      | some r => (match s.rowReq d t r.row with | some (j, _) => j == i | none => false)
      | none => false)
    | none => false)

/-- Members removed from operations that run on complete RESET once their rows already begun have ended (04 R121). -/
def State.removedDone (s : State) (func : Nat) : State :=
  let l := (s.arr.map (fun e => (e.2.ops.map (fun o => (o.reqs.zipIdx.filter (fun r => r.1.removed && r.1.aopr.func == some func &&
    !s.rowBusy e.1 o.id r.2)).map (fun r => (e.1, o, r.1)))).flatten)).flatten
  l.foldl (fun s x => s.removedEnd x.1 x.2.1 x.2.2) s

/-- A function-level reset completes (steps 2 to 4). -/
def State.flrDone (s : State) (port f : Nat) : State :=
  let s := s.removedDone (port * 64 + f)
  if !(s.fn port f).flr || !s.flrQuiet port f then s
  else
    let qs := s.fnQueues port f
    let s1 := qs.foldl (fun s q => State.resetRecords q (if s.qst q = .contained then 6 else 5) anyEnd ((s.queue q).sqSize + 32) s) s
    let s2 := qs.foldl (fun s q => s.queueClear q) s1
    let s3 := s2.setFn port f {}
    if f = 0 then s3.setPort port { s3.port port with bar4log := 0, vfEnable := false, numVfs := 0 } else s3

end Sys2Proof.Machine
end

