-- ==== Sys2Proof/Machine/QueueRows.lean ====
section
/-! DEFINITION. The commands of queues and of the PCI Express ports that touch no register of the BAR0 map
(spec/12_queues_pcie). -/

namespace Sys2Proof.Machine

/-! ### Ports and functions (R319-R327, R341, R342; 17 R454) -/

/-- Send the messages held pending that nothing masks any more (R326, R339). -/
def State.msixFlush (s : State) (n f : Nat) : State :=
  (s.fn n f).msix.foldl (fun s e =>
    if e.2.pending then
      let fn := s.fn n f
      if fn.bme && fn.msixEn && !fn.msixMask && !e.2.masked then
        (s.setFn n f { fn with msix := SMap.set {} fn.msix e.1 { e.2 with pending := false } }).msix n f e.1
      else s
    else s) s

def State.setBme (s : State) (n f : Nat) (on : Bool) : State :=
  let s1 := (s.setFn n f { s.fn n f with bme := on }).msixFlush n f
  if on then s1.heldAll else s1

/-- Does a function of a port exist (R319)? -/
def State.fnExists (s : State) (n f : Nat) : Bool := f == 0 || ((s.port n).vfEnable && decide (f ≤ (s.port n).numVfs))

/-- Does configuration space of a function answer: it is up, past the Retry Status of a start, and the function exists (R320; 17 R454)? -/
def State.cfgServes (s : State) (n f : Nat) : Bool := (s.port n).cfgUp && decide (6 < s.boot.phase) && s.fnExists n f

/-- A resize of BAR4: a BASE that it leaves unaligned is clamped at once (R346). -/
def State.bar4Resize (s : State) (n log : Nat) : State :=
  let r : Reg := ⟨.pciBar4, n, 0, 0⟩
  let b := s.rf r 39 30
  (s.setPort n { s.port n with bar4log := log }).rput r 39 30 (b / 2 ^ log * 2 ^ log)

/-- A configuration write (R320, R341). -/
def State.cfgWrite (s : State) (n f : Nat) (w : CfgWrite) : State :=
  if !s.cfgServes n f then s
  else
    let fn := s.fn n f
    match w with
    | .busMaster on => s.setBme n f on
    | .memEnable on => s.setFn n f { fn with memEn := on }
    | .relaxed on => s.setFn n f { fn with relaxed := on }
    | .msix en mask => (s.setFn n f { fn with msixEn := en, msixMask := mask }).msixFlush n f
    | .msixEntry v a d m =>
      if lastVec f < v.val then s
      else (s.setFn n f { fn with msix := SMap.modify {} fn.msix v.val (fun e =>
        { e with addr := a.toNat, data := d.toNat, masked := m }) }).msixFlush n f
    | .power d3 =>
      let s1 := s.setFn n f { fn with d3 := d3 }
      if f = 0 ∧ !d3 then (s1.setPort n { s1.port n with pme := false }).sendHeld else s1
    | .flr => s.flr n f
    | .vfEnable on num =>
      if f ≠ 0 then s
      else
        let p := s.port n
        if on then s.setPort n { p with vfEnable := true, numVfs := num.val }
        else if p.vfEnable then
          ((List.range 64).filter (· != 0)).foldl (fun s g => s.flrStart n g) (s.setPort n { p with vfEnable := false })
        else s
    | .device mps mrrs => if f = 0 then s.setPort n { s.port n with mps := min mps.val 2, mrrs := min mrrs.val 5 } else s
    | .aspm ctl => if f = 0 then s.setPort n { s.port n with aspm := ctl.val } else s
    | .bar4 log => if f = 0 then s.bar4Resize n log.val else s

/-- A hot reset (0), a link-down event (1) or PERST# (2) on one port (R342). -/
def State.portReset (s : State) (n kind : Nat) : State :=
  let p := s.port n
  let p := { p with resets := min (p.resets + 1) 0xFFFF }
  let p := { p with link := if kind = 0 then 1 else 0, rate := 0, width := 0, flit := false, reversed := false, inq := [] }
  let p := if kind = 2 then { p with perst := true, cfgUp := false } else p
  let s1 := s.setPort n p
  let s2 := (List.range 64).foldl (fun s f => if s.fn n f = {} then s else s.setFn n f { s.fn n f with bme := false }) s1
  let s3 := (List.range 64).foldl (fun s f => s.flrStart n f true) s2
  let ctl := Reg.addr (fringReg .xltFringCtl n)
  let ptr := Reg.addr (fringReg .xltFringPtr n)
  let s4 := s3.rclear (fun a => a == ctl || a == ptr)
  { s4 with xlt := { s4.xlt with ringTail := s4.xlt.ringTail.set n 0, ringWrap := s4.xlt.ringWrap.set n false } }

/-- PERST# deasserts (17 R454): configuration answers once step 2 of a start is past, and the link reaches L0 at 2.5 GT/s. In Shed mode
port B stays absent (17 R463). -/
def State.perstOff (s : State) (n : Nat) : State :=
  let p := s.port n
  if !s.pwr.input || !p.perst then s
  else if s.boot.phase < 3 ∨ (s.boot.phase = 13 ∧ n = 1) then s.setPort n { p with perst := false }
  else (s.setPort n { p with perst := false, cfgUp := true }).linkUp n 1

/-- The answer a port returns to a read or an AtomicOp (R324). -/
def State.reply (s : State) (n st : Nat) (data : List Byte) : State := s.setPort n { s.port n with cpl := some (st, data) }
def AccFail.cplStatus : AccFail → Nat
  | .absent _ => 1
  | .denied _ => 2
  | .bad _ => 2

/-! ### The commands -/

/-- DOORBELL_WRITE (R325, R329, R340). -/
def execDoorbellWrite (m : BitVec 12) (q : QIx) (v : BitVec 16) (s : State) : Host.Outcome State Fault Refusal :=
  .next (s.doorbell m.toNat q.val v.toNat)
/-- DESCRIPTOR_FETCH (R330, R333, R340). -/
def execDescriptorFetch (q : QIx) (hostErr : HostErr) (s : State) : Host.Outcome State Fault Refusal := .next (s.fetch q.val hostErr)
/-- COMPLETION_RECORD (R331-R333, R335, R339): a posted write learns no error of the host's (R327). -/
def execCompletionRecord (q : QIx) (s : State) : Host.Outcome State Fault Refusal := .next (s.complete q.val)
/-- NOTIFY_TIMER (R339). -/
def execNotifyTimer (q : QIx) (s : State) : Host.Outcome State Fault Refusal := .next (s.notifyTimer q.val)
/-- QUEUE_ENABLE (R340): EN written 1. -/
def execQueueEnable (q : QIx) (s : State) : Host.Outcome State Fault Refusal := .next (s.queueEnable q.val)
/-- QUEUE_EN_CLEAR (R340): EN written 0. -/
def execQueueEnClear (q : QIx) (s : State) : Host.Outcome State Fault Refusal := .next (s.queueDisable q.val)
/-- QUEUE_RESET (R345): RESET written 1. -/
def execQueueReset (q : QIx) (s : State) : Host.Outcome State Fault Refusal := .next (s.queueReset q.val)
/-- NOP (R336). -/
def execAdminNop (q : QIx) (s : State) : Host.Outcome State Fault Refusal :=
  .next (match s.startOp q.val tyAdmin 0x01 with
    | some d => s.descDone q.val d.ix (if d.zeroFrom 4 then 0 else 1) 0 0
    | none => s)
/-- QUEUE_DISABLE (R336, R340, R343). -/
def execQueueDisable (q : QIx) (s : State) : Host.Outcome State Fault Refusal :=
  .next (match s.startOp q.val tyAdmin 0x02 with
    | some d =>
      let t := d.f 4 11 0
      if d.f 4 31 12 ≠ 0 ∨ !d.zeroFrom 5 ∨ t = q.val then s.descDone q.val d.ix 1 0 0
      else if s.qPort t ≠ s.qPort q.val then s.descDone q.val d.ix 2 0 0
      else if s.qst t = .disabled ∨ s.qst t = .unassigned then s.descDone q.val d.ix 0 0 0
      else
        let s1 := s.descRun q.val d.ix
        let x := s1.queue t
        (s1.setQueue t { x with disableFor := x.disableFor ++ [q.val] }).queueDisable t
    | none => s)
/-- COPY (R337). -/
def execCopy (q : QIx) (s : State) : Host.Outcome State Fault Refusal := .next (s.on .dma (s.copyStart q.val 0x01))
/-- FILL (R337). -/
def execFill (q : QIx) (s : State) : Host.Outcome State Fault Refusal := .next (s.on .dma (s.copyStart q.val 0x02))
/-- DMA_PAGE_COMPLETE (R337; 13 R369). -/
def execDmaPageComplete (q : QIx) (hostErr : HostErr) (s : State) : Host.Outcome State Fault Refusal := .next (s.on .dma (s.dmaPage q.val hostErr))
/-- MSG (R338). -/
def execMsg (q : QIx) (hostErr : HostErr) (s : State) : Host.Outcome State Fault Refusal := .next (s.doMsg q.val hostErr)
/-- FUNCTION_LEVEL_RESET (R341). -/
def execFunctionLevelReset (n : PortIx) (f : FnIx) (s : State) : Host.Outcome State Fault Refusal := .next (s.flr n.val f.val)
/-- FLR_COMPLETE (R341). -/
def execFlrComplete (n : PortIx) (f : FnIx) (s : State) : Host.Outcome State Fault Refusal := .next (s.flrDone n.val f.val)
/-- PORT_RESET (R342). -/
def execPortReset (n : PortIx) (kind : Fin 3) (s : State) : Host.Outcome State Fault Refusal := .next (s.portReset n.val kind.val)
/-- BUS_MASTER_ENABLE (R326): the function's bit in configuration space. -/
def execBusMasterEnable (n : PortIx) (f : FnIx) (on : Bool) (s : State) : Host.Outcome State Fault Refusal :=
  .next (s.cfgWrite n.val f.val (.busMaster on))
/-- PCI_OUTERR_CLR (R346). -/
def execPciOuterrClr (n : PortIx) (s : State) : Host.Outcome State Fault Refusal :=
  .next (s.setPort n.val { s.port n.val with outKind := 0, outMaster := 0, outCount := 0 })
/-- PERST_DEASSERT (17 R454). -/
def execPerstDeassert (n : PortIx) (s : State) : Host.Outcome State Fault Refusal := .next (s.perstOff n.val)

end Sys2Proof.Machine
end

