-- ==== Sys2Proof/Machine/TrlRows.lean ====
section
/-! DEFINITION. The commands of the Trellis ports and links, of forwarding, and of the start of transfers
(spec/13_trellis_fabric R347-R369, R375; spec/20_module_data R519). -/

namespace Sys2Proof.Machine

def trlReg (k : RegK) (n : Nat) : Reg := ⟨k, n, 0, 0⟩

/-! ### Training (R350-R352) -/

def State.partnerDetect (s : State) (n : Nat) : State :=
  let s := s.setTport n { s.tport n with mated := true }
  if (s.tport n).st = .down ∧ s.portAllowed n then s.portState n .training 0 else s

def State.trainingDone (s : State) (n : Nat) (failing : BitVec 18) (who : PartnerId) : State :=
  if (s.tport n).st = .training then s.trained n [none, none] failing who else s

/-- RETRAIN written: an UP link retrains; one that was turned away trains again. -/
def State.retrain (s : State) (n : Nat) : State :=
  let p := s.tport n
  let s1 := s.setTport n { p with retrains := min (p.retrains + 1) 0xFFFF, replay := p.replay.map (fun f => { f with reps := 0 }) }
  match p.st with
  | .up => s1.portState n .retrain 0
  | .failed => if s.portAllowed n then s1.portState n .training 0 else s
  | .miswired => if s.portAllowed n then s1.portState n .training 0 else s
  | .refused => if s.portAllowed n then s1.portState n .training 0 else s
  | _ => s

def State.portEn (s : State) (n : Nat) (on : Bool) : State :=
  let s1 := s.rput (trlReg .trlPortcfg n) 0 0 (b2n on)
  if on then s1 else s1.portState n .down 0

/-! ### Flits (R353-R356) -/

/-- Is a flit's CRC right? -/
def flitOk (w : Nat) : Bool := crc32 (leBytes 60 (w % 2 ^ 480)) == w / 2 ^ 480

/-- A flit discarded: NAK carries the last good sequence number, once. -/
def TrlPort.refuse (p : TrlPort) : TrlPort := if p.bad then p else { p with bad := true, nakSent := some p.ackSeq }

/-- A correct flit received in order. -/
def TrlPort.accept (p : TrlPort) (w : Nat) : TrlPort :=
  let ty := natBits w 449 448
  let sub := natBits w 453 450
  let p := { p with rxSeq := (p.rxSeq + 1) % 1024, bad := false, nakSent := none }
  if ty = 1 then
    p.setRx sub 1 (SMap.get [] p.rx sub ++ [{ sop := w.testBit 454, data := w % 2 ^ 448 }])
  else { p with used := (List.range 14).foldl (fun m i => SMap.modify 0 m i (fun u => u - Config.ctrlCredit (w % 2 ^ 448) i)) p.used }

def State.flit (s : State) (n w : Nat) : State :=
  let p := s.tport n
  if p.st ≠ .up then s
  else if !flitOk w then s.setTport n p.refuse
  else
    let ty := natBits w 449 448
    let p1 := p.acked (natBits w 475 466)
    if ty = 0 ∨ ty = 3 then (s.setTport n p1).pumpPort n
    else if natBits w 465 456 ≠ p.rxSeq then (s.setTport n p1.refuse).pumpPort n
    else
      let s1 := ((s.setTport n (p1.accept w).credit).pumpPort n).count (pmcMod (16 + n)) 3 1
      let sub := natBits w 453 450
      if h : n < 6 ∧ sub < 14 then s1.turnAway (.port ⟨n, h.1⟩ ⟨sub, h.2⟩) else s1

/-- NAK (R355, R351): flits after the last good one are replayed; one flit replayed RETRY_LIMIT times in succession starts a
retrain. -/
def State.nak (s : State) (n seq : Nat) : State :=
  let p := (s.tport n).acked seq
  let l := p.replay.map (fun f => { f with reps := f.reps + 1 })
  let s1 := (s.count (pmcMod (16 + n)) 5 l.length).setTport n { p with replays := min (p.replays + l.length) 0xFFFFFFFF, replay := l }
  if l.any (fun f => decide (s.rf (trlReg .trlPortcfg n) 9 4 ≤ f.reps)) ∧ p.st = .up then s1.retrain n else s1.pumpPort n

/-! ### Forwarding (R360-R364) -/

def State.forward (s : State) (n : LinkIx) (sub : Fin 14) : State :=
  match (s.tport n.val).headPacket sub.val with
  | none => s
  | some p0 =>
    let p := s.arrive p0
    if p.target = s.device then s
    else
      let r := s.sendOn p (some n.val)
      let port := (s.hop s.device p.target).getD 0
      match r.1 with
      | .held => r.2
      | .sent => (r.2.count (pmcMod (16 + port)) 4 p.flits).dropPacket (.port n sub)
      | .discarded => r.2.dropPacket (.port n sub)

/-- An originated request that ends at injection or by its timer ends its piece of a transfer (R368, R369). -/
def State.xferFail (s : State) (t : Nat) (e : TagEnt) (status : Nat) (free : Bool) : State :=
  let s1 := s.trlOutcome status
  let s2 := if free then s1.freeTagOf t else s1.setTag t (some { e with timedOut := true })
  match e.req with
  | .xfer q ix off => s2.xferPiece q ix off none status
  | .core k id i => s2.coreAnswer k id i none

/-! ### The commands -/

/-- PARTNER_DETECT (R350). -/
def execPartnerDetect (n : LinkIx) (s : State) : Host.Outcome State Fault Refusal := .next (s.partnerDetect n.val)
/-- LINK_TRAINING_DONE (R350). -/
def execLinkTrainingDone (n : LinkIx) (failing : BitVec 18) (who : PartnerId) (s : State) : Host.Outcome State Fault Refusal :=
  .next (s.on .trls (s.trainingDone n.val failing who))
/-- PARTNER_TIMEOUT (R350). -/
def execPartnerTimeout (n : LinkIx) (s : State) : Host.Outcome State Fault Refusal :=
  .next (if (s.tport n.val).st = .training then s.portState n.val .failed 5 else s)
/-- TRAINING_RETRY (R350). -/
def execTrainingRetry (n : LinkIx) (s : State) : Host.Outcome State Fault Refusal :=
  .next (if (s.tport n.val).st = .failed ∧ (s.tport n.val).why = 5 ∧ s.portAllowed n.val then s.portState n.val .training 0 else s)
/-- TRL_RETRAIN (R351, R352). -/
def execTrlRetrain (n : LinkIx) (s : State) : Host.Outcome State Fault Refusal := .next (s.retrain n.val)
/-- RETRAIN_COMPLETE (R351). -/
def execRetrainComplete (n : LinkIx) (failing : BitVec 18) (who : PartnerId) (s : State) : Host.Outcome State Fault Refusal :=
  .next (s.on .trls (if (s.tport n.val).st = .retrain then (s.trained n.val (s.tport n.val).lanes failing who).pumpPort n.val else s))
/-- RETRAIN_TIMEOUT (R351): FAILED, with a WHY no rule states. -/
def execRetrainTimeout (n : LinkIx) (s : State) : Host.Outcome State Fault Refusal :=
  .next (if (s.tport n.val).st = .retrain then
      let (v, s1) := s.draw
      s1.portState n.val .failed (v % 6)
    else s)
/-- TRL_PORT_EN (R375). -/
def execTrlPortEn (n : LinkIx) (on : Bool) (s : State) : Host.Outcome State Fault Refusal := .next (s.portEn n.val on)
/-- FLIT_RECEIVE (R353-R356, R359). -/
def execFlitReceive (n : LinkIx) (flit : BitVec 512) (s : State) : Host.Outcome State Fault Refusal := .next (s.on .trls (s.flit n.val flit.toNat))
/-- NAK (R351, R355). -/
def execNak (n : LinkIx) (seq : Fin 1024) (s : State) : Host.Outcome State Fault Refusal := .next (s.nak n.val seq.val)
/-- PACKET_FORWARD (R360-R364). -/
def execPacketForward (n : LinkIx) (sub : Fin 14) (s : State) : Host.Outcome State Fault Refusal := .next (s.on .trls (s.forward n sub))
/-- PUT (R369). -/
def execPut (q : QIx) (hostErr : HostErr) (s : State) : Host.Outcome State Fault Refusal :=
  .next (s.on .dma (match s.startOp q.val tyTrellis 0x01 with | some d => s.xferStart q.val d hostErr | none => s))
/-- GET (R369). -/
def execGet (q : QIx) (hostErr : HostErr) (s : State) : Host.Outcome State Fault Refusal :=
  .next (s.on .dma (match s.startOp q.val tyTrellis 0x02 with | some d => s.xferStart q.val d hostErr | none => s))
/-- TIMED_OUT_TAG_RELEASE (R368). -/
def execTimedOutTagRelease (t : Fin 8192) (s : State) : Host.Outcome State Fault Refusal :=
  .next (match s.tag t.val with
    | some e => if e.timedOut then s.freeTagOf t.val else s
    | none => s)
/-- TRL_DETOUR_SEL (R365). -/
def execTrlDetourSel (b : Bool) (s : State) : Host.Outcome State Fault Refusal := .next (s.rset ⟨.trlDetourSel, 0, 0, 0⟩ (b2n b))
/-- TRL_LINKERR_CLR (R375). -/
def execTrlLinkerrClr (n : LinkIx) (s : State) : Host.Outcome State Fault Refusal :=
  .next (s.setTport n.val { s.tport n.val with replays := 0, retrains := 0, discards := 0 })
/-- CABLE_UNMATED (20 R519). -/
def execCableUnmated (n : LinkIx) (s : State) : Host.Outcome State Fault Refusal :=
  let s1 := s.setTport n.val { s.tport n.val with mated := false }
  .next (s1.portState n.val .down 0)

end Sys2Proof.Machine
end

