-- ==== Sys2Proof/Machine/Reset.lean ====
section
/-! DEFINITION. Resets and zeroising of dies, stacks and queues (spec/01_parterre_image R42; 03 R91; 05 R153; 06 R160;
08 R234; 14 R399; 19 R494, R498, R509), and the measurement registers (16 R434). -/

namespace Sys2Proof.Machine

/-! ### Measurements (16 R434) -/

/-- M ← SHA-256(M ‖ D). -/
def extendM (m d : Nat) : Nat := sha256 (leBytes 32 m ++ leBytes 32 d)
def State.measure (s : State) (r d : Nat) : State :=
  { s with org := { s.org with meas := SMap.modify 0 s.org.meas r (fun m => extendM m d) } }

/-! ### Dies -/

/-- BAR0 offsets of a die's blocks. -/
def dieBlock (p : Nat) : Nat := 0x400000 + p * 0x200000
/-- Is a BAR0 offset one of a die's own registers: in its blocks, and not of a register that appears in every die's? -/
def ownReg (p a : Nat) : Bool :=
  decide (dieBlock p ≤ a) && decide (a < dieBlock p + 0xA0000) &&
    (match regAt a with | some (r, _) => !r.k.moduleWide | none => true)

/-- The words of tables that the committed image names for a die (05 R141, R142). -/
def lutWords (img : Image) (p : Nat) : SMap (Option Nat) :=
  (img.luts.filter (fun l => l.dies.testBit p)).foldl (fun m l =>
    (l.words.zipIdx).foldl (fun m w => SMap.set none m (l.table * 784 + w.2) (some w.1)) m) []

/-- Translations a die holds. -/
def State.dropTlbs (s : State) (p : Nat) : State :=
  { s with xlt := { s.xlt with tlbs := SMap.drop s.xlt.tlbs (fun t => tlbDie t == p && decide (t < 1130)),
                               inv := SMap.set none s.xlt.inv p none } }

/-- The work of a die's engines and cores ends: cores are held in reset, the array, Sage and the TXU stop. -/
def State.holdDie (s : State) (p : Nat) : State :=
  let s1 := (dieCores p).foldl (fun s k => s.resetCore k false) s
  let s2 := s1.stopArray p
  let s3 := s2.setSg p { s2.sg p with tile := none, held := [] }
  s3.setTdie p { stopped := true }

/-- A die reset (03 R91; 05 R141, R153; 06 R160; 08 R234; 11 R317; 14 R399; 19 R509): the registers of the die's blocks take
their Reset values (log entry 41), its engines forget their work, and Sage's tables are loaded. The banks' contents are dropped (DESIGN CHOICE, log entry 98). The ACB, the program, the constant
rows and the tile buffers keep their contents. -/
def State.dieReset (s : State) (p : Nat) : State :=
  let a := s.ar p
  let g := s.sg p
  let s1 := s.rclear (ownReg p)
  let s2 := (dieCores p).foldl (fun s k => s.resetCore k false) s1
  let s3 := s2.setAr p { acb := a.acb, nextId := a.nextId }
  let s4 := s3.setSg p { prog := g.prog, const := g.const, tb := g.tb, tbl := lutWords s.ptr.image p }
  let s5 := (s4.setTdie p {}).clearInt p
  let s6 := ((s5.l2Empty p).dropTlbs p).setXdie p { s5.xdie p with stalls := 0 }
  { s6 with colls := SMap.set {} s6.colls p {} }

/-- Lines leave the known-bad list when they are zeroised (19 R494). -/
def State.dropBad (s : State) (key : Nat) : State := { s with err := { s.err with bad := SMap.set [] s.err.bad key [] } }

/-- A die is zeroised (01 R42): near memory, ACB, banks, Sage state; caches and TLBs are empty after its reset. -/
def State.zeroDie (s : State) (p : Nat) : State :=
  let s1 := { s.dropCopies none (nearOf p) nearSize with mem := Mem.zero s.mem (nearOf p) nearSize }
  let s2 := (s1.dropBad p).setAr p { nextId := (s1.ar p).nextId }
  let s3 := s2.setSg p { tbl := lutWords s.ptr.image p }
  s3.dropTlbs p

/-- A stack is zeroised: contents, MSC lines and write-combining buffer. -/
def State.zeroStack (s : State) (k : Nat) : State :=
  let b := k * 0x1000000000
  let s1 := { s.dropCopies none b 0x1000000000 with mem := Mem.zero s.mem b 0x1000000000 }
  (s1.dropBad (8 + k)).setStack k { s1.stack k with msc := [], wcb := [] }

/-! ### ARRAY clock steps (18 R476, R477; 09 R255) -/

/-- Step of ARRAY_DIV. -/
def Image.clockStep (i : Image) : Nat := if i.arrayDiv = 5 then 1 else if i.arrayDiv = 6 then 2 else if i.arrayDiv = 8 then 3 else 0
def State.capDemand (s : State) (p : Nat) : Nat := SMap.get 0 s.pwr.cap p
/-- The slowest of a die's three demands, shared by the dies of its gang. -/
def State.clockStep (s : State) (p : Nat) : Nat :=
  (s.gang p).foldl (fun a d => max a (max (s.demand d) (s.capDemand d))) s.ptr.image.clockStep
/-- The steps the start begins with. -/
def State.initSteps (s : State) : State :=
  { s with pwr := { s.pwr with eff := (List.range 8).foldl (fun m p => SMap.set 0 m p (s.clockStep p)) [] } }
/-- A die whose step changes switches its divider (R473); its count saturates. -/
def State.switchDies (s : State) : State :=
  (List.range 8).foldl (fun s p =>
    let n := s.clockStep p
    if SMap.get 0 s.pwr.eff p = n then s
    else { s with pwr := { s.pwr with eff := SMap.set 0 s.pwr.eff p n,
                                      switches := SMap.modify 0 s.pwr.switches p (fun c => min (c + 1) 0xFFFF) } }) s

/-! ### Queues (01 R42; 12 R340, R341 step 3) -/

/-- A queue is reset: the records of its descriptors that have not ended are written DISABLED, and its registers take their Reset
values. -/
def State.queueRestart (s : State) (q : Nat) : State :=
  let x := s.queue q
  let s1 := if x.flight = [] ∧ x.ready = 0 then s else State.resetRecords q 4 anyEnd (x.sqSize + 32) s
  let y : Queue := { nextIx := x.nextIx, err := (s1.queue q).err }
  x.disableFor.foldl (fun s a =>
    match (s.queue a).flight.find? (fun d => d.st == .running && d.opcode == 2) with
    | some d => s.descDone a d.ix 0 0 0
    | none => s) (s1.setQueue q y)


/-- Queues of the partition that have any state. -/
def State.partQueues (s : State) (i : Nat) : List Nat := (SMap.keys s.queues).filter (fun q => s.queueOwner q == some i)

end Sys2Proof.Machine
end

