-- ==== Sys2Proof/Machine/Sessions.lean ====
section
/-! DEFINITION. Debug sessions: their event records and how they close (spec/16_orangery_security R434, R439-R441). -/

namespace Sys2Proof.Machine

/-! ### Sessions (R434, R439-R441) -/

/-- The 32-byte event record of M7. -/
def eventRec (kind sess level reason tenant stamp : Nat) : List Byte :=
  leBytes 8 (kind + sess * 2 ^ 8 + level * 2 ^ 12 + reason * 2 ^ 16) ++ leBytes 8 tenant ++ leBytes 8 stamp ++ leBytes 8 0
/-- Extend M7 with an event; the record bears the Orangery's stamp. -/
def State.event7 (s : State) (kind sess level reason tenant : Nat) : State :=
  let (st, s1) := s.stamp 0x0A 0
  s1.measure 7 (sha256 (eventRec kind sess level reason tenant st))

def State.sess (s : State) (j : Nat) : Option Sess := SMap.get none s.org.sess j
def State.setSess (s : State) (j : Nat) (x : Option Sess) : State := { s with org := { s.org with sess := SMap.set none s.org.sess j x } }

/-- Does an open SITE or FULL session grant INJECT (19 R503)? -/
def State.mayInject (s : State) : Bool :=
  [8, 9].any (fun j => match s.sess j with | some x => x.perms.testBit 4 | none => false)

/-- A session closes: ERR_INJ is disarmed with the last that grants INJECT; M7, and the cores it halted, its breakpoints and its trace go with it. -/
def State.closeSess (s : State) (j reason : Nat) : State :=
  match s.sess j with
  | none => s
  | some x =>
    let s1 := (s.event7 2 j (sessLevel j) reason x.tenant).setSess j none
    let ks := (s1.org.haltBy.filter (fun e => e.2 == j + 1)).map (fun e => e.1)
    let s2 := ks.foldl (fun s k => s.onCore k (fun c => { c with halted := false })) s1
    let s3 := { s2 with org := { s2.org with haltBy := s2.org.haltBy.filter (fun e => e.2 != j + 1),
                                             brk := (SMap.keys s2.org.brk).foldl (fun m k =>
                                               SMap.set [] m k ((SMap.get [] m k).filter (fun b => b.1 != j))) s2.org.brk } }
    if s3.mayInject then s3 else s3.rput regErrInj 63 63 0

def State.closeSessions (s : State) (js : List Nat) (reason : Nat) : State := js.foldl (fun s j => s.closeSess j reason) s

/-- The TENANT session of a partition closes: its job is no longer its own, an apply phase affects it, or a containment that it outlasted
ends (R441). -/
def State.tenantEnd (s : State) (i : Nat) : State := s.closeSess i 5

end Sys2Proof.Machine
end

