-- ==== Sys2Proof/Machine/Meter.lean ====
section
/-! DEFINITION. Meter records (spec/15_lodge_services R415-R418). -/

namespace Sys2Proof.Machine

/-- The 512 bytes of a record as a number (R417). -/
def recordRaw (reason part seq serial device start tenant image opened closed stamp prev job : Nat) (counts : SMap Nat) : Nat :=
  let w := fun (i v : Nat) => v % 2 ^ 64 * 2 ^ (64 * i)
  w 0 (1 + reason % 2 ^ 8 * 2 ^ 8 + part % 8 * 2 ^ 16) + w 1 seq + w 2 serial + w 3 (device % 2 ^ 18 + start % 2 ^ 32 * 2 ^ 32)
    + w 4 (tenant % 2 ^ 32) + w 5 image + w 6 opened + w 7 closed + w 8 stamp + prev % 2 ^ 256 * 2 ^ (64 * 9) + w 13 job
    + (List.range 15).foldl (fun a m => a + SMap.get 0 counts m % 2 ^ 128 * 2 ^ (64 * (16 + 2 * m))) 0

/-- Close a partition's record with a reason and open the next at once (R416). -/
def State.closeRec (s : State) (i reason : Nat) : State :=
  let p := s.ldgPart i
  let (now, s1) := s.draw
  let (st, s2) := s1.stamp 8 0
  let raw := recordRaw reason i p.seq (Config.serial % 2 ^ 64) s2.device s2.boot.count p.tenant s2.ptr.image.id p.openAt (now % 2 ^ 64) st
    p.prev p.job p.count
  let s3 := s2.setLdgPart i { p with count := [], seq := p.seq + 1, openAt := now % 2 ^ 64, prev := sha256 (leBytes 512 raw) }
  { s3 with ldg := { s3.ldg with closed := s3.ldg.closed ++ [{ part := i, raw := raw }] } }

/-- Partitions in use. -/
def State.usedParts (s : State) : List Nat := (List.range 8).filter (fun i => (s.entry i).inUse)
def State.closeAll (s : State) (reason : Nat) : State := s.usedParts.foldl (fun s i => s.closeRec i reason) s

/-- Is the Orangery's store of sealed records full, those on their way to it counted (R416)? -/
def State.storeFull (s : State) : Bool := decide (16 ≤ s.ldg.store.length + s.ldg.closed.length)

/-- The metering interval ends: each record closes, or is deferred while the store is full. -/
def State.interval (s : State) : State :=
  s.usedParts.foldl (fun s i => if s.storeFull then { s with ldg := { s.ldg with deferred := true } } else s.closeRec i 0) s

end Sys2Proof.Machine
end

