-- ==== Sys2Proof/Machine/Parterre.lean ====
section
/-! DEFINITION. The Parterre image: its format, its checks and the run-time commit (spec/01_parterre_image R16-R46). -/

namespace Sys2Proof.Machine

/-! ### Format (R19) -/

abbrev ImgBytes := List Byte
def word32 (bs : ImgBytes) (o : Nat) : Nat := leNat ((bs.drop o).take 4)

/-- A directory entry. -/
structure Sect where
  type : Nat
  sver : Nat
  off : Nat
  len : Nat
  rsv : Nat
  deriving DecidableEq, Repr

def nsect (bs : ImgBytes) : Nat := word32 bs 4 / 2 ^ 16
def sectAt (bs : ImgBytes) (i : Nat) : Sect :=
  let o := 128 + 16 * i
  { type := word32 bs o % 2 ^ 16, sver := word32 bs o / 2 ^ 16, off := word32 bs (o + 4), len := word32 bs (o + 8), rsv := word32 bs (o + 12) }
def sects (bs : ImgBytes) : List Sect := (List.range (nsect bs)).map (sectAt bs)
def Sect.bytes (x : Sect) (bs : ImgBytes) : ImgBytes := (bs.drop x.off).take x.len
def sectEnd (bs : ImgBytes) : Nat := (sects bs).foldl (fun a x => max a (x.off + x.len)) 0

/-- Do two sections share a byte? An empty one shares none. -/
def Sect.meets (x y : Sect) : Bool := rangesMeet x.off x.len y.off y.len
/-- Does a test fail for every pair of a list, earlier with later? -/
def noPair {α : Type} (p : α → α → Bool) : List α → Bool
  | [] => true
  | x :: xs => xs.all (fun y => !p x y) && noPair p xs

/-- FORMAT, NSECT, LENGTH, the reserved fields, alignment and overlap. -/
def formatOk (bs : ImgBytes) : Bool :=
  let n := nsect bs
  let ss := sects bs
  decide (128 ≤ bs.length) && word32 bs 4 % 2 ^ 16 == 1 && decide (1 ≤ n) && decide (n ≤ 140) && decide (128 + 16 * n ≤ bs.length)
    && leNat ((bs.drop 32).take 32) == 0 && leNat ((bs.drop 96).take 32) == 0
    && ss.all (fun x => x.rsv == 0 && x.off % 8 == 0 && decide (128 + 16 * n ≤ x.off))
    && noPair Sect.meets ss && word32 bs 8 == sectEnd bs + 16232 && decide (word32 bs 8 ≤ 2 ^ 21) && decide (word32 bs 8 ≤ bs.length)

/-! ### Signature, hash and binding (R20, R40) -/

/-- The site key's envelope verifies over the image (16 R426). -/
def State.imageSigned (s : State) (bs : ImgBytes) : Bool :=
  let e := sectEnd bs
  word32 bs e == 2 && word32 bs (e + 4) == 16224 &&
    Config.slhVerify 2 (leBytes 48 (s.org.siteKey.getD 0)) (bs.take e) ((bs.drop (e + 8)).take 16224)
def bodyHash (bs : ImgBytes) : Nat := sha256 ((bs.drop 128).take (sectEnd bs - 128))

/-- The first failure among magic, format, key, signature, hash, floor and device; zero for none. -/
def State.headReason (s : State) (bs : ImgBytes) : Nat :=
  if word32 bs 0 ≠ 0x50415254 then 1
  else if !formatOk bs then 2
  else if !s.org.site then 3
  else if !s.imageSigned bs then 4
  else if bodyHash bs ≠ leNat ((bs.drop 64).take 32) then 5
  else if word32 bs 12 < s.org.fuses.imgFloor then 6
  else if leNat ((bs.drop 24).take 8) ≠ 0 ∧ leNat ((bs.drop 24).take 8) ≠ Config.serial % 2 ^ 64 then 7
  else 0

/-! ### Sections (R17; 05 R142) -/

def sectLen (ty n : Nat) : Bool :=
  if ty = 1 then n == 256 else if ty = 2 then n == 32768 else if ty = 3 then n == 8 else if ty = 4 then n == 16
  else if ty = 5 then n == 8 else if ty = 6 then n % 4096 == 0 && decide (4096 ≤ n) && decide (n ≤ 64 * 4096)
  else if ty = 7 then n == 1248 else if ty = 8 then n == 2048 else if ty = 9 then n == 64 else if ty = 10 then n == 3152
  else if ty = 11 then n == 8 else false

/-- DIES and TABLE of a SAGE_LUT section. -/
def lutDies (b : ImgBytes) : Nat := word32 b 0 % 2 ^ 8
def lutTable (b : ImgBytes) : Nat := natBits (word32 b 0) 11 8

def sectionsOk (bs : ImgBytes) : Bool :=
  let ss := sects bs
  let luts := (ss.filter (fun x => x.type == 10)).map (fun x => x.bytes bs)
  ss.all (fun x => x.sver == 1 && sectLen x.type x.len)
    && noPair (fun (x y : Sect) => x.type == y.type && x.type != 10) ss && decide (luts.length ≤ 128)
    && noPair (fun a b => lutTable a == lutTable b && (lutDies a &&& lutDies b) != 0) luts

/-! ### Fields (R21-R27, R30; 05 R142) -/

/-- The bytes of a section type, when the image holds it. -/
def sectOf (bs : ImgBytes) (ty : Nat) : Option ImgBytes := ((sects bs).find? (fun x => x.type == ty)).map (fun x => x.bytes bs)
def sectNat (bs : ImgBytes) (ty : Nat) : Option Nat := (sectOf bs ty).map leNat

def partEntry (n : Nat) : PartEntry :=
  let shares := [natBits n 70 64, natBits n 77 71, natBits n 84 78, natBits n 91 85, natBits n 102 96, natBits n 109 103]
  let e : PartEntry :=
    { dies := natBits n 7 0, gang := natBits n 9 8, hbms := natBits n 31 16, qfirst := natBits n 43 32,
      qcount := natBits n 56 44, shares := shares, funcA := natBits n 191 128, funcB := natBits n 255 192 }
  if n = 0 then {} else e
def partRange (n : Nat) : Bool :=
  natBits n 15 10 == 0 && natBits n 63 57 == 0 && natBits n 95 92 == 0 && natBits n 127 110 == 0
    && (natBits n 7 0 != 0 || n == 0) && (partEntry n).shares.all (fun x => decide (x ≤ 64))

def bindRange (n : Nat) : Bool := decide (natBits n 9 7 ≤ 4) && natBits n 31 10 == 0 && natBits n 63 44 == 0
def roleRange (n : Nat) : Bool :=
  natBits n 63 3 == 0 && (if n % 2 = 0 then natBits n 2 1 == 0 else natBits n 2 1 != 0)
def torusRange (n : Nat) : Bool :=
  let ok := fun (c z : Nat) => decide (1 ≤ z) && decide (z ≤ 64) && decide (c < z)
  natBits n 7 6 == 0 && natBits n 15 14 == 0 && natBits n 31 22 == 0 && natBits n 39 39 == 0 && natBits n 47 47 == 0
    && natBits n 63 55 == 0 && natBits n 95 72 == 0 && ok (natBits n 5 0) (natBits n 38 32) && ok (natBits n 13 8) (natBits n 46 40)
    && ok (natBits n 21 16) (natBits n 54 48) && natBits n 71 64 != 0
def clockRange (n : Nat) : Bool :=
  [4, 5, 6, 8].contains (natBits n 3 0) && natBits n 31 8 == 0 && decide (natBits n 35 32 ≤ 10) && natBits n 39 36 == 0
    && decide (30 ≤ natBits n 45 40) && decide (natBits n 45 40 ≤ 63) && natBits n 63 46 == 0
def tagRange (n : Nat) : Bool := natBits n 31 23 == 0 && natBits n 63 35 == 0
def capRange (n : Nat) : Bool := decide (n ≤ 65536)
def meterRange (n : Nat) : Bool := decide (2 ^ 24 ≤ n) && decide (n ≤ 2 ^ 40)
def lutRange (b : ImgBytes) : Bool :=
  let h := word32 b 16
  lutDies b != 0 && word32 b 0 / 2 ^ 12 == 0 && leNat ((b.drop 4).take 12) == 0
    && decide (natBits h 3 0 ≤ 5) && natBits h 5 4 != 3 && natBits h 7 6 != 3 && h.testBit 8
    && natBits h 31 9 == 0 && leNat ((b.drop 48).take 32) == 0

/-- Equal pieces of `w` bytes as numbers. -/
def piecesOf (w : Nat) (b : ImgBytes) : List Nat := (chunksOf w (b.length / w) b).map leNat

/-- Is every field of a section within its legal set? -/
def fieldsOk (ty : Nat) (b : ImgBytes) : Bool :=
  if ty = 1 then (piecesOf 32 b).all partRange
  else if ty = 2 then (piecesOf 8 b).all bindRange
  else if ty = 3 then roleRange (leNat b)
  else if ty = 4 then torusRange (leNat b)
  else if ty = 5 then clockRange (leNat b)
  else if ty = 8 then (piecesOf 8 b).all tagRange
  else if ty = 9 then (piecesOf 4 b).all capRange
  else if ty = 10 then lutRange b
  else if ty = 11 then meterRange (leNat b)
  else true

/-! ### Content (R18, R21-R27) -/

/-- Numbers as a map, those that are zero left out. -/
def smapOf (l : List Nat) : SMap Nat := (l.zipIdx.filter (fun x => x.1 != 0)).map (fun x => (x.2, x.1))

/-- What an image declares: sections it lacks come from the factory defaults. -/
def imageOf (bs : ImgBytes) : Image :=
  let f := Image.factory
  let role := sectNat bs 3
  let t := sectNat bs 4
  let c := sectNat bs 5
  let ts := (sectOf bs 6).map (fun b => (chunksOf 4096 64 b).map (fun x => smapOf (x.map BitVec.toNat)))
  { id := leNat ((bs.drop 16).take 8), svn := word32 bs 12, device := leNat ((bs.drop 24).take 8)
    parts := match sectOf bs 1 with | some b => (piecesOf 32 b).map partEntry | none => f.parts
    qbind := match sectOf bs 2 with | some b => some (smapOf (piecesOf 8 b)) | none => none
    lodge := match role with | some n => n % 2 == 1 | none => f.lodge
    level := match role with | some n => natBits n 2 1 | none => f.level
    x := match t with | some n => natBits n 5 0 | none => f.x
    y := match t with | some n => natBits n 13 8 | none => f.y
    z := match t with | some n => natBits n 21 16 | none => f.z
    xs := match t with | some n => natBits n 38 32 | none => f.xs
    ys := match t with | some n => natBits n 46 40 | none => f.ys
    zs := match t with | some n => natBits n 54 48 | none => f.zs
    floor := match t with | some n => natBits n 71 64 | none => f.floor
    seed := match t with | some n => natBits n 127 96 | none => f.seed
    arrayDiv := match c with | some n => natBits n 3 0 | none => f.arrayDiv
    stepEn := match c with | some n => natBits n 7 4 | none => f.stepEn
    sscDepth := match c with | some n => natBits n 35 32 | none => f.sscDepth
    sscRate := match c with | some n => natBits n 45 40 | none => f.sscRate
    templates := ts
    amap := match sectOf bs 7 with | some b => smapOf (b.map BitVec.toNat) | none => f.amap
    tags := match sectOf bs 8 with | some b => smapOf (piecesOf 8 b) | none => f.tags
    txuCap := match sectOf bs 9 with | some b => piecesOf 4 b | none => f.txuCap
    meter := (sectNat bs 11).getD f.meter
    luts := ((sects bs).filter (fun x => x.type == 10)).map (fun x =>
      let b := x.bytes bs
      { dies := lutDies b, table := lutTable b, words := piecesOf 4 (b.drop 16) })
    digest := sha256 (bs.take (word32 bs 8)) }

/-! ### Rules across fields (R22, R24, R30) -/

def Image.used (i : Image) : List PartEntry := i.parts.filter PartEntry.inUse

/-- The dies of a gang group. -/
def gangMask (g d : Nat) : Nat := (2 ^ 2 ^ g - 1) * 2 ^ (d / 2 ^ g * 2 ^ g)

def Image.dieAssignOk (i : Image) : Bool :=
  i.used != [] && (List.range 8).all (fun d => (i.used.filter (fun e => e.dies.testBit d)).length == 1)
def Image.gangOk (i : Image) : Bool :=
  i.used.all (fun e => (maskBits 8 e.dies).all (fun d => e.dies &&& gangMask e.gang d == gangMask e.gang d))
def Image.stacksOk (i : Image) : Bool := noPair (fun (x y : PartEntry) => (x.hbms &&& y.hbms) != 0) i.used
def Image.queuesOk (i : Image) : Bool :=
  i.used.all (fun e => decide (e.qfirst + e.qcount ≤ 4096)) &&
    noPair (fun (x y : PartEntry) => rangesMeet x.qfirst x.qcount y.qfirst y.qcount) i.used
def Image.sharesOk (i : Image) : Bool :=
  (List.range 6).all (fun n => decide ((i.used.map (fun e => nth 0 e.shares n)).foldl (· + ·) 0 ≤ 64))
def Image.bindOk (i : Image) (q : Nat) : Bool :=
  let b := i.bind q
  match i.queueOwner q with
  | none => b == 0
  | some p => (nth {} i.parts p).hasFn (b % 2) (natBits b 6 1) && (natBits b 9 7 != 4 || natBits b 6 1 == 0)

/-- Master IDs that requests carry (R28). -/
def masterListed (m : Nat) : Bool :=
  decide (m < 0x2A0) || (masterFn m).isSome || (decide (0x400 ≤ m) && decide (m < 0x50A))
def Image.accessOk (i : Image) : Bool :=
  let n := match i.templates with | some ts => ts.length | none => 1
  (List.range 1248).all (fun t =>
      let a := SMap.get 0 i.amap t
      decide (a < n) && (decide (t < 1173) || decide (1184 ≤ t) || a == 0)) &&
    (match i.templates with
     | none => true
     | some ts =>
       ts.all (fun x => x.all (fun e => decide (e.2 < 128) && masterListed e.1)) &&
         (upFrom 1152 21 ++ upFrom 1184 64).all (fun t =>
           (nth [] ts (SMap.get 0 i.amap t)).all (fun e => natBits e.2 6 5 != 3)))

/-- First failure of R22, R24 and R30, zero for none. -/
def Image.reason (i : Image) : Nat :=
  if !i.dieAssignOk then 0x0A
  else if !i.gangOk then 0x0B
  else if !i.stacksOk then 0x0C
  else if !i.queuesOk then 0x0D
  else if !i.sharesOk then 0x0F
  else if !(List.range 4096).all i.bindOk then 0x0E
  else if !i.accessOk then 9
  else 0

/-- The checks of R40 in their order, all but ROLE_HELD: the reason that rejects, or the image. -/
def State.imageCheck (s : State) (bs : ImgBytes) : Except Nat Image :=
  let h := s.headReason bs
  if h ≠ 0 then .error h
  else if !sectionsOk bs then .error 8
  else if !(sects bs).all (fun x => fieldsOk x.type (x.bytes bs)) then .error 9
  else
    let i := imageOf bs
    let r := i.reason
    if r ≠ 0 then .error r else .ok i

/-- All the checks of R40. -/
def State.verify (s : State) (bs : ImgBytes) : Except Nat Image :=
  match s.imageCheck bs with
  | .error r => .error r
  | .ok i => if i.lodge ≠ s.ptr.image.lodge ∧ s.ldg.held then .error 0x10 else .ok i

/-! ### What a commit affects (R17, R40) -/

def Image.lutsOf (i : Image) (d : Nat) : List (Nat × List Nat) := (i.luts.filter (fun l => l.dies.testBit d)).map (fun l => (l.table, l.words))
/-- The last column of R17: a mask of partitions. -/
def affectedBy (old new : Image) : Nat :=
  let bit := fun (o : Option Nat) => match o with | some i => 2 ^ i | none => 0
  let all := ((List.range 8).filter (fun i => (nth {} old.parts i).inUse || (nth {} new.parts i).inUse)).foldl (fun a i => a + 2 ^ i) 0
  let parts := ((List.range 8).filter (fun i => nth {} old.parts i != nth {} new.parts i)).foldl (fun a i => a + 2 ^ i) 0
  let queues := ((List.range 4096).filter (fun q => old.bind q != new.bind q)).foldl
    (fun a q => a ||| bit (old.queueOwner q) ||| bit (new.queueOwner q)) 0
  let luts := ((List.range 8).filter (fun d => old.lutsOf d != new.lutsOf d)).foldl
    (fun a d => a ||| bit (old.dieOwner d) ||| bit (new.dieOwner d)) 0
  let wide := old.lodge != new.lodge || old.level != new.level || old.x != new.x || old.y != new.y || old.z != new.z || old.xs != new.xs
    || old.ys != new.ys || old.zs != new.zs || old.floor != new.floor || old.seed != new.seed || old.arrayDiv != new.arrayDiv
    || old.stepEn != new.stepEn || old.sscDepth != new.sscDepth || old.sscRate != new.sscRate || old.txuCap != new.txuCap
  (if wide then all else 0) ||| parts ||| queues ||| luts

/-- Is a queue's fetched work done, or its function under reset (12 R343)? The ADMIN queue that carries the commit waits for it. -/
def State.queueQuiet (s : State) (q : Nat) : Bool :=
  let x := s.queue q
  x.resetting || x.flight.all (fun d => d.isDone || (q == s.ptr.cmdQueue && d.st == .waiting) || (q == s.ptr.cmdQueue && d.opcode == 0x11))
/-- Has a die's array nothing in admission, parked, gathering, running or in Sage (04 R121)? -/
def State.arrayQuiet (s : State) (d : Nat) : Bool :=
  let a := s.ar d
  a.admitting.isNone && a.parked.isEmpty && a.groups.isEmpty && a.ops.isEmpty && (s.sg d).tile.isNone
/-- Has a die's TXU submitted no chunk of work that is not done? -/
def State.txuQuiet (s : State) (d : Nat) : Bool := (s.tdie d).aops == [] && (s.tdie d).eqs.all (fun q => q.2.chunks == [])
/-- Has a partition quiesced (R40, R44): its queues' fetched work, the AOPs of its core rings and TXUs (04 R121) and its contexts' tokens
(14 R392) are done? -/
def State.quiet (s : State) (i : Nat) : Bool :=
  nth .unused s.ptr.parts i == .contained ||
    ((s.partQueues i).all s.queueQuiet && s.noTokens i && (maskBits 8 (s.entry i).dies).all (fun d => s.arrayQuiet d && s.txuQuiet d))

def State.commitBusy (s : State) : Bool := s.ptr.phase == .verifying || s.ptr.phase == .quiescing || s.ptr.phase == .applying

/-- A commit ends with a reason (R45): the record, PTR_COMMIT_STATUS, the PTR source, and for a PLOT a NOTICE, which carries FLOOR
(13 R371) and the partitions the commit changed (15 R411). -/
def State.commitEnd (s : State) (r : Nat) : State :=
  let p := s.ptr
  let s1 := { s with ptr := { p with phase := if p.staged.isSome then .staged else .idle, lastReason := r, next := none, taken := none } }
  let s2 := match (s1.queue p.cmdQueue).flight.find? (fun d => d.st == .running && d.opcode == 0x11) with
    | some d => if r = 0 then s1.descDone p.cmdQueue d.ix 0 0 0 else s1.descDone p.cmdQueue d.ix 0x80 r 0
    | none => s1
  let s3 := s2.raise 0 256
  if s3.ptr.image.lodge then s3 else s3.notice 2 [s3.ptr.image.floor, r, if r = 0 then s3.ptr.affected else 0] 0

/-! ### The ADMIN commands (R39; 12 R336) -/

def State.stageImage (s : State) (q : Nat) (hostErr : Nat) : State :=
  match s.startOp q tyAdmin 0x10 with
  | none => s
  | some d =>
    let n := d.f 6 31 0
    let src := natBits d.raw 191 128
    if n = 0 ∨ 2 ^ 21 < n ∨ d.f 7 31 1 ≠ 0 ∨ !d.zeroFrom 8 then s.descDone q d.ix 1 0 0
    else if s.commitBusy then s.descDone q d.ix 0x80 0x11 0
    else if s.rawWaits q (d.f 7 0 0) src then s
    else match s.readRaw (s.qMaster q) (d.f 7 0 0) (s.qPort q) src n hostErr with
      | (none, s1) => s1.descDone q d.ix (s.failStatus s1 q) 0 0
      | (some bs, s1) => { s1 with ptr := { s1.ptr with staged := some bs, phase := .staged } }.descDone q d.ix 0 0 0

def State.commitStart (s : State) (q : Nat) : State :=
  match s.startOp q tyAdmin 0x11 with
  | none => s
  | some d =>
    if !d.zeroFrom 4 then s.descDone q d.ix 1 0 0
    else if s.commitBusy then s.descDone q d.ix 0x80 0x11 0
    else match s.ptr.staged with
      | none => s.descDone q d.ix 0x80 0x13 0
      | some bs =>
        { s with ptr := { s.ptr with phase := .verifying, cmdQueue := q, staged := none, taken := some bs, affected := 0 } }.descRun q d.ix

def State.discard (s : State) (q : Nat) : State :=
  match s.startOp q tyAdmin 0x12 with
  | none => s
  | some d =>
    if !d.zeroFrom 4 then s.descDone q d.ix 1 0 0
    else
      let ph : Phase := match s.ptr.phase with | .staged => .idle | x => x
      { s with ptr := { s.ptr with staged := none, phase := ph } }.descDone q d.ix 0 0 0

/-- The gather groups of a die close when its partition is among the affected ones (04 R121). -/
def State.closeAffected (m : Nat) (s : State) (d : Nat) : State :=
  match s.dieOwner d with
  | some p => if m.testBit p ∧ s.isMaster d then s.closeGroups d else s
  | none => s

/-- Verification ends: rejected with a reason, or quiescing begins. Gather groups of affected partitions close (04 R121). -/
def State.verified (s : State) : State :=
  match s.ptr.phase, s.ptr.taken with
  | .verifying, some bs =>
    match s.verify bs with
    | .error r => s.commitEnd r
    | .ok i =>
      let m := affectedBy s.ptr.image i
      let s1 := { s with ptr := { s.ptr with phase := .quiescing, next := some i, affected := m } }
      (List.range 8).foldl (State.closeAffected m) s1
  | _, _ => s

def State.affectedParts (s : State) : List Nat := maskBits 8 s.ptr.affected
/-- Dies of the affected partitions. -/
def State.affectedDies (s : State) : List Nat :=
  (List.range 8).filter (fun d => match s.dieOwner d with | some i => s.ptr.affected.testBit i | none => false)

/-- Quiescing ends (R40): applying begins, the affected dies are held in reset, and their fault batches are cancelled. -/
def State.quiesced (s : State) : State :=
  if s.ptr.phase ≠ .quiescing ∨ !s.affectedParts.all s.quiet then s
  else
    let ds := s.affectedDies
    let s0 : State := { s with ptr := { s.ptr with phase := .applying, parts := s.ptr.parts.zipIdx.map (fun x =>
      if s.ptr.affected.testBit x.2 && x.1 != PartSt.unused then .applying else x.1) } }
    let s1 := ds.foldl (fun s d => s.answerDie d ((s.dieOwner d).getD 0) .cancel) s0
    s0.affectedParts.foldl (fun s i => (s.ctxStop i).tenantEnd i) (ds.foldl (fun s d => s.holdDie d) s1)

def State.quiesceTimeout (s : State) : State := if s.ptr.phase ≠ .quiescing then s else s.commitEnd 0x12

/-! ### Apply (R42, R44; 13 R371) -/

/-- A partition that owns a degraded stack (R44). -/
def State.degraded (s : State) (e : PartEntry) : Bool := (maskBits 16 e.hbms).any (fun k => (s.stack k).st == .degraded)
def State.partState (s : State) (i : Nat) : PartSt :=
  let e := s.entry i
  if !e.inUse then .unused else if s.degraded e then .heldDegraded else .running

/-- A stack that no entry names rests in self-refresh; one that an entry names is READY (09 R245). -/
def State.stackOwned (s : State) (k : Nat) : State :=
  let x := s.stack k
  match s.stackOwner k, x.st with
  | none, .ready => s.setStack k { x with st := .selfref, woken := false }
  | some _, .selfref => s.setStack k { x with st := .ready, woken := false }
  | _, _ => s

/-- A queue after apply (R42): kept, where its binding and its owner are those of `old`, else reset. -/
def State.queueAfter (s : State) (old : Image) (q : Nat) : State :=
  let x := s.queue q
  let held : Bool := match s.queueOwner q with | some i => nth .unused s.ptr.parts i == .heldDegraded | none => false
  if old.bind q = s.ptr.image.bind q ∧ old.queueOwner q = s.queueOwner q then
    match x.st with
    | .contained => s.queueFree q
    | .unavailable => if held then s else s.queueOff q
    | .enabled => if held then s.setQueue q { x with st := .unavailable } else s
    | _ => s
  else s.queueRestart q

/-- Is the owner among the affected partitions `m`? -/
def hitBy (m : Nat) (o : Option Nat) : Bool := match o with | some p => m.testBit p | none => false
/-- Queues that an affected partition owned or will own. -/
def State.hitQueues (s : State) (i : Image) (m : Nat) : List Nat :=
  (SMap.keys s.queues).filter (fun q => hitBy m (s.ptr.image.queueOwner q) || hitBy m (i.queueOwner q))

/-- Records of queues that are reset go out under the old binding, and meter records close. -/
def State.applyOut (s : State) (i : Image) (source m : Nat) : State :=
  let s0 := (s.hitQueues i m).foldl
    (fun s1 q => if s.ptr.image.bind q = i.bind q ∧ s.ptr.image.queueOwner q = i.queueOwner q then s1 else s1.queueRestart q) s
  (maskBits 8 m).foldl (fun s p => if (s.entry p).inUse ∧ source = 3 then s.closeRec p 4 else s) s0
/-- The image's tables are written; a changed TXU_CAPACITY zeroes the placement stores (14 R377). -/
def State.applyTables (s : State) (old i : Image) (source : Nat) : State :=
  { s with ptr := { s.ptr with image := i, source := source }, ldg := { s.ldg with held := s.ldg.held || (i.lodge && !old.lodge) },
           txu := { s.txu with place := if old.txuCap = i.txuCap then s.txu.place else [] } }
/-- Affected dies are reset, and zeroised where their owner changes. -/
def State.applyDies (s : State) (old i : Image) (m : Nat) : State :=
  ((List.range 8).filter (fun d => hitBy m (old.dieOwner d) || hitBy m (i.dieOwner d))).foldl
    (fun s d => if old.dieOwner d = i.dieOwner d then s.dieReset d else (s.dieReset d).zeroDie d) s
/-- Stacks whose owner changes are zeroised. -/
def State.applyStacks (s : State) (old i : Image) : State :=
  (List.range 16).foldl (fun s k => if old.stackOwner k = i.stackOwner k then s else (s.zeroStack k).stackOwned k) s
/-- A raised feature floor raises the jobs' floors (13 R371). -/
def State.applyFloor (s : State) (old i : Image) : State :=
  if old.floor < i.floor then
    (List.range 8).foldl (fun s p => let r : Reg := ⟨.trlJobfloor, p, 0, 0⟩; if s.rf r 7 0 < i.floor then s.rput r 7 0 i.floor else s) s
  else s
/-- Affected partitions leave APPLYING, and their containment ends. -/
def State.applyParts (s : State) (m : Nat) : State :=
  { s with
    ptr := { s.ptr with parts := (List.range 8).map (fun p => if m.testBit p then s.partState p else nth .unused s.ptr.parts p) },
    err := { s.err with contained := (maskBits 8 m).foldl (fun a p => if a.testBit p then a - 2 ^ p else a) s.err.contained,
                        orders := s.err.orders.filter (fun o => !m.testBit o.part) } }
/-- What the Trellis ports exchange in training. -/
def Image.torus (x : Image) : List Nat := [x.x, x.y, x.z, x.xs, x.ys, x.zs, x.floor, x.seed]
/-- The torus changed under a port: in a dimension of size 1 it is DOWN (13 R347); one that is down for that alone trains, and the others
train again. -/
def State.torusPort (s : State) (n : Nat) : State :=
  if s.size (n / 2) ≤ 1 then s.portState n .down 0
  else if (s.tport n).st = .down then (if s.portAllowed n then s.portState n .training 0 else s)
  else s.retrain n
/-- A changed torus retrains the ports. -/
def State.applyPorts (s : State) (old i : Image) (source : Nat) : State :=
  if source = 3 ∧ old.torus ≠ i.torus then (List.range 6).foldl (fun s n => s.torusPort n) s else s

/-- Write an image's tables and give its partitions what they own: `m` are the affected ones. -/
def State.applyImage (s : State) (i : Image) (source m : Nat) : State :=
  let old := s.ptr.image
  let s1 := (s.hitQueues i m).foldl (fun s q => s.queueAfter old q)
    (((((((s.applyOut i source m).applyTables old i source).applyDies old i m).applyStacks old i).applyFloor old i).applyParts m).applyPorts
      old i source)
  if source = 3 then s1.startService else s1

/-- Apply finishes. -/
def State.applied (s : State) : State :=
  match s.ptr.phase, s.ptr.next with
  | .applying, some i =>
    let s0 := match (s.queue s.ptr.cmdQueue).flight.find? (fun d => d.st == .running && d.opcode == 0x11) with
      | some d => s.descDone s.ptr.cmdQueue d.ix 0 0 0
      | none => s
    let s1 := s0.applyImage i 3 s.ptr.affected
    let s2 := s1.measure 5 i.digest
    let s3 := { s2 with ptr := { s2.ptr with commits := min (s2.ptr.commits + 1) 0xFFFF } }
    s3.commitEnd 0
  | _, _ => s

/-! ### The commands -/

/-- PTR_CLAMPLOG_CLR (R48): COUNT, OFFSET and SRC become zero. -/
def execPtrClamplogClr (s : State) : Host.Outcome State Fault Refusal := .next (s.rset ⟨.ptrClamplog, 0, 0, 0⟩ 0)
/-- STAGE_IMAGE (R39; 12 R336). -/
def execStageImage (q : QIx) (hostErr : HostErr) (s : State) : Host.Outcome State Fault Refusal := .next (s.stageImage q.val hostErr)
/-- COMMIT_IMAGE (R40). -/
def execCommitImage (q : QIx) (s : State) : Host.Outcome State Fault Refusal := .next (s.commitStart q.val)
/-- DISCARD_IMAGE (R39). -/
def execDiscardImage (q : QIx) (s : State) : Host.Outcome State Fault Refusal := .next (s.discard q.val)
/-- IMAGE_VERIFIED (R40). -/
def execImageVerified (s : State) : Host.Outcome State Fault Refusal := .next s.verified
/-- QUIESCE_DONE (R40). -/
def execQuiesceDone (s : State) : Host.Outcome State Fault Refusal := .next s.quiesced
/-- QUIESCE_TIMEOUT (R40). -/
def execQuiesceTimeout (s : State) : Host.Outcome State Fault Refusal := .next s.quiesceTimeout

end Sys2Proof.Machine
end

