-- ==== Sys2Proof/Machine/TxuRows.lean ====
section
/-! DEFINITION. The commands of the Token Exchange Units and the collectives (spec/14_token_exchange R376-R399). -/

namespace Sys2Proof.Machine

/-- A TOK packet of an opcode at a source, which its command takes; packets R359 turns away go first. -/
def State.takeTok (s : State) (src : PktSrc) (opc : Nat) (f : State → Packet → Bool → State) : State :=
  match s.peekPacket src with
  | none => s
  | some p =>
    if p.opc ≠ opc then s
    else if !p.wellFormed then s.turnAway src
    else f (s.dropPacket src) p (src == .loop)

/-- A PASSED or FAIL settles the choices it names (R389). -/
def State.recvSettle (s : State) (p : Packet) (loc : Bool) (st : ChSt) : State :=
  (if loc then s else s.meterRx (some (s.ctxPart p.tok.ctx)) p).settlePkt p st

/-- A choice still waiting after TIMEOUT fails NO_RESPONSE (R389). -/
def State.choiceTimeout (s : State) (p c cent j : Nat) : State :=
  let key := entKey c cent
  match s.ent p key with
  | none => s
  | some e => if e.sent ∧ nth .passed e.st j = .wait then s.setEnt p key (some (e.setChoice j (.failed 0x81))) else s

/-- A collective with no packet for TIMEOUT ends NO_RESPONSE (R397). -/
def State.collTimeout (s : State) (q : Nat) : State :=
  match s.txu.colls.find? (fun r => r.q == q) with
  | none => s
  | some r => s.collEnd r 0x81

/-- A COLL packet of an opcode at a source. -/
def State.takeColl (s : State) (src : PktSrc) (opc : Nat) : State :=
  match s.peekPacket src with
  | none => s
  | some p => if p.opc ≠ opc then s else if !p.wellFormed then s.turnAway src else s.recvColl src p anyEnd

/-- A read of TXU_PDATA (R399): the entry TXU_PSEL selects, and SLOT one further. -/
def State.pdataRead (s : State) (p : Nat) : Nat × State :=
  let r : Reg := ⟨.txuPsel, p, 0, 0⟩
  let c := s.rf r 3 0
  let e := s.rf r 31 16
  (if e < s.slotsOf c then s.place c e else 0, s.rput r 31 16 (e + 1))

/-- PLACE (R378). -/
def execPlace (q : QIx) (hostErr : HostErr) (s : State) : Host.Outcome State Fault Refusal :=
  .next (s.on .txu (match s.opDesc q.val tyTrellis 0x10 with | some d => s.doPlace q.val d hostErr | none => s))
/-- TOKEN_DISPATCH (R381). -/
def execTokenDispatch (p : DieIx) (s : State) : Host.Outcome State Fault Refusal := .next (s.on .txu (s.dispatch p.val))
/-- DISP (R384-R386). -/
def execDisp (src : PktSrc) (s : State) : Host.Outcome State Fault Refusal :=
  .next (s.on .txu (s.takeTok src 0x20 (fun s p loc => s.recvDisp p loc)))
/-- EXPERT_CHUNK_SUBMIT (R387). -/
def execExpertChunkSubmit (p : DieIx) (e : Fin 32) (s : State) : Host.Outcome State Fault Refusal :=
  .next (s.on .txu (s.submitChunk p.val e.val false))
/-- CHUNK_WAIT_EXPIRE (R387). -/
def execChunkWaitExpire (p : DieIx) (e : Fin 32) (s : State) : Host.Outcome State Fault Refusal :=
  .next (s.on .txu (s.submitChunk p.val e.val true))
/-- STAGE_COMPLETE (R388). -/
def execStageComplete (p : DieIx) (e : Fin 32) (s : State) : Host.Outcome State Fault Refusal := .next (s.on .txu (s.stageDone p.val e.val))
/-- RESULT (R389). -/
def execResult (src : PktSrc) (s : State) : Host.Outcome State Fault Refusal :=
  .next (s.on .txu (s.takeTok src 0x21 (fun s p loc => s.recvResult p loc)))
/-- HOLD (R389). -/
def execHold (src : PktSrc) (s : State) : Host.Outcome State Fault Refusal :=
  .next (s.on .txu (s.takeTok src 0x22 (fun s p loc => s.recvHold p loc)))
/-- PASSED (R389). -/
def execPassed (src : PktSrc) (s : State) : Host.Outcome State Fault Refusal :=
  .next (s.on .txu (s.takeTok src 0x23 (fun s p loc => s.recvSettle p loc .passed)))
/-- FAIL (R389). -/
def execFail (src : PktSrc) (s : State) : Host.Outcome State Fault Refusal :=
  .next (s.on .txu (s.takeTok src 0x24 (fun s p loc => s.recvSettle p loc (.failed p.status))))
/-- HOLD_RETRY (R389, R392). -/
def execHoldRetry (p : DieIx) (c : Fin 16) (cent : Fin 8192) (s : State) : Host.Outcome State Fault Refusal :=
  .next (s.on .txu (s.holdRetry p.val c.val cent.val))
/-- CHOICE_TIMEOUT (R389). -/
def execChoiceTimeout (p : DieIx) (c : Fin 16) (cent : Fin 8192) (j : Fin 16) (s : State) : Host.Outcome State Fault Refusal :=
  .next (s.on .txu (s.choiceTimeout p.val c.val cent.val j.val))
/-- COMBINE (R390). -/
def execCombine (p : DieIx) (c : Fin 16) (cent : Fin 8192) (s : State) : Host.Outcome State Fault Refusal :=
  .next (s.on .txu (s.combine p.val c.val cent.val))
/-- COLL (R393-R397). -/
def execColl (q : QIx) (hostErr : HostErr) (s : State) : Host.Outcome State Fault Refusal :=
  .next (s.on .txu (match s.opDesc q.val tyTrellis 0x11 with | some d => s.collStart q.val d hostErr | none => s))
/-- CDATA (R398). -/
def execCdata (src : PktSrc) (s : State) : Host.Outcome State Fault Refusal := .next (s.on .txu (s.takeColl src 0x30))
/-- CFAIL (R398). -/
def execCfail (src : PktSrc) (s : State) : Host.Outcome State Fault Refusal := .next (s.on .txu (s.takeColl src 0x31))
/-- COLL_TIMEOUT (R397). -/
def execCollTimeout (q : QIx) (s : State) : Host.Outcome State Fault Refusal := .next (s.on .txu (s.collTimeout q.val))
/-- TXU_PDATA (R399): the reader takes the entry, and SLOT advances. -/
def execTxuPdata (p : DieIx) (s : State) : Host.Outcome State Fault Refusal := .next (s.pdataRead p.val).2
/-- TXU_CTX_COUNT_CLR (R399). -/
def execTxuCtxCountClr (c : Fin 16) (s : State) : Host.Outcome State Fault Refusal := .next (s.rset ⟨.txuCtxCount, 0, c.val, 0⟩ 0)
/-- TXU_EVLOG_CLR (R399). -/
def execTxuEvlogClr (p : DieIx) (s : State) : Host.Outcome State Fault Refusal := .next (s.rset ⟨.txuEvlog, p.val, 0, 0⟩ 0)

end Sys2Proof.Machine
end

