-- ==== Sys2Proof/Machine/Lodge.lean ====
section
/-! DEFINITION. Lodge services: membership, jobs, checkpoints and detours (spec/15_lodge_services R400-R423). -/

namespace Sys2Proof.Machine

/-! ### Boxes (R400, R403) -/

/-- A box as origin and size of each dimension. -/
abbrev BoxN := List (Nat × Nat)
def boxNat (b : Box) : BoxN := [(b.x0.val, b.xn.val), (b.y0.val, b.yn.val), (b.z0.val, b.zn.val)]
def State.ldgBox (s : State) : BoxN :=
  let r : Reg := ⟨.ldgBox, 0, 0, 0⟩
  [(s.rf r 5 0, s.rf r 38 32), (s.rf r 13 8, s.rf r 46 40), (s.rf r 21 16, s.rf r 54 48)]
/-- Offset of a coordinate from an origin, around the torus. -/
def State.offIn (s : State) (d c o : Nat) : Nat := (c + s.size d - o % s.size d) % s.size d
def State.boxHas (s : State) (b : BoxN) (dev : Nat) : Bool :=
  s.inTorus dev && b.zipIdx.all (fun x => decide (s.offIn x.2 (devCoord dev x.2) x.1.1 < x.1.2))
/-- Does one box lie within another? -/
def State.boxIn (s : State) (a b : BoxN) : Bool :=
  (a.zip b).zipIdx.all (fun x => decide (s.offIn x.2 x.1.1.1 x.1.2.1 + x.1.1.2 ≤ x.1.2.2) && decide (x.1.1.1 < s.size x.2) &&
    decide (x.1.1.2 ≤ s.size x.2))
/-- Every device of the machine, rising. -/
def State.devices (s : State) : List Nat :=
  (List.range s.ptr.image.zs).flatMap (fun z => (List.range s.ptr.image.ys).flatMap (fun y =>
    (List.range s.ptr.image.xs).map (fun x => z * 4096 + y * 64 + x)))
def State.boxDevs (s : State) (b : BoxN) : List Nat := s.devices.filter (s.boxHas b)

/-! ### Messages (R402) -/

/-- Opcode of the message an answer answers. -/
def answersTo (opc : Nat) : List Nat :=
  if opc = 0x42 then [0x41] else if opc = 0x43 then [0x43] else if opc = 0x46 then [0x45] else if opc = 0x48 then [0x47]
  else if opc = 0x4A then [0x49] else if opc = 0x4D then [0x4B, 0x4C] else if opc = 0x52 then [0x51] else []
/-- Remove the first element a test selects. -/
def dropFirst {α : Type} (p : α → Bool) : List α → List α
  | [] => []
  | x :: xs => if p x then xs else x :: dropFirst p xs

/-- An answer arrived: the message it answers awaits no more; the message answered. -/
def State.settleMsg (s : State) (dev opc : Nat) (p : Msg → Bool) : Option Msg × State :=
  let hit := fun (m : Msg) => m.dst == dev && (answersTo opc).contains m.opc && p m
  (s.ldg.await.find? hit, { s with ldg := { s.ldg with await := dropFirst hit s.ldg.await } })

/-- Is an opcode an answer to a message? -/
def isAnswer (opc : Nat) : Bool := [0x42, 0x43, 0x46, 0x48, 0x4A, 0x4D, 0x52].contains opc

/-- Act on a message once; a repeated one is answered again as before. `fin`: the message has been dealt with. Its stamp is heeded
as a cause (10 R283). -/
def State.once (s : State) (dev seq stamp : Nat) (f : State → State × Bool) : State :=
  let s := s.heed stamp
  match s.ldg.seen.find? (fun x => x.1 == dev && x.2.1 == seq) with
  | some x => { s with ldg := { s.ldg with out := s.ldg.out ++ x.2.2 } }
  | none =>
    let n := s.ldg.out.length
    let (s1, fin) := f s
    if fin then
      let new := (s1.ldg.out.drop n).filter (fun m => m.dst == dev && isAnswer m.opc)
      { s1 with ldg := { s1.ldg with seen := s1.ldg.seen ++ [(dev, seq, new)] } }
    else s1

/-- The same for a message dealt with as it arrives. -/
def State.onMsg (s : State) (dev seq stamp : Nat) (f : State → State) : State := s.once dev seq stamp (fun s => (f s, true))

/-! ### Members (R403-R405) -/

def State.memb (s : State) (dev : Nat) : Option Member := s.ldg.members.find? (fun m => m.dev == dev)
def State.updMemb (s : State) (dev : Nat) (f : Member → Member) : State :=
  { s with ldg := { s.ldg with members := s.ldg.members.map (fun m => if m.dev = dev then f m else m) } }
def State.isMemb (s : State) (dev : Nat) : Bool := (s.memb dev).isSome
/-- Level of the Lodge role; the role is held. -/
def State.lodgeLevel (s : State) : Nat := s.ptr.image.level
def State.isLodge (s : State) : Bool := s.ptr.image.lodge && s.ldg.held

/-- What this module reports of its partitions in JOIN. -/
def State.plotParts (s : State) : List PlotPart :=
  (List.range 8).map (fun i =>
    let e := s.entry i
    { dies := e.dies, gang := e.gang, free := e.inUse && (s.ldgPart i).st == .free, running := nth .unused s.ptr.parts i == .running,
      job := (s.ldgPart i).job })
/-- FREE of a HEARTBEAT: bit i for partition i. -/
def State.freeMask (s : State) : Nat :=
  ((s.plotParts.zipIdx).filter (fun x => x.1.free)).foldl (fun a x => a + 2 ^ x.2) 0

def PlotPart.raw (p : PlotPart) : Nat := p.dies + p.gang * 2 ^ 8 + b2n p.free * 2 ^ 10 + b2n p.running * 2 ^ 11 + p.job * 2 ^ 12

/-- JOIN for a side: its level, MAX, FLOOR, serial, start count, and the partitions. -/
def State.sendJoin (s : State) (dev level : Nat) : State :=
  s.mgmt 0x41 dev ([level, s.trl.max, s.ptr.image.floor, Config.serial % 2 ^ 64, s.boot.count] ++ s.plotParts.map PlotPart.raw) 0

/-! ### Detours (R364, R365, R420) -/

/-- Entries for failed links and absent modules, without intermediates. -/
def State.ownEnts (s : State) : List Nat :=
  s.ldg.links.map (fun l => 1 + l.2 * 4 + l.1 * 2 ^ 8) ++ s.ldg.away.map (fun d => 3 + d * 2 ^ 8)

/-- The bank of a member: its Allotment's entries, then the parent's in rising DEVICE order, up to 64, with intermediates. -/
def State.bankOf (s : State) (dev : Nat) : List Nat :=
  let own := s.ownEnts
  let up := (s.ldg.upEnts.filter (fun e => !own.contains (natPut (natPut e 49 32 0) 50 50 0))).mergeSort (fun a b => decide (natBits a 25 8 ≤ natBits b 25 8))
  let l := (own ++ up).take 64
  let l1 := l.zipIdx.map (fun x => match Config.detourInter dev l x.2 with
    | some i => natPut (natPut x.1 49 32 i) 50 50 0
    | none => natPut (natPut x.1 49 32 0) 50 50 1)
  l1 ++ List.replicate (64 - l1.length) 0

/-- Write the inactive bank of every member (level 1). -/
def State.sendBanks (s : State) : State :=
  let ds := (s.ldg.members.filter (fun m => m.st != .failed)).map (fun m => m.dev)
  let s1 := { s with ldg := { s.ldg with detourWait := ds, await := s.ldg.await.filter (fun m => m.opc != 0x4B) } }
  ds.foldl (fun s d => s.mgmt 0x4B d (s.bankOf d) 0) s1

/-- Union of the children's entries. -/
def State.unionEnts (s : State) : List Nat := ((s.ldg.childEnts.map (fun e => e.2)).flatten ++ s.ownEnts).eraseDups

/-- The domain's entries changed: to the members, and up. -/
def State.recompute (s : State) : State :=
  if !s.isLodge then s
  else
    let s1 := if s.lodgeLevel = 1 then s.sendBanks else s
    match s1.ldg.lparent with
    | some d => s1.mgmt 0x4B d (if s1.lodgeLevel = 1 then s1.ownEnts else s1.unionEnts) 0
    | none => if s1.lodgeLevel = 1 then s1 else s1.ldg.members.foldl (fun s m => s.mgmt 0x4B m.dev s.unionEnts 0) s1

def State.addAway (s : State) (d : Nat) : State :=
  if s.ldg.away.contains d then s else { s with ldg := { s.ldg with away := s.ldg.away ++ [d] } }
def State.dropAway (s : State) (d : Nat) : State := { s with ldg := { s.ldg with away := s.ldg.away.filter (· != d) } }

/-- Banks switch once every member has acknowledged; sleepers are granted then, and leave (R421). -/
def State.switchBanks (s : State) : State :=
  let b := !s.ldg.bank
  let s1 := { s with ldg := { s.ldg with bank := b } }
  let s2 := (s1.ldg.members.filter (fun m => m.st != .failed)).foldl (fun s m => s.mgmt 0x4C m.dev [b2n b] 0) s1
  let s3 := s2.ldg.sleepers.foldl (fun s d => (s.mgmt 0x52 d [1] 0).updMemb d (fun m => { m with st := .leaving, missed := 0 })) s2
  { s3 with ldg := { s3.ldg with sleepers := [] } }

/-! ### Jobs on the lodge side (R408, R411, R419) -/

def State.job (s : State) (id : Nat) : Option Job := s.ldg.jobs.find? (fun j => j.id == id)
def State.setJob (s : State) (j : Job) : State :=
  { s with ldg := { s.ldg with jobs := s.ldg.jobs.map (fun x => if x.id = j.id then j else x) } }
def State.dropJob (s : State) (id : Nat) : State := { s with ldg := { s.ldg with jobs := s.ldg.jobs.filter (fun x => x.id != id) } }

/-- The descriptor or the parent Lodge that waits for a job is answered. -/
def State.jobAnswer (s : State) (j : Job) (opc : Nat) (ok : Bool) (status tsf result : Nat) : State :=
  let s1 := match j.q with
    | some (q, ix) => s.descDone q ix status tsf result
    | none => s
  match j.parent with
  | some d => s1.mgmt opc d [j.id, b2n ok, tsf, result] 0
  | none => s1

/-- The partition of a plot a job binds is free again. -/
def State.unbind (s : State) (dev id : Nat) : State :=
  s.updMemb dev (fun m => { m with parts := m.parts.map (fun p => if p.job = id then { p with job := 0, free := true } else p) })

/-- A job whose every plot has answered END is over. -/
def State.endCheck (s : State) (id : Nat) : State :=
  match s.job id with
  | none => s
  | some j =>
    if j.phase ≠ .ending ∨ !(j.plots.all (fun p => j.acked.contains p.1)) then s
    else
      let s1 := j.plots.foldl (fun s p => s.unbind p.1 id) (s.dropJob id)
      s1.jobAnswer { j with parent := if j.fail = 0 then j.parent else none } 0x48 true 0 0 0

/-- Send END to every plot of a job. -/
def State.endJob (s : State) (j : Job) : State :=
  let s1 := s.setJob { j with phase := .ending, acked := [], endAfter := false }
  (j.plots.foldl (fun s p => s.mgmt 0x47 p.1 [j.id] 0) s1).endCheck j.id

/-- Send a checkpoint step to every plot. -/
def State.ckptSend (s : State) (j : Job) (step : Nat) : State :=
  let s1 := s.setJob { j with phase := .ckpt step, acked := [] }
  j.plots.foldl (fun s p => s.mgmt 0x49 p.1 [j.id, step] 0) s1

/-- A checkpoint step that every plot has acknowledged gives way to the next. -/
def State.ckptCheck (s : State) (id : Nat) : State :=
  match s.job id with
  | none => s
  | some j =>
    match j.phase with
    | .ckpt step =>
      if step < 4 ∧ j.fail ≠ 0 then s.ckptSend j 4
      else if !(j.plots.all (fun p => j.acked.contains p.1)) then s
      else if j.parent.isSome then
        -- a child Lodge answers each step, and waits for the next
        let s1 := s.setJob (if step = 4 then { j with phase := .running, fail := 0, bytes := 0 } else j)
        s1.jobAnswer { j with q := none } 0x4A (j.fail == 0) 0 step j.bytes
      else if step < 4 then s.ckptSend j (step + 1)
      else
        let s1 := s.setJob { j with phase := .running, q := none, fail := 0, bytes := 0, acked := [] }
        let s2 := if j.fail = 0 then s1.jobAnswer j 0 true 0 0 j.bytes else s1.jobAnswer j 0 false 0x82 j.fail 0
        if j.endAfter then s2.endJob { j with q := none, fail := 0, bytes := 0 } else s2
    | _ => s

/-- End a job for a cause of R411: after a running checkpoint's step 4 (R423). -/
def State.endFor (s : State) (j : Job) : State :=
  match j.phase with
  | .running => s.endJob { j with q := none }
  | .ckpt step => (s.setJob { j with endAfter := true, fail := if j.fail = 0 then step else j.fail }).ckptCheck j.id
  | _ => s

/-- An admission that fails: the plots that acknowledged get END, and the descriptor its reason. -/
def State.admitFail (s : State) (j : Job) (reason child : Nat) : State :=
  let s1 := s.jobAnswer j 0x46 false 0x80 (reason + child * 2 ^ 8) 0
  s1.endJob { j with q := none, parent := none, fail := reason, plots := j.plots.filter (fun p => j.acked.contains p.1) }

/-- A plot or child of a job no longer answers. -/
def State.plotLost (s : State) (dev : Nat) (j : Job) : State :=
  if !(j.plots.any (fun p => p.1 == dev)) then s
  else match j.phase with
    | .admitting => s.admitFail { j with acked := j.acked.filter (· != dev) } 7 0
    | .running => s.endFor j
    | .ending => (s.setJob { j with acked := dev :: j.acked }).endCheck j.id
    | .ckpt step => (s.setJob { j with acked := dev :: j.acked, endAfter := true, fail := if j.fail = 0 then step else j.fail }).ckptCheck j.id

/-- A member becomes FAILED (R405): its detour, and the jobs it takes part in end (R411). -/
def State.memberFail (s : State) (dev : Nat) : State :=
  match s.memb dev with
  | none => s
  | some m =>
    if m.st = .failed then s
    else
      let s1 := (s.updMemb dev (fun m => { m with st := .failed })).addAway dev
      let l := s1.ldg
      let aw := l.await.filter (fun m => !(m.dst == dev))
      let s2 := { s1 with ldg := { l with await := aw, sleepers := l.sleepers.filter (· != dev) } }
      (s2.ldg.jobs.foldl (fun s j => match s.job j.id with | some j => s.plotLost dev j | none => s) s2).recompute

/-- A DRAINING member with no job left becomes LEAVING (R404), but for one whose SLEEP waits for its detour. -/
def State.leaveCheck (s : State) : State :=
  let go := s.ldg.members.filter (fun m => m.st == .draining && m.parts.all (fun p => p.job == 0) && !s.ldg.sleepers.contains m.dev)
  if go = [] then s
  else (go.foldl (fun s m => (s.updMemb m.dev (fun m => { m with st := .leaving, missed := 0 })).addAway m.dev) s).recompute

/-! ### Arriving messages of membership -/

/-- ANNOUNCE (R403): the first acceptable one is answered with JOIN. -/
def State.announced (s : State) (dev level : Nat) (b : BoxN) : State :=
  if !s.boxHas b s.device then s
  else if level = 1 ∧ s.ldg.pparent = none ∧ !(s.isLodge && s.lodgeLevel == 1) then
    { s with ldg := { s.ldg with pparent := some dev, pmiss := 0 } }.sendJoin dev 0
  else if s.isLodge ∧ level = s.lodgeLevel + 1 ∧ s.ldg.lparent = none then
    { s with ldg := { s.ldg with lparent := some dev, lmiss := 0 } }.sendJoin dev s.lodgeLevel
  else s

/-- JOIN at a Lodge (R404, R423): JOINING, the job bindings it reports, and WELCOME. -/
def State.joined (s : State) (dev level max floor : Nat) (parts : List PlotPart) (stamp : Nat) : State :=
  if !s.isLodge then s
  else if !s.isMemb dev ∧ 64 ≤ s.ldg.members.length then s.mgmt 0x42 dev [0] stamp
  else
    let m : Member := { dev := dev, st := .healthy, level := level, max := max, floor := floor, stamp := stamp, parts := parts }
    let l := s.ldg
    let ms := if s.isMemb dev then l.members.map (fun x => if x.dev = dev then m else x) else l.members ++ [m]
    let back := l.away.contains dev
    let s1 := { s with ldg := { l with members := ms } }.dropAway dev
    let s2 := s1.mgmt 0x42 dev [1] stamp
    if back then s2.recompute else s2

/-- WELCOME: a refused side is parentless again. -/
def State.welcomed (s : State) (dev : Nat) (lodgeSide accept : Bool) : State :=
  let s1 := (s.settleMsg dev 0x42 (fun _ => true)).2
  if accept then s1
  else if lodgeSide then (if s1.ldg.lparent = some dev then { s1 with ldg := { s1.ldg with lparent := none } } else s1)
  else (if s1.ldg.pparent = some dev then { s1 with ldg := { s1.ldg with pparent := none } } else s1)

/-- HEARTBEAT from a member, answered in kind; or a parent's answer (R405). -/
def State.heartbeat (s : State) (dev : Nat) (answer : Bool) (free stamp : Nat) : State :=
  if answer then
    let s1 := (s.settleMsg dev 0x43 (fun _ => true)).2
    let s2 := if s1.ldg.pparent = some dev then { s1 with ldg := { s1.ldg with pmiss := 0 } } else s1
    if s2.ldg.lparent = some dev then { s2 with ldg := { s2.ldg with lmiss := 0 } } else s2
  else if !s.isLodge ∨ !s.isMemb dev then s
  else
    let upd := fun (m : Member) => m.parts.zipIdx.map (fun (p : PlotPart × Nat) => { p.1 with free := free.testBit p.2 })
    let s1 := s.updMemb dev (fun m => { m with missed := 0, stamp := stamp, parts := upd m })
    let l := s1.ldg
    { s1 with ldg := { l with seq := l.seq + 1, out := l.out ++ [{ opc := 0x43, dst := dev, seq := l.seq % 2 ^ 32, args := [1], stamp := stamp }] } }

/-- NOTICE at a Lodge (R402, R405, R410, R411, R420, R423; 13 R371). -/
def State.noticed (s : State) (dev : Nat) (ev : Event) : State :=
  if !s.isLodge ∨ !s.isMemb dev then s
  else
    let onPart := fun (s : State) (i : Nat) (p : Job → Bool) =>
      (s.ldg.jobs.filter (fun j => j.plots.contains (dev, i) && p j)).foldl (fun s j => match s.job j.id with
        | some j => s.endFor j
        | none => s) s
    match ev with
    | .error _ => s
    | .port n st =>
      let l := (dev, n.val)
      let bad := st.val = 4 ∨ st.val = 5 ∨ st.val = 6
      let ls := if bad then (if s.ldg.links.contains l then s.ldg.links else s.ldg.links ++ [l])
        else if st.val = 2 then s.ldg.links.filter (· != l) else s.ldg.links
      if ls = s.ldg.links then s else { s with ldg := { s.ldg with links := ls } }.recompute
    | .commit f hit =>
      let s1 := s.updMemb dev (fun m => { m with floor := f.val })
      let ends := fun (j : Job) => j.plots.any (fun p => p.1 == dev && (hit.toNat.testBit p.2 || decide (j.floor < f.val)))
      (s1.ldg.jobs.filter ends).foldl (fun s j => match s.job j.id with
        | some j => s.endFor j
        | none => s) s1
    | .budget i _ => onPart s i.val (fun j => j.action)
    | .contained i all =>
      let s1 := onPart s i.val (fun _ => true)
      if all then s1.memberFail dev else s1

/-- A SLEEP request (R421). -/
def State.sleepAsked (s : State) (dev : Nat) : State :=
  match s.memb dev with
  | none => s.mgmt 0x52 dev [0] 0
  | some m =>
    if !s.isLodge ∨ m.parts.any (fun p => p.dies != 0 && !p.free) ∨ m.level ≠ 0 ∨ dev = s.device then s.mgmt 0x52 dev [0] 0
    else
      let s1 := (s.updMemb dev (fun m => { m with st := .draining })).addAway dev
      let s2 := { s1 with ldg := { s1.ldg with sleepers := if s1.ldg.sleepers.contains dev then s1.ldg.sleepers else s1.ldg.sleepers ++ [dev] } }
      s2.recompute

/-! ### The plot side (R409-R411, R419) -/

/-- ADMIT at a plot. -/
def State.admitPlot (s : State) (dev job tenant i floor : Nat) (action : Bool) (shares : List Nat) : State :=
  let p := s.ldgPart i
  if p.st ≠ .free ∨ !(s.entry i).inUse then s.mgmt 0x46 dev [job, 0] 0
  else
    let s1 := (s.closeRec i 1).rput ⟨.trlJobfloor, i, 0, 0⟩ 7 0 floor
    let s2 := s1.setLdgPart i { s1.ldgPart i with st := .running, isOver := 0, action := action, tenant := tenant, job := job, budget := shares, total := [] }
    s2.mgmt 0x46 dev [job, 1] 0

/-- Contexts of a partition stop taking tokens. -/
def State.ctxOff (s : State) (i : Nat) : State :=
  (List.range 16).foldl (fun s c => if s.ctxPart c = i then s.rput (ctxReg c) 0 0 0 else s) s

/-- END at a plot (R411 step 1); without such a job it is answered at once. -/
def State.endPlot (s : State) (dev job : Nat) : State × Bool :=
  match (List.range 8).find? (fun i => (s.ldgPart i).job == job && (s.ldgPart i).st != .free) with
  | none => (s.mgmt 0x48 dev [job] 0, true)
  | some i =>
    let p := s.ldgPart i
    if p.st = .ending ∨ p.st = .zeroising then (s, false)
    else
      let s1 := s.setLdgPart i { p with st := .ending, endFrom := some dev, held := false, step := 0, ckptFrom := none }
      let s2 := s1.ctxOff i
      ((s2.partQueues i).foldl (fun s q => s.queueDisable q) s2, false)

/-- The ending partition's queues are DISABLED: steps 2 to 4. -/
def State.endDrained (s : State) (i : Nat) : State :=
  let p := s.ldgPart i
  if p.st ≠ .ending ∨ !((s.partQueues i).all (fun q => (s.queue q).st == .disabled || (s.queue q).st == .contained)) ∨ s.storeFull then s
  else
    let s1 := s.closeRec i 2
    let s2 := (s1.setLdgPart i { s1.ldgPart i with st := .zeroising }).tenantEnd i
    let s3 := (maskBits 8 (s2.entry i).dies).foldl (fun s d => (s.dieReset d).zeroDie d) s2
    let s4 := (maskBits 16 (s3.entry i).hbms).foldl (fun s k => s.zeroStack k) s3
    let s5 := (s4.partQueues i).foldl (fun s q => s.queueRestart q) s4
    let s6 := s5.setLdgPart i { seq := (s5.ldgPart i).seq, openAt := (s5.ldgPart i).openAt, prev := (s5.ldgPart i).prev,
                                count := (s5.ldgPart i).count, total := (s5.ldgPart i).total }
    match p.endFrom with
    | some d => s6.mgmt 0x48 d [p.job] 0
    | none => s6

def regCkpt (i : Nat) : Reg := ⟨.ldgCkpt, i, 0, 0⟩

/-- A checkpoint step is answered. -/
def State.ckptAns (s : State) (i : Nat) (ok : Bool) (bytes : Nat) : State :=
  let p := s.ldgPart i
  let s1 := s.setLdgPart i { p with ckptFrom := none }
  match p.ckptFrom with
  | some d => s1.mgmt 0x4A d [p.job, p.step, b2n ok, bytes] 0
  | none => s1

def State.raiseOn (s : State) (i n : Nat) : State := (maskBits 8 (s.entry i).dies).foldl (fun s d => s.raise d n) s

/-- Has a partition quiesced for a checkpoint: fetched work, transaction tags and tokens are done? -/
def State.ckptQuiet (s : State) (i : Nat) : Bool :=
  (s.partQueues i).all (fun q => (s.queue q).flight.all (fun d => d.isDone)) &&
    s.trl.tags.all (fun e => match e.2 with
      | some t => (match t.req with
        | .xfer q _ _ => s.queueOwner q != some i
        | .core k _ _ => s.dieOwner (k / 64) != some i)
      | none => true) &&
    (maskBits 8 (s.entry i).dies).all (fun d => (s.tdie d).ents == [])

/-- Copy `n` bytes of a sparse memory into another. -/
def Mem.copyInto (src : Mem) (a n : Nat) (dst : Mem) (b : Nat) : Mem :=
  (src.filter (fun c => decide (a ≤ c.1) && decide (c.1 < a + n))).foldl (fun m c => Mem.write m (b + (c.1 - a)) c.2) (Mem.zero dst b n)

/-- May a master make an access over a whole range? One line of each access-table window decides; a bad line fails a read. -/
def State.rangeFail (s : State) (m : Nat) (k : Acc) (a n : Nat) : Option AccFail :=
  let w := 0x1000000
  let hit := (upFrom (a / w) ((a + n - 1) / w + 1 - a / w)).findSome? (fun x =>
    let l := max a (x * w) / 64 * 64
    if !s.lineExists m l then some (.absent l)
    else match targetOf l with
      | none => some (.absent l)
      | some (t, o) => if s.permits m k t o then none else some (.denied l))
  match hit with
  | some f => some f
  | none =>
    if k ≠ .rd then none
    else ((s.err.bad.map (fun e => e.2)).flatten.find? (fun l => decide (a ≤ l) && decide (l < a + n))).map .bad

/-- Where SNAP copies to: a port's host memory, or device memory. -/
def State.snapRange (s : State) (m : Nat) (loc port dst a n : Nat) : Bool × State :=
  match s.rangeFail m .rd a n with
  | some f => (false, s.failed m a f)
  | none =>
    if loc = 0 then
      let s1 := s.snoop none (uniHost port dst) n
      (true, { s1 with host := Mem.copyInto s1.mem a n s1.host (port * 2 ^ 64 + dst) }.traffic m .read 0 a n)
    else match s.rangeFail m .wr dst n with
      | some f => (false, s.failed m dst f)
      | none =>
        let s1 := s.snoop none dst n
        (true, (({ s1 with mem := Mem.copyInto s1.mem a n s1.mem dst }.clearBad dst n).traffic m .read 0 a n).memPort m .write 0 dst n)

def State.snapList (m loc port dst : Nat) : List (Nat × Nat) → Nat → State → Option Nat × State
  | [], done, s => (some done, s)
  | (a, n) :: l, done, s =>
    match s.snapRange m loc port (dst + done) a n with
    | (false, s1) => (none, s1)
    | (true, s1) => State.snapList m loc port dst l (done + n) s1

/-- SNAP (R419 step 3): the bytes copied, none on failure. -/
def State.snap (s : State) (i : Nat) : Option Nat × State :=
  let r := regCkpt i
  let port := s.rf r 2 2
  let m := fnMaster port 0
  let n := s.rf r 9 3
  match (if n = 0 then (some [], s) else s.devRead m (s.rf r 51 12 * 4096) (16 * n)) with
  | (none, s1) => (none, s1)
  | (some bs, s1) =>
    let ents := (chunksOf 16 n bs).map (fun b => (leNat (b.take 8), leNat (b.drop 8)))
    let ok := ents.all (fun e => e.1 % 65536 == 0 && e.2 % 65536 == 0 && decide (e.1 + e.2 ≤ hbmTop) && (e.2 == 0 ||
      (upFrom (e.1 / 0x1000000000) ((e.1 + e.2 - 1) / 0x1000000000 + 1 - e.1 / 0x1000000000)).all (fun k => s1.stackOwner k == some i)))
    let all := (maskBits 8 (s1.entry i).dies).map (fun d => (nearOf d, nearSize)) ++ ents.filter (fun e => e.2 != 0)
    let total := (all.map (fun e => e.2)).foldl (· + ·) 0
    if !ok ∨ s1.rf ⟨.ldgCkptLen, i, 0, 0⟩ 55 16 * 65536 < total then (none, s1)
    else State.snapList m (s.rf r 1 1) port (s.rf ⟨.ldgCkptDst, i, 0, 0⟩ 55 16 * 65536) all 0 s1

/-- Does SNAP wait for a stack that is HOT (09 R256): one of the partition's, or its destination's? -/
def State.snapHot (s : State) (i : Nat) : Bool :=
  let r := regCkpt i
  let dst := s.rf ⟨.ldgCkptDst, i, 0, 0⟩ 55 16 * 65536
  s.hotAt (s.rf r 51 12 * 4096) || (maskBits 16 (s.entry i).hbms).any (fun k => (s.stack k).st == .hot) || (s.rf r 1 1 == 1 && s.hotAt dst)

/-- CKPT_STEP at a plot (R419); QUIESCE answers once its conditions hold, and SNAP to host memory waits for Bus Master Enable (R326). -/
def State.ckptPlot (s : State) (dev job step : Nat) : State × Bool :=
  match (List.range 8).find? (fun i => (s.ldgPart i).job == job && ((s.ldgPart i).st == .running || (s.ldgPart i).st == .ckpt)) with
  | none => (s.mgmt 0x4A dev [job, step, 0, 0] 0, true)
  | some i =>
    let p := s.ldgPart i
    let s1 := s.setLdgPart i { p with step := step, ckptFrom := some dev }
    if step = 1 then
      if p.st = .ckpt then (s, false)
      else ((s1.setLdgPart i { s1.ldgPart i with st := .ckpt, prepared := false }).raiseOn i 260, false)
    else if step = 2 then
      let s2 := s1.setLdgPart i { s1.ldgPart i with held := true }
      if s2.ckptQuiet i then (s2.ckptAns i true 0, true) else (s2, false)
    else if step = 3 ∧ ((s.rf (regCkpt i) 1 1 = 0 ∧ !(s.fn (s.rf (regCkpt i) 2 2) 0).bme) ∨ s.snapHot i) then (s, false)
    else if step = 3 then
      match s1.snap i with
      | (some n, s2) => (s2.ckptAns i true n, true)
      | (none, s2) => (s2.ckptAns i false 0, true)
    else
      let s2 := s1.setLdgPart i { s1.ldgPart i with held := false, st := .running, prepared := false }
      let s3 := (s2.rput (regCkpt i) 0 0 0).raiseOn i 260
      ((s3.ckptAns i true 0).setLdgPart i { (s3.ckptAns i true 0).ldgPart i with step := 0 }, true)

/-- READY is written during PREPARE; PREPARE or QUIESCE runs out of time. -/
def State.ckptReady (s : State) (i : Nat) : State :=
  let p := s.ldgPart i
  let s1 := s.rput (regCkpt i) 0 0 1
  if p.st = .ckpt ∧ p.step = 1 ∧ !p.prepared then
    (s1.setLdgPart i { p with prepared := true }).ckptAns i true 0
  else s1
def State.ckptWaitOver (s : State) (i : Nat) : State :=
  let p := s.ldgPart i
  if p.st = .ckpt ∧ p.step = 1 ∧ !p.prepared then s.ckptAns i false 0 else s
def State.ckptQuiesceOver (s : State) (i : Nat) : State :=
  let p := s.ldgPart i
  if p.st = .ckpt ∧ p.step = 2 ∧ p.ckptFrom.isSome then s.ckptAns i false 0 else s

/-! ### Admission on the lodge side (R408) -/

/-- A job descriptor (R407). -/
structure JobDesc where
  tenant : Nat
  dies : Nat
  gang : Nat
  floor : Nat
  any : Bool
  action : Bool
  box : BoxN
  budgets : List Nat
  deriving DecidableEq, Repr

def QDesc.job (d : QDesc) : JobDesc :=
  { tenant := d.f 4 31 0, dies := d.f 5 3 0, gang := d.f 5 5 4, floor := d.f 5 15 8, any := d.f 5 16 16 == 1, action := d.f 5 17 17 == 1,
    box := [(d.f 6 5 0, d.f 7 6 0), (d.f 6 13 8, d.f 7 14 8), (d.f 6 21 16, d.f 7 22 16)],
    budgets := [natBits d.raw (32 * 8 + 63) (32 * 8), natBits d.raw (32 * 10 + 63) (32 * 10), natBits d.raw (32 * 12 + 63) (32 * 12)] }
def QDesc.jobBad (d : QDesc) : Bool :=
  let j := d.job
  !([1, 2, 4, 8].contains j.dies) || decide (j.dies < 2 ^ j.gang) || j.tenant == 0 || j.box.any (fun b => b.2 == 0 || decide (64 < b.2))
    || d.f 5 7 6 != 0 || d.f 5 31 18 != 0 || d.f 6 7 6 != 0 || d.f 6 15 14 != 0 || d.f 6 31 22 != 0 || d.f 7 7 7 != 0 || d.f 7 15 15 != 0
    || d.f 7 31 23 != 0 || !d.zeroFrom 14 || (j.any && j.box.any (fun b => b.1 != 0))

/-- The partition of a plot a job would take. -/
def partFor (m : Member) (j : JobDesc) : Option Nat :=
  (m.parts.zipIdx.find? (fun p => p.1.free && p.1.running && (maskBits 8 p.1.dies).length == j.dies && p.1.gang == j.gang)).map (fun p => p.2)

/-- The plots of a box and the partition on each, or the reason of the first that fails. -/
def State.plotsOf (s : State) (j : JobDesc) : List Nat → Except Nat (List (Nat × Nat))
  | [] => .ok []
  | d :: ds =>
    match s.memb d with
    | none => .error 3
    | some m =>
      if m.st ≠ .healthy then .error 3
      else if m.max < j.floor ∨ j.floor < m.floor then .error 5
      else match partFor m j with
        | none => .error 4
        | some i => match s.plotsOf j ds with
          | .ok l => .ok ((d, i) :: l)
          | .error e => .error e

def JobDesc.at (j : JobDesc) (dev : Nat) : BoxN := j.box.zipIdx.map (fun b => (devCoord dev b.2, b.1.2))

/-- Level 1: the plots of the job's box. -/
def State.choosePlots (s : State) (j : JobDesc) : Except Nat (List (Nat × Nat)) :=
  if j.any then
    match (s.boxDevs s.ldgBox).findSome? (fun d =>
      if !s.boxIn (j.at d) s.ldgBox then none
      else match s.plotsOf j (s.boxDevs (j.at d)) with | .ok l => some l | .error _ => none) with
    | some l => .ok l
    | none => .error 4
  else if !s.boxIn j.box s.ldgBox then .error 2
  else s.plotsOf j (s.boxDevs j.box)

/-- Level 2 and 3: the children whose boxes together are the job's box. -/
def State.childrenOf (s : State) (b : BoxN) : Option (List Nat) :=
  let l := s.ldg.members.filter (fun m => m.st == .healthy && s.boxIn (Config.childBox m.dev) b)
  let size : BoxN → Nat := fun b => b.foldl (fun a x => a * x.2) 1
  if s.boxIn b s.ldgBox ∧ (l.map (fun m => size (Config.childBox m.dev))).foldl (· + ·) 0 = size b then some (l.map (fun m => m.dev)) else none
def State.chooseChildren (s : State) (j : JobDesc) : Except Nat (List (Nat × Nat)) :=
  let go := fun (b : BoxN) => (s.childrenOf b).map (fun l => l.map (fun d => (d, 0)))
  if j.any then
    match (s.boxDevs s.ldgBox).findSome? (fun d => go (j.at d)) with
    | some l => .ok l
    | none => .error 2
  else match go j.box with
    | some l => .ok l
    | none => .error 2

/-- A budget's share (R408). -/
def budgetShare (b n : Nat) : Nat := ceilDiv b n

/-- The plots or children of a job, or the reason that ends its admission. -/
def State.chooseJob (s : State) (j : JobDesc) : Except Nat (List (Nat × Nat)) :=
  if s.lodgeLevel = 1 then s.choosePlots j else s.chooseChildren j
/-- What an ADMIT to a child Lodge carries beside: the sub-descriptor's dies, gang and part of the box (R408). -/
def State.subArgs (s : State) (j : JobDesc) (dev : Nat) : List Nat :=
  if s.lodgeLevel = 1 then [] else [j.dies, j.gang] ++ (Config.childBox dev).flatMap (fun b => [b.1, b.2])

/-- Start the admission of a job under a number. -/
def State.admitStart (s : State) (j : JobDesc) (id : Nat) (q : Option (Nat × Nat)) (parent : Option Nat) : State :=
  let fail := fun (s : State) (r : Nat) => s.jobAnswer { id := id, plots := [], phase := .admitting, q := q, parent := parent } 0x46 false 0x80 r 0
  match s.chooseJob j with
  | .error r => fail s r
  | .ok plots =>
    let n := plots.length
    let job : Job := { id := id, plots := plots, phase := .admitting, q := q, parent := parent, floor := j.floor, action := j.action }
    let s1 := { s with ldg := { s.ldg with jobs := s.ldg.jobs ++ [job] } }
    plots.foldl (fun s p =>
      let s := s.updMemb p.1 (fun m => if s.lodgeLevel = 1 then
        { m with parts := m.parts.zipIdx.map (fun x => if x.2 = p.2 then { x.1 with free := false, job := id } else x.1) } else m)
      s.mgmt 0x45 p.1 ([id, j.tenant, p.2, j.floor, b2n j.action] ++ j.budgets.map (fun b => budgetShare b n) ++ s.subArgs j p.1) 0) s1

/-- JOB_SUBMIT (R406, R408): one admission at a time. Reserved bits set in the job descriptor answer RANGE, as R408's first check says,
where R13 and R407 read MALFORMED (DESIGN CHOICE, log entry 112). -/
def State.jobSubmit (s : State) (q : Nat) : State :=
  if s.ldg.jobs.any (fun j => j.phase == .admitting) then s
  else match s.startOp q tyService 0x40 with
    | none => s
    | some d =>
      if !s.isLodge then s.descDone q d.ix 0x81 0 0
      else if d.jobBad then s.descDone q d.ix 0x80 1 0
      else
        let id := s.device * 2 ^ 46 + s.ldg.jobCount % 2 ^ 46
        let n := match s.chooseJob d.job with | .ok _ => s.ldg.jobCount + 1 | .error _ => s.ldg.jobCount
        ({ s with ldg := { s.ldg with jobCount := n } }.descRun q d.ix).admitStart d.job id (some (q, d.ix)) none

/-- An ADMIT to a child Lodge: its part of the job. It waits, unanswered, while the Lodge admits another job (R408). -/
def State.admitChild (s : State) (dev job tenant floor : Nat) (action : Bool) (budgets : List Nat) (x : SubJob) : State × Bool :=
  if !s.isLodge then (s.mgmt 0x46 dev [job, 0, 7] 0, true)
  else if s.ldg.jobs.any (fun j => j.phase == .admitting) then (s, false)
  else (s.admitStart { tenant := tenant, dies := x.dies.val, gang := x.gang.val, floor := floor, any := false, action := action,
                       box := boxNat x.box, budgets := budgets } job none (some dev), true)

/-- ADMIT_ACK (R408). -/
def State.admitAck (s : State) (dev job : Nat) (ok : Bool) (reason : Nat) : State :=
  let s := (s.settleMsg dev 0x46 (fun m => m.args.head? == some job)).2
  match s.job job with
  | none => if ok ∧ s.isMemb dev then s.mgmt 0x47 dev [job] 0 else s
  | some j =>
    match j.phase with
    | .admitting =>
      if !ok then (if s.lodgeLevel = 1 then s.admitFail j 7 0 else s.admitFail j 6 reason)
      else
        let j1 := { j with acked := if j.acked.contains dev then j.acked else dev :: j.acked }
        if j1.plots.all (fun p => j1.acked.contains p.1) then
          (s.setJob { j1 with phase := .running, acked := [], q := none }).jobAnswer j1 0x46 true 0 0 job
        else s.setJob j1
    | .ending =>
      if ok ∧ !(j.plots.any (fun p => p.1 == dev)) then (s.setJob { j with plots := (dev, 0) :: j.plots }).mgmt 0x47 dev [job] 0 else s
    | _ => s

/-- A job this Lodge knows: admitted here, or reported by JOIN (R404, R411). -/
def State.knownJob (s : State) (id : Nat) : Option Job :=
  match s.job id with
  | some j => some j
  | none =>
    let plots := (s.ldg.members.map (fun m => (m.parts.zipIdx.filter (fun p => p.1.job == id && id != 0)).map (fun p => (m.dev, p.2)))).flatten
    if plots = [] then none else some { id := id, plots := plots, phase := .running }

/-- Take a job into the list if JOIN alone reported it. -/
def State.adopt (s : State) (j : Job) : State :=
  if (s.job j.id).isSome then s.setJob j else { s with ldg := { s.ldg with jobs := s.ldg.jobs ++ [j] } }

/-- JOB_END (R411). -/
def State.jobEnd (s : State) (q : Nat) : State :=
  match s.startOp q tyService 0x41 with
  | none => s
  | some d =>
    if !s.isLodge then s.descDone q d.ix 0x81 0 0
    else if !d.zeroFrom 6 then s.descDone q d.ix 1 0 0
    else match s.knownJob (natBits d.raw (32 * 4 + 63) (32 * 4)) with
      | none => s.descDone q d.ix 0x83 0 0
      | some j =>
        match j.phase with
        | .running => let j1 := { j with q := some (q, d.ix) }; ((s.adopt j1).descRun q d.ix).endJob j1
        | .ending => if j.q.isSome then s else (s.setJob { j with q := some (q, d.ix) }).descRun q d.ix
        | .ckpt _ => s.endFor j
        | .admitting => s

/-- JOB_CHECKPOINT (R406, R419). -/
def State.jobCkpt (s : State) (q : Nat) : State :=
  match s.startOp q tyService 0x42 with
  | none => s
  | some d =>
    if !s.isLodge then s.descDone q d.ix 0x81 0 0
    else if !d.zeroFrom 7 ∨ d.f 6 31 0 = 0 then s.descDone q d.ix 1 0 0
    else match s.knownJob (natBits d.raw (32 * 4 + 63) (32 * 4)) with
      | none => s.descDone q d.ix 0x83 0 0
      | some j => if j.phase ≠ .running then s else
        let j1 := { j with q := some (q, d.ix), fail := 0, bytes := 0 }
        ((s.adopt j1).descRun q d.ix).ckptSend j1 1

/-- CKPT_ACK (R419). -/
def State.ckptAck (s : State) (dev job step : Nat) (ok : Bool) (bytes : Nat) : State :=
  let s := (s.settleMsg dev 0x4A (fun m => m.args.head? == some job)).2
  match s.job job with
  | none => s
  | some j =>
    if j.phase ≠ .ckpt step ∨ j.acked.contains dev then s
    else (s.setJob { j with acked := dev :: j.acked, bytes := j.bytes + bytes, fail := if !ok ∧ j.fail = 0 then step else j.fail }).ckptCheck job

/-- END_ACK (R411). -/
def State.endAck (s : State) (dev job : Nat) : State :=
  let s := (s.settleMsg dev 0x48 (fun m => m.args.head? == some job)).2
  match s.job job with
  | none => s
  | some j => if j.phase ≠ .ending then s else ((s.setJob { j with acked := dev :: j.acked }).endCheck job).leaveCheck

/-- END received (R402, R411): at a Lodge from its parent or from a plot, at a plot from its Lodge. -/
def State.endMsg (s : State) (dev job : Nat) : State × Bool :=
  match s.job job with
  | some j =>
    if j.parent = some dev then
      (match j.phase with
       | .ending => (s, false)
       | _ => (s.endFor j, false))
    else (s.endFor j |>.mgmt 0x48 dev [job] 0, true)
  | none => s.endPlot dev job

/-- CKPT_STEP received: at a child Lodge, for its own plots; at a plot. -/
def State.ckptMsg (s : State) (dev job step : Nat) : State × Bool :=
  match s.job job with
  | some j => if j.parent = some dev ∧ j.phase ≠ .ckpt step then (s.ckptSend j step, true) else (s, false)
  | none => s.ckptPlot dev job step

/-! ### Detours -/

/-- DETOUR_WRITE (R420): a member's inactive bank; or entries of a child Lodge, or of the parent of this one. -/
def State.detourWrite (s : State) (dev : Nat) (ents : List Nat) : State :=
  let ans := fun (s : State) => s.mgmt 0x4D dev [] 0
  if s.isLodge ∧ 2 ≤ s.lodgeLevel ∧ s.isMemb dev then
    let s1 := { s with ldg := { s.ldg with childEnts := SMap.set [] s.ldg.childEnts dev ents } }
    ans ((s1.recompute).mgmt 0x4B dev s1.unionEnts 0)
  else if s.isLodge ∧ s.ldg.lparent = some dev then
    let s1 := { s with ldg := { s.ldg with upEnts := ents } }
    if s1.lodgeLevel = 1 then ans s1.sendBanks else ans (s1.ldg.members.foldl (fun s m => s.mgmt 0x4B m.dev ents 0) s1)
  else
    let b := 1 - s.activeBank
    ans (ents.take 64 |>.zipIdx.foldl (fun s e => s.rset ⟨.trlDetour, b, e.2, 0⟩ (e.1 % 2 ^ 64)) s)

/-- DETOUR_ACK: banks are switched once every member has acknowledged. -/
def State.detourAck (s : State) (dev : Nat) : State :=
  let (m, s1) := s.settleMsg dev 0x4D (fun _ => true)
  match m with
  | some m =>
    if m.opc ≠ 0x4B ∨ !s1.ldg.detourWait.contains dev then s1
    else
      let w := s1.ldg.detourWait.filter (· != dev)
      let s2 := { s1 with ldg := { s1.ldg with detourWait := w } }
      if w = [] then s2.switchBanks else s2
  | none => s1

/-! ### Meter records of children (R418) -/

/-- Send a sealed record as five METER packets. -/
def State.sendRecord (s : State) (dev : Nat) (bs : List Byte) : State :=
  (chunksOf 4096 5 bs).foldl (fun s c => s.mgmt 0x4E dev [leNat c] 0) s

/-- METER at a Lodge: a whole record goes to its ring unchanged, and up with FWD_UP. -/
def State.meterMsg (s : State) (dev chunk : Nat) (data : List Byte) : State :=
  if !s.isLodge then s
  else
    let got := (SMap.get [] s.ldg.rxMeter dev).filter (fun x => x.1 != chunk) ++ [(chunk, data)]
    let s1 := { s with ldg := { s.ldg with rxMeter := SMap.set [] s.ldg.rxMeter dev got } }
    if !((List.range 5).all (fun c => got.any (fun x => x.1 == c))) then s1
    else
      let bs := (List.range 5).flatMap (fun c => match got.find? (fun x => x.1 == c) with | some x => x.2 | none => [])
      let s2 := { s1 with ldg := { s1.ldg with rxMeter := SMap.set [] s1.ldg.rxMeter dev [], rxRecords := s1.ldg.rxRecords ++ [bs] } }
      match s2.ldg.lparent with
      | some d => if s2.rf ⟨.ldgMeterCtl, 0, 0, 0⟩ 8 8 = 1 then s2.sendRecord d bs else s2
      | none => s2

/-- A sealed record whose deliveries are done leaves the store. -/
def Sealed.isOver (r : Sealed) : Bool := !r.toRing && r.sent
def regMring : Reg := ⟨.ldgMring, 0, 0, 0⟩
def State.mringEn (s : State) : Bool := s.rf regMring 63 63 == 1
def State.mringSize (s : State) : Nat := 2 ^ s.rf regMring 5 2

/-- RECORD_SEAL (R416-R418): the oldest closed record is signed into the store and sent to the parent. -/
def State.recordSeal (s : State) : State :=
  match s.ldg.closed with
  | [] => s
  | r :: rest =>
    if 16 ≤ s.ldg.store.length ∨ s.org.level = 3 then s
    else
      let body := leBytes 512 r.raw
      let bs := body ++ leBytes 4 3 ++ leBytes 4 17088 ++ leBytes 17088 (Config.slhSign s.org.fuses.idSeed body)
      let s1 := { s with ldg := { s.ldg with closed := rest } }
      let (sent, s2) := match s1.ldg.pparent with
        | some d => if d = s1.device then (false, s1) else (true, s1.sendRecord d bs)
        | none => (false, s1)
      let x : Sealed := { bytes := bs, toRing := s2.mringEn || !sent, sent := sent }
      { s2 with ldg := { s2.ldg with store := if x.isOver then s2.ldg.store else s2.ldg.store ++ [x] } }

/-- METER_RING_WRITE (R418): the oldest record still due is written to entry TAIL. -/
def State.meterRing (s : State) : State :=
  let size := s.mringSize
  let head := s.rf ⟨.ldgMringPtr, 0, 0, 0⟩ 28 16
  let waits := if s.rf regMring 0 0 = 0 then !(s.fn (s.rf regMring 1 1) 0).bme else s.hotAt (s.rf regMring 55 15 * 32768)
  if !s.mringEn ∨ (s.ldg.ringTail + 1) % size = head ∨ waits then s
  else
    let put := fun (s : State) (bs : List Byte) =>
      let a := s.rf regMring 55 15 * 32768 + 32768 * (s.ldg.ringTail % size)
      let (ok, s1) := s.writeRaw 0x501 (s.rf regMring 0 0) (s.rf regMring 1 1) a bs
      (ok, if ok then { s1 with ldg := { s1.ldg with ringTail := (s1.ldg.ringTail + 1) % size } } else s1)
    match s.ldg.store.find? (fun r => r.toRing) with
    | some r =>
      (match put s r.bytes with
       | (true, s1) => { s1 with ldg := { s1.ldg with store := dropFirst (fun x => x == r) s1.ldg.store } }
       | (false, s1) => s1)
    | none =>
      match s.ldg.rxRecords with
      | [] => s
      | bs :: rest => (match put s bs with
        | (true, s1) => { s1 with ldg := { s1.ldg with rxRecords := rest } }
        | (false, s1) => s1)

end Sys2Proof.Machine
end

