-- ==== Sys2Proof/Machine/LodgeRows.lean ====
section
/-! DEFINITION. The commands of the Lodge services (spec/15_lodge_services R400-R424). A message arrives with its source and
its sequence number, and a repeated one is answered again (R402). -/

namespace Sys2Proof.Machine

/-- A peer that no longer answers counts as failed (R402, R405): a member fails, a parent is dropped. -/
def State.peerFail (s : State) (dev : Nat) : State :=
  let s1 := if s.isLodge then s.memberFail dev else s
  let s2 := if s1.ldg.pparent = some dev ∧ dev ≠ s1.device then { s1 with ldg := { s1.ldg with pparent := none } } else s1
  if s2.ldg.lparent = some dev then { s2 with ldg := { s2.ldg with lparent := none } } else s2

/-- A message unanswered for RESEND is sent again; after 8 sends its peer has failed. -/
def State.resend (s : State) (seq : Nat) : State :=
  match s.ldg.await.find? (fun m => m.seq == seq) with
  | none => s
  | some m =>
    let rest := s.ldg.await.filter (fun x => x.seq != seq)
    if 8 ≤ m.sends then { s with ldg := { s.ldg with await := rest } }.peerFail m.dst
    else
      let m1 := { m with sends := m.sends + 1 }
      { s with ldg := { s.ldg with await := s.ldg.await.map (fun x => if x.seq = seq then m1 else x), out := s.ldg.out ++ [m1] } }

def State.hbMiss (s : State) : Nat := s.rf ⟨.ldgTimers, 0, 0, 0⟩ 19 16

/-- A heartbeat period ends (R405): HEARTBEAT to each parent, and the Lodge counts the period for its members. -/
def State.hbPeriod (s : State) : State :=
  let up := fun (s : State) (p : Option Nat) => match p with
    | some d => if d = s.device then s else s.mgmt 0x43 d ([0, s.freeMask] ++ (List.range 6).map (fun n => (s.tport n).st.code)) 0
    | none => s
  let s1 := up (up s s.ldg.pparent) s.ldg.lparent
  let l := s1.ldg
  { s1 with ldg := { l with pmiss := l.pmiss + 1, lmiss := l.lmiss + 1, annPeriods := l.annPeriods + 1,
                            members := l.members.map (fun m => { m with missed := m.missed + 1 }) } }

/-- HB_MISS periods without a heartbeat, or an answer (R405). -/
def State.hbOver (s : State) (dev : Nat) : State :=
  let n := s.hbMiss
  let s1 := match s.memb dev with
    | some m => if s.isLodge ∧ n ≤ m.missed ∧ dev ≠ s.device ∧ m.st ≠ .leaving then s.memberFail dev else s
    | none => s
  let s2 := if s1.ldg.pparent = some dev ∧ dev ≠ s1.device ∧ n ≤ s1.ldg.pmiss then { s1 with ldg := { s1.ldg with pparent := none } } else s1
  if s2.ldg.lparent = some dev ∧ n ≤ s2.ldg.lmiss then { s2 with ldg := { s2.ldg with lparent := none } } else s2

/-- A level-1 Lodge joins its own plot side without messages (R403). -/
def State.joinSelf (s : State) : State :=
  let d := s.device
  if !s.isLodge ∨ s.lodgeLevel ≠ 1 ∨ s.isMemb d ∨ s.ldg.pparent.isSome ∨ !s.boxHas s.ldgBox d ∨ 64 ≤ s.ldg.members.length then s
  else
    let m : Member := { dev := d, st := .healthy, max := s.trl.max, floor := s.ptr.image.floor, parts := s.plotParts }
    { s with ldg := { s.ldg with pparent := some d, members := s.ldg.members ++ [m] } }

/-- Every 16 heartbeat periods a Lodge announces itself to the devices of its box that are no members (R403). -/
def State.announceAll (s : State) : State :=
  if !s.isLodge ∨ s.ldg.annPeriods < 16 then s
  else
    let s1 := { s with ldg := { s.ldg with annPeriods := 0 } }.joinSelf
    let b := s1.rget ⟨.ldgBox, 0, 0, 0⟩
    ((s1.boxDevs s1.ldgBox).filter (fun d => d != s1.device && !s1.isMemb d)).foldl (fun s d => s.mgmt 0x40 d [s.lodgeLevel, b] 0) s1

/-- A LEAVING member with no JOIN for 16 periods is removed (R404). -/
def State.memberGone (s : State) (dev : Nat) : State :=
  match s.memb dev with
  | some m =>
    if m.st = .leaving ∧ 16 ≤ m.missed then { s with ldg := { s.ldg with members := s.ldg.members.filter (fun m => m.dev != dev) } } else s
  | none => s

/-- MEMBERS (R406): the 64 entries of 16 bytes. -/
def Member.raw (m : Member) : Nat :=
  let free := (m.parts.zipIdx.filter (fun p => p.1.free)).foldl (fun a p => a + 2 ^ p.2) 0
  m.dev % 2 ^ 18 + m.st.code * 2 ^ 20 + m.level % 4 * 2 ^ 23 + (m.max % 2 ^ 8 + m.floor % 2 ^ 8 * 2 ^ 8 + free % 2 ^ 8 * 2 ^ 16) * 2 ^ 32
    + m.stamp % 2 ^ 64 * 2 ^ 64
def State.membersBytes (s : State) : List Byte :=
  (List.range 64).flatMap (fun i => match s.ldg.members[i]? with | some m => leBytes 16 m.raw | none => List.replicate 16 0)
def State.doMembers (s : State) (q : Nat) (hostErr : Nat) : State :=
  match s.opDesc q tyService 0x43 with
  | none => s
  | some d =>
    let dest := d.addr 8
    if !s.isLodge then s.descDone q d.ix 0x81 0 0
    else if natBits d.raw 255 128 ≠ 0 ∨ d.f 9 31 24 ≠ 0 ∨ !d.zeroFrom 10 ∨ 2 ^ 56 < dest + 1024 then s.descDone q d.ix 1 0 0
    else
      let p := s.homeDie q
      match State.descPages q d.ix p .wr hostErr (pagesOf dest 1024) s with
      | (none, s1) => s1.descRun q d.ix
      | (some ls, s1) =>
        let (ok, s2) := s1.descWrite q d.ix (dmaMaster p q d.ix) 0 ls s1.membersBytes
        s2.descDone q d.ix (if ok then 0 else 2) 0 0

/-- RELINQUISH (R422). -/
def State.doRelinquish (s : State) (q : Nat) : State :=
  match s.startOp q tyAdmin 0x40 with
  | none => s
  | some d =>
    if !d.zeroFrom 4 then s.descDone q d.ix 1 0 0
    else if s.isLodge ∧ s.ldg.jobs ≠ [] then s.descDone q d.ix 0x82 0 0
    else
      let l := s.ldg
      { s with ldg := { l with held := false, members := [], lparent := none, await := [], detourWait := [], links := [], away := [],
                               childEnts := [], upEnts := [], sleepers := [], rxMeter := [],
                               pparent := if l.pparent = some s.device then none else l.pparent } }.descDone q d.ix 0 0 0

/-- METER_CLOSE (R422). -/
def State.doMeterClose (s : State) (q : Nat) : State :=
  match s.startOp q tyAdmin 0x41 with
  | none => s
  | some d => if !d.zeroFrom 4 then s.descDone q d.ix 1 0 0 else (s.closeAll 3).descDone q d.ix 0 0 0

/-- A Lodge sets a HEALTHY member DRAINING (R404). -/
def State.drainMemb (s : State) (dev : Nat) : State :=
  match s.memb dev with
  | some m =>
    if s.isLodge ∧ m.st = .healthy then ((s.updMemb dev (fun m => { m with st := .draining })).mgmt 0x4F dev [] 0).leaveCheck else s
  | none => s
/-- A DRAINING member returns to HEALTHY. -/
def State.undrainMemb (s : State) (dev : Nat) : State :=
  match s.memb dev with
  | some m => if s.isLodge ∧ m.st = .draining then (s.updMemb dev (fun m => { m with st := .healthy })).mgmt 0x50 dev [] 0 else s
  | none => s

/-! ### The commands -/

/-- ANNOUNCE (R403). -/
def execAnnounce (dev : DevIx) (tag : MsgTag) (level : Fin 4) (box : Box) (s : State) : Host.Outcome State Fault Refusal :=
  .next (s.onMsg dev.val tag.seq.toNat tag.stamp.toNat (fun s => s.announced dev.val level.val (boxNat box)))
/-- JOIN (R404, R423). -/
def execJoin (dev : DevIx) (seq : BitVec 32) (level : Fin 3) (max floor : Fin 256) (parts : List PlotPart) (stamp : BitVec 64)
    (s : State) : Host.Outcome State Fault Refusal :=
  .next (s.onMsg dev.val seq.toNat stamp.toNat (fun s => s.joined dev.val level.val max.val floor.val parts stamp.toNat))
/-- WELCOME (R404). -/
def execWelcome (dev : DevIx) (tag : MsgTag) (lodgeSide accept : Bool) (s : State) : Host.Outcome State Fault Refusal :=
  .next (s.onMsg dev.val tag.seq.toNat tag.stamp.toNat (fun s => s.welcomed dev.val lodgeSide accept))
/-- HEARTBEAT (R405). -/
def execHeartbeat (dev : DevIx) (seq : BitVec 32) (answer : Bool) (free : BitVec 8) (stamp : BitVec 64) (s : State) :
    Host.Outcome State Fault Refusal :=
  .next (s.onMsg dev.val seq.toNat stamp.toNat (fun s => s.heartbeat dev.val answer free.toNat stamp.toNat))
/-- NOTICE (R402, R405, R410, R411, R420). -/
def execNotice (dev : DevIx) (seq : BitVec 32) (ev : Event) (stamp : BitVec 64) (s : State) : Host.Outcome State Fault Refusal :=
  .next (s.onMsg dev.val seq.toNat stamp.toNat (fun s => (s.stamp 8 stamp.toNat).2.noticed dev.val ev))
/-- ADMIT (R408, R409): a plot's, or, with a sub-descriptor, a child Lodge's. -/
def execAdmitJob (dev : DevIx) (tag : MsgTag) (job : BitVec 64) (tenant : BitVec 32) (part : PartIx) (floor : Fin 256) (action : Bool)
    (array hbm energy : BitVec 64) (sub : Option SubJob) (s : State) : Host.Outcome State Fault Refusal :=
  let l := [array.toNat, hbm.toNat, energy.toNat]
  .next (s.once dev.val tag.seq.toNat tag.stamp.toNat (fun s => match sub with
    | none => (s.admitPlot dev.val job.toNat tenant.toNat part.val floor.val action l, true)
    | some x => s.admitChild dev.val job.toNat tenant.toNat floor.val action l x))
/-- ADMIT_ACK (R408). -/
def execAdmitAck (dev : DevIx) (tag : MsgTag) (job : BitVec 64) (ok : Bool) (reason : BitVec 8) (s : State) :
    Host.Outcome State Fault Refusal :=
  .next (s.onMsg dev.val tag.seq.toNat tag.stamp.toNat (fun s => s.admitAck dev.val job.toNat ok reason.toNat))
/-- END (R411). -/
def execEndJob (dev : DevIx) (tag : MsgTag) (job : BitVec 64) (s : State) : Host.Outcome State Fault Refusal :=
  .next (s.once dev.val tag.seq.toNat tag.stamp.toNat (fun s => s.endMsg dev.val job.toNat))
/-- END_DRAINED (R411). -/
def execEndDrained (i : PartIx) (s : State) : Host.Outcome State Fault Refusal := .next (s.endDrained i.val)
/-- END_ACK (R411). -/
def execEndAck (dev : DevIx) (tag : MsgTag) (job : BitVec 64) (s : State) : Host.Outcome State Fault Refusal :=
  .next (s.onMsg dev.val tag.seq.toNat tag.stamp.toNat (fun s => s.endAck dev.val job.toNat))
/-- CKPT_STEP (R419). -/
def execCkptStep (dev : DevIx) (tag : MsgTag) (job : BitVec 64) (step : Fin 5) (s : State) : Host.Outcome State Fault Refusal :=
  .next (s.once dev.val tag.seq.toNat tag.stamp.toNat (fun s => s.ckptMsg dev.val job.toNat step.val))
/-- CKPT_ACK (R419). -/
def execCkptAck (dev : DevIx) (tag : MsgTag) (job : BitVec 64) (step : Fin 5) (ok : Bool) (bytes : BitVec 64) (s : State) :
    Host.Outcome State Fault Refusal :=
  .next (s.onMsg dev.val tag.seq.toNat tag.stamp.toNat (fun s => s.ckptAck dev.val job.toNat step.val ok bytes.toNat))
/-- CKPT_READY (R419). -/
def execCkptReady (i : PartIx) (s : State) : Host.Outcome State Fault Refusal := .next (s.ckptReady i.val)
/-- CKPT_WAIT_EXPIRE (R419). -/
def execCkptWaitExpire (i : PartIx) (s : State) : Host.Outcome State Fault Refusal := .next (s.ckptWaitOver i.val)
/-- CKPT_QUIESCE_TIMEOUT (R419). -/
def execCkptQuiesceTimeout (i : PartIx) (s : State) : Host.Outcome State Fault Refusal := .next (s.ckptQuiesceOver i.val)
/-- DETOUR_WRITE (R420). -/
def execDetourWrite (dev : DevIx) (tag : MsgTag) (entries : List (BitVec 64)) (s : State) : Host.Outcome State Fault Refusal :=
  .next (s.onMsg dev.val tag.seq.toNat tag.stamp.toNat (fun s => s.detourWrite dev.val (entries.map BitVec.toNat)))
/-- DETOUR_SWITCH (R420). -/
def execDetourSwitch (dev : DevIx) (tag : MsgTag) (bank : Bool) (s : State) : Host.Outcome State Fault Refusal :=
  .next (s.onMsg dev.val tag.seq.toNat tag.stamp.toNat (fun s => (s.rput ⟨.trlDetourSel, 0, 0, 0⟩ 0 0 (b2n bank)).mgmt 0x4D dev.val [] 0))
/-- DETOUR_ACK (R420). -/
def execDetourAck (dev : DevIx) (tag : MsgTag) (s : State) : Host.Outcome State Fault Refusal :=
  .next (s.onMsg dev.val tag.seq.toNat tag.stamp.toNat (fun s => s.detourAck dev.val))
/-- METER (R418). -/
def execMeter (dev : DevIx) (tag : MsgTag) (chunk : Fin 5) (data : List Byte) (s : State) : Host.Outcome State Fault Refusal :=
  .next (s.onMsg dev.val tag.seq.toNat tag.stamp.toNat (fun s => s.meterMsg dev.val chunk.val data))
/-- DRAIN (R404): a Lodge drains a member, and tells it; at the member the Lodge keeps the state, and the message is taken. -/
def execDrain (dev : DevIx) (tag : MsgTag) (s : State) : Host.Outcome State Fault Refusal :=
  .next (s.onMsg dev.val tag.seq.toNat tag.stamp.toNat (fun s => s.drainMemb dev.val))
/-- UNDRAIN (R404). -/
def execUndrain (dev : DevIx) (tag : MsgTag) (s : State) : Host.Outcome State Fault Refusal :=
  .next (s.onMsg dev.val tag.seq.toNat tag.stamp.toNat (fun s => s.undrainMemb dev.val))
/-- SLEEP_REQ (R421). -/
def execSleepReq (dev : DevIx) (tag : MsgTag) (s : State) : Host.Outcome State Fault Refusal :=
  .next (s.onMsg dev.val tag.seq.toNat tag.stamp.toNat (fun s => s.sleepAsked dev.val))
/-- MGMT_RESEND (R402). -/
def execMgmtResend (seq : BitVec 32) (s : State) : Host.Outcome State Fault Refusal := .next (s.resend seq.toNat)
/-- HEARTBEAT_PERIOD (R405). -/
def execHeartbeatPeriod (s : State) : Host.Outcome State Fault Refusal := .next s.hbPeriod
/-- HEARTBEAT_MISS (R405). -/
def execHeartbeatMiss (dev : DevIx) (s : State) : Host.Outcome State Fault Refusal := .next (s.hbOver dev.val)
/-- ANNOUNCE_PERIOD (R403). -/
def execAnnouncePeriod (s : State) : Host.Outcome State Fault Refusal := .next s.announceAll
/-- MEMBER_REMOVAL (R404). -/
def execMemberRemoval (dev : DevIx) (s : State) : Host.Outcome State Fault Refusal := .next (s.memberGone dev.val)
/-- JOB_SUBMIT (R406-R408). -/
def execJobSubmit (q : QIx) (s : State) : Host.Outcome State Fault Refusal := .next (s.jobSubmit q.val)
/-- JOB_END (R411). -/
def execJobEnd (q : QIx) (s : State) : Host.Outcome State Fault Refusal := .next (s.jobEnd q.val)
/-- JOB_CHECKPOINT (R419). -/
def execJobCheckpoint (q : QIx) (s : State) : Host.Outcome State Fault Refusal := .next (s.jobCkpt q.val)
/-- MEMBERS (R406). -/
def execMembers (q : QIx) (hostErr : HostErr) (s : State) : Host.Outcome State Fault Refusal := .next (s.doMembers q.val hostErr)
/-- RELINQUISH (R422). -/
def execRelinquish (q : QIx) (s : State) : Host.Outcome State Fault Refusal := .next (s.doRelinquish q.val)
/-- METER_CLOSE (R422). -/
def execMeterClose (q : QIx) (s : State) : Host.Outcome State Fault Refusal := .next (s.doMeterClose q.val)
/-- LDG_METER_CLOSE (R416, R424). -/
def execLdgMeterClose (s : State) : Host.Outcome State Fault Refusal := .next (s.closeAll 3)
/-- METER_INTERVAL (R416). -/
def execMeterInterval (s : State) : Host.Outcome State Fault Refusal := .next s.interval
/-- RECORD_SEAL (R416, R417). -/
def execRecordSeal (s : State) : Host.Outcome State Fault Refusal := .next s.recordSeal
/-- METER_RING_WRITE (R418). -/
def execMeterRingWrite (s : State) : Host.Outcome State Fault Refusal := .next s.meterRing

end Sys2Proof.Machine
end

