-- ==== Sys2Proof/Machine/Org.lean ====
section
/-! DEFINITION. The Orangery: channels, tokens, sessions and debug operations (spec/16_orangery_security R425-R448). -/

namespace Sys2Proof.Machine

/-! ### Halts (R442) -/

/-- A halt of a core by a session raises source 261 (R442); what the trace holds of it no rule says (log entry 46). -/
def State.haltCore (s : State) (j k : Nat) : State :=
  let s1 := s.onCore k (fun c => { c with halted := true })
  let s2 := { s1 with org := { s1.org with haltBy := SMap.set 0 s1.org.haltBy k (j + 1) } }
  let s3 := s2.setSess j ((s2.sess j).map (fun (x : Sess) => { x with core := some k }))
  let (v, s4) := s3.draw
  (s4.trace (if k < 512 then k / 64 else 8) (v % 2 ^ 512)).raise 0 261
def State.resumeCore (s : State) (k : Nat) : State :=
  let s1 := s.onCore k (fun c => { c with halted := false })
  { s1 with org := { s1.org with haltBy := SMap.set 0 s1.org.haltBy k 0 } }

/-! ### Channels (R436, R437) -/

/-- How a command ends. -/
inductive OrgRes where
  | ok (resp : List Byte)
  | refused (reason : Nat)
  | malformed
  deriving DecidableEq, Repr

def OrgRes.status : OrgRes → Nat | .ok _ => 0 | .refused _ => 0x83 | .malformed => 1

/-- Channel of a source. -/
def State.chanOf (s : State) : OrgSrc → Nat
  | .mbx n => n.val
  | .admin q => s.qPort q.val
  | .smb => 2

def State.mbx (s : State) (c : Nat) : Mbx := SMap.get {} s.org.mbx c
def State.setMbx (s : State) (c : Nat) (m : Mbx) : State := { s with org := { s.org with mbx := SMap.set {} s.org.mbx c m } }

/-- Is a command refused in the module's state before it runs (R433, R436)? -/
def State.orgGate (s : State) (code : Nat) (smb : Bool) : Option Nat :=
  if s.org.fuses.lifecycle = .scrapped ∧ !(smb && code == 0x30) then some 4
  else if s.pwr.st = .sleep ∧ (code = 0x33 ∨ code = 0x37 ∨ code = 0x38) then some 5
  else none

/-- The command a mailbox or the SMBus submitted runs when it is the oldest waiting; its response replaces the request. -/
def State.mbxRun (s : State) (c code : Nat) (f : State → List Byte → OrgRes × State) : State :=
  let m := s.mbx c
  if s.org.cmds.head? ≠ some c ∨ m.code ≠ code then s
  else
    let req := Mem.readN s.org.buf (c * 65536) m.len
    let (r, s1) := match s.orgGate code (c == 2) with
      | some x => (OrgRes.refused x, s)
      | none => f s req
    let resp := match r with | .ok b => b | _ => []
    let reason := match r with | .refused x => x | _ => 0
    let s2 := { s1 with org := { s1.org with cmds := s1.org.cmds.tail, buf := Mem.writeN s1.org.buf (c * 65536) resp } }
    let s3 := s2.setMbx c { s2.mbx c with busy := false, done := true, status := r.status, reason := reason, len := resp.length }
    if c = 2 then s3 else s3.raise 0 261

/-- The ADMIN form (R437): operands, response capacity and the end. -/
def State.adminRun (s : State) (q code : Nat) (hostErr : Nat) (cap : List Byte → Nat) (f : State → List Byte → OrgRes × State) : State :=
  if s.org.cmds ≠ [] then s
  else match s.startOp q tyAdmin code with
    | none => s
    | some d =>
      let n := d.f 7 16 0
      if d.f 4 31 1 ≠ 0 ∨ d.f 6 31 24 ≠ 0 ∨ d.f 7 31 17 ≠ 0 ∨ 65535 < n ∨ d.f 9 31 24 ≠ 0 ∨ d.f 10 31 17 ≠ 0 ∨ !d.zeroFrom 11 then
        s.descDone q d.ix 1 0 0
      else if (n != 0 && s.rawWaits q (d.f 4 0 0) (d.addr 5)) || (d.f 10 16 0 != 0 && s.rawWaits q (d.f 4 0 0) (d.addr 8)) then s
      else match (if n = 0 then (some [], s) else s.readRaw (s.qMaster q) (d.f 4 0 0) (s.qPort q) (d.addr 5) n hostErr) with
        | (none, s1) => s1.descDone q d.ix (s.failStatus s1 q) 0 0
        | (some req, s1) =>
          if d.f 10 16 0 < cap req then s1.descDone q d.ix 1 0 0
          else match s1.orgGate code false with
            | some x => s1.descDone q d.ix 0x83 x 0
            | none =>
              match f s1 req with
              | (.ok resp, s2) =>
                if resp = [] then s2.descDone q d.ix 0 0 0
                else match s2.writeRaw (s2.qMaster q) (d.f 4 0 0) (s2.qPort q) (d.addr 8) resp with
                  | (true, s3) => s3.descDone q d.ix 0 resp.length 0
                  | (false, s3) => s3.descDone q d.ix 2 0 0
              | (.refused x, s2) => s2.descDone q d.ix 0x83 x 0
              | (.malformed, s2) => s2.descDone q d.ix 1 0 0

/-- Run a command on a channel. `cap`: the length of its response to a request. -/
def State.orgRun (s : State) (src : OrgSrc) (code : Nat) (hostErr : Nat) (cap : List Byte → Nat)
    (f : State → List Byte → OrgRes × State) : State :=
  match src with
  | .mbx n => s.mbxRun n.val code f
  | .smb => s.mbxRun 2 code f
  | .admin q => s.adminRun q.val code hostErr cap f

/-! ### IDENTITY, QUOTE, CHALLENGE, EXTEND, ENROLL_SITE (R428, R434-R436) -/

def Org.idPub (o : Org) : Nat := if o.fuses.lifecycle = .scrapped then 0 else o.idKey
def State.identity (s : State) (req : List Byte) : OrgRes × State :=
  if req ≠ [] then (.malformed, s)
  else (.ok (leBytes 8 Config.serial ++ leBytes 8 s.org.fuses.lifecycle.code ++ leBytes 32 s.org.idPub), s)

/-- SITE_SLOT of the current deployment, zero when none. -/
def Fuses.slot (f : Fuses) : Nat := if f.lifecycle = .deployed then nth 0 f.site f.deployment else 0

/-- The 640 bytes of a quote (R435). -/
def State.quoteBody (s : State) (nonce stamp : Nat) : List Byte :=
  let f := s.org.fuses
  let w0 := 1 + f.lifecycle.code * 2 ^ 8 + s.org.level * 2 ^ 10 + s.pwr.st.code * 2 ^ 12 + f.lcCount * 2 ^ 16 + f.imgFloor * 2 ^ 20
    + f.fwFloor * 2 ^ 27
  leBytes 8 w0 ++ leBytes 8 Config.serial ++ leBytes 8 (s.device % 2 ^ 18 + s.boot.count % 2 ^ 32 * 2 ^ 32) ++ leBytes 8 stamp
    ++ leBytes 32 nonce ++ leBytes 32 f.slot ++ (List.range 16).flatMap (fun r => leBytes 32 (SMap.get 0 s.org.meas r)) ++ leBytes 32 0

def State.quote (s : State) (req : List Byte) : OrgRes × State :=
  if req.length ≠ 32 then (.malformed, s)
  else if s.org.open 9 then (.refused 0x0A, s)
  else
    let (st, s1) := s.stamp 0x0A 0
    let body := s1.quoteBody (leNat req) st
    (.ok (body ++ leBytes 4 3 ++ leBytes 4 17088 ++ leBytes 17088 (Config.slhSign s1.org.fuses.idSeed body)), s1)

def State.challenge (s : State) (chan : Nat) (req : List Byte) : OrgRes × State :=
  if req ≠ [] then (.malformed, s)
  else
    let (v, s1) := s.draw
    let n := v % 2 ^ 256
    (.ok (leBytes 32 n), { s1 with org := { s1.org with chal := SMap.set none s1.org.chal chan (some n) } })

def State.extendCmd (s : State) (req : List Byte) : OrgRes × State :=
  let r := leNat (req.take 8)
  if req.length ≠ 40 ∨ r < 10 ∨ 15 < r then (.malformed, s) else (.ok [], s.measure r (leNat (req.drop 8)))

def State.enroll (s : State) (req : List Byte) : OrgRes × State :=
  let f := s.org.fuses
  if req.length ≠ 48 then (.malformed, s)
  else if f.lifecycle ≠ .deployed then (.refused 4, s)
  else if f.slot ≠ 0 then (.refused 7, s)
  else
    let h := sha256 req
    let s1 := { s with org := { s.org with fuses := f.blow (.slot f.deployment h), siteKey := some (leNat req), site := true },
                       boot := { s.boot with nor := Mem.writeN s.boot.nor (2 ^ 26 + 0x3F00000) (req.map (fun b => b ^^^ 0xFF)) } }
    (.ok [], s1.measure 6 h)

/-! ### Tokens (R438-R440, R443) -/

/-- A token's body as a number, with its fields. -/
abbrev Tok := Nat
def Tok.f (t : Tok) (w hi lo : Nat) : Nat := natBits t (32 * w + hi) (32 * w + lo)
def Tok.type (t : Tok) : Nat := t.f 0 15 8
def Tok.serial (t : Tok) : Nat := natBits t 127 64
def Tok.nonce (t : Tok) : Nat := natBits t 383 128
def isDebugTok (ty : Nat) : Bool := ty == 1 || ty == 2 || ty == 3
def isTokType (ty : Nat) : Bool := [1, 2, 3, 0x10, 0x11, 0x12, 0x20, 0x21].contains ty

/-- Format, TYPE, reserved bits and use. -/
def tokFormOk (t : Tok) (unlock : Bool) : Bool :=
  t.f 0 7 0 == 1 && isTokType t.type && t.f 0 31 16 == 0 && t.f 1 31 0 == 0 && t.f 12 7 3 == 0 && t.f 12 31 16 == 0 && t.f 14 31 16 == 0
    && t.f 15 31 7 == 0 && natBits t 1023 512 == 0 && isDebugTok t.type == unlock && decide (t.f 15 6 0 ≤ 64)

/-- KEYIDs that may sign a TYPE in a lifecycle (R426, R431). -/
def tokKeys (ty : Nat) (l : Lifecycle) : List Nat :=
  if ty = 1 ∨ ty = 2 ∨ ty = 0x20 then [2]
  else if ty = 0x11 then [1, 2]
  else if ty = 0x12 then (if l = .deployed then [1, 2] else [1])
  else [1]

/-- Bytes of a signature by KEYID. -/
def sigLen (k : Nat) : Nat := if k = 1 then 29792 else if k = 2 then 16224 else 17088

/-- Checks 1 to 5 of a token (R438, R443): a refusal, or the token. -/
def State.tokenCheck (s : State) (chan : Nat) (unlock : Bool) (req : List Byte) : Except OrgRes Tok :=
  let t : Tok := leNat (req.take 128)
  let k := word32 req 128
  let o := s.org
  let l := o.fuses.lifecycle
  let keys := tokKeys t.type l
  let slen := word32 req 132
  if req.length ≠ 136 + sigLen 1 ∧ req.length ≠ 136 + sigLen 2 then .error .malformed
  else if !tokFormOk t unlock then .error .malformed
  else if keys = [2] ∧ !o.site then .error (.refused 8)
  else if !keys.contains k ∨ slen ≠ sigLen k ∨ req.length ≠ 136 + sigLen k then .error (.refused 1)
  else if k = 2 ∧ !o.site then .error (.refused 8)
  else if !Config.slhVerify k (if k = 2 then leBytes 48 (o.siteKey.getD 0) else Config.rootKey) (req.take 128) (req.drop 136) then .error (.refused 1)
  else if t.serial ≠ Config.serial % 2 ^ 64 then .error (.refused 2)
  else if SMap.get none o.chal chan ≠ some t.nonce then .error (.refused 3)
  else
    let c := o.fuses.lcCount
    let okLife :=
      if t.type = 3 then l == .manufacture || l == .return
      else if t.type = 1 ∨ t.type = 2 then l == .deployed
      else if t.type = 0x10 then (l == .manufacture && o.fuses.idSeed != 0) || (l == .return && c != 8)
      else if t.type = 0x11 then l == .deployed
      else if t.type = 0x12 then l != .scrapped
      else true
    if !okLife then .error (.refused 4) else .ok t

/-- The token that presents a challenge consumes it. -/
def State.consume (s : State) (chan : Nat) (req : List Byte) : State :=
  let t : Tok := leNat (req.take 128)
  if 128 ≤ req.length ∧ SMap.get none s.org.chal chan = some t.nonce then
    { s with org := { s.org with chal := SMap.set none s.org.chal chan none } }
  else s

/-- PERMS a level can have (R440). -/
def permsOf (ty : Nat) : Nat := if ty = 1 then 0x0F else 0x3F

/-- UNLOCK (R439, R440). -/
def State.unlock (s : State) (chan : Nat) (req : List Byte) : OrgRes × State :=
  let r := s.tokenCheck chan true req
  let s1 := s.consume chan req
  match r with
  | .error e => (e, s1)
  | .ok t =>
    let ty := t.type
    let part := t.f 12 2 0
    let perms := t.f 12 15 8
    let tenant := t.f 13 31 0
    let j := if ty = 1 then part else if ty = 2 then 8 else 9
    let p := s.ldgPart part
    let scope := ty ≠ 1 ∨ ((s.entry part).inUse ∧ p.tenant = tenant ∧ (p.st = .running ∨ p.st = .ckpt))
    if perms &&& (0xFF - permsOf ty) ≠ 0 then (.refused 6, s1)
    else if !decide scope then (.refused 6, s1)
    else if s.org.open j ∨ (j = 9 ∧ s.org.level ≠ 0) ∨ (j ≠ 9 ∧ s.org.open 9) then (.refused 0x0B, s1)
    else
      let x : Sess := { chan := chan, perms := perms, part := if ty = 1 then part else 0, tenant := if ty = 1 then tenant else 0, life := t.f 14 15 0 }
      (.ok (leBytes 8 j), (s1.setSess j (some x)).event7 1 j (sessLevel j) 0 x.tenant)

def State.closeCmd (s : State) (req : List Byte) : OrgRes × State :=
  let j := leNat req
  if req.length ≠ 8 then (.malformed, s)
  else if 9 < j ∨ !s.org.open j then (.refused 0x0C, s)
  else (.ok [], s.closeSess j 1)

/-! ### DEBUG (R440, R442, R444) -/

/-- A core by its master ID. -/
def coreOf (m : Nat) : Option Nat := if m < 512 then some m else if 0x502 ≤ m ∧ m ≤ 0x509 then some (512 + m - 0x502) else if m = 0x500 then some 520 else none
/-- Is a core within a session's scope? -/
def State.coreScope (s : State) (j : Nat) (x : Sess) (k : Nat) : Bool :=
  if j < 8 then decide (k < 512) && s.dieOwner (k / 64) == some x.part else if j = 8 then decide (k < 520) else true
/-- Is a byte range within a session's memory scope? -/
def State.memScope (s : State) (j : Nat) (x : Sess) (a n : Nat) : Bool :=
  (linesOf a n).all (fun l =>
    if j < 8 then s.lineOwner l == some x.part
    else match placeOf l with
      | .hbm _ | .near _ | .gwSram | .geSram => true
      | .orgSram => j == 9
      | _ => false)
/-- Power-gated: a Pavilion core or die in NAP, and in SLEEP all but the Gatehouse parts. -/
def State.coreGated (s : State) (k : Nat) : Bool := decide (k < 512) && (s.pwr.st == .nap || s.pwr.st == .sleep)

/-- The session and operation of a DEBUG request. -/
def dbgOp (req : List Byte) : Nat := word32 req 0 % 256
def dbgSess (req : List Byte) : Nat := natBits (word32 req 0) 11 8
def dbgTarget (req : List Byte) : Nat := word32 req 4
def dbgAddr (req : List Byte) : Nat := leNat ((req.drop 8).take 8)
def dbgLen (req : List Byte) : Nat := word32 req 16
def dbgData (req : List Byte) : List Byte := req.drop 20

/-- Check a DEBUG request: length, session and right; then run. -/
def State.dbg (s : State) (right : Option Nat) (extra : Nat) (req : List Byte) (f : State → Nat → Sess → OrgRes × State) : OrgRes × State :=
  if req.length ≠ 20 + extra ∨ word32 req 0 / 2 ^ 12 ≠ 0 then (.malformed, s)
  else match s.sess (dbgSess req) with
    | none => (.refused 0x0C, s)
    | some x =>
      if right.any (fun b => !x.perms.testBit b) then (.refused 0x0D, s) else f s (dbgSess req) x

/-- Check the target core of an operation. -/
def State.dbgCore (s : State) (req : List Byte) (f : State → Nat → Sess → Nat → OrgRes × State) : OrgRes × State :=
  s.dbg (some 0) 0 req (fun s j x => match coreOf (dbgTarget req) with
    | none => (.refused 6, s)
    | some k => if !s.coreScope j x k then (.refused 6, s) else if s.coreGated k then (.refused 5, s) else f s j x k)

/-- STATUS: the halted cores of the session's scope, a 64-bit mask for each die, then one for cores 512 to 520 (log entry 44). -/
def State.dbgStatus (s : State) (req : List Byte) : OrgRes × State :=
  s.dbg none 0 req (fun s j x =>
    let bit := fun (k : Nat) => (s.core k).halted && s.coreScope j x k
    let word := fun (b n : Nat) => ((List.range n).filter (fun i => bit (b + i))).foldl (fun a i => a + 2 ^ i) 0
    (.ok ((List.range 8).flatMap (fun p => leBytes 8 (word (64 * p) 64)) ++ leBytes 8 (word 512 9)), s))

def State.dbgHalt (s : State) (req : List Byte) : OrgRes × State :=
  s.dbgCore req (fun s j _ k => (.ok [],
    if (s.core k).halted then s.setSess j ((s.sess j).map (fun (x : Sess) => { x with core := some k })) else s.haltCore j k))
def State.dbgResume (s : State) (req : List Byte) : OrgRes × State :=
  s.dbgCore req (fun s _ _ k => (.ok [], s.resumeCore k))
def State.dbgBrkset (s : State) (req : List Byte) : OrgRes × State :=
  s.dbgCore req (fun s j _ k =>
    let l := SMap.get [] s.org.brk k
    let b := (j, dbgAddr req)
    if l.contains b then (.ok [], s)
    else if 4 ≤ l.length then (.malformed, s)
    else (.ok [], { s with org := { s.org with brk := SMap.set [] s.org.brk k (l ++ [b]) } }))
def State.dbgBrkclr (s : State) (req : List Byte) : OrgRes × State :=
  s.dbgCore req (fun s j _ k =>
    let l := SMap.get [] s.org.brk k
    (.ok [], { s with org := { s.org with brk := SMap.set [] s.org.brk k (l.filter (· != (j, dbgAddr req))) } }))

/-- Bytes of a register RDREG and WRREG name, none where there is no such register. -/
def regBytes (t : Nat) : Option Nat :=
  if t < 32 then some 8
  else if 0x100 ≤ t ∧ t < 0x200 then (if (crRule (t - 0x100)).isSome ∨ t = 0x130 then some 8 else none)
  else if 0x200 ≤ t ∧ t < 0x220 then some 2048
  else none

/-- RDREG and WRREG act on the core the session's last HALT named, and that halted (log entry 44). -/
def State.dbgReg (s : State) (extra : Nat) (req : List Byte) (f : State → Nat → Nat → OrgRes × State) : OrgRes × State :=
  s.dbg (some 0) extra req (fun s _ x => match x.core with
    | none => (.refused 0x0D, s)
    | some k =>
      if !(s.core k).halted then (.refused 0x0D, s)
      else if s.coreGated k then (.refused 5, s)
      else f s k (dbgTarget req))
def State.dbgRdreg (s : State) (req : List Byte) : OrgRes × State :=
  s.dbgReg 0 req (fun s k t =>
    let c := s.core k
    if regBytes t = none ∨ (0x200 ≤ t ∧ 512 ≤ k) then (.malformed, s)
    else if t < 32 then (.ok (leBytes 8 (c.rg ⟨t % 32, Nat.mod_lt _ (by decide)⟩).toNat), s)
    else if t < 0x200 then (.ok (leBytes 8 (if t = 0x130 then coreMaster k else (c.rc (t - 0x100)).toNat)), s)
    else (.ok (Mem.readN c.v ((t - 0x200) * 2048) 2048), s))
def State.dbgWrreg (s : State) (req : List Byte) : OrgRes × State :=
  match regBytes (dbgTarget req) with
  | none => (.malformed, s)
  | some n =>
    s.dbgReg n req (fun s k t =>
      let d := dbgData req
      let v := leNat d
      if 0x200 ≤ t ∧ 512 ≤ k then (.malformed, s)
      else if t < 32 then (.ok [], s.onCore k (fun c => c.wg ⟨t % 32, Nat.mod_lt _ (by decide)⟩ (BitVec.ofNat 64 v)))
      else if t < 0x200 then (.ok [], s.onCore k (fun c => if t = 0x130 then c else c.mtcWrite (t - 0x100) v))
      else (.ok [], s.onCore k (fun c => ({ c with v := Mem.writeN c.v ((t - 0x200) * 2048) d } : Core).dirty)))

def State.dbgRdmem (s : State) (req : List Byte) : OrgRes × State :=
  let n := dbgLen req
  let a := dbgAddr req
  s.dbg (some 3) 0 req (fun s j x =>
    if n = 0 ∨ 4096 < n then (.malformed, s)
    else if !s.memScope j x a n then (.refused 6, s)
    else if s.pwr.st = .sleep then (.refused 5, s)
    else match s.devRead 0x501 a n with
      | (some bs, s1) => (.ok bs, s1)
      | (none, s1) => (.refused 6, s1))
def State.dbgWrmem (s : State) (req : List Byte) : OrgRes × State :=
  let n := dbgLen req
  let a := dbgAddr req
  s.dbg (some 3) n req (fun s j x =>
    if n = 0 ∨ 4096 < n then (.malformed, s)
    else if !s.memScope j x a n then (.refused 6, s)
    else if s.pwr.st = .sleep then (.refused 5, s)
    else match s.devWrite 0x501 a (dbgData req) with
      | (true, s1) => (.ok [], s1)
      | (false, s1) => (.refused 6, s1))

def State.dbgTrace (s : State) (on : Bool) (req : List Byte) : OrgRes × State :=
  let n := dbgLen req
  let a := dbgAddr req
  s.dbg (some 1) 0 req (fun s j x =>
    if !on then (.ok [], s.setSess j (some { x with trace := none }))
    else if n = 0 ∨ 4096 < n then (.malformed, s)
    else if !s.memScope j x a n then (.refused 6, s)
    else (.ok [], s.setSess j (some { x with trace := some (a, n, 0) })))

/-- Response length of a command, which the ADMIN form's RSPCAP must hold. -/
def dbgCap (req : List Byte) : Nat :=
  let op := dbgOp req
  if op = 0 then 72 else if op = 6 then (regBytes (dbgTarget req)).getD 0 else if op = 8 then dbgLen req else 0

/-- Run a DEBUG operation: the command 0x38 whose request names it; a reserved OP is MALFORMED on any row (R442). An access
of memory waits while its stack is HOT (09 R256). -/
def State.debugRun (s : State) (src : OrgSrc) (op : Nat) (hostErr : Nat) (f : State → List Byte → OrgRes × State) : State :=
  let waits := fun (req : List Byte) => (dbgOp req == 8 || dbgOp req == 9) && s.hotAt (dbgAddr req)
  let mine := fun (req : List Byte) => (dbgOp req == op || decide (0x0B < dbgOp req)) && !waits req
  let peek := match src with
    | .mbx n => mine (Mem.readN s.org.buf (n.val * 65536) (s.mbx n.val).len)
    | .smb => mine (Mem.readN s.org.buf (2 * 65536) (s.mbx 2).len)
    | .admin q => (match s.startOp q.val tyAdmin 0x38 with
      | some d => (match (if d.f 7 16 0 = 0 then (some [], s) else s.readRaw (s.qMaster q.val) (d.f 4 0 0) (s.qPort q.val) (d.addr 5) (d.f 7 16 0) hostErr) with
        | (some r, _) => mine r
        | (none, _) => true)
      | none => false)
  if !peek then s
  else s.orgRun src 0x38 hostErr dbgCap (fun s req => if 0x0B < dbgOp req then (.malformed, s) else f s req)

end Sys2Proof.Machine
end

