-- ==== Sys2Proof/Machine/Start.lean ====
section
/-! DEFINITION. Start-up and resets (spec/17_start_up R449-R467; 09 R252, R253, R257; 16 R428-R433; 18 R468-R471). -/

namespace Sys2Proof.Machine

/-! ### The boot record (R460, R461) -/

/-- Erase a range of the non-volatile store and write bytes from its start. -/
def State.norWrite (s : State) (dev off size : Nat) (bs : List Byte) : State :=
  let a := dev * 2 ^ 26 + off
  { s with boot := { s.boot with nor := Mem.writeN (Mem.zero s.boot.nor a size) a (bs.map (fun b => b ^^^ 0xFF)) } }

/-- Write the record: the other copy, with GEN one higher, and the hash of its words (R455, R460). -/
def State.recordSave (s : State) (r : BootRec) : State :=
  let r1 := { r with gen := (r.gen + 1) % 2 ^ 32 }
  let bs := leBytes 96 r1.raw
  ({ s with boot := { s.boot with record := some r1 } } : State).norWrite (r1.gen % 2) 0x3E00000 65536 (bs ++ leBytes 32 (sha256 bs))

/-- Place of this start's log entry. -/
def BootRec.cur (r : BootRec) : Nat := (r.next + 7) % 8
def BootRec.setEnt (r : BootRec) (e : LogEnt) : BootRec := { r with log := r.log.set r.cur e }
/-- Log entry `i`, newest first. -/
def BootRec.ent (r : BootRec) (i : Nat) : LogEnt := nth {} r.log ((r.next + 15 - i) % 8)

/-- A pending write of FORCE and PREFERRED reaches the record. -/
def State.recordDone (s : State) : State :=
  match s.boot.pend, s.boot.record with
  | some (f, p), some r =>
    { s.recordSave { r with force := f, preferred := p } with
      boot := { (s.recordSave { r with force := f, preferred := p }).boot with pend := none } }
  | _, _ => s

def State.setSlot (s : State) (slot st : Nat) : State :=
  match s.boot.record with
  | some r => s.recordSave { r with slotSt := r.slotSt.set slot st }
  | none => s

/-! ### The non-volatile store (R455) -/

/-- Bytes of a slot, whose device bears its number. -/
def State.norRead (s : State) (slot off n : Nat) : List Byte := (Mem.readN s.boot.nor (slot * 2 ^ 26 + off) n).map (fun b => b ^^^ 0xFF)

/-! ### Firmware (R456, R457) -/

/-- A header's words, and component `k`. -/
def fwOff (h : List Byte) (k : Nat) : Nat := word32 h (32 + 40 * k)
def fwLen (h : List Byte) (k : Nat) : Nat := word32 h (36 + 40 * k)
def fwHash (h : List Byte) (k : Nat) : Nat := leNat ((h.drop (40 + 40 * k)).take 32)

/-- Check 1: MAGIC, FORMAT, NCOMP and the rules of R456, with every component before `limit`. -/
def fwForm (h : List Byte) (limit : Nat) : Bool :=
  let ks := List.range 4
  word32 h 0 == 0x544F4C53 && word32 h 4 == 0x00040001 && decide (1 ≤ word32 h 12) && decide (word32 h 12 ≤ 255)
    && leNat ((h.drop 24).take 8) == 0 && leNat ((h.drop 192).take 64) == 0
    && ks.all (fun k => decide (0x8000 ≤ fwOff h k) && decide (fwOff h k + fwLen h k ≤ min limit 0x800000))
    && noPair (fun j k => decide (fwOff h j < fwOff h k + fwLen h k) && decide (fwOff h k < fwOff h j + fwLen h j)) ks
    && decide ((ks.map (fwLen h)).foldl (· + ·) 0 ≤ 6 * 2 ^ 20)

/-- The number of the first failing check, zero for none; `rd` reads the firmware region. -/
def State.fwCheck (s : State) (rd : Nat → Nat → List Byte) (limit : Nat) : Nat :=
  let h := rd 0 256
  if !fwForm h limit then 1
  else
    let e := rd 256 8
    if word32 e 0 ≠ 1 ∨ word32 e 4 ≠ 29792 ∨ !Config.slhVerify 1 Config.rootKey h (rd 264 29792) then 2
    else if leNat ((h.drop 16).take 8) ≠ 0 ∧ leNat ((h.drop 16).take 8) ≠ Config.serial % 2 ^ 64 then 3
    else if word32 h 8 < s.org.fuses.fwFloor then 4
    else if (List.range 4).any (fun k => sha256 (rd (fwOff h k) (fwLen h k)) != fwHash h k) then 5
    else 0
def State.fwOk (s : State) (slot : Nat) : Bool := s.fwCheck (s.norRead slot) 0x800000 == 0
/-- TMAX and SVN of a slot's header, zero where it cannot be read. -/
def State.slotInfo (s : State) (slot : Nat) : Nat × Nat :=
  let h := s.norRead slot 0 256
  if fwForm h 0x800000 then (word32 h 12, word32 h 8) else (0, 0)

/-! ### Cold reset and OFF (R453; 16 R432, R445; 20 R514) -/

/-- What a cold reset and a loss of power leave: fuses, the non-volatile store, and what stands outside the module. -/
def State.coldBase (s : State) (input : Bool) : State :=
  { free := s.free, host := s.host, pending := s.pending, cores := coresAtReset
    org := { fuses := s.org.fuses, siteKey := s.org.siteKey }
    boot := { record := s.boot.record, nor := s.boot.nor, last := s.boot.last }
    pwr := { input := input }
    smb := { s.smb with alert := false }
    ports := [0, 1].foldl (fun m n => SMap.set {} m n { perst := (s.port n).perst }) []
    trl := { ports := (List.range 6).foldl (fun m n => SMap.set {} m n { mated := (s.tport n).mated }) [] } }

/-- A cold reset: the start begins at step 2. With the input out of range it has no effect (20 R516). -/
def State.coldReset (s : State) : State :=
  if !s.pwr.input then s
  else
    let s1 := s.recordDone.coldBase true
    { s1 with boot := { s1.boot with phase := 2 } }
/-- RESTART: ATTEMPTS and FORCE to 0, then a cold reset (R465). -/
def State.restart (s : State) : State :=
  if !s.pwr.input then s
  else
    let s1 := s.recordDone
    (match s1.boot.record with
     | some r => s1.recordSave { r with attempts := 0, force := false }
     | none => s1).coldReset

def State.powerOff (s : State) : State :=
  let s1 := s.coldBase false
  { s1 with pwr := { s1.pwr with st := .off } }

/-- Training begins (R245). -/
def Stack.toTrain (x : Stack) : Stack := if x.st = .degraded then x else { x with st := .training }
def State.trainBegin (s : State) : State := (List.range 16).foldl (fun s k => s.setStack k (s.stack k).toTrain) s

/-- An exit to ACTIVE begins; from SLEEP, the stacks are tested again (09 R252). -/
def State.exitBegin (s : State) : State :=
  let s1 := { s with pwr := { s.pwr with exiting := true } }
  if s.pwr.st = .sleep ∧ !s.pwr.exiting then s1.trainBegin else s1

/-! ### Warm reset (R453; 01 R43; 09 R257; 13 R374; 16 R445) -/

/-- The functions of both ports are reset as by function-level reset: records go out, the queues become DISABLED. -/
def State.resetAllFns (s : State) : State :=
  let qs := SMap.keys s.queues
  let s1 := qs.foldl (fun s q => State.resetRecords q 5 anyEnd ((s.queue q).sqSize + 32) s) s
  let s2 := qs.foldl (fun s q => (s.queueClear q).queueZero q) s1
  [0, 1].foldl (fun s n => s.setPort n { s.port n with fns := [], bar4log := 0, vfEnable := false, numVfs := 0 }) s2

def State.warmNow (s : State) : State :=
  let s0 := { s with boot := { s.boot with warmHeld := false }
                     ptr := { s.ptr with staged := none, taken := none, next := none, phase := .idle } }
  let s1 := (List.range 8).foldl (fun s j => s.closeSess j 4) s0
  let s2 := (List.range 3).foldl (fun s c => s.setMbx c { s.mbx c with busy := false }) s1
  let s3 := { s2 with org := { s2.org with cmds := [], chal := [] } }
  let s4 := s3.resetAllFns
  let s5 := (List.range 8).foldl (fun s d => s.dieReset d) s4
  let s6 := (List.range 16).foldl (fun s k => s.setStack k ((s.stack k).retireAll (s.keepWays k))) s5
  let s7 := { s6 with
    xlt := { ringTail := s6.xlt.ringTail, ringWrap := s6.xlt.ringWrap }
    trl := { s6.trl with out := s6.trl.out.filter (fun o => o.pkt.cls == 1), tags := [], waiting := [], xfers := [] }
    txu := { s6.txu with colls := [] }
    err := { s6.err with contained := 0, orders := [] }
    ptr := { s6.ptr with parts := if s6.inShed then s6.ptr.parts else (List.range 8).map s6.partState } }
  -- the Lodge services run again (01 R26)
  s7.startService

/-- A warm reset is held until start-complete (R466) or the end of apply (01 R43), and waits for ACTIVE (18 R488). -/
def State.warmReset (s : State) : State :=
  if !s.pwr.input then s
  else if s.boot.phase < 12 ∨ s.ptr.phase = .applying then { s with boot := { s.boot with warmHeld := true } }
  else if s.pwr.st = .nap ∨ s.pwr.st = .sleep then ({ s with pwr := { s.pwr with warmAfter := true } }).exitBegin
  else s.warmNow

def State.warmIfHeld (s : State) : State := if s.boot.warmHeld then s.warmReset else s

/-! ### REFXO (18 R469, R470) -/

def dist (a b : Nat) : Nat := max a b - min a b
def refOk (n : Nat) : Bool := decide (32768 ≤ n) && (decide (dist n 65536 ≤ 65) || decide (dist n 65372 ≤ 65))
def ringOk (r : Nat) : Bool := decide (12288 ≤ r) && decide (r ≤ 20480)
def nearSsc (n : Nat) : Bool := decide (dist n 65372 < dist n 65536)

/-- One window of the judgement. -/
def Pwr.judge (p : Pwr) (a b r : Nat) : Pwr × Bool :=
  let ra := if refOk a then p.runA + 1 else 0
  let rb := if refOk b then p.runB + 1 else 0
  if ra = 8 then ({ p with runA := ra, judged := true, refSource := 0, refSsc := nearSsc a }, false)
  else if rb = 8 then ({ p with runA := ra, runB := rb, judged := true, refSource := 1, refSsc := nearSsc b }, false)
  else
    let ab := if 32768 ≤ a ∨ 32768 ≤ b then 0 else p.absent + 1
    let rr := if 16 ≤ ab then (if ringOk r then p.runR + 1 else 0) else p.runR
    let q := { p with runA := ra, runB := rb, absent := ab, runR := rr }
    if 16 ≤ ab ∧ rr = 8 then ({ q with judged := true, refSource := 2 }, true) else (q, false)

/-- CLK_REF as it reads (18 R489). -/
def Pwr.clkRef (p : Pwr) : Nat := p.refSource + 4 * b2n p.refSsc + 8 * b2n p.refFault

/-- A window: judged in step 3, checked against the chosen source after start-complete. -/
def State.refxo (s : State) (a b r : Nat) : State :=
  if s.boot.phase = 3 ∧ !s.pwr.judged then
    let (p, u) := s.pwr.judge a b r
    { s with pwr := p, boot := { s.boot with unverified := s.boot.unverified || u } }
  else if s.boot.phase = 12 then
    let ok := if s.pwr.refSource = 0 then refOk a else if s.pwr.refSource = 1 then refOk b else ringOk r
    let n := if ok then 0 else s.pwr.failing + 1
    let s1 := { s with pwr := { s.pwr with failing := n } }
    if n = 8 then
      let s2 := { s1 with pwr := { s1.pwr with refFault := true } }
      s2.post { sev := 0, kind := 0x0A, loc := 8, info := s2.pwr.clkRef }
    else s1
  else s

/-! ### HBM training (09 R252, R253) -/

/-- The pairings that hold: those recorded whose spare passes. -/
def Stack.kept (x : Stack) (bad : List Nat) : List (Nat × Nat) := x.repair.filter (fun r => !bad.contains (2048 + r.1))
/-- Spares that are free: they pass, and stand for no lane. -/
def Stack.spares (x : Stack) (bad : List Nat) : List Nat :=
  (List.range 32).filter (fun j => !bad.contains (2048 + j) && !x.repair.any (fun r => r.1 == j))
/-- Data lanes that need a spare: failing ones, and those whose spare fails. -/
def Stack.needy (x : Stack) (bad : List Nat) : List Nat :=
  (List.range 2048).filter (fun l => (bad.contains l || x.repair.any (fun r => r.2 == l)) && !(x.kept bad).any (fun r => r.2 == l))
/-- Each failing lane is switched to the lowest-numbered free spare; a stack with too few is DEGRADED, and stays so. Lane 2,048 + j is
spare j. -/
def Stack.train (x : Stack) (bad : List Nat) : Stack :=
  let lacks := decide ((x.spares bad).length < (x.needy bad).length)
  { x with st := if x.st == .degraded || lacks then .degraded else .ready
           failing := (List.range 2080).filter bad.contains
           repair := x.kept bad ++ List.zip (x.spares bad) (x.needy bad) }
/-- Every stack is trained; one that no partition owns rests in self-refresh (09 R245). -/
def State.trainAll (s : State) (lanes : List (StackIx × Fin 2080)) : State :=
  (List.range 16).foldl (fun s k =>
    let bad := (lanes.filter (fun l => l.1.val == k)).map (fun l => l.2.val)
    let x := (s.stack k).train bad
    let x := match s.stackOwner k, x.st with
      | none, .ready => { x with st := .selfref }
      | _, _ => x
    s.setStack k { x with msc := [], wcb := [] }) s

/-! ### Shed mode (R463-R465) -/

/-- Reason from the newest failed entry of the log; FORCE first. -/
def BootRec.shedReason (r : BootRec) : Nat :=
  if r.force then 0x0F
  else (((List.range 8).map (fun i => (r.ent i).reason)).find? (fun x => x != 0 && x != 0x0D)).getD 0

/-- Enter Shed mode: the factory image, partition 0 HELD_DEGRADED, port A at no more than 16 GT/s, port B absent. -/
def State.enterShed (s : State) (reason : Nat) : State :=
  let s1 := { s with boot := { s.boot with phase := 13, shed := reason }
                     ptr := { s.ptr with parts := s.ptr.parts.set 0 .heldDegraded } }
  let s2 := if (s1.port 0).link = 0 then s1 else s1.linkUp 0 4
  s2.setPort 1 { s2.port 1 with link := 0, rate := 0, width := 0, cfgUp := false }

/-! ### The steps (R449-R461) -/

/-- A step fails (R452): the entry of this start is rewritten, the ports are DOWN, and the module waits for its restart. -/
def State.startFail (s : State) (elapsed : Nat) : State :=
  let code := s.boot.phase
  let s1 := match s.boot.record with
    | some r =>
      if 4 ≤ code then
        s.recordSave (r.setEnt { r.ent 0 with step := code, slot := s.boot.slot, imgsrc := s.ptr.source, reason := code, elapsed := elapsed })
      else s
    | none => s
  let s2 := [0, 1].foldl (fun s n => s.setPort n { s.port n with link := 0, rate := 0, width := 0, flit := false, cfgUp := false }) s1
  { s2 with trl := { s2.trl with on := false, ports := s2.trl.ports.map (fun e => (e.1, { e.2 with st := .down, why := 0 })) }
            boot := { s2.boot with failed := true } }

def State.toStep (s : State) (n : Nat) : State := { s with boot := { s.boot with phase := n } }

/-- Step 2: the Orangery ROM is measured, and configuration space answers (R434, R454); in SCRAPPED nothing else is released (16 R433). -/
def State.step2 (s : State) : State :=
  if s.org.fuses.lifecycle = .scrapped then s
  else
    let s1 := s.measure 0 Config.romDigest
    let s2 := [0, 1].foldl (fun s n =>
      if (s.port n).perst then s
      else
        (s.setPort n { s.port n with cfgUp := true }).linkUp n 1) s1
    ({ s2 with pwr := { s2.pwr with lock := s2.pwr.lock ||| 8 } }).toStep 3

/-- The identity key (16 R430): generated at the first start in MANUFACTURE, readable at every start. -/
def State.idKeyStep (s : State) : State :=
  let f := s.org.fuses
  if f.lifecycle = .manufacture ∧ f.idSeed = 0 then
    let (v, s1) := s.draw
    let g := f.blow (.seed v)
    { s1 with org := { s1.org with fuses := g, idKey := Config.slhPublic g.idSeed } }
  else if f.idSeed = 0 then s
  else { s with org := { s.org with idKey := Config.slhPublic f.idSeed } }

/-- The current record, or a fresh one (R461): a slot whose header is in order is UNTRIED, any other EMPTY. -/
def State.currentRec (s : State) : BootRec :=
  match s.boot.record with
  | some r => r
  | none => { slotSt := [0, 1].map (fun k => if fwForm (s.norRead k 0 256) 0x800000 then 1 else 0) }

/-- Step 4 (R461). -/
def State.step4 (s : State) (recErr : Bool) : State :=
  let s1 := s.idKeyStep
  let r := s1.currentRec
  let n := (r.startCount + 1) % 2 ^ 64
  let shed := r.force || decide (3 ≤ r.attempts)
  let why := r.shedReason
  let s2 := { s1 with boot := { s1.boot with count := n } }
  if recErr then s2.enterShed 0x04
  else
    let r := { r with startCount := n, attempts := if shed then r.attempts else min (r.attempts + 1) 255, next := (r.next + 1) % 8 }
    let s3 := s2.recordSave (r.setEnt { start := n % 2 ^ 32, step := 4, reason := if shed then 0x0D else 0x0C })
    if shed then s3.enterShed why else s3.toStep 5

/-- Step 5 (R457, R458): the slot is chosen; its components are measured. -/
def State.step5 (s : State) : State :=
  match s.boot.record with
  | none => s
  | some r =>
    -- ATTEMPTS stood one lower before step 4
    let first := if (r.attempts + 255) % 256 % 2 = 0 then r.preferred else 1 - r.preferred
    let s0 := { s with boot := { s.boot with info := [s.slotInfo 0, s.slotInfo 1] } }
    let try1 := fun (s : State) (k : Nat) =>
      let st := match s.boot.record with | some r => nth 0 r.slotSt k | none => 0
      if st = 0 ∨ st = 3 then (false, s)
      else if s.fwOk k then (true, s)
      else (false, s.setSlot k 3)
    let (ok, k, s1) :=
      match try1 s0 first with
      | (true, s1) => (true, first, s1)
      | (false, s1) => match try1 s1 (1 - first) with
        | (b, s2) => (b, 1 - first, s2)
    let s2 := { s1 with boot := { s1.boot with slot := k } }
    if !ok then
      let (v, s3) := s2.draw
      s3.startFail (v % 2 ^ 16)
    else
      let h := s2.norRead k 0 256
      let s3 := (List.range 4).foldl (fun s c => s.measure (c + 1) (fwHash h c)) s2
      ({ s3 with trl := { s3.trl with max := word32 h 12 } }).toStep 6

/-- The site key counts as enrolled when its hash stands in the current deployment's slot (16 R428). -/
def State.siteStep (s : State) : State :=
  let slot := s.org.fuses.slot
  match s.org.siteKey with
  | none => if slot = 0 then s else s.post { sev := 0, kind := 0x0B, loc := 0x0A, info := Config.configReason 3 % 2 ^ 64 }
  | some k =>
    let h := sha256 (leBytes 48 k)
    if slot ≠ 0 ∧ h = slot then { s with org := { s.org with site := true } }.measure 6 h
    else if s.org.fuses.lifecycle = .deployed then s.post { sev := 0, kind := 0x0B, loc := 0x0A, info := Config.configReason 3 % 2 ^ 64 }
    else s

/-- The image of a slot under the checks of R459. -/
def State.slotImage (s : State) (slot : Nat) : Except Nat Image :=
  if word32 (s.norRead slot 0x800000 4) 0 ≠ 0x50415254 then .error 1 else s.imageCheck (s.norRead slot 0x800000 (2 ^ 21))

/-- Step 6 (R459). -/
def State.step6 (s : State) : State :=
  let s0 := s.siteStep
  let fail := fun (s : State) => s.post { sev := 0, kind := 0x0B, loc := 0x0A, info := Config.configReason 4 % 2 ^ 64 }
  let use := fun (s : State) (i : Image) (src : Nat) => (s.applyImage i src 0xFF).measure 5 i.digest
  let k := s.boot.slot
  let s1 :=
    match s0.slotImage k with
    | .ok i => use s0 i (k + 1)
    | .error _ => match (fail s0).slotImage (1 - k) with
      | .ok i => use (fail s0) i (2 - k)
      | .error _ => (fail (fail s0)).applyImage Image.factory 0 0xFF
  let s2 := { s1 with ptr := { s1.ptr with parts := s1.ptr.parts.map (fun (x : PartSt) => if x == PartSt.unused then x else PartSt.applying) } }
  s2.toStep 7

/-- Step 8 (09 R252, R257): stacks trained, memories zeroised; the Pavilion boot code is loaded at GFC_BOOT_PC of each die (R456). -/
def State.step8 (s : State) (lanes : List (StackIx × Fin 2080)) : State :=
  let s1 := s.trainAll lanes
  let s2 := { s1 with mem := [] }
  let h := s2.norRead s2.boot.slot 0 256
  let code := s2.norRead s2.boot.slot (fwOff h 2) (fwLen h 2)
  let s3 := (List.range 8).foldl (fun s p => { s with mem := Mem.writeN s.mem (nearOf p) code }) s2
  s3.toStep 9

/-- Step 10 begins: the module asks for a change of speed (R454). -/
def State.linksTrain (s : State) : State :=
  [0, 1].foldl (fun s n => if (s.port n).link = 0 then s else s.setPort n { s.port n with link := 1 }) s
/-- Step 10: a port with a partner settles at the highest common rate (12 R319). -/
def State.step10 (s : State) : State :=
  ([0, 1].foldl (fun s n => if (s.port n).link = 1 then s.linkUp n 6 else s) s).toStep 11

/-- Start-complete (R461): the entry, the slot, ATTEMPTS and LAST; partitions run, source 262 is raised, and a held warm reset is
performed. -/
def State.startComplete (s : State) : State :=
  let (v, s0) := s.draw
  let s1 := match s0.boot.record with
    | some r =>
      s0.recordSave { r.setEnt { r.ent 0 with step := 11, slot := s0.boot.slot, imgsrc := s0.ptr.source, reason := 0, elapsed := v % 2 ^ 16 } with
        slotSt := r.slotSt.set s0.boot.slot 2, attempts := 0 }
    | none => s0
  let s2 := { s1 with boot := { s1.boot with last := s1.boot.slot }
                      ptr := { s1.ptr with parts := (List.range 8).map s1.partState }
                      ldg := { s1.ldg with held := s1.ptr.image.lodge } }
  ((((s2.toStep 12).initSteps).startService).raise 0 262).warmIfHeld

/-- The step in progress runs; step 3 waits for the judgement of REFXO. -/
def State.startStep (s : State) (recErr : Bool) (lanes : List (StackIx × Fin 2080)) : State :=
  match s.boot.phase with
  | 1 => s.toStep 2
  | 2 => s.step2
  | 3 => if s.pwr.judged then s.toStep 4 else s
  | 4 => s.step4 recErr
  | 5 => s.step5
  | 6 => s.step6
  | 7 => (({ s with pwr := { s.pwr with lock := 0xF } }).trainBegin).toStep 8
  | 8 => s.step8 lanes
  | 9 => (({ s with trl := { s.trl with on := true } }).linksTrain).toStep 10
  | 10 => s.step10
  | 11 => s.startComplete
  | _ => s

/-- Steps up to `upTo` run, each when the one before it has ended. -/
def State.startRun (recErr : Bool) (lanes : List (StackIx × Fin 2080)) (upTo : Nat) : Nat → State → State
  | 0, s => s
  | f + 1, s => if s.boot.failed ∨ upTo < s.boot.phase then s else State.startRun recErr lanes upTo f (s.startStep recErr lanes)

def State.startUp (s : State) (upTo : Nat) (recErr : Bool) (lanes : List (StackIx × Fin 2080)) : State :=
  if !s.pwr.input then s
  else
    let s0 := if s.boot.phase = 0 then s.toStep 1 else s
    State.startRun recErr lanes (min upTo 11) 12 s0

/-- The step in progress passes its maximum (R449); step 9 then ends (R451). -/
def State.startTimeout (s : State) (elapsed : Nat) : State :=
  if !s.pwr.input ∨ s.boot.phase = 0 ∨ 11 < s.boot.phase ∨ s.boot.failed then s
  else if s.boot.phase = 9 then (({ s with trl := { s.trl with on := true } }).linksTrain).toStep 10
  else s.startFail elapsed

/-! ### Slot commands (R462) -/

/-- Read a source; LOC 0 through port A, 1 device memory, as master 0x501. -/
def State.slotSource (s : State) (loc n : Nat) (hostErr : Nat) : Option (List Byte) × State :=
  s.readRaw 0x501 loc 0 (s.rf ⟨.bootSlotsrc, 0, 0, 0⟩ 55 0) n hostErr

/-- Does the read wait: the source in a stack that is HOT (09 R256), or the port's PF0 without Bus Master Enable (12 R326)? -/
def State.slotWaits (s : State) (loc : Nat) : Bool := if loc = 1 then s.hotAt (s.rf ⟨.bootSlotsrc, 0, 0, 0⟩ 55 0) else !(s.fn 0 0).bme

/-- A slot command ends with RESULT; DONE raises source 262. -/
def State.slotEnd (s : State) (result : Nat) : State :=
  { s with boot := { s.boot with cmd := none, done := true, result := result } }.raise 0 262

/-- A slot command starts; while BUSY it is ignored (R466). -/
def State.slotCmd (s : State) (op slot loc : Nat) (hostErr : Nat) : State :=
  if s.boot.phase < 12 ∨ s.boot.cmd.isSome then s
  else
    let n := s.rf ⟨.bootSlotlen, 0, 0, 0⟩ 23 0
    let begin := fun (s : State) (bs : List Byte) =>
      let s1 := s.setSlot slot 0
      let s2 := s1.norWrite slot (if op = 2 then 0x800000 else 0) (if op = 1 then 0x800000 else if op = 2 then 54 * 2 ^ 20 else 62 * 2 ^ 20) []
      { s2 with boot := { s2.boot with cmd := some { op := op, slot := slot, bytes := bs } } }
    if op = 3 then begin s []
    else if op = 2 ∧ 2 ^ 21 < n then s.slotEnd 2
    else if s.slotWaits loc then { s with boot := { s.boot with cmd := some { op := op, slot := slot, bytes := [], held := some loc } } }
    else match s.slotSource loc n hostErr with
      | (none, s1) => s1.slotEnd 0x46
      | (some bs, s1) =>
        if op = 1 then
          (let r := s1.fwCheck (fun o m => (bs.drop o).take m) bs.length
           if r = 0 then begin s1 bs else s1.slotEnd (0x3F + r))
        else match s1.imageCheck bs with
          | .ok _ => begin s1 bs
          | .error r => s1.slotEnd r

/-- The write ends: the slot is UNTRIED, or after ERASE EMPTY; an error of the flash leaves it EMPTY. -/
def State.slotDone (s : State) (norErr : Bool) : State :=
  match s.boot.cmd with
  | none => s
  | some c =>
    match c.held with
    | some loc => if s.slotWaits loc then s else ({ s with boot := { s.boot with cmd := none } }).slotCmd c.op c.slot loc anyEnd
    | none =>
    if norErr then s.slotEnd 0x45
    else if c.op = 3 then s.slotEnd 0
    else
      let s1 := s.norWrite c.slot (if c.op = 2 then 0x800000 else 0) 0 c.bytes
      (s1.setSlot c.slot 1).slotEnd 0

/-! ### The commands -/

/-- INPUT_IN_RANGE (20 R514): step 1 of a start begins. -/
def execInputInRange (s : State) : Host.Outcome State Fault Refusal :=
  .next (if s.pwr.input then s else
    let s1 := s.coldBase true
    s1.toStep 1)
/-- INPUT_OUT_OF_RANGE (20 R514): the module enters OFF. -/
def execInputOutOfRange (s : State) : Host.Outcome State Fault Refusal := .next (if s.pwr.input then s.powerOff else s)
/-- OVERCURRENT_TRIP (20 R515): the input stage opens. -/
def execOvercurrentTrip (s : State) : Host.Outcome State Fault Refusal := .next (if s.pwr.input then s.powerOff else s)
/-- START (R449). -/
def execStart (upTo : Fin 12) (recErr : Bool) (lanes : List (StackIx × Fin 2080)) (s : State) : Host.Outcome State Fault Refusal :=
  .next (s.startUp upTo.val recErr lanes)
/-- START_STEP_TIMEOUT (R449, R452). -/
def execStartStepTimeout (elapsed : BitVec 16) (s : State) : Host.Outcome State Fault Refusal := .next (s.startTimeout elapsed.toNat)
/-- START_RESTART (R452): after 100 ms a cold reset begins at step 2. -/
def execStartRestart (s : State) : Host.Outcome State Fault Refusal := .next (if s.boot.failed then s.coldReset else s)
/-- REFXO_WINDOW (18 R469, R470). -/
def execRefxoWindow (refA refB ring : BitVec 17) (s : State) : Host.Outcome State Fault Refusal :=
  .next (s.refxo refA.toNat refB.toNat ring.toNat)
/-- COLD_RESET (R453). -/
def execColdReset (s : State) : Host.Outcome State Fault Refusal := .next s.coldReset
/-- WARM_RESET (R453, R466). -/
def execWarmReset (s : State) : Host.Outcome State Fault Refusal := .next s.warmReset
/-- RESTART (R465). -/
def execRestart (s : State) : Host.Outcome State Fault Refusal := .next s.restart
/-- WRITE_FW (R462). -/
def execWriteFw (slot loc : Fin 2) (hostErr : HostErr) (s : State) : Host.Outcome State Fault Refusal :=
  .next (s.slotCmd 1 slot.val loc.val hostErr)
/-- WRITE_IMAGE (R462). -/
def execWriteImage (slot loc : Fin 2) (hostErr : HostErr) (s : State) : Host.Outcome State Fault Refusal :=
  .next (s.slotCmd 2 slot.val loc.val hostErr)
/-- ERASE (R462). -/
def execErase (slot : Fin 2) (s : State) : Host.Outcome State Fault Refusal := .next (s.slotCmd 3 slot.val 0 0)
/-- SLOTCMD_COMPLETE (R462). -/
def execSlotcmdComplete (norErr : Bool) (s : State) : Host.Outcome State Fault Refusal := .next (s.slotDone norErr)
/-- BOOT_RECORD_UPDATE_DONE (R467). -/
def execBootRecordUpdateDone (s : State) : Host.Outcome State Fault Refusal := .next s.recordDone
/-- APPLY_COMPLETE (01 R40, R42-R45); a warm reset that came during apply follows. -/
def execApplyComplete (s : State) : Host.Outcome State Fault Refusal := .next s.applied.switchDies.warmIfHeld

end Sys2Proof.Machine
end

