-- ==== Sys2Proof/Machine/OrgRows.lean ====
section
/-! DEFINITION. The Orangery commands (spec/16_orangery_security R431, R436-R442). -/

namespace Sys2Proof.Machine

/-! ### AUTHORISE (R431, R438) -/

/-- Fuse writes of a transition, in order. -/
def Fuses.transition (f : Fuses) (ty : Nat) : List FuseWrite :=
  let dead := if f.lifecycle = .deployed then [FuseWrite.slot f.deployment ones256] else []
  if ty = 0x10 then [.lc]
  else if ty = 0x11 then dead ++ [.lc]
  else if ty = 0x12 then dead ++ [.seed ones384, .scrap]
  else []
def Fuses.blowAll (f : Fuses) (l : List FuseWrite) : Fuses := l.foldl Fuses.blow f

/-- A floor token: the floor rises to VALUE, and M8 is extended with the token (R434). -/
def State.raiseFloor (s : State) (w : FuseWrite) (req : List Byte) : State :=
  ({ s with org := { s.org with fuses := s.org.fuses.blow w } }).measure 8 (sha256 req)

def State.authorise (s : State) (chan : Nat) (req : List Byte) : OrgRes × State :=
  let r := s.tokenCheck chan false req
  let s1 := s.consume chan req
  match r with
  | .error e => (e, s1)
  | .ok t =>
    let v := t.f 15 6 0
    let f := s1.org.fuses
    if t.type = 0x20 then (if v ≤ f.imgFloor then (.refused 9, s1) else (.ok [], s1.raiseFloor (.imgFloor v) req))
    else if t.type = 0x21 then (if v ≤ f.fwFloor then (.refused 9, s1) else (.ok [], s1.raiseFloor (.fwFloor v) req))
    else
      let s2 := { s1 with org := { s1.org with fuses := f.blowAll (f.transition t.type) } }
      (.ok [], s2.event7 3 0 0 0 0)

/-- AUTHORISE waits for an apply in progress (R447); a transition ends in a cold reset. -/
def State.authoriseRun (s : State) (src : OrgSrc) (hostErr : Nat) : State :=
  if s.ptr.phase = .applying then s
  else
    let t := s.orgRun src 0x37 hostErr (fun _ => 0) (fun s req => s.authorise (s.chanOf src) req)
    if t.org.fuses.lifecycle = s.org.fuses.lifecycle then t else t.coldReset

/-! ### The commands -/

/-- IDENTITY (R436). -/
def execIdentity (ch : OrgSrc) (hostErr : HostErr) (s : State) : Host.Outcome State Fault Refusal :=
  .next (s.orgRun ch 0x30 hostErr (fun _ => 48) State.identity)
/-- QUOTE (R435). -/
def execQuote (ch : OrgSrc) (hostErr : HostErr) (s : State) : Host.Outcome State Fault Refusal :=
  .next (s.orgRun ch 0x31 hostErr (fun _ => 17736) State.quote)
/-- CHALLENGE (R438). -/
def execChallenge (ch : OrgSrc) (hostErr : HostErr) (s : State) : Host.Outcome State Fault Refusal :=
  .next (s.orgRun ch 0x32 hostErr (fun _ => 32) (fun s req => s.challenge (s.chanOf ch) req))
/-- UNLOCK (R439, R440). -/
def execUnlock (ch : OrgSrc) (hostErr : HostErr) (s : State) : Host.Outcome State Fault Refusal :=
  .next (s.orgRun ch 0x33 hostErr (fun _ => 8) (fun s req => s.unlock (s.chanOf ch) req))
/-- CLOSE (R441). -/
def execClose (ch : OrgSrc) (hostErr : HostErr) (s : State) : Host.Outcome State Fault Refusal :=
  .next (s.orgRun ch 0x34 hostErr (fun _ => 0) State.closeCmd)
/-- ENROLL_SITE (R428). -/
def execEnrollSite (ch : OrgSrc) (hostErr : HostErr) (s : State) : Host.Outcome State Fault Refusal :=
  .next (s.orgRun ch 0x35 hostErr (fun _ => 0) State.enroll)
/-- EXTEND (R434). -/
def execExtend (ch : OrgSrc) (hostErr : HostErr) (s : State) : Host.Outcome State Fault Refusal :=
  .next (s.orgRun ch 0x36 hostErr (fun _ => 0) State.extendCmd)
/-- AUTHORISE (R431). -/
def execAuthorise (ch : OrgSrc) (hostErr : HostErr) (s : State) : Host.Outcome State Fault Refusal :=
  .next (s.authoriseRun ch hostErr)
/-- DEBUG STATUS (R442). -/
def execDebugStatus (ch : OrgSrc) (hostErr : HostErr) (s : State) : Host.Outcome State Fault Refusal :=
  .next (s.debugRun ch 0 hostErr State.dbgStatus)
/-- DEBUG HALT (R442). -/
def execDebugHalt (ch : OrgSrc) (hostErr : HostErr) (s : State) : Host.Outcome State Fault Refusal :=
  .next (s.debugRun ch 1 hostErr State.dbgHalt)
/-- DEBUG RESUME (R442). -/
def execResumeCore (ch : OrgSrc) (hostErr : HostErr) (s : State) : Host.Outcome State Fault Refusal :=
  .next (s.debugRun ch 2 hostErr State.dbgResume)
/-- DEBUG BRKSET (R442). -/
def execBrkset (ch : OrgSrc) (hostErr : HostErr) (s : State) : Host.Outcome State Fault Refusal :=
  .next (s.debugRun ch 4 hostErr State.dbgBrkset)
/-- DEBUG BRKCLR (R442). -/
def execBrkclr (ch : OrgSrc) (hostErr : HostErr) (s : State) : Host.Outcome State Fault Refusal :=
  .next (s.debugRun ch 5 hostErr State.dbgBrkclr)
/-- DEBUG RDREG (R442). -/
def execRdreg (ch : OrgSrc) (hostErr : HostErr) (s : State) : Host.Outcome State Fault Refusal :=
  .next (s.debugRun ch 6 hostErr State.dbgRdreg)
/-- DEBUG WRREG (R442). -/
def execWrreg (ch : OrgSrc) (hostErr : HostErr) (s : State) : Host.Outcome State Fault Refusal :=
  .next (s.debugRun ch 7 hostErr State.dbgWrreg)
/-- DEBUG RDMEM (R442). -/
def execRdmem (ch : OrgSrc) (hostErr : HostErr) (s : State) : Host.Outcome State Fault Refusal :=
  .next (s.debugRun ch 8 hostErr State.dbgRdmem)
/-- DEBUG WRMEM (R442). -/
def execWrmem (ch : OrgSrc) (hostErr : HostErr) (s : State) : Host.Outcome State Fault Refusal :=
  .next (s.debugRun ch 9 hostErr State.dbgWrmem)
/-- DEBUG TRACE_ON (R442). -/
def execTraceOn (ch : OrgSrc) (hostErr : HostErr) (s : State) : Host.Outcome State Fault Refusal :=
  .next (s.debugRun ch 10 hostErr (State.dbgTrace · true))
/-- DEBUG TRACE_OFF (R442). -/
def execTraceOff (ch : OrgSrc) (hostErr : HostErr) (s : State) : Host.Outcome State Fault Refusal :=
  .next (s.debugRun ch 11 hostErr (State.dbgTrace · false))
/-- SESSION_EXPIRE (R441): LIFE of an open session runs out. -/
def execSessionExpire (j : Fin 10) (s : State) : Host.Outcome State Fault Refusal :=
  .next (match s.sess j.val with
    | some x => if x.life = 0 then s else s.closeSess j.val 2
    | none => s)

end Sys2Proof.Machine
end

