-- ==== Sys2Proof/Machine/Power.lean ====
section
/-! DEFINITION. Clocks, the power-cap loop, heat and power states (spec/18_clocks_power R474-R491; 15 R414, R421; 16 R444, R446). -/

namespace Sys2Proof.Machine

/-! ### PLLs (R474) -/

/-- CLK_PLL as it reads (R489). -/
def State.clkPll (s : State) : Nat :=
  s.pwr.lock + s.pwr.lost * 2 ^ 4 + s.ptr.image.sscDepth * 2 ^ 8 + s.ptr.image.sscRate * 2 ^ 16

/-- Contain every partition in use under the record that orders it (19 R497). -/
def State.orderAll (s : State) (stamp : Nat) : State := s.usedParts.foldl (fun s i => s.order i stamp) s

/-- Loss of lock: PLL-P resets both ports; of another, every partition is contained and a record is posted. -/
def State.pllLoss (s : State) (i : Nat) : State :=
  if !s.pwr.lock.testBit i then s
  else
    let s1 := { s with pwr := { s.pwr with lock := s.pwr.lock - 2 ^ i, lost := s.pwr.lost ||| 2 ^ i } }
    if i = 3 then (s1.portReset 0 1).portReset 1 1
    else
      let (st, s2) := s1.postRec { sev := 4, kind := 0x0A, loc := 8, info := s1.clkPll }
      s2.orderAll st

/-- The PLL relocks; Trellis ports that PLL-S feeds retrain (13 R351). -/
def State.pllRelock (s : State) (i : Nat) : State :=
  let s1 := { s with pwr := { s.pwr with lock := s.pwr.lock ||| 2 ^ i } }
  if i = 2 ∧ !s.pwr.lock.testBit i then
    (List.range 6).foldl (fun s n => if (s.tport n).st = .up then s.retrain n else s) s1
  else s1

/-! ### The power-cap loop (R477-R480) and energy (15 R414) -/

def regPwrCap : Reg := ⟨.pwrCap, 0, 0, 0⟩
/-- The fastest enabled step no faster than min(u, 3), else the slowest enabled. -/
def State.capStep (s : State) (u : Nat) : Nat :=
  if s.ptr.image.stepEn % 16 = 0 then 0
  else (((List.range 4).filter (fun n => s.stepOn n && decide (min u 3 ≤ n))).head?).getD (s.slowest 0)

/-- acc and u after a period of `mw` milliwatts. -/
def State.loopStep (s : State) (mw : Nat) : Nat × Nat :=
  let e : Int := (mw : Int) - (s.rf regPwrCap 12 0 * 1000 : Nat)
  let band : Int := ((s.rf regPwrCap 41 32 * 1000 : Nat) : Int)
  let e := if -band ≤ e ∧ e ≤ band then 0 else e
  let acc := (clampInt 0 (16 * 2 ^ 20 - 1) ((s.pwr.acc : Int) + e * (s.rf regPwrCap 23 16 : Nat))).toNat
  (acc, acc / 2 ^ 20)

/-- Charge a period's energy, in 2^-16 mJ: to each partition its dies and stacks and its share of the other rails; what no
partition owns to partition 0. -/
def State.chargeEnergy (s : State) (rails hbms : List (BitVec 32)) (other : Nat) : State :=
  let rail := fun (d : Nat) => (nth 0 rails d).toNat
  let stk := fun (k : Nat) => (nth 0 hbms k).toNat
  let s1 := s.usedParts.foldl (fun s i =>
    let e := s.entry i
    let ds := maskBits 8 e.dies
    let v := (ds.map rail).foldl (· + ·) 0 + ((maskBits 16 e.hbms).map stk).foldl (· + ·) 0 + other * ds.length / 8
    s.meterRaw (some i) 14 v) s
  let freeS := ((List.range 16).filter (fun k => s.stackOwner k == none)).map stk
  let freeD := ((List.range 8).filter (fun d => s.dieOwner d == none))
  s1.meterRaw (some 0) 14 (freeS.foldl (· + ·) 0 + (freeD.map rail).foldl (· + ·) 0 + other * freeD.length / 8)

/-- One period. The loop stops in SLEEP (R479); the samples still charge the meters (15 R414). -/
def State.capPeriod (s : State) (mw : Nat) (rails hbms : List (BitVec 32)) (other : Nat) : State :=
  if s.boot.phase < 12 ∨ s.pwr.st = .off then s
  else if s.pwr.st = .sleep then s.chargeEnergy rails hbms other
  else
    let (acc, u) := s.loopStep mw
    let cap := (List.range 8).foldl (fun m p => SMap.set 0 m p (s.capStep u)) s.pwr.cap
    let s1 := { s with pwr := { s.pwr with acc := acc, u := u, power := mw, cap := cap } }
    let s2 := (s1.switchDies).chargeEnergy rails hbms other
    if u = s.pwr.u then s2 else s2.raise 0 258

/-! ### What a power state loses (R481, R509; 03 R91; 05 R153; 09 R257) -/

/-- The counters and settings of PMC blocks whose domain goes off read zero. -/
def pmcBlock (die : Option Nat) (b a : Nat) : Bool :=
  let base := match die with | some p => dieBlock p + 0x91000 | none => 0x1901000
  decide (base + b * 0x80 ≤ a) && decide (a < base + b * 0x80 + 0x80)

/-- Array banks, slots and the ACB, Sage's S registers and tile buffers. -/
def State.dropArray (s : State) (p : Nat) : State :=
  let a := s.ar p
  let s1 := s.setAr p { a with bankA := {}, bankB := {}, loads := [], nextLoad := [], pipe := [], relay := [], slots := [{}, {}, {}, {}],
                               acb := [], ftq := [], bias := [], resid := [], reports := [] }
  let s2 := s1.setSg p { s1.sg p with tb := [], tile := none }
  s2.rclear (fun r => pmcBlock (some p) 64 r || pmcBlock (some p) 65 r)

/-- L1 caches and TLBs of a die, after the merging buffers drain. -/
def State.dropCaches (s : State) (p : Nat) : State :=
  let s1 := (dieCores p).foldl (fun s k => (s.drainAll k).onCore k (fun c => { c with l1d := [], l1i := [] })) s
  s1.dropTlbs p

/-- What a stack keeps into SLEEP: its WCB retires, its MSC's dirty lines are written back, and it refreshes itself. Requests held at its
port stay held. -/
def State.stackSleep (s : State) (k : Nat) : State :=
  let x := (s.stack k).retireAll (s.keepWays k)
  let rests := x.st == .ready || x.st == .hot
  s.putStack k (s.stack k).wcb.length { x with st := if rests then .selfref else x.st, msc := [], woken := false, cmd := 0, passed := 0 }

/-- Near memory to retention, stacks to self-refresh, core state lost; RUN, GFC_BOOT_PC, interrupts, Sage programs and tables stay. -/
def State.toSleep (s : State) : State :=
  let s1 := (List.range 8).foldl (fun s p =>
    let s := ((s.dropCaches p).l2Empty p).dropArray p
    let s := (dieCores p).foldl (fun s k => s.resetCore k (s.core k).run) s
    s.rclear (fun r => decide (dieBlock p + 0x91000 ≤ r) && decide (r < dieBlock p + 0x91000 + 70 * 0x80))) s
  let s2 := (List.range 16).foldl State.stackSleep s1
  s2.rclear (fun r => decide (0x1901000 ≤ r) && decide (r < 0x1901000 + 22 * 0x80))

/-- Enter a state: what it loses is lost, challenges are cleared but between ACTIVE and IDLE (16 R438), and source 259 is raised. -/
def State.enterState (s : State) (t : PState) : State :=
  let s1 := match t with
    | .nap => (List.range 8).foldl (fun (s : State) p => (s.dropCaches p).dropArray p) s
    | .sleep => s.toSleep
    | _ => s
  let light := fun (x : PState) => x == .active || x == .idle
  let s2 := if light s.pwr.st && light t then s1 else { s1 with org := { s1.org with chal := [] } }
  ({ s2 with pwr := { s2.pwr with st := t } }).raise 0 259

/-! ### Requests (R482, R486) -/

/-- A request ends: zero OK, else the reason. -/
def State.reqEnd (s : State) (r : PReq) (reason : Nat) : State :=
  let tsf := if reason ≠ 0 then reason else if r.asked = .sleep ∧ r.target = .nap then 2 else 0
  let s1 := { s with pwr := { s.pwr with req := none, result := reason } }
  let s2 := if r.smb then { s1 with smb := { s1.smb with status := 0, data := leBytes 1 tsf } } else s1
  match r.q with
  | none => s2
  | some (q, ix) => s2.descDone q ix (if reason ≠ 0 then 0x84 else 0) tsf 0

/-- How deep a state is. -/
def PState.depth : PState → Nat
  | .active => 0 | .idle => 1 | .nap => 2 | .sleep => 3 | .off => 4

/-- The Trellis ports go DOWN (13 R374). -/
def State.portsDown (s : State) : State := (List.range 6).foldl (fun s n => s.portState n .down 0) s

/-- An entry to SLEEP that is cancelled (R483): its ports train again, as an exit would have them (13 R350). -/
def State.portsBack (s : State) (t : PState) : State :=
  if t = .sleep then
    (List.range 6).foldl (fun s n => if (s.tport n).st = .down ∧ s.portAllowed n then s.portState n .training 0 else s) s
  else s

/-- The Trellis ports after an entry is given up: only an entry that had begun took them DOWN. -/
def State.giveUp (s : State) (r : PReq) : State := if r.begun then s.portsBack r.target else s
/-- A newer request ends the one that waits, with reason SUPERSEDED (R486), and an entry it had begun. -/
def State.superseded (s : State) : State :=
  match s.pwr.req with
  | some r => (s.reqEnd r 4).giveUp r
  | none => s

/-- A request supersedes the one that waits. SLEEP becomes NAP under a FULL session (16 R444), is refused to the Lodge role, and asks the
parent for its grant (16 R446). -/
def State.powerReq (s : State) (asked : PState) (q : Option (Nat × Nat)) (smb : Bool) : State :=
  let s0 := s.superseded
  let target := if asked = .sleep ∧ s0.org.open 9 then PState.nap else asked
  let r : PReq := { target := target, asked := asked, q := q, smb := smb }
  let st := s0.pwr.st
  if target = .sleep ∧ s0.ldg.held ∧ st ≠ .sleep then s0.reqEnd r 1
  else if target = st ∨ (target ≠ .active ∧ target.depth < st.depth) then s0.reqEnd r 0
  else
    let s1 := { s0 with pwr := { s0.pwr with req := some r, wakeAfter := false } }
    match target with
    | .active => if st = .sleep ∨ s0.pwr.crit then s1 else s1.exitBegin
    | .sleep => (match s1.ldg.pparent with
      | some d => if s1.pwr.grant then s1 else s1.mgmt 0x51 d [] 0
      | none => s1)
    | _ => s1

/-- Is the module quiet (R483)? The descriptor that carries the request does not count. -/
def State.moduleQuiet (s : State) : Bool :=
  let own := match s.pwr.req with | some r => r.q | none => none
  s.queues.all (fun e => e.2.flight.all (fun d => own == some (e.1, d.ix)))
    && s.arr.all (fun e => e.2.seq == .idle && e.2.ops == [] && e.2.admitting == none && e.2.parked == [])
    && s.sage.all (fun e => e.2.tile == none)
    && s.txu.dies.all (fun e => e.2.dbuf == [] && e.2.ents.all (fun x => x.2 == none))
    && s.cores.all (fun e => decide (512 ≤ e.1) || e.2.wfi || !e.2.run)
    && !s.commitBusy

/-- AUTO_SLEEP's condition: PF0 of every port whose link is UP is in D3hot, and some link is. -/
def State.autoSleep (s : State) : Bool :=
  let up := [0, 1].filter (fun n => decide (2 ≤ (s.port n).link))
  s.rf ⟨.pwrCtl, 0, 0, 0⟩ 4 4 == 1 && up != [] && up.all (fun n => (s.fn n 0).d3)

/-- Entry begins when the module is quiet and the conditions of R482 hold; for SLEEP, TENANT sessions close and the ports go DOWN. -/
def State.entryBegin (s : State) : State :=
  let s := if s.pwr.req = none ∧ s.autoSleep ∧ s.pwr.st ≠ .sleep then s.powerReq .sleep none false else s
  match s.pwr.req with
  | none => s
  | some r =>
    let r := if r.target = .sleep ∧ s.org.open 9 then { r with target := PState.nap } else r
    let st := s.pwr.st
    let ready := !r.begun && s.moduleQuiet && !s.pwr.exiting && decide (st.depth < r.target.depth) && r.target != .off && !(s.pwr.crit && st == .nap)
    let go := match r.target with
      | .sleep => (s.ldg.pparent == none || s.pwr.grant) && s.org.cmds == []
      | .active => false
      | _ => true
    if !(ready && go) then s
    else
      let s1 := { s with pwr := { s.pwr with req := some { r with begun := true } } }
      if r.target = .sleep then ((List.range 8).foldl (fun s j => s.closeSess j 3) s1).portsDown else s1

/-- The state is reached; a SLEEP wake event that came meanwhile begins the exit at once. -/
def State.entryComplete (s : State) : State :=
  match s.pwr.req with
  | none => s
  | some r =>
    if !r.begun then s
    else
      let s1 := (s.enterState r.target).reqEnd r 0
      if r.target = .sleep ∧ s.pwr.wakeAfter then ({ s1 with pwr := { s1.pwr with wakeAfter := false } }).exitBegin else s1

/-- Is it a SLEEP wake event (R484)? -/
def sleepWake : WakeEv → Bool
  | .d0 _ => true
  | .perst _ => true
  | .smbus => true
  | _ => false

/-- A wake event (R483, R484, R488). While CRIT is 1 nothing leaves NAP. -/
def State.wakeUp (s : State) (ev : WakeEv) : State :=
  match s.pwr.req with
  | some r =>
    if r.begun then
      (if sleepWake ev then
        (if r.target = .sleep then { s with pwr := { s.pwr with wakeAfter := true } } else s)
       else (s.reqEnd r 3).portsBack r.target)
    else if s.pwr.st = .sleep then (if sleepWake ev then s.exitBegin else s)
    else if (s.pwr.st = .idle ∨ s.pwr.st = .nap) ∧ !sleepWake ev ∧ !s.pwr.crit then s.exitBegin
    else s
  | none =>
    if s.pwr.st = .sleep then (if sleepWake ev then s.exitBegin else s)
    else if (s.pwr.st = .idle ∨ s.pwr.st = .nap) ∧ !sleepWake ev ∧ !s.pwr.crit then s.exitBegin
    else s

/-- Exit ends in ACTIVE: after SLEEP the stacks are tested again with their pairings kept, and the module joins its Lodge again. -/
def State.exitComplete (s : State) (lanes : List (StackIx × Fin 2080)) : State :=
  if !s.pwr.exiting then s
  else
    let old := s.pwr.st
    let s1 := if old = PState.sleep then
        (let t := (List.range 16).foldl State.leaveHeld (s.trainAll lanes)
         match t.ldg.pparent with
         | some d => if d = t.device then t else t.sendJoin d 0
         | none => t)
      else s
    let s2 := { s1 with pwr := { s1.pwr with exiting := false, grant := if old = PState.sleep then false else s1.pwr.grant } }
    let s3 := (s2.enterState PState.active).sendHeld
    let s4 := match s3.pwr.req with
      | some r => if r.target = PState.active then s3.reqEnd r 0 else s3
      | none => s3
    if s4.pwr.warmAfter then ({ s4 with pwr := { s4.pwr with warmAfter := false } }).warmReset else s4

/-! ### Die sensors (R487, R491) -/

/-- The request that stands when heat puts the module in NAP: one for NAP is met, and the entry of another begins again. -/
def State.napMeets (s : State) : State :=
  match s.pwr.req with
  | some r => if r.target = .nap then s.reqEnd r 0 else ({ s with pwr := { s.pwr with req := some { r with begun := false } } }).giveUp r
  | none => s

/-- A die's sample. At 125 °C it raises the thermal sources of the die and of the module (08 R230; log entry 106). -/
def State.dieSample (s : State) (d t : Nat) : State :=
  let s1 := { s with pwr := { s.pwr with temp := SMap.set 0 s.pwr.temp d t, peak := SMap.modify 0 s.pwr.peak d (fun p => max p t) } }
  if t < 500 then s1
  else
    let s2 := { s1 with pwr := { s1.pwr with crit := true, exiting := false } }
    let (st, s3) := s2.postRec { sev := 4, kind := 0x09, loc := d, info := Config.thermalInfo d t % 2 ^ 64 }
    let s4 := (if d < 8 then (s3.orderAll st).raise d 230 else s3.orderAll st).raise 0 258
    if s4.pwr.st = .active ∨ s4.pwr.st = .idle then (s4.enterState .nap).napMeets else s4

/-! ### The commands -/

/-- PLL_LOCK_LOSS (R474). -/
def execPllLockLoss (i : Fin 4) (s : State) : Host.Outcome State Fault Refusal := .next (s.pllLoss i.val)
/-- PLL_RELOCK (R474). -/
def execPllRelock (i : Fin 4) (s : State) : Host.Outcome State Fault Refusal := .next (s.pllRelock i.val)
/-- POWER_CAP_PERIOD (R479; 15 R414). -/
def execPowerCapPeriod (mw : BitVec 32) (rails hbms : List (BitVec 32)) (other : BitVec 32) (s : State) :
    Host.Outcome State Fault Refusal := .next (s.capPeriod mw.toNat rails hbms other.toNat)
/-- DIE_THERMAL_SAMPLE (R487, R491). -/
def execDieThermalSample (d : Fin 10) (t : Fin 1024) (s : State) : Host.Outcome State Fault Refusal := .next (s.dieSample d.val t.val)
/-- THM_DIE_CLR (R491). -/
def execThmDieClr (d : Fin 10) (s : State) : Host.Outcome State Fault Refusal :=
  .next { s with pwr := { s.pwr with peak := SMap.set 0 s.pwr.peak d.val (SMap.get 0 s.pwr.temp d.val) } }
/-- POWER_STATE (R486). -/
def execPowerState (q : QIx) (s : State) : Host.Outcome State Fault Refusal :=
  .next (match s.startOp q.val tyAdmin 0x60 with
    | none => s
    | some d =>
      if d.f 4 31 2 ≠ 0 ∨ !d.zeroFrom 5 then s.descDone q.val d.ix 1 0 0
      else (s.descRun q.val d.ix).powerReq (pstateOf (d.f 4 1 0)) (some (q.val, d.ix)) false)
/-- POWER_CAP (R486). -/
def execPowerCap (q : QIx) (s : State) : Host.Outcome State Fault Refusal :=
  .next (match s.startOp q.val tyAdmin 0x61 with
    | none => s
    | some d =>
      if d.f 4 31 13 ≠ 0 ∨ !d.zeroFrom 5 then s.descDone q.val d.ix 1 0 0
      else (s.rput regPwrCap 12 0 (min 6500 (max 1000 (d.f 4 12 0)))).descDone q.val d.ix 0 0 0)
/-- PWR_CTL_GO (R486, R490). -/
def execPwrCtlGo (target : Fin 4) (s : State) : Host.Outcome State Fault Refusal :=
  .next ((s.rput ⟨.pwrCtl, 0, 0, 0⟩ 1 0 target.val).powerReq (pstateOf target.val) none false)
/-- IDLE_DELAY_EXPIRE (R482). -/
def execIdleDelayExpire (s : State) : Host.Outcome State Fault Refusal :=
  .next (if s.rf ⟨.pwrCtl, 0, 0, 0⟩ 3 3 = 1 ∧ s.pwr.st = .active ∧ s.pwr.req = none ∧ s.moduleQuiet then s.powerReq .idle none false else s)
/-- POWER_ENTRY_BEGIN (R483). -/
def execPowerEntryBegin (s : State) : Host.Outcome State Fault Refusal := .next s.entryBegin
/-- POWER_ENTRY_COMPLETE (R482). -/
def execPowerEntryComplete (s : State) : Host.Outcome State Fault Refusal := .next s.entryComplete
/-- WAKE_EVENT (R484). -/
def execWakeEvent (ev : WakeEv) (s : State) : Host.Outcome State Fault Refusal := .next (s.wakeUp ev)
/-- SLEEP_GRANT (15 R421; 16 R446): the grant admits SLEEP; a refusal ends the request. -/
def execSleepGrant (dev : DevIx) (tag : MsgTag) (grant : Bool) (s : State) : Host.Outcome State Fault Refusal :=
  .next (s.onMsg dev.val tag.seq.toNat tag.stamp.toNat (fun s =>
    let (m, s1) := s.settleMsg dev.val 0x52 (fun _ => true)
    if m = none then s1
    else if grant then { s1 with pwr := { s1.pwr with grant := true } }
    else match s1.pwr.req with
      | some r => if r.target = .sleep ∧ !r.begun then s1.reqEnd r 2 else s1
      | none => s1))

end Sys2Proof.Machine
end

