-- ==== Sys2Proof/Machine/RegWrite.lean ====
section
/-! DEFINITION. How a write of a register stores its fields (spec/01_parterre_image R35, R36; the Clamp columns of the register
tables). -/

namespace Sys2Proof.Machine

/-- Is a range wholly in HBM, or wholly in near memory? -/
def inDevMem (a n : Nat) : Bool := decide (a + n ≤ hbmTop) || rangeIn a n nearBase (8 * nearSize)

/-- Codes listed for a PMC block (19 R505): of a die's block, or of a module-wide one. -/
def pmcCodes (die : Bool) (b : Nat) : Nat :=
  if die then (if b < 64 then 8 else if b = 64 then 8 else if b = 65 then 6 else if b = 66 then 5 else if b = 67 then 6 else if b = 68 then 5 else 6)
  else if b < 16 then 8 else 6

/-- A clamp judged with the machine's state: field at bits `hi`:`lo` of a register whose word, with the write's other fields, is
`w`. -/
def State.clampSpecial (s : State) (r : Reg) (hi lo w : Nat) : Nat :=
  let v := natBits w hi lo
  match r.k with
  | .intTarget => min v (lastVec (natBits w 22 17))
  | .arrCring =>
    let n := 128 * 2 ^ (Clamp.range 4 12).apply (natBits w 55 52)
    if rangeIn (v * 4096) n (nearOf r.i) nearSize then v else nearOf r.i / 4096
  | .arrCcmp =>
    if rangeIn (v * 4096) (32 * 2 ^ s.rf ⟨.arrCring, r.i, 0, 0⟩ 55 52) (nearOf r.i) nearSize then v else nearOf r.i / 4096
  | .arrCringPtr => v % 2 ^ s.rf ⟨.arrCring, r.i, 0, 0⟩ 55 52
  | .arrCcmpPtr => v % 2 ^ s.rf ⟨.arrCring, r.i, 0, 0⟩ 55 52
  | .xltAsidtab => if inDevMem (v * 2 ^ 16) (2 ^ 16) then v else 0
  | .xltFringPtr => v % s.fringSize r.j
  | .queSq =>
    let n := 2 ^ max 4 (natBits w 4 1) * 64
    if w % 2 = 1 ∧ !inDevMem (v * 4096) n then 0 else v
  | .queCq => if w % 2 = 1 ∧ !inDevMem (v * 4096) (2 ^ max 4 (natBits w 4 1) * 32) then 0 else v
  | .quePtr => if lo = 0 then v % (s.queue r.i).sqSize else v % (s.queue r.i).cqSize
  | .queNotify =>
    if lo = 1 then min v (lastVec (s.qFunc r.i))
    else match s.queueOwner r.i with
      | some i => if (s.entry i).dies.testBit v then v else (s.entry i).lowDie
      | none => v
  | .pciBar4 => v / 2 ^ (s.port r.i).bar4log * 2 ^ (s.port r.i).bar4log
  | .trlJobfloor => min (max v s.ptr.image.floor) (max s.trl.max s.ptr.image.floor)
  | .txuCtxCfg => min 16384 (max 32 v) / 32 * 32
  | .ldgMringPtr => v % s.mringSize
  | .errRingPtr => v % 2 ^ s.rf ⟨.errRing, r.i, 0, 0⟩ 4 1
  | .pmcDst =>
    if rangeIn (v * 8192) (8192 * 2 ^ min 8 (natBits w 55 52)) nearBase (8 * nearSize) then v else nearOf r.i / 8192
  | .pmcDstM =>
    if rangeIn (v * 8192) (8192 * 2 ^ min 8 (natBits w 55 52)) nearBase (8 * nearSize) then v else nearBase / 8192
  | .pmcEvt =>
    if lo = 0 then (if v ≤ pmcCodes true r.j then v else 0)
    else if lo = 9 then (if r.l % 2 = 1 then 0 else v)
    else if 64 ≤ r.j then 0 else v
  | .pmcEvtM =>
    if lo = 0 then (if v ≤ pmcCodes false r.i then v else 0)
    else if lo = 9 then (if r.j % 2 = 1 then 0 else v)
    else 0
  | _ => v

/-- The value a field takes. -/
def State.clampField (s : State) (r : Reg) (f : FieldSpec) (w : Nat) : Nat :=
  match f.clamp with
  | .special => s.clampSpecial r f.hi f.lo w
  | c => c.apply (natBits w f.hi f.lo)

/-- Place of the EN bit of a register whose other fields hold while it is 1 (14 R399; 15 R424; 19 R510). -/
def State.heldBy (s : State) (r : Reg) : Option Nat :=
  match r.k with
  | .errRing => if s.rf r 0 0 = 1 then some 0 else none
  | .ldgMring => if s.rf r 63 63 = 1 then some 63 else none
  | .txuCtxCfg => if s.rf r 0 0 = 1 then some 0 else none
  | .txuEqCfg => if s.rf r 0 0 = 1 ∨ (s.eq32 r.i r.j).slots ≠ [] then some 0 else none
  | _ => none

/-- The RW fields a write of bits `lo` to `lo + n - 1` takes. -/
def State.written (s : State) (r : Reg) (lo n : Nat) : List FieldSpec :=
  r.k.fields.filter (fun f => f.acc == .rw && decide (lo ≤ f.lo) && decide (f.hi < lo + n) &&
    (match s.heldBy r with | some b => f.lo == b && f.hi == b | none => true))

/-- The word of a register after a write of `v`, and whether a field was clamped. -/
def State.newWord (s : State) (r : Reg) (old lo n v : Nat) : Nat × Bool :=
  let fs := s.written r lo n
  let raw := fs.foldl (fun w f => natPut w f.hi f.lo (natBits (v * 2 ^ lo) f.hi f.lo)) old
  fs.foldl (fun (a : Nat × Bool) f =>
    let x := s.clampField r f raw
    (natPut a.1 f.hi f.lo x, a.2 || x != natBits raw f.hi f.lo)) (raw, false)

/-- Store a write of a register whose fields stand in the register map; `off` is the BAR0 offset written. -/
def State.regStore (s : State) (src off : Nat) (r : Reg) (lo n v : Nat) : State :=
  let (w, c) := s.newWord r (s.rget r) lo n v
  let s1 := if w = s.rget r then s else s.rset r w
  if c then s1.clampLog src off else s1

end Sys2Proof.Machine
end

