-- ==== Sys2Proof/Machine/Errors.lean ====
section
/-! DEFINITION. Containment, release, scrubbing, error rings, injection and performance counters (spec/19_errors_counters
R494-R511). -/

namespace Sys2Proof.Machine

/-! ### Containment (R496, R497) -/

/-- A descriptor of a contained partition that has not ended completes CONTAINED; so does one that a reset of its function has ended
and whose record is not written (12 R343). -/
def State.containDesc (s : State) (q : Nat) (d : QDesc) : State :=
  match d.st with
  | .done st tsf res => if st = 5 ∧ (s.queue q).resetting then s.updDesc q d.ix (fun e => { e with st := .done 6 tsf res }) else s
  | .waiting => s.descDone q d.ix 6 0 0
  | .running => s.endDesc q d.ix 6
def State.containQueue (s : State) (q : Nat) : State :=
  let s1 := (s.queue q).flight.foldl (fun s d => s.containDesc q d) (s.prefStop q)
  s1.setQueue q { s1.queue q with st := .contained, en := false }

/-- A die's work stops: the array, Sage and the TXU; fault batches end CONTAINED. Its cores stop where they are. -/
def State.containDie (s : State) (i d : Nat) : State :=
  let s1 := s.answerDie d i .contain
  let s2 := s1.stopArray d
  let s3 := s2.setSg d { s2.sg d with tile := none }
  s3.setTdie d { stopped := true }

/-- The requests of a partition's masters that a HOT stack holds end with its containment (09 R256). -/
def State.endHeld (s : State) (k i : Nat) : State :=
  let x := s.stack k
  s.setStack k { x with held := x.held.filter (fun r => s.partOf r.master != some i) }

/-- Requests of the partition's functions that a port holds end too: reads and AtomicOps with Completer Abort (R497). -/
def State.endInq (s : State) (n i : Nat) : State :=
  let p := s.port n
  let gone := fun (r : HostReq) => s.partOf (fnMaster n r.f) == some i
  let s1 := s.setPort n { p with inq := p.inq.filter (fun r => !gone r) }
  (p.inq.filter gone).foldl (fun s r => match r.op with
    | .bar4 _ _ (some _) => s
    | .bar0 _ _ _ (some _) => s
    | _ => s.reply n 2 []) s1

/-- The order reaches the partition's dies and stacks: steps 3 and 4. -/
def State.contain (s : State) (i stamp : Nat) : State :=
  let e := s.entry i
  let ds := maskBits 8 e.dies
  let s1 := ds.foldl (fun s d => s.containDie i d) s
  let s2 := (s1.partQueues i).foldl (fun s q => s.containQueue q) s1
  let s3 := s2.ctxStop i
  let s4 := { s3 with trl := { s3.trl with out := s3.trl.out.filter (fun o => o.part != some i || o.pkt.cls == 1) }
                      ptr := { s3.ptr with parts := s3.ptr.parts.set i .contained }
                      err := { s3.err with contained := s3.err.contained ||| 2 ^ i } }
  let s5 := ((maskBits 16 e.hbms).foldl (fun s k => s.endHeld k i) (([0, 1] : List Nat).foldl (fun s n => s.endInq n i) s4)).closeRec i 5
  let s6 := s5.notice 4 [i, b2n (s5.usedParts.all (fun j => nth .unused s5.ptr.parts j == .contained))] stamp
  s6.post { sev := 3, kind := 0x0D, loc := e.lowDie, part := some i, cause := stamp, info := e.dies + e.hbms * 2 ^ 16 }

/-- The oldest order. A partition out of use, or contained meanwhile, is passed over (R499). -/
def State.orderArrives (s : State) : State :=
  match s.err.orders with
  | [] => s
  | o :: rest =>
    let s1 := { s with err := { s.err with orders := rest } }
    if !(s1.entry o.part).inUse ∨ nth .unused s1.ptr.parts o.part == .contained then s1 else s1.contain o.part o.stamp

/-- Release of a contained partition (R498): its dies are reset, its queues are DISABLED, it is RUNNING; a TENANT session that outlasted
the containment closes (16 R441). -/
def State.release (s : State) (i : Nat) : State :=
  if nth .unused s.ptr.parts i ≠ .contained then s
  else
    let s1 := ((maskBits 8 (s.entry i).dies).foldl (fun s d => s.dieReset d) s).tenantEnd i
    let s2 := { s1 with ptr := { s1.ptr with parts := s1.ptr.parts.set i .running }
                        err := { s1.err with contained := s1.err.contained - (if s1.err.contained.testBit i then 2 ^ i else 0) } }
    ((s2.partQueues i).foldl (fun s q => s.queueFree q) s2).startService

/-! ### Error rings (R502) -/

def ringR (n : Nat) : Reg := ⟨.errRing, n, 0, 0⟩
def ringP (n : Nat) : Reg := ⟨.errRingPtr, n, 0, 0⟩
/-- Has a port's ring room for a record? -/
def State.errRoom (s : State) (n : Nat) : Bool :=
  let size := 2 ^ s.rf (ringR n) 4 1
  decide (1 ≤ (s.rf (ringP n) 30 16 % size + 2 * size - nth 0 s.err.ringTail n % size - 1) % size)
/-- Write one record at TAIL; WRAP toggles when TAIL returns to 0. -/
def State.errPut (s : State) (n : Nat) (r : ErrRec) : State :=
  let size := 2 ^ s.rf (ringR n) 4 1
  let t := nth 0 s.err.ringTail n % size
  let s1 := s.hostWrite n (s.rf (ringR n) 55 12 * 4096 + 64 * t) (leBytes 64 r.raw)
  let t1 := (t + 1) % size
  { s1 with err := { s1.err with ringTail := s1.err.ringTail.set n t1
                                 ringWrap := if t1 = 0 then modNth false s1.err.ringWrap n (!·) else s1.err.ringWrap } }

/-- Write the buffered records a port's ring takes, in order, until one finds no room; how many were written. -/
def State.errBatch (n : Nat) : List ErrRec → List ErrRec → Nat → State → List ErrRec × Nat × State
  | [], acc, w, s => (acc, w, s)
  | r :: rs, acc, w, s =>
    if !s.ringTakes n r || r.wrote.testBit n then State.errBatch n rs (acc ++ [r]) w s
    else if !s.errRoom n then (acc ++ r :: rs, w, s)
    else State.errBatch n rs (acc ++ [{ r with wrote := r.wrote ||| 2 ^ n }]) (w + 1) (s.errPut n r)

/-- Does a record still wait for an enabled ring that takes it? -/
def State.recWaits (s : State) (r : ErrRec) : Bool := [0, 1].any (fun n => s.ringTakes n r && !r.wrote.testBit n)

/-- Records that no enabled ring takes leave at once, written ones in their order; waiting ones enter. -/
def State.errTrim (s : State) : State :=
  let left := (s.err.buf.filter (fun r => s.ringTakes 0 r || s.ringTakes 1 r)).dropWhile (fun r => !s.recWaits r)
  let room := 256 - left.length
  { s with err := { s.err with buf := left ++ s.err.late.take room, late := s.err.late.drop room } }

/-- A batch of ring writes, after which the vector is sent; it waits for the port's PF0 (12 R326). -/
def State.errRingWrite (s : State) (n : Nat) : State :=
  if !(s.fn n 0).bme then s else
  let (l, w, s1) := State.errBatch n s.err.buf [] 0 s
  let s2 := ({ s1 with err := { s1.err with buf := l } } : State).errTrim
  if w = 0 then s2 else s2.msix n 0 (s2.rf (ringP n) 42 32)

/-! ### Scrubbing (R495) -/

/-- Lines of a scrub: base, line size, count. -/
def scrubRange : ScrubKey → Nat × Nat × Nat
  | .stack k => (k.val * 0x1000000000, 128, 536870912)
  | .near p g => (nearOf p.val + g.val * 0x1000000, 64, 262144)
def scrubIx : ScrubKey → Nat
  | .stack k => 8 + k.val
  | .near p g => 100 + 16 * p.val + g.val
/-- May the scrub run: enabled, not in SLEEP, the stack READY? -/
def State.scrubs (s : State) (k : ScrubKey) : Bool :=
  let r : Reg := ⟨.errScrub, 0, 0, 0⟩
  s.pwr.st != .sleep && (match k with
    | .stack n => s.rf r 48 48 == 1 && (s.stack n.val).st == .ready
    | .near _ _ => s.rf r 16 16 == 1)
/-- The next line not on the known-bad list, which has at most 64. -/
def State.scrubNext (s : State) (k : ScrubKey) : Nat → Nat → Nat
  | 0, i => i
  | f + 1, i =>
    let (b, w, n) := scrubRange k
    if s.isBad (b + i % n * w) then State.scrubNext s k f ((i + 1) % n) else i % n

/-- One read of DRAM or near memory: clean, corrected (the line is rewritten as it was) or uncorrectable; an armed injection or an error that
stands in the line is met. -/
def State.scrub (s : State) (k : ScrubKey) (outcome : Nat) : State :=
  if !s.scrubs k then s
  else
    let (b, w, n) := scrubRange k
    let i := s.scrubNext k 65 (SMap.get 0 s.err.scrub (scrubIx k))
    let a := b + i * w
    let s1 := { s with err := { s.err with scrub := SMap.set 0 s.err.scrub (scrubIx k) ((i + 1) % n) } }
    if s1.injHit false (linesOf a w) && natBits (s1.rget regErrInj) 54 52 != 3 then (s1.injMeet none a (2 ^ 32)).2
    else match s1.upset (fun u => u.hits false 0x500 (linesOf a w) && u.code != 3) with
    | some (u, s2) =>
      let (v, s3) := s2.draw
      let info := v % 2 ^ 16 * 2 ^ 16 + 2 ^ 32
      if u.unc then s3.uncorrectableIn u.code none a info false else s3.correctedIn u.code none a info false
    | none =>
    if outcome = 0 then s1
    else
      let (v, s2) := s1.draw
      let info := v % 2 ^ 16 * 2 ^ 16 + 2 ^ 32
      if outcome = 1 then s2.corrected none a info false else s2.uncorrectable none a info false

/-! ### Performance counters (R504-R509) -/

/-- The domain a block counts in (R505). -/
def pmcDom : PmcBlock → Dom
  | .die _ b => if b.val < 64 then .core else if b.val = 64 then .array else if b.val = 65 then .sage else if b.val = 66 then .dma
    else if b.val = 67 then .mesh else if b.val = 68 then .near else .txu
  | .module b => if b.val < 16 then .msc else if b.val < 22 then .trls else .pcie
/-- A counter of cycles reaches 2^48 (R504); it stands while its domain is gated (R509). -/
def State.cycleOverflow (s : State) (b : PmcBlock) (c : Nat) : State :=
  if s.runs (pmcDom b) && s.pmcOwn b c 1 then s.pmcBump b c (2 ^ 48 - s.rget (pmcCtrReg b c)) else s

/-- A sampling overflow of a core's counter is captured, or lost while a sample is held (R506). -/
def State.sample (s : State) (k c skid : Nat) : State :=
  let p := k / 64
  let r : Reg := ⟨.pmcSample, p, k % 64, 0⟩
  let e : Reg := ⟨.pmcEvt, p, k % 64, c⟩
  if s.rf e 10 10 = 0 ∨ s.rf e 8 8 = 0 then s
  else if s.rf r 0 0 = 1 then s.rput r 8 8 1
  else
    let x := s.core k
    let w := 1 + c * 2 + (if x.det then 0 else skid) * 2 ^ 4 + s.rf r 8 8 * 2 ^ 8 + x.pc.toNat * 2 ^ 64
    (s.rset r w).raise p (64 + k % 64)

/-- The bytes of a snapshot by collector `c`, die 0 to 7 or 8 for the module's (R507). -/
def State.snapBytes (s : State) (c why seq cycle stamp : Nat) : List Byte :=
  let n := if c < 8 then 70 else 24
  let ctr := fun (b x : Nat) => if c < 8 then s.rget ⟨.pmcCtr, c, b, x⟩ else s.rget ⟨.pmcCtrM, b, x, 0⟩
  leBytes 8 (1 + (if c < 8 then c else 0x10) * 2 ^ 8 + n * 2 ^ 16 + why * 2 ^ 24) ++ leBytes 8 seq ++ leBytes 8 cycle ++ leBytes 8 stamp
    ++ leBytes 32 0 ++ (List.range n).flatMap (fun b => (List.range 8).flatMap (fun x => leBytes 8 (ctr b x)))

def State.coll (s : State) (c : Nat) : Coll := SMap.get {} s.colls c
def State.setCollector (s : State) (c : Nat) (x : Coll) : State := { s with colls := SMap.set {} s.colls c x }
/-- Capture: the snapshot's bytes; SEQ advances. Its CYCLE is a free value (log entry 1). -/
def State.capture (s : State) (c why : Nat) : List Byte × State :=
  let x := s.coll c
  let (v, s1) := s.draw
  let (st, s2) := s1.stamp (if c < 8 then c else 8) 0
  (s2.snapBytes c why x.seq (v % 2 ^ 64) st, s2.setCollector c { x with seq := (x.seq + 1) % 2 ^ 32 })

def dstReg (c : Nat) : Reg := if c < 8 then ⟨.pmcDst, c, 0, 0⟩ else ⟨.pmcDstM, 0, 0, 0⟩
def collReg (c : Nat) : Reg := if c < 8 then ⟨.pmcColl, c, 0, 0⟩ else ⟨.pmcCollM, 0, 0, 0⟩
/-- A snapshot to its slot of PMC_DST. -/
def State.collect (s : State) (c why : Nat) : State :=
  let seq := (s.coll c).seq
  let (bs, s1) := s.capture c why
  let slot := seq % 2 ^ s.rf (dstReg c) 55 52
  let s2 := s1.store (s.rf (dstReg c) 51 13 * 8192 + slot * 8192) bs
  s2.setCollector c { s2.coll c with done := true }

/-- May the queue take SNAPSHOT (R508)? -/
def State.snapAllowed (s : State) (q : Nat) : Bool :=
  let a := s.qAsid q
  (s.rget ⟨.pmcCtxen, a / 64, 0, 0⟩).testBit (a % 64) ||
    (List.range 10).any (fun j => match s.sess j with
      | some x => x.perms.testBit 2 && (decide (8 ≤ j) || s.queueOwner q == some x.part)
      | none => false)

/-- Snapshots of the named dies, 8 KiB apart, written as their pages are translated. -/
def State.snapDies (q ix home dst : Nat) (hostErr : Nat) : List (Nat × Nat) → State → Option Nat × State
  | [], s => (some 0, s)
  | (d, i) :: l, s =>
    let n := 64 + 64 * 70
    match State.descPages q ix home .wr hostErr (pagesOf (dst + i * 8192) n) s with
    | (none, s1) => (none, s1)
    | (some ls, s1) =>
      let (bs, s2) := s1.capture d 2
      match s2.descWrite q ix (dmaMaster home q ix) 0 ls bs with
      | (true, s3) => State.snapDies q ix home dst hostErr l s3
      | (false, s3) => (some 2, s3)

def State.doSnapshot (s : State) (q : Nat) (hostErr : Nat) : State :=
  match s.opDesc q tyService 0x60 with
  | none => s
  | some d =>
    let mask := d.f 4 7 0
    let dst := d.addr 8
    let part := match s.queueOwner q with | some i => (s.entry i).dies | none => 0
    if d.f 4 31 8 ≠ 0 ∨ natBits d.raw 255 160 ≠ 0 ∨ d.f 9 31 24 ≠ 0 ∨ !d.zeroFrom 10 ∨ dst % 64 ≠ 0 ∨ mask = 0 ∨ mask &&& part ≠ mask then
      s.descDone q d.ix 1 0 0
    else if !s.snapAllowed q then s.descDone q d.ix 2 0 0
    else
      match State.snapDies q d.ix (s.homeDie q) dst hostErr (maskBits 8 mask).zipIdx s with
      | (none, s1) => s1.descRun q d.ix
      | (some st, s1) => s1.descDone q d.ix st 0 0

/-! ### The commands -/

/-- CONTAINMENT_ORDER (R496). -/
def execContainmentOrder (s : State) : Host.Outcome State Fault Refusal := .next s.orderArrives
/-- ERROR_RING_WRITE (R502). -/
def execErrorRingWrite (n : PortIx) (s : State) : Host.Outcome State Fault Refusal := .next (s.errRingWrite n.val)
/-- SCRUB_READ (R495). -/
def execScrubRead (key : ScrubKey) (outcome : Fin 3) (s : State) : Host.Outcome State Fault Refusal := .next (s.scrub key outcome.val)
/-- ERR_RELEASE (R498). -/
def execErrRelease (mask : BitVec 8) (s : State) : Host.Outcome State Fault Refusal :=
  .next ((maskBits 8 mask.toNat).foldl (fun s i => s.release i) s)
/-- ERR_INJ (R503, R526): a write without the right is ignored with a record. -/
def State.injWrite (s : State) (m lo n v : Nat) : State :=
  if s.mayInject then s.regStore (clampSrc m) regErrInj.addr regErrInj lo n v
  else s.post { sev := 0, kind := 0x04, loc := 8, master := some m, part := s.partOf m, addr := 0x01B00018, info := 1170 }
def execErrInj (m : BitVec 12) (v : BitVec 64) (s : State) : Host.Outcome State Fault Refusal := .next (s.injWrite m.toNat 0 64 v.toNat)
/-- CYCLE_COUNT_OVERFLOW (R504). -/
def execCycleCountOverflow (b : PmcBlock) (c : Fin 8) (s : State) : Host.Outcome State Fault Refusal := .next (s.cycleOverflow b c.val)
/-- SAMPLE_CAPTURE (R506). -/
def execSampleCapture (k : Fin 512) (c : Fin 8) (skid : Fin 13) (s : State) : Host.Outcome State Fault Refusal :=
  .next (s.sample k.val c.val skid.val)
/-- PMC_COLL_GO (R507). -/
def execPmcCollGo (c : Fin 9) (s : State) : Host.Outcome State Fault Refusal := .next (s.on .mesh (s.collect c.val 1))
/-- PMC_INTERVAL (R507). -/
def execPmcInterval (c : Fin 9) (s : State) : Host.Outcome State Fault Refusal :=
  .next (s.on .mesh (if s.rf (collReg c.val) 3 3 = 1 then s.collect c.val 0 else s))
/-- SNAPSHOT (R508). -/
def execSnapshot (q : QIx) (hostErr : HostErr) (s : State) : Host.Outcome State Fault Refusal := .next (s.doSnapshot q.val hostErr)

end Sys2Proof.Machine
end

