-- ==== Sys2Proof/Machine/BusRead.lean ====
section
/-! DEFINITION. What each register reads as (the Access and Description columns of the register tables of 00 R2, 01 R48, 04 R123,
05 R155, 06 R186, 08 R235, 09 R258, R259, 10 R285, 11 R317, 12 R345, R346, 13 R375, 14 R399, 15 R424, 16 R448, 17 R467,
18 R489-R491, 19 R510, R511). A register with no line of its own reads its stored word. -/

namespace Sys2Proof.Machine

def bitsOf (l : List Bool) : Nat := (l.zipIdx).foldl (fun a x => a + b2n x.1 * 2 ^ x.2) 0

/-- PTR_PART[i] (R48): an affected partition that is quiet while a commit quiesces reads QUIESCED (R40). -/
def State.partWord (s : State) (i : Nat) : Nat :=
  let e := s.entry i
  let st := nth .unused s.ptr.parts i
  let st := if s.ptr.phase = .quiescing ∧ s.ptr.affected.testBit i ∧ st = .running ∧ s.quiet i then PartSt.quiesced else st
  e.dies + e.gang * 2 ^ 8 + st.code * 2 ^ 10 + e.hbms * 2 ^ 16 + e.qfirst * 2 ^ 32 + e.qcount * 2 ^ 44

/-- ARR_STATE (R123). -/
def State.arrWord (s : State) (p : Nat) : Nat :=
  let a := s.ar p
  let slots := (a.slots.zipIdx).foldl (fun n x => n + x.1.st.code * 8 ^ x.2) 0
  let wait := (a.ops.filter (fun o => !o.issued && !o.gathered)).length
  (s.seqOf p).code + a.bankA.st.code * 2 ^ 4 + a.bankB.st.code * 2 ^ 6 + slots * 2 ^ 8 + a.ftq.length * 2 ^ 20 + s.gangMaster p * 2 ^ 24
    + a.groups.length * 2 ^ 28 + wait * 2 ^ 32 + a.parked.length % 2 ^ 16 * 2 ^ 48

/-- SGE_STATE (R155). -/
def State.sgeWord (s : State) (p : Nat) : Nat :=
  match (s.sg p).tile with
  | some t => t.slot + 2 ^ 3 + t.ended * 2 ^ 8 + bitsOf (t.ctxs.map (fun c => c.cur.isSome)) * 2 ^ 32
  | none => s.rf (sgeReg .sgeCtl p) 0 0 * 2 ^ 4

/-- The effective issue duty of a die (18 R478, R480): the least over its gang of DUTY and the loop's duty. -/
def State.duty (s : State) (p : Nat) : Nat :=
  let loop := if s.pwr.u ≤ 3 then 16 else 19 - s.pwr.u
  (s.gang p).foldl (fun a d => min a (s.rf ⟨.clkDiv, d, 0, 0⟩ 16 12)) loop

/-- CLK_DIV[p] (R489). -/
def State.divWord (s : State) (p : Nat) : Nat :=
  s.ptr.image.clockStep + s.demand p * 2 ^ 2 + s.capDemand p * 2 ^ 4 + SMap.get 0 s.pwr.eff p * 2 ^ 6 + s.ptr.image.stepEn % 16 * 2 ^ 8
    + s.rf ⟨.clkDiv, p, 0, 0⟩ 16 12 * 2 ^ 12 + s.duty p * 2 ^ 17 + SMap.get 0 s.pwr.switches p * 2 ^ 32

/-- NMC_STATE.MODE (09 R258): ZEROISING in step 8 of a start (17 R451), and while a commit applies that zeroises the die (01 R42). -/
def State.nmcMode (s : State) (p : Nat) : Nat :=
  let zero : Bool := match s.ptr.phase, s.ptr.next with
    | .applying, some i => s.dieOwner p != i.dieOwner p
    | _, _ => false
  if s.boot.phase = 8 ∨ zero then 2 else b2n (s.pwr.st == .sleep)

/-- HBM_STATE, HBM_TEMP and MSC_OCC (R259). -/
def State.hbmWord (s : State) (k : Nat) : Nat :=
  let x := s.stack k
  x.st.code + b2n x.refresh2 * 2 ^ 3 + x.repair.length * 2 ^ 4 + x.failing.length * 2 ^ 10
    + (match s.stackOwner k with | some i => i * 2 ^ 22 + 2 ^ 25 | none => 0)
def State.hbmTempWord (s : State) (k : Nat) : Nat :=
  let x := s.stack k
  x.temp + x.peak * 2 ^ 16 + b2n x.warmEv * 2 ^ 32 + b2n x.hotEv * 2 ^ 33 + s.demand (k / 2) * 2 ^ 34
def State.mscOcc (s : State) (k : Nat) : Nat :=
  let l := ((s.stack k).msc).filter (fun e => e.2.valid)
  l.length + (l.filter (fun e => e.2.keep)).length * 2 ^ 19 + (l.filter (fun e => e.2.dirty)).length * 2 ^ 38

/-- QUE_PTR and QUE_STATE (R345). -/
def State.quePtrWord (s : State) (q : Nat) : Nat :=
  let x := s.queue q
  x.sqTail + x.sqHead * 2 ^ 16 + x.cqTail * 2 ^ 32 + x.cqHead * 2 ^ 48
def State.queStateWord (s : State) (q : Nat) : Nat :=
  let x := s.queue q
  let st := s.qst q
  st.code + b2n x.phase * 2 ^ 3 + x.err * 2 ^ 4 + x.flight.length * 2 ^ 8
    + (if st = .unassigned then 0 else s.qType q * 2 ^ 16 + s.qPort q * 2 ^ 19 + s.qFunc q * 2 ^ 20 + s.qAsid q * 2 ^ 32)

/-- PCI_PORT and PCI_OUTERR (R346). -/
def State.pciWord (s : State) (n : Nat) : Nat :=
  let p := s.port n
  p.link + p.rate * 2 ^ 2 + p.width * 2 ^ 6 + b2n p.flit * 2 ^ 11 + b2n p.reversed * 2 ^ 12 + p.resets % 2 ^ 16 * 2 ^ 16
    + p.flrs % 2 ^ 32 * 2 ^ 32
def State.pciOutWord (s : State) (n : Nat) : Nat :=
  let p := s.port n
  p.outKind + p.outMaster % 2 ^ 12 * 2 ^ 4 + p.outCount * 2 ^ 16

/-- TRL_PORTSTAT, TRL_LANEMAP and TRL_LINKERR (R375). -/
def State.trlStat (s : State) (n : Nat) : Nat :=
  let p := s.tport n
  p.st.code + p.why * 2 ^ 3 + (p.lanes.filter Option.isSome).length * 2 ^ 8 + p.level * 2 ^ 16 + p.pmax * 2 ^ 24 + p.partner * 2 ^ 32
    + p.pport * 2 ^ 50
def State.laneMap (s : State) (n : Nat) : Nat :=
  let f := fun (x : Option Nat) => match x with | some l => l + 16 | none => 0
  f (nth none (s.tport n).lanes 0) + f (nth none (s.tport n).lanes 1) * 2 ^ 8
def State.linkErr (s : State) (n : Nat) : Nat :=
  let p := s.tport n
  min p.replays 0xFFFFFFFF + min p.retrains 0xFFFF * 2 ^ 32 + min p.discards 0x7FFF * 2 ^ 48

/-- TXU_EQ_STAT and TXU_STATE (R399). -/
def State.eqStat (s : State) (p q : Nat) : Nat :=
  let e := s.eq32 p q
  let used := e.slots.length
  let ready := (e.slots.filter (fun x => match x.2 with | some t => t.ready && !t.submitted | none => false)).length
  used + ready * 2 ^ 13 + min e.holds 0xFFFF * 2 ^ 32 + min e.passes 0xFFFF * 2 ^ 48
def State.txuWord (s : State) (p : Nat) : Nat :=
  let t := s.tdie p
  t.dbuf.length + t.ents.length * 2 ^ 8 + b2n t.stopped * 2 ^ 26

/-- LDG_STATE, LDG_METER_CTL and LDG_PART (R424). -/
def State.ldgWord (s : State) : Nat :=
  let l := s.ldg
  b2n l.held + (if s.ptr.image.lodge then s.ptr.image.level * 2 else 0) + b2n l.pparent.isSome * 2 ^ 3 + b2n l.lparent.isSome * 2 ^ 4
    + l.members.length * 2 ^ 5 + l.pparent.getD 0 * 2 ^ 14 + l.lparent.getD 0 * 2 ^ 32
def State.meterCtlWord (s : State) : Nat :=
  s.rf ⟨.ldgMeterCtl, 0, 0, 0⟩ 8 8 * 2 ^ 8 + s.ldg.store.length * 2 + b2n s.ldg.deferred * 2 ^ 6
def LdgPart.word (p : LdgPart) : Nat := p.st.code + p.isOver * 2 ^ 3 + b2n p.action * 2 ^ 6 + p.tenant * 2 ^ 32

/-- ORG_STATE, ORG_MBX_CTL, ORG_SESSION and ORG_HALTED (R448). -/
def State.orgWord (s : State) : Nat :=
  let o := s.org
  o.fuses.lifecycle.code + o.level * 2 ^ 2 + o.fuses.lcCount * 2 ^ 4 + b2n o.site * 2 ^ 8 + b2n (o.open 9) * 2 ^ 9
    + b2n (o.cmds ≠ []) * 2 ^ 10 + o.fuses.imgFloor * 2 ^ 16 + o.fuses.fwFloor * 2 ^ 24 + bitsOf ((List.range 10).map o.open) * 2 ^ 32
def Mbx.word (m : Mbx) : Nat :=
  m.code + b2n m.busy * 2 ^ 9 + b2n m.done * 2 ^ 10 + m.status * 2 ^ 16 + m.reason * 2 ^ 24 + m.len % 2 ^ 16 * 2 ^ 32
def State.sessWord (s : State) (j : Nat) : Nat :=
  match s.sess j with
  | some x => 1 + sessLevel j * 2 + x.chan * 2 ^ 3 + x.perms * 2 ^ 8 + x.part * 2 ^ 16 + x.tenant * 2 ^ 32
  | none => 0
def State.haltedMask (s : State) (p : Nat) : Nat := bitsOf ((List.range 64).map (fun j => (s.core (64 * p + j)).halted))

/-- BOOT_STATE, BOOT_CTL, BOOT_SLOTCMD, BOOT_SLOTINFO and BOOT_LOG (R467); without a valid record its fields read zero. -/
def State.bootRec (s : State) : BootRec := s.boot.record.getD {}
def State.bootWord (s : State) : Nat :=
  s.boot.phase + s.boot.slot * 2 ^ 4 + b2n s.boot.unverified * 2 ^ 5 + s.boot.last * 2 ^ 6 + s.bootRec.attempts % 2 ^ 8 * 2 ^ 8
def State.slotCmdWord (s : State) : Nat :=
  s.rf ⟨.bootSlotcmd, 0, 0, 0⟩ 4 0 + b2n s.boot.cmd.isSome * 2 ^ 9 + b2n s.boot.done * 2 ^ 10 + s.boot.result * 2 ^ 16
def State.slotInfoWord (s : State) (k : Nat) : Nat :=
  nth 0 s.bootRec.slotSt k + (nth (0, 0) s.boot.info k).1 % 2 ^ 8 * 2 ^ 8 + (nth (0, 0) s.boot.info k).2 % 2 ^ 32 * 2 ^ 32

/-- PWR_STATE and PWR_LOOP (R490). -/
def State.pwrWord (s : State) : Nat :=
  let p := s.pwr
  p.st.code + (match p.req with | some r => r.target.code * 2 ^ 2 + 2 ^ 4 | none => 0) + b2n p.crit * 2 ^ 5 + p.result * 2 ^ 8
def State.loopWord (s : State) : Nat := s.pwr.u + s.pwr.acc * 2 ^ 4 + s.pwr.power % 2 ^ 32 * 2 ^ 32

/-- ERR_STAT (R510). -/
def State.errWord (s : State) : Nat :=
  let e := s.err
  min (e.buf.length + e.late.length) 256 + e.lost * 2 ^ 16 + e.contained * 2 ^ 32 + e.ce * 2 ^ 48

/-- PMC_COLL (R511). -/
def State.collWord (s : State) (c : Nat) : Nat :=
  let x := s.coll c
  s.rget (collReg c) + b2n x.busy * 2 + b2n x.done * 2 ^ 2 + x.seq * 2 ^ 32

/-- A register as it reads, without the effects of the read. -/
def State.regWord (s : State) (r : Reg) : Nat :=
  match r.k with
  | .ptrState => s.ptr.source + (s.ptr.image.parts.filter PartEntry.inUse).length * 2 ^ 8 + s.ptr.commits * 2 ^ 16
  | .ptrImageId => s.ptr.image.id
  | .ptrCommitStatus => s.ptr.phase.code + s.ptr.lastReason * 2 ^ 8 + s.ptr.affected * 2 ^ 16
  | .ptrRole =>
    let i := s.ptr.image
    b2n i.lodge + (if i.lodge then i.level * 2 else 0) + i.x * 2 ^ 8 + i.y * 2 ^ 16 + i.z * 2 ^ 24 + i.floor * 2 ^ 32
  | .ptrPart => s.partWord r.i
  | .arrState => s.arrWord r.i
  | .arrCringPtr => s.rf r 15 0 + (s.ar r.i).cringHead % 2 ^ s.cringLog r.i * 2 ^ 16
  | .arrCcmpPtr => (s.ar r.i).ccmpTail % 2 ^ s.cringLog r.i + s.rf r 31 16 * 2 ^ 16
  | .sgeState => s.sgeWord r.i
  | .sgeTblData => ((s.sg r.i).held.foldl (fun s h => s.sgeApply r.i h) s).tblRead r.i
  | .gfcRun => s.runMask r.i
  | .gfcParked => s.parkedMask r.i
  | .gfcDet => s.detMask r.i
  | .intPend => s.pendWord r.i r.j
  | .intActive => s.activeWord r.i r.j
  | .nmcState => 0xFFFF + s.nmcMode r.i * 2 ^ 16
  | .hbmState => s.hbmWord r.i
  | .hbmTemp => s.hbmTempWord r.i
  | .hbmRepair => (match SMap.get none (((s.stack r.i).repair).map (fun x => (x.1, some x.2))) r.j with
    | some l => l + 2 ^ 15
    | none => 0)
  | .mscCmd => if (s.stack r.i).cmd ≠ 0 then 2 ^ 8 else 0
  | .mscOcc => s.mscOcc r.i
  | .glbCausal => if 11 ≤ r.i ∧ r.i < 16 then 0 else SMap.get 0 s.err.stamps r.i + r.i * 2 ^ 56
  | .xltFqStat =>
    let x := s.xdie r.i
    x.used + x.rsvUsed * 2 ^ 16 + min x.stalls 0xFFFFFFFF * 2 ^ 32
  | .xltFringPtr => nth 0 s.xlt.ringTail r.j + b2n (nth false s.xlt.ringWrap r.j) * 2 ^ 15 + s.rf r 30 16 * 2 ^ 16
  | .xltInvCmd => s.rf r 17 17 * 2 ^ 17 + b2n (s.invBusy r.i) * 2 ^ 16
  | .queSq => (s.queue r.i).sq
  | .queCq => (s.queue r.i).cq
  | .queCtl => b2n (s.queue r.i).en
  | .quePtr => s.quePtrWord r.i
  | .queNotify => (s.queue r.i).notify
  | .queState => s.queStateWord r.i
  | .pciPort => s.pciWord r.i
  | .pciOuterr => s.pciOutWord r.i
  | .trlPortstat => s.trlStat r.i
  | .trlLanemap => s.laneMap r.i
  | .trlLinkerr => s.linkErr r.i
  | .trlLevel => s.trl.max + s.ptr.image.floor * 2 ^ 8
  | .trlE2e => s.rf r 31 0 + s.trl.tags.length * 2 ^ 32
  | .trlJobfloor => (SMap.get none s.regs r.addr).getD s.ptr.image.floor
  | .txuEqStat => s.eqStat r.i r.j
  | .txuState => s.txuWord r.i
  | .txuPdata => (s.pdataRead r.i).1
  | .ldgState => s.ldgWord
  | .ldgMringPtr => s.ldg.ringTail + s.rf r 28 16 * 2 ^ 16
  | .ldgMeterCtl => s.meterCtlWord
  | .ldgPart => (s.ldgPart r.i).word
  | .ldgJob => (s.ldgPart r.i).job
  | .ldgBudget => nth 0 (s.ldgPart r.i).budget r.j
  | .ldgMeter => SMap.get 0 (s.ldgPart r.i).total r.j
  | .orgState => s.orgWord
  | .orgMbxCtl => (s.mbx r.i).word
  | .orgSession => s.sessWord r.i
  | .orgHalted => s.haltedMask r.i
  | .orgMeas => natBits (SMap.get 0 s.org.meas r.i) (64 * r.j + 63) (64 * r.j)
  | .orgIdkey => natBits s.org.idPub (64 * r.i + 63) (64 * r.i)
  | .bootState => s.bootWord
  | .bootStart => s.boot.count
  | .bootShedReason => s.boot.shed
  | .bootCtl => b2n s.bootRec.force * 2 ^ 3 + s.bootRec.preferred * 2 ^ 4
  | .bootSlotcmd => s.slotCmdWord
  | .bootSlotinfo => s.slotInfoWord r.i
  | .bootLog => (s.bootRec.ent r.i).word
  | .clkRef => s.pwr.clkRef
  | .clkPll => s.clkPll
  | .clkDiv => s.divWord r.i
  | .pwrState => s.pwrWord
  | .pwrLoop => s.loopWord
  | .thmDie => SMap.get 0 s.pwr.temp r.i + SMap.get 0 s.pwr.peak r.i * 2 ^ 16
  | .errStat => s.errWord
  | .errRingPtr => s.rget r + nth 0 s.err.ringTail r.i + b2n (nth false s.err.ringWrap r.i) * 2 ^ 15
  | .errLast => natBits s.err.last (64 * r.i + 63) (64 * r.i)
  | .pmcColl => s.collWord r.i
  | .pmcCollM => s.collWord 8
  | _ => s.rget r

/-- The effect of reading a register: a claim (08 R232), and the places of SGE_TBL_DATA and TXU_PDATA advance (05 R152, R155;
14 R399). -/
def State.readEffect (s : State) (m : Nat) (r : Reg) : State :=
  match r.k with
  | .intClaimN => (s.claim r.i m 0).2
  | .intClaimF => (s.claim r.i m 1).2
  | .sgeTblData => s.sgeAccess r.i ⟨0x20, []⟩
  | .txuPdata => (s.pdataRead r.i).2
  | _ => s

/-- A read of `n` bytes of a register from byte `b` by a master; a claim is made by a read of the low half. -/
def State.regRead (s : State) (m : Nat) (r : Reg) (b n : Nat) : Nat × State :=
  let w := match r.k with
    | .intClaimN => (s.claim r.i m 0).1
    | .intClaimF => (s.claim r.i m 1).1
    | _ => s.regWord r
  (w / 2 ^ (8 * b) % 2 ^ (8 * n), if b = 0 then s.readEffect m r else s)

end Sys2Proof.Machine
end

