-- ==== Sys2Proof/Machine/Bus.lean ====
section
/-! DEFINITION. Accesses of the BAR0 map by any master (spec/00_scope R11, R12; 01 R34-R38; 12 R321, R322, R324, R325; 17 R454,
R464; and what a write of each register does, from the register tables). -/

namespace Sys2Proof.Machine

/-! ### A write of a register -/

/-- A write of a register: the master, its source code for PTR_CLAMPLOG, the BAR0 offset, and the bits `lo` to `lo + n - 1` that
it writes with `v`. -/
structure Wr where
  m : Nat
  src : Nat
  off : Nat
  lo : Nat
  n : Nat
  v : Nat
  deriving DecidableEq, Repr

/-- Does the write hold a field wholly (R322)? -/
def Wr.has (w : Wr) (hi lo : Nat) : Bool := decide (w.lo ≤ lo) && decide (hi < w.lo + w.n)
/-- The value it gives a field. -/
def Wr.f (w : Wr) (hi lo : Nat) : Nat := natBits (w.v % 2 ^ w.n * 2 ^ w.lo) hi lo
/-- Does it write a bit as 1, or as 0? -/
def Wr.one (w : Wr) (b : Nat) : Bool := w.has b b && w.f b b == 1
def Wr.zero (w : Wr) (b : Nat) : Bool := w.has b b && w.f b b == 0

def State.storeReg (s : State) (r : Reg) (w : Wr) : State := s.regStore w.src w.off r w.lo w.n w.v
/-- W1C bits that stand in the register map. -/
def State.clearBits (s : State) (r : Reg) (w : Wr) (bs : List Nat) : State :=
  bs.foldl (fun s b => if w.one b then s.rput r b b 0 else s) s
/-- A register held elsewhere takes the fields written: the word it becomes, with a clamp logged. -/
def State.heldReg (s : State) (r : Reg) (w : Wr) (old : Nat) (put : State → Nat → State) : State :=
  let (x, c) := s.newWord r old w.lo w.n w.v
  let s1 := put s x
  if c then s1.clampLog w.src w.off else s1

/-- QUE_CTL (12 R340, R345). -/
def State.queCtlWrite (s : State) (q : Nat) (w : Wr) : State :=
  let s1 := if w.one 1 then s.queueReset q else s
  if w.one 0 then s1.queueEnable q else if w.zero 0 then s1.queueDisable q else s1

/-- QUE_PTR: SQ_TAIL takes effect only in ENABLED. -/
def State.quePtrWrite (s : State) (q : Nat) (w : Wr) : State :=
  let t := w.has 15 0 && s.qst q == .enabled
  let h := w.has 63 48
  let bad := (t && decide ((s.queue q).sqSize ≤ w.f 15 0)) || (h && decide ((s.queue q).cqSize ≤ w.f 63 48))
  let s1 := if t then s.tailWrite q (w.f 15 0) else s
  let s2 := if h then s1.headWrite q (w.f 63 48) else s1
  if bad then s2.clampLog w.src w.off else s2

/-- ORG_MBX_CTL (16 R436, R448): the fields are stored, and GO submits the command. -/
def State.mbxWrite (s : State) (c : Nat) (w : Wr) : State :=
  let x := s.mbx c
  let x := { x with code := if w.has 7 0 then w.f 7 0 else x.code, len := if w.has 47 32 then w.f 47 32 else x.len,
                    done := x.done && !w.one 10 }
  if w.one 8 && !x.busy then
    let s1 := s.setMbx c { x with busy := true, done := false }
    { s1 with org := { s1.org with cmds := s1.org.cmds ++ [c] } }
  else s.setMbx c x

/-- BOOT_CTL (17 R465, R467): FORCE and PREFERRED take effect when the record update completes; RESTART is the strongest of the
resets, and WARM the weakest. -/
def State.bootCtlWrite (s : State) (w : Wr) : State :=
  let s1 := if w.has 4 3 then { s with boot := { s.boot with pend := some (w.f 3 3 == 1, w.f 4 4) } } else s
  if w.one 2 then s1.restart else if w.one 1 then s1.coldReset else if w.one 0 then s1.warmReset else s1

/-- BOOT_SLOTCMD (17 R462, R467). -/
def State.slotCmdWrite (s : State) (r : Reg) (w : Wr) : State :=
  let s1 := s.storeReg r w
  let s2 := if w.one 10 then { s1 with boot := { s1.boot with done := false } } else s1
  let op := s2.rf r 2 0
  if w.one 8 && op != 0 then s2.slotCmd op (s2.rf r 3 3) (s2.rf r 4 4) anyEnd else s2

/-- HBM_TEMP (09 R259). -/
def State.hbmTempWrite (s : State) (k : Nat) (w : Wr) : State :=
  let x := s.stack k
  let s1 := s.setStack k { x with warmEv := x.warmEv && !w.one 32, hotEv := x.hotEv && !w.one 33 }
  if w.one 63 then s1.hbmTempClr k else s1

/-- PMC_COLL of collector `c` (19 R507, R511). -/
def State.collWrite (s : State) (c : Nat) (r : Reg) (w : Wr) : State :=
  let s1 := s.storeReg r w
  let s2 := if w.one 2 then s1.setCollector c { s1.coll c with done := false } else s1
  if w.one 0 then s2.collect c 1 else s2

/-- INT_TARGET of a pending source has been written (08 R233): a core that the source signalled, and no longer names, stays signalled. -/
def State.retarget (s : State) (old p n : Nat) : State :=
  let new := s.rget (intTarget p n)
  let c := s.intc p
  let same := natBits old 6 0 == natBits new 6 0 && natBits old 8 8 == natBits new 8 8
  if old.testBit 6 && c.pend.testBit n && !c.active.testBit n && !same then
    s.onCore (64 * p + natBits old 5 0) (fun c => { c with signal := c.signal ||| 2 ^ natBits old 8 8 })
  else s

/-- What a write of a register does. -/
def State.regWrite (s : State) (r : Reg) (w : Wr) : State :=
  match r.k with
  | .ptrClamplog => if w.one 63 then s.rset r 0 else s
  | .arrGctl =>
    let s1 := s.storeReg r w
    if w.one 1 && s1.isMaster r.i then s1.closeGroups r.i else s1
  | .arrAbort => if w.one 0 then s.arrAbort r.i 1 else s
  | .sgeTblData => if w.has 31 0 then s.sgeAccess r.i ⟨0x20, leBytes 4 (w.f 31 0)⟩ else s
  | .sgeErrlog => if w.one 63 then s.rset r 0 else s
  | .gfcRun => if w.has 63 0 then s.runWrite r.i (w.f 63 0) else s
  | .intPend => if w.has 63 0 then s.pendClear r.i r.j (w.f 63 0) 0 else s
  | .intDone => if w.has 9 0 then s.intDone r.i (w.f 9 0) else s
  | .intSwset => if w.has 5 0 then s.swset r.i (w.f 5 0) else s
  | .hbmTemp => s.hbmTempWrite r.i w
  | .mscCmd =>
    if w.has 1 0 then
      let s1 := if w.f 1 0 = 3 then s.clampLog w.src w.off else s
      if w.f 1 0 = 1 ∨ w.f 1 0 = 2 then s1.mscCmd r.i (w.f 1 0) else s1
    else s
  | .xltBatchctl => (s.storeReg r w).closeOver
  | .intTarget => (s.storeReg r w).retarget (s.rget r) r.i r.j
  | .xltInvCmd =>
    let s1 := if w.one 17 then s.rput r 17 17 0 else s
    if w.one 14 then s1.invStart r.i (w.f 11 0) (w.one 12) (w.one 13) else s1
  | .queSq => if s.qst r.i = .disabled then s.heldReg r w (s.queue r.i).sq (fun s x => s.setQueue r.i { s.queue r.i with sq := x }) else s
  | .queCq => if s.qst r.i = .disabled then s.heldReg r w (s.queue r.i).cq (fun s x => s.setQueue r.i { s.queue r.i with cq := x }) else s
  | .queCtl => s.queCtlWrite r.i w
  | .quePtr => s.quePtrWrite r.i w
  | .queNotify => s.heldReg r w (s.queue r.i).notify (fun s x => s.setQueue r.i { s.queue r.i with notify := x })
  | .pciOuterr => if w.one 63 then s.setPort r.i { s.port r.i with outKind := 0, outMaster := 0, outCount := 0 } else s
  | .trlPortcfg =>
    let old := s.rf r 0 0
    let s1 := s.storeReg r w
    let s2 := if s1.rf r 0 0 ≠ old then s1.portEn r.i (old == 0) else s1
    if w.one 1 then s2.retrain r.i else s2
  | .trlLinkerr => if w.one 63 then s.setTport r.i { s.tport r.i with replays := 0, retrains := 0, discards := 0 } else s
  | .trlDetour => if s.rf (trlReg .trlDetourSel 0) 0 0 = r.i then s else s.storeReg r w
  | .txuCtxCount => if w.one 63 then s.rset r 0 else s
  | .txuEvlog => if w.one 63 then s.rset r 0 else s
  | .ldgMeterCtl =>
    let s1 := s.storeReg r w
    let s2 := if w.one 6 then { s1 with ldg := { s1.ldg with deferred := false } } else s1
    if w.one 0 then s2.closeAll 3 else s2
  | .ldgCkpt =>
    let s1 := s.storeReg r w
    if w.one 0 then s1.ckptReady r.i else s1
  | .orgMbxCtl => s.mbxWrite r.i w
  | .bootCtl => s.bootCtlWrite w
  | .bootSlotcmd => s.slotCmdWrite r w
  | .clkRef => if w.one 3 then { s with pwr := { s.pwr with refFault := false } } else s
  | .clkPll => if w.has 7 4 then { s with pwr := { s.pwr with lost := (List.range 4).foldl (fun a i =>
      if (w.f 7 4).testBit i && a.testBit i then a - 2 ^ i else a) s.pwr.lost } } else s
  | .pwrCtl =>
    let s1 := s.storeReg r w
    if w.one 2 then s1.powerReq (pstateOf (s1.rf r 1 0)) none false else s1
  | .thmDie =>
    if w.one 31 then { s with pwr := { s.pwr with peak := SMap.set 0 s.pwr.peak r.i (SMap.get 0 s.pwr.temp r.i) } } else s
  | .errRelease => if w.has 7 0 then (maskBits 8 (w.f 7 0)).foldl (fun s i => s.release i) s else s
  | .errRing => (s.storeReg r w).errTrim
  | .errRingPtr => (s.storeReg r w).errTrim
  | .errInj => s.injWrite w.m w.lo w.n w.v
  | .pmcColl => s.collWrite r.i r w
  | .pmcCollM => s.collWrite 8 r w
  | .pmcSample => s.clearBits r w [0, 8]
  | .pmcEvt => (s.storeReg r w).clearBits r w [11]
  | .pmcEvtM => (s.storeReg r w).clearBits r w [11]
  | _ => s.storeReg r w

/-! ### Windows that are no registers: Sage's memories (05 R134, R152), mailbox buffers (16 R448), MSI-X tables (12 R321) -/

/-- Die and block offset of a byte of Sage's windows. -/
def sgeWindow (off : Nat) : Option (Nat × Nat) :=
  if off < 0x410000 ∨ 0x1400000 ≤ off then none
  else
    let o := (off - 0x410000) % 0x200000
    if 0x8000 ≤ o ∧ o < 0x10000 then some ((off - 0x410000) / 0x200000, o) else none
/-- Port and place in its mailbox buffer. -/
def orgWindow (off : Nat) : Option (Nat × Nat) :=
  if 0x210000 ≤ off ∧ off < 0x230000 then some ((off - 0x210000) / 0x10000, off % 0x10000) else none
/-- Port and place in PF0's MSI-X table, or at 2^16 and above in its PBA. -/
def msixWindow (off : Nat) : Option (Nat × Nat) :=
  let at' := fun (n o : Nat) =>
    if o < 0x8000 then some (n, o) else if o < 0x8100 then some (n, o - 0x8000 + 2 ^ 16) else none
  if 0x1710000 ≤ off ∧ off < 0x1720000 then at' 0 (off - 0x1710000)
  else if 0x1720000 ≤ off ∧ off < 0x1730000 then at' 1 (off - 0x1720000)
  else none

/-- A read of `n` bytes of a function's table or PBA (log entry 23). -/
def State.msixRead (s : State) (port f o n : Nat) : Nat :=
  let ms := (s.fn port f).msix
  if 2 ^ 16 ≤ o then
    let b := 8 * (o - 2 ^ 16)
    bitsOf ((List.range (8 * n)).map (fun i => (SMap.get {} ms (b + i)).pending))
  else
    let e := SMap.get {} ms (o / 16)
    (e.addr + e.data * 2 ^ 64 + b2n e.masked * 2 ^ 96) / 2 ^ (8 * (o % 16)) % 2 ^ (8 * n)
/-- A write of the table; a vector that was pending and is no longer masked sends its message. The PBA is read only. -/
def State.msixWrite (s : State) (port f o n v : Nat) : State :=
  if 2 ^ 16 ≤ o then s
  else
    let fn := s.fn port f
    let e := SMap.get {} fn.msix (o / 16)
    let old := e.addr + e.data * 2 ^ 64 + b2n e.masked * 2 ^ 96
    let new := natPut old (8 * (o % 16) + 8 * n - 1) (8 * (o % 16)) v
    let e1 := { e with addr := new % 2 ^ 64 / 4 * 4, data := natBits new 95 64, masked := natBits new 96 96 == 1 }
    (s.setFn port f { fn with msix := SMap.set {} fn.msix (o / 16) e1 }).msixFlush port f

/-! ### An access of the map -/

/-- Who may write what the access table alone does not decide: a queue's registers (12 R325), a mailbox and its buffer (16 R436,
R448), a partition's checkpoint registers (15 R424). -/
def State.mayWrite (s : State) (m off : Nat) : Bool :=
  match regAt off with
  | some (r, _) =>
    (match r.k with
     | .queSq => s.mayDrive m r.i && s.queueOwner r.i != none
     | .queCq => s.mayDrive m r.i && s.queueOwner r.i != none
     | .queCtl => s.mayDrive m r.i && s.queueOwner r.i != none
     | .quePtr => s.mayDrive m r.i && s.queueOwner r.i != none
     | .queNotify => s.mayDrive m r.i && s.queueOwner r.i != none
     | .orgMbxCtl => m == fnMaster r.i 0 || isMgmt m
     | .ldgCkpt => s.member m r.i || isMgmt m
     | .ldgCkptDst => s.member m r.i || isMgmt m
     | .ldgCkptLen => s.member m r.i || isMgmt m
     | _ => true)
  | none => match orgWindow off with
    | some (n, _) => m == fnMaster n 0 || isMgmt m
    | none => true

/-- One read inside a register or window; reserved offsets read zero. -/
def State.readPart (s : State) (m off n : Nat) : Nat × State :=
  match regAt off with
  | some (r, b) => s.regRead m r b n
  | none => match sgeWindow off, orgWindow off, msixWindow off with
    | some (p, o), _, _ =>
      (leNat ((upFrom o n).map (fun i => (((s.sg p).held.foldl (fun s h => s.sgeApply p h) s).sg p).getByte i)), s)
    | none, some (c, o), _ => (Mem.readLE s.org.buf (c * 65536 + o) n, s)
    | none, none, some (port, o) => (s.msixRead port 0 o n, s)
    | none, none, none => (0, s)

/-- One write inside a register or window; reserved offsets ignore writes. -/
def State.writePart (s : State) (m src off n v : Nat) : State :=
  match regAt off with
  | some (r, b) => s.regWrite r ⟨m, src, off, 8 * b, 8 * n, v⟩
  | none => match sgeWindow off, orgWindow off, msixWindow off with
    | some (p, o), _, _ => s.sgeAccess p ⟨o, leBytes n v⟩
    | none, some (c, o), _ => { s with org := { s.org with buf := Mem.writeN s.org.buf (c * 65536 + o) (leBytes n v) } }
    | none, none, some (port, o) => s.msixWrite port 0 o n v
    | none, none, none => s

/-- Does an 8-byte access meet one register of 8 bytes or more? Else it is two accesses of 4 bytes, the lower first. -/
def oneReg (off : Nat) : Bool := match regAt off with | some (r, _) => decide (8 ≤ r.k.bytes) | none => false

/-- A read of 4 or 8 naturally aligned bytes, already checked. -/
def State.mmioRead (s : State) (m off n : Nat) : Nat × State :=
  if n = 4 ∨ oneReg off then s.readPart m off n
  else
    let (a, s1) := s.readPart m off 4
    let (b, s2) := s1.readPart m (off + 4) 4
    (a + b * 2 ^ 32, s2)
/-- The same for a write. -/
def State.mmioWrite (s : State) (m src off n v : Nat) : State :=
  if n = 4 ∨ oneReg off then s.writePart m src off n v
  else (s.writePart m src off 4 (v % 2 ^ 32)).writePart m src (off + 4) 4 (v / 2 ^ 32)

/-- A read by a master under the access rules; its failure has been recorded. -/
def State.busRead (s : State) (m off n : Nat) : Except AccFail Nat × State :=
  match s.tryAcc m .rd false (mmioBase + off) n with
  | (some f, s1) => (.error f, s1)
  | (none, s1) => let (v, s2) := s1.mmioRead m off n; (.ok v, s2)
/-- A write: performed, or refused and recorded. -/
def State.busWrite (s : State) (m src off n v : Nat) : Option AccFail × State :=
  match s.tryAcc m .wr false (mmioBase + off) n with
  | (some f, s1) => (some f, s1)
  | (none, s1) =>
    if !s1.mayWrite m off then (some (.denied (mmioBase + off)), s1.postDenied m (mmioBase + off))
    else (none, s1.mmioWrite m src off n v)

/-! ### Requests of the hosts (12 R321-R325; 17 R454) -/

/-- Is the function there, its memory space enabled, and does it answer memory requests in its power state? -/
def State.fnServes (s : State) (n f : Nat) : Bool :=
  s.fnExists n f && (s.port n).cfgUp && (s.fn n 0).memEn && !(s.fn n f).d3

/-- The BAR0 offset a request reaches: PF0's BAR0 is the map; a VF's holds the QUE registers; none: another place or no place. -/
def bar0Off (f : Nat) (off : Nat) : Option Nat :=
  if f = 0 then some off else if off < 0x40000 then some (0x1600000 + off) else none

/-- Before start-complete memory requests reach GLB, PTR, ORG and BOOT only (17 R454). -/
def earlyBlock (off : Nat) : Bool :=
  decide (off < 0x10000) || rangeIn off 1 0x100000 0x10000 || rangeIn off 1 0x200000 0x30000 || rangeIn off 1 0x1C00000 0x10000

/-- A request that fails as an access of an illegal size does: it is recorded; a read completes with Unsupported Request. -/
def State.badRequest (s : State) (n m off : Nat) (rd : Bool) : State :=
  let s1 := s.postAbsent m (mmioBase + off)
  if rd then s1.reply n 1 [] else s1

/-- A doorbell page (12 R322, R329, R345). -/
def State.bar2 (s : State) (n m off size : Nat) (wr : Option (BitVec 64)) : State :=
  let q := off / 4096
  let o := off % 4096
  let ptr := Reg.addr ⟨.quePtr, q, 0, 0⟩
  match wr with
  | some v =>
    if o = 0 then
      (s.busWrite m (clampSrc m) ptr size (v.toNat % 2 ^ 16 + if size = 8 then natBits v.toNat 47 32 * 2 ^ 48 else 0)).2
    else if o = 4 then (s.busWrite m (clampSrc m) (ptr + 4) 4 (v.toNat % 2 ^ 16 * 2 ^ 16)).2
    else s
  | none =>
    match s.tryAcc m .rd false (quePtrAddr q) 8 with
    | (some f, s1) => s1.reply n f.cplStatus []
    | (none, s1) =>
      let w := (s1.queue q).sqTail + (s1.queue q).cqHead * 2 ^ 32
      s1.reply n 0 (leBytes size (if o = 0 then w else if o = 4 then w / 2 ^ 32 else 0))

/-- An inbound request to BAR0, VF BAR0, BAR2 or VF BAR2. -/
def State.bar0 (s : State) (n f : Nat) (two : Bool) (off size : Nat) (wr : Option (BitVec 64)) : State :=
  let m := fnMaster n f
  if !s.fnServes n f then (if wr.isNone then s.reply n 1 [] else s)
  else if (size ≠ 4 ∧ size ≠ 8) ∨ off % size ≠ 0 then s.badRequest n m off wr.isNone
  else if two then
    (if s.boot.phase < 12 ∨ 4096 * 4096 ≤ off then s.badRequest n m off wr.isNone else s.bar2 n m off size wr)
  else if s.boot.phase < 12 ∧ !(f == 0 && earlyBlock off) then s.badRequest n m off wr.isNone
  else match bar0Off f off with
    | some o =>
      if (mmioTarget o).isNone then s.badRequest n m o wr.isNone
      else match wr with
        | some v => (s.busWrite m (clampSrc m) o size (v.toNat % 2 ^ (8 * size))).2
        | none =>
          match s.busRead m o size with
          | (.ok v, s1) => s1.reply n 0 (leBytes size v)
          | (.error e, s1) => s1.reply n e.cplStatus []
    | none =>
      let o := if 0x80000 ≤ off ∧ off < 0x80400 then some (off - 0x80000)
        else if 0x88000 ≤ off ∧ off < 0x88008 then some (off - 0x88000 + 2 ^ 16) else none
      match wr, o with
      | some v, some o => s.msixWrite n f o size (v.toNat % 2 ^ (8 * size))
      | some _, none => s
      | none, some o => s.reply n 0 (leBytes size (s.msixRead n f o size))
      | none, none => s.reply n 0 (leBytes size 0)

/-- REGISTER_WRITE (R35, R36): a write by a master, of 4 or 8 naturally aligned bytes. -/
def execRegisterWrite (m : BitVec 12) (off : BitVec 25) (wide : Bool) (v : BitVec 64) (s : State) : Host.Outcome State Fault Refusal :=
  let n := if wide then 8 else 4
  let o := off.toNat
  .next (if o % n ≠ 0 then s.postAbsent m.toNat (mmioBase + o)
    else (s.busWrite m.toNat (clampSrc m.toNat) o n (v.toNat % 2 ^ (8 * n))).2)
end Sys2Proof.Machine
end

