-- ==== Sys2Proof/Machine/GDecode.lean ====
section
/-! DEFINITION. Decoding of Gelfort and Vexten instructions (spec/06_gelfort_core R161-R164, R170, R175;
spec/07_vexten_vectors R196-R207). A word that is no instruction gives the ILLOP subcode of R217: 1 for a reserved opcode,
F3 or FN7, 2 for a non-zero unused field or a reserved register code, 6 for a Vexten operand rule of the encoding alone. -/

namespace Sys2Proof.Machine

/-- A decoded instruction with its length in bytes, or the ILLOP subcode. -/
abbrev GDec := Except Nat (GInstr × Nat)

/-- Field `hi:lo` as a bounded number. -/
def fld (w hi lo n : Nat) (h : 0 < n) : Fin n := ⟨natBits w hi lo % n, Nat.mod_lt _ h⟩
def f32 (w hi lo : Nat) : Fin 32 := fld w hi lo 32 (by decide)
def f8 (w hi lo : Nat) : Fin 8 := fld w hi lo 8 (by decide)
def f4 (w hi lo : Nat) : Fin 4 := fld w hi lo 4 (by decide)

/-- The 16-bit formats (R162). -/
def gDecode16 (h : Nat) : GDec :=
  let op := natBits h 5 1
  let rs := f32 h 15 11
  let rd := f32 h 10 6
  let ok (i : GInstr) : GDec := .ok (i, 2)
  match op with
  | 0x01 => ok (.cMv rd rs)
  | 0x02 => ok (.cAdd .add rd rs)
  | 0x03 => ok (.cAdd .sub rd rs)
  | 0x04 => ok (.cAdd .and rd rs)
  | 0x05 => ok (.cAdd .or rd rs)
  | 0x06 => ok (.cAdd .xor rd rs)
  | 0x07 => ok (.cLi rd rs)
  | 0x08 => ok (.cAddi rd rs)
  | 0x09 => ok (.cSlli .sll rd rs)
  | 0x0A => ok (.cSlli .srl rd rs)
  | 0x0B => ok (.cSlli .sra rd rs)
  | 0x0C => ok (.cBeqz rd rs)
  | 0x0D => ok (.cBnez rd rs)
  | 0x0E => ok (.cJ (fld h 15 6 1024 (by decide)))
  | 0x0F => if rs.val = 0 then ok (.cJr rd false) else if rs.val = 1 then ok (.cJr rd true) else .error 2
  | 0x10 => ok (.cLd false (f8 h 8 6) (f8 h 11 9) (fld h 15 12 16 (by decide)))
  | 0x11 => ok (.cSd false (f8 h 8 6) (f8 h 11 9) (fld h 15 12 16 (by decide)))
  | 0x12 => ok (.cLd true (f8 h 8 6) (f8 h 11 9) (fld h 15 12 16 (by decide)))
  | 0x13 => ok (.cSd true (f8 h 8 6) (f8 h 11 9) (fld h 15 12 16 (by decide)))
  | 0x14 =>
    if h.testBit 6 then (if natBits h 15 13 = 0 then ok (.repN (fld h 12 7 64 (by decide))) else .error 2)
    else (if natBits h 15 7 = 0 then ok .repI else .error 2)
  | 0x15 => if natBits h 15 6 = 0 then ok .cNop else .error 2
  | _ => .error 1

def aluOpOf (n : Nat) : AluOp :=
  match n with
  | 0 => .add | 1 => .sub | 2 => .and | 3 => .or | 4 => .xor | 5 => .sll | 6 => .srl | _ => .sra
def divOpOf (n : Nat) : DivOp :=
  match n with
  | 4 => .div | 5 => .divu | 6 => .rem | _ => .remu

def decAlu (w : Nat) (rd rs1 rs2 : GReg) : Except Nat GInstr :=
  let f3 := natBits w 19 17
  match natBits w 31 25 with
  | 0x00 => .ok (.add (aluOpOf f3) rd rs1 rs2)
  | 0x01 =>
    match f3 with
    | 0 => .ok (.slt .slt rd rs1 rs2)
    | 1 => .ok (.slt .sltu rd rs1 rs2)
    | 2 => .ok (.slt .min rd rs1 rs2)
    | 3 => .ok (.slt .max rd rs1 rs2)
    | 4 => .ok (.slt .minu rd rs1 rs2)
    | 5 => .ok (.slt .maxu rd rs1 rs2)
    | 6 => .ok (.qadd false rd rs1 rs2)
    | _ => .ok (.qadd true rd rs1 rs2)
  | 0x02 =>
    match f3 with
    | 0 => .ok (.mul .mul rd rs1 rs2)
    | 1 => .ok (.mul .mulh rd rs1 rs2)
    | 2 => .ok (.mul .mulhu rd rs1 rs2)
    | 3 => .ok (.mul .mulhsu rd rs1 rs2)
    | n => .ok (.div (divOpOf n) rd rs1 rs2)
  | _ => .error 1

def decAlui (w : Nat) (rd rs1 : GReg) : Except Nat GInstr :=
  let imm := BitVec.ofNat 12 (natBits w 31 20)
  match natBits w 19 17 with
  | 0 => .ok (.alui .addi rd rs1 imm)
  | 1 => .ok (.alui .andi rd rs1 imm)
  | 2 => .ok (.alui .ori rd rs1 imm)
  | 3 => .ok (.alui .xori rd rs1 imm)
  | 4 => .ok (.alui .slti rd rs1 imm)
  | 5 => .ok (.alui .sltiu rd rs1 imm)
  | 6 =>
    if natBits w 31 28 ≠ 0 then .error 2
    else match natBits w 27 26 with
      | 0 => .ok (.alui .slli rd rs1 (BitVec.ofNat 12 (natBits w 25 20)))
      | 1 => .ok (.alui .srli rd rs1 (BitVec.ofNat 12 (natBits w 25 20)))
      | 2 => .ok (.alui .srai rd rs1 (BitVec.ofNat 12 (natBits w 25 20)))
      | _ => .error 2
  | _ => .error 1

def decAluw (w : Nat) (rd rs1 rs2 : GReg) : Except Nat GInstr :=
  match natBits w 31 25, natBits w 19 17 with
  | 0, 0 => .ok (.aluw .add rd rs1 rs2)
  | 0, 1 => .ok (.aluw .sub rd rs1 rs2)
  | 0, 5 => .ok (.aluw .sll rd rs1 rs2)
  | 0, 6 => .ok (.aluw .srl rd rs1 rs2)
  | 0, 7 => .ok (.aluw .sra rd rs1 rs2)
  | 2, 0 => .ok (.aluw .mul rd rs1 rs2)
  | 2, 4 => .ok (.aluw .div rd rs1 rs2)
  | 2, 5 => .ok (.aluw .divu rd rs1 rs2)
  | 2, 6 => .ok (.aluw .rem rd rs1 rs2)
  | 2, 7 => .ok (.aluw .remu rd rs1 rs2)
  | _, _ => .error 1

def decFp (w : Nat) (rd rs1 rs2 : GReg) : Except Nat GInstr :=
  let f3 := f8 w 19 17
  let fn := natBits w 31 25
  let opOf (n : Nat) : Option FpOp := match n with
    | 0 => some .fadd | 1 => some .fsub | 2 => some .fmul | 3 => some .fdiv | 4 => some .fsqrt
    | 5 => some .fmin | 6 => some .fmax | 7 => some .fcmp | 8 => some .fsgn | _ => none
  if fn = 0x20 then (if rs2.val < 8 then .ok (.fcvt (f8 w 22 20) f3 rd rs1) else .error 2)
  else match opOf (fn % 16) with
    | some op =>
      if fn / 16 = 0 then .ok (.fp op true f3 rd rs1 rs2)
      else if fn / 16 = 1 then .ok (.fp op false f3 rd rs1 rs2)
      else .error 1
    | none => .error 1

def decFix (w : Nat) (rd rs1 rs2 : GReg) : Except Nat GInstr :=
  let ad := f4 w 8 7
  let mac (i : GInstr) : Except Nat GInstr := if rd.val < 4 then .ok i else .error 2
  let acc := f4 w 13 12
  let ext (i : GInstr) : Except Nat GInstr := if rs1.val < 4 ∧ rs2.val = 0 then .ok i else .error 2
  if natBits w 19 17 ≠ 0 then .error 2
  else match natBits w 31 25 with
    | 0x00 => mac (.fmac .fmacQ31 ad rs1 rs2)
    | 0x01 => mac (.fmac .fmsuQ31 ad rs1 rs2)
    | 0x02 => mac (.fmac .fmulQ31 ad rs1 rs2)
    | 0x03 => mac (.fmac .fmac2Q15 ad rs1 rs2)
    | 0x04 => mac (.fmacp false ad rs1 rs2)
    | 0x05 => mac (.fmacp true ad rs1 rs2)
    | 0x06 => mac (.fmac .fmacQ15 ad rs1 rs2)
    | 0x07 => mac (.fmac .fmsuQ15 ad rs1 rs2)
    | 0x08 => ext (.fext false rd acc)
    | 0x09 => ext (.fext true rd acc)
    | 0x0A => ext (.mfa false rd acc)
    | 0x0B => ext (.mfa true rd acc)
    | 0x0C => mac (.mta ad rs1 rs2)
    | _ => .error 1

/-- R175: the three registers distinct and none of them G0; F3 above 3 is no element size. -/
def decBlock (w : Nat) (rd rs1 rs2 : GReg) : Except Nat GInstr :=
  if 3 < natBits w 19 17 then .error 1
  else
    let z := f4 w 18 17
    let ok (op : BlockOp) : Except Nat GInstr := .ok (.block op z rd rs1 rs2)
    match natBits w 31 25 with
    | 0 => ok .bmov
    | 1 => ok .bfill
    | 2 => ok .bcmp
    | 3 => ok .bscan
    | _ => .error 1

def decSys (w : Nat) (rd rs1 : GReg) : Except Nat GInstr :=
  let n := natBits w 31 20
  let imm := BitVec.ofNat 12 n
  let z (b : Bool) (i : GInstr) : Except Nat GInstr := if b then .ok i else .error 2
  match natBits w 19 17 with
  | 0 => z (rs1.val == 0) (.mfc rd imm)
  | 1 => z (rd.val == 0) (.mtc imm rs1)
  | 2 => z (rd.val == 0 && rs1.val == 0) (.mset imm)
  | 3 => z (rd.val == 0 && rs1.val == 0) (.mclr imm)
  | 4 => z (rd.val == 0 && rs1.val == 0) (.iwin imm)
  | 5 =>
    match n with
    | 0 => z (rd.val == 0 && rs1.val == 0) .syscall
    | 1 => z (rd.val == 0 && rs1.val == 0) .brk
    | 2 => z (rd.val == 0 && rs1.val == 0) .eret
    | 3 => z (rd.val == 0 && rs1.val == 0) .wfi
    | 4 => z (rd.val == 0 && rs1.val == 0) .iflush
    | _ => .error 2
  | _ => .error 1

/-! ### Vexten (07 R196, R197) -/

def decVMem (w : Nat) (store : Bool) : Except Nat GInstr :=
  let vd := f32 w 11 7
  let rs1 := f32 w 16 12
  let v2 := f32 w 21 17
  let km := f8 w 24 22
  let form := natBits w 27 25
  let iw := natBits w 29 28
  let hint := f4 w 31 30
  let mk (f : VForm) (vd : Fin 32) : Except Nat GInstr :=
    .ok (if store then .vstore f hint vd rs1 km else .vload f hint vd rs1 km)
  if form ≠ 2 ∧ iw ≠ 0 then .error 2
  else match form with
    | 0 => if v2.val = 0 then mk .unit vd else .error 2
    | 1 => mk (.strided v2) vd
    | 2 => if iw = 3 then .error 2 else mk (.indexed v2 (fld w 29 28 3 (by decide))) vd
    | 3 => if v2.val = 0 then mk (.segment 2) vd else .error 2
    | 4 => if v2.val = 0 then mk (.segment 3) vd else .error 2
    | 5 => if v2.val = 0 then mk (.segment 4) vd else .error 2
    | 6 => if v2.val = 0 ∧ km.val = 0 then mk .wholeV vd else .error 2
    | _ => if v2.val = 0 ∧ km.val = 0 ∧ vd.val < 8 then mk .wholeK vd else .error 2

def decVInt (w : Nat) (src : VSrc) : Except Nat GInstr :=
  let vd := f32 w 11 7
  let vs1 := f32 w 16 12
  let km := f8 w 24 22
  match natBits w 31 25 with
  | 0x00 => .ok (.vadd .vadd vd vs1 src km)
  | 0x01 => .ok (.vadd .vsub vd vs1 src km)
  | 0x02 => .ok (.vadd .vand vd vs1 src km)
  | 0x03 => .ok (.vadd .vor vd vs1 src km)
  | 0x04 => .ok (.vadd .vxor vd vs1 src km)
  | 0x05 => .ok (.vsll .vsll vd vs1 src km)
  | 0x06 => .ok (.vsll .vsrl vd vs1 src km)
  | 0x07 => .ok (.vsll .vsra vd vs1 src km)
  | 0x08 => .ok (.vmin .vmin vd vs1 src km)
  | 0x09 => .ok (.vmin .vmax vd vs1 src km)
  | 0x0A => .ok (.vmin .vminu vd vs1 src km)
  | 0x0B => .ok (.vmin .vmaxu vd vs1 src km)
  | 0x0C => .ok (.vmul .vmul vd vs1 src km)
  | 0x0D => .ok (.vmul .vmulh vd vs1 src km)
  | 0x0E => .ok (.vmul .vmulhu vd vs1 src km)
  | 0x0F => .ok (.vmacc vd vs1 src km)
  | 0x10 => .ok (.vsadd .vsadd vd vs1 src km)
  | 0x11 => .ok (.vsadd .vssub vd vs1 src km)
  | 0x12 => if vs1.val = 0 then .ok (.vmv vd src km) else .error 2
  | _ => .error 1

def decVFp (w : Nat) (src : VSrc) (isVV : Bool) : Except Nat GInstr :=
  let vd := f32 w 11 7
  let vs1 := f32 w 16 12
  let v2 := f32 w 21 17
  let km := f8 w 24 22
  let un (i : GInstr) : Except Nat GInstr :=
    if !isVV then .error 1 else if v2.val = 0 then .ok i else .error 2
  match natBits w 31 25 with
  | 0x00 => .ok (.vfadd .vfadd vd vs1 src km)
  | 0x01 => .ok (.vfadd .vfsub vd vs1 src km)
  | 0x02 => .ok (.vfadd .vfmul vd vs1 src km)
  | 0x03 => .ok (.vfadd .vfdiv vd vs1 src km)
  | 0x04 => un (.vfsqrt vd vs1 km)
  | 0x05 => .ok (.vfmin .vfmin vd vs1 src km)
  | 0x06 => .ok (.vfmin .vfmax vd vs1 src km)
  | 0x07 => .ok (.vfma vd vs1 src km)
  | 0x08 => .ok (.vfnms vd vs1 src km)
  | 0x09 => .ok (.vfsgn vd vs1 src km)
  | 0x10 => un (.vfcvt .fFromI vd vs1 km)
  | 0x11 => un (.vfcvt .iFromF vd vs1 km)
  | 0x12 => un (.vfcvt .fFromU vd vs1 km)
  | 0x13 => un (.vfcvt .uFromF vd vs1 km)
  | 0x14 => un (.vfwcvt .f32 vd vs1 km)
  | 0x15 => un (.vfncvt .f32 vd vs1 km)
  | 0x16 => un (.vfwcvt .bf16 vd vs1 km)
  | 0x17 => un (.vfwcvt .f16 vd vs1 km)
  | 0x18 => un (.vfncvt .bf16 vd vs1 km)
  | 0x19 => un (.vfncvt .f16 vd vs1 km)
  | _ => .error 1

def decVWide (w : Nat) : Except Nat GInstr :=
  let vd := f32 w 11 7
  let a := f32 w 16 12
  let b := f32 w 21 17
  let km := f8 w 24 22
  match natBits w 31 25 with
  | 0x00 => .ok (.vwmul false vd a b km)
  | 0x01 => .ok (.vwmul true vd a b km)
  | 0x02 => .ok (.vwmacc vd a b km)
  | 0x03 => .ok (.vwfmul vd a b km)
  | 0x04 => .ok (.vwfma vd a b km)
  | 0x10 => .ok (.vdot4 .i8 vd a b km)
  | 0x11 => .ok (.vdot4 .u8 vd a b km)
  | 0x12 => .ok (.vdot4 .su8 vd a b km)
  | 0x13 => .ok (.vdot2 .bf16 vd a b km)
  | 0x14 => .ok (.vdot2 .f16 vd a b km)
  | 0x15 => .ok (.vdot2 .f32 vd a b km)
  | _ => .error 1

def decVRed (w : Nat) : Except Nat GInstr :=
  let vd := f32 w 11 7
  let a := f32 w 16 12
  let b := f32 w 21 17
  let km := f8 w 24 22
  match natBits w 31 25 with
  | 0x00 => .ok (.vredsum vd a b km)
  | 0x01 => .ok (.vredmin .min vd a b km)
  | 0x02 => .ok (.vredmin .max vd a b km)
  | 0x03 => .ok (.vredmin .minu vd a b km)
  | 0x04 => .ok (.vredmin .maxu vd a b km)
  | 0x05 => .ok (.vredand .and vd a b km)
  | 0x06 => .ok (.vredand .or vd a b km)
  | 0x07 => .ok (.vredand .xor vd a b km)
  | 0x08 => .ok (.vfredsum vd a b km)
  | 0x09 => .ok (.vfredmin .vfmin vd a b km)
  | 0x0A => .ok (.vfredmin .vfmax vd a b km)
  | 0x0B => .ok (.vfwredsum vd a b km)
  | _ => .error 1

def decVPerm (w : Nat) : Except Nat GInstr :=
  let vd := f32 w 11 7
  let a := f32 w 16 12
  let b := f32 w 21 17
  let km := f8 w 24 22
  match natBits w 31 25 with
  | 0x00 => if b.val = 0 then .ok (.vcompress vd a km) else .error 2
  | 0x01 => if b.val = 0 then .ok (.vexpand vd a km) else .error 2
  | 0x02 => .ok (.vperm vd a b km)
  | 0x03 => .ok (.vslideup vd a b km)
  | 0x04 => .ok (.vslidedown vd a b km)
  | 0x05 => if km.val = 0 then .ok (.vmvXv vd a b) else .error 6
  | 0x06 => if km.val ≠ 0 then .error 6 else if b.val = 0 ∧ a.val < 8 then .ok (.vpopc vd (f8 w 14 12)) else .error 2
  | 0x07 => if km.val ≠ 0 then .error 6 else if b.val = 0 ∧ a.val < 8 then .ok (.vfirst vd (f8 w 14 12)) else .error 2
  | _ => .error 1

def decVCmp (w : Nat) : Except Nat GInstr :=
  let kd := f32 w 11 7
  let a := f32 w 16 12
  let b := f32 w 21 17
  let km := f8 w 24 22
  let fn := natBits w 31 25
  let src : VSrc := if fn < 0x40 then .v b else .x b
  let ok (op : VCmpOp) : Except Nat GInstr :=
    if kd.val < 8 then .ok (.vcmp op (f8 w 9 7) a src km) else .error 2
  match fn % 0x40 with
  | 0x00 => ok .eq
  | 0x01 => ok .ne
  | 0x02 => ok .lt
  | 0x03 => ok .ltu
  | 0x04 => ok .le
  | 0x05 => ok .leu
  | 0x08 => ok .feq
  | 0x09 => ok .flt
  | 0x0A => ok .fle
  | 0x0B => ok .fun
  | _ => .error 1

def decKMask (w : Nat) : Except Nat GInstr :=
  let kd := f32 w 11 7
  let a := f32 w 16 12
  let b := f32 w 21 17
  let ok (op : KOp) : Except Nat GInstr :=
    if natBits w 24 22 ≠ 0 then .error 6
    else if kd.val < 8 ∧ a.val < 8 ∧ b.val < 8 then .ok (.kand op (f8 w 9 7) (f8 w 14 12) (f8 w 19 17))
    else .error 2
  match natBits w 31 25 with
  | 0x00 => ok .kand
  | 0x01 => ok .kor
  | 0x02 => ok .kxor
  | 0x03 => ok .kandn
  | 0x04 => if b.val = 0 then ok .knot else .error 2
  | 0x05 => if b.val = 0 then ok .kmov else .error 2
  | _ => .error 1

/-- The 32-bit formats (R163, R164, R197). -/
def gDecode32 (w : Nat) : Except Nat GInstr :=
  let rd := f32 w 11 7
  let rs1 := f32 w 16 12
  let rs2 := f32 w 24 20
  let v2 := f32 w 21 17
  let imm12 := BitVec.ofNat 12 (natBits w 31 20)
  let imm20 := BitVec.ofNat 20 (natBits w 31 12)
  let f3 := natBits w 19 17
  match natBits w 6 1 with
  | 0x01 => decAlu w rd rs1 rs2
  | 0x02 => decAlui w rd rs1
  | 0x03 => decAluw w rd rs1 rs2
  | 0x04 =>
    match f3 with
    | 0 => .ok (.load .lb rd rs1 imm12)
    | 1 => .ok (.load .lh rd rs1 imm12)
    | 2 => .ok (.load .lw rd rs1 imm12)
    | 3 => .ok (.load .ld rd rs1 imm12)
    | 4 => .ok (.load .lbu rd rs1 imm12)
    | 5 => .ok (.load .lhu rd rs1 imm12)
    | 6 => .ok (.load .lwu rd rs1 imm12)
    | _ => .error 1
  | 0x05 =>
    match f3 with
    | 0 => .ok (.store .sb rd rs1 imm12)
    | 1 => .ok (.store .sh rd rs1 imm12)
    | 2 => .ok (.store .sw rd rs1 imm12)
    | 3 => .ok (.store .sd rd rs1 imm12)
    | _ => .error 1
  | 0x06 =>
    match f3 with
    | 0 => .ok (.branch .beq rs1 rd imm12)
    | 1 => .ok (.branch .bne rs1 rd imm12)
    | 2 => .ok (.branch .blt rs1 rd imm12)
    | 3 => .ok (.branch .bge rs1 rd imm12)
    | 4 => .ok (.branch .bltu rs1 rd imm12)
    | 5 => .ok (.branch .bgeu rs1 rd imm12)
    | _ => .error 1
  | 0x07 => .ok (.jal rd imm20)
  | 0x08 => if f3 = 0 then .ok (.jalr rd rs1 imm12) else .error 1
  | 0x09 => .ok (.lui rd imm20)
  | 0x0A => .ok (.auipc rd imm20)
  | 0x0B =>
    if f3 ≠ 2 ∧ f3 ≠ 3 then .error 1
    else
      let d : Bool := f3 == 3
      match natBits w 31 25 with
      | 0 => .ok (.atomic .swap d rd rs1 rs2)
      | 1 => .ok (.atomic .add d rd rs1 rs2)
      | 2 => .ok (.atomic .and d rd rs1 rs2)
      | 3 => .ok (.atomic .or d rd rs1 rs2)
      | 4 => .ok (.atomic .xor d rd rs1 rs2)
      | 5 => .ok (.atomic .min d rd rs1 rs2)
      | 6 => .ok (.atomic .max d rd rs1 rs2)
      | 7 => .ok (.atomic .minu d rd rs1 rs2)
      | 8 => .ok (.atomic .maxu d rd rs1 rs2)
      | 9 => .ok (.cas d rd rs1 rs2)
      | _ => .error 1
  | 0x0C =>
    if rd.val ≠ 0 ∨ rs1.val ≠ 0 ∨ natBits w 31 20 ≠ 0 then (if 3 < f3 then .error 1 else .error 2)
    else match f3 with
      | 0 => .ok .fenceAcq
      | 1 => .ok .fenceRel
      | 2 => .ok .fenceDev
      | 3 => .ok .fenceSys
      | _ => .error 1
  | 0x0D => decFp w rd rs1 rs2
  | 0x0E => .ok (.fma (w.testBit 26) (w.testBit 25) (f8 w 19 17) rd rs1 rs2 (f32 w 31 27))
  | 0x10 => decFix w rd rs1 rs2
  | 0x11 => decBlock w rd rs1 rs2
  | 0x12 => decSys w rd rs1
  | 0x20 => decVMem w false
  | 0x21 => decVMem w true
  | 0x22 => decVInt w (.v v2)
  | 0x23 => decVInt w (.x v2)
  | 0x24 => decVInt w (.i v2)
  | 0x25 => decVFp w (.v v2) true
  | 0x26 => decVFp w (.x v2) false
  | 0x27 => decVWide w
  | 0x28 => decVRed w
  | 0x29 => decVPerm w
  | 0x2A => decKMask w
  | 0x2B => decVCmp w
  | 0x2C =>
    if f3 ≠ 0 then .error 1
    else if natBits w 31 22 ≠ 0 then .error 2 else .ok (.vsetvl rd rs1 (f4 w 21 20))
  | _ => .error 1

/-- Decode the instruction whose first four bytes, little-endian, are `w` (R161). -/
def gDecode (w : Nat) : GDec :=
  if w % 2 ^ 16 = 0 then .error 1
  else if w.testBit 0 then (gDecode32 (w % 2 ^ 32)).map (fun i => (i, 4))
  else gDecode16 (w % 2 ^ 16)

/-! ### Encoding (06 R162-R164; 07 R197) -/

/-- The 16-bit formats: bit 0 is 0, OP in 5:1. -/
def enc16 (op rd rs : Nat) : Nat := op * 2 + rd * 2 ^ 6 + rs * 2 ^ 11
def encM (op : Nat) (rt rb : Fin 8) (off4 : Fin 16) : Nat := op * 2 + rt.val * 2 ^ 6 + rb.val * 2 ^ 9 + off4.val * 2 ^ 12
/-- The 32-bit formats: bit 0 is 1, OP in 6:1. -/
def encR (op f3 fn : Nat) (rd rs1 rs2 : GReg) : Nat :=
  1 + op * 2 + rd.val * 2 ^ 7 + rs1.val * 2 ^ 12 + f3 * 2 ^ 17 + rs2.val * 2 ^ 20 + fn * 2 ^ 25
def encI (op f3 : Nat) (rd rs1 : GReg) (imm : Nat) : Nat :=
  1 + op * 2 + rd.val * 2 ^ 7 + rs1.val * 2 ^ 12 + f3 * 2 ^ 17 + imm * 2 ^ 20
def encU (op : Nat) (rd : GReg) (imm : BitVec 20) : Nat := 1 + op * 2 + rd.val * 2 ^ 7 + imm.toNat * 2 ^ 12
def encV (op fn : Nat) (vd vs1 v2 : Fin 32) (km : Fin 8) : Nat :=
  1 + op * 2 + vd.val * 2 ^ 7 + vs1.val * 2 ^ 12 + v2.val * 2 ^ 17 + km.val * 2 ^ 22 + fn * 2 ^ 25

def aluCode : AluOp → Nat
  | .add => 0 | .sub => 1 | .and => 2 | .or => 3 | .xor => 4 | .sll => 5 | .srl => 6 | .sra => 7
def cmpCode : CmpOp → Nat
  | .slt => 0 | .sltu => 1 | .min => 2 | .max => 3 | .minu => 4 | .maxu => 5
def mulCode : MulOp → Nat
  | .mul => 0 | .mulh => 1 | .mulhu => 2 | .mulhsu => 3
def divCode : DivOp → Nat
  | .div => 4 | .divu => 5 | .rem => 6 | .remu => 7
def aluwCode : AluwOp → Nat × Nat
  | .add => (0, 0) | .sub => (1, 0) | .sll => (5, 0) | .srl => (6, 0) | .sra => (7, 0)
  | .mul => (0, 2) | .div => (4, 2) | .divu => (5, 2) | .rem => (6, 2) | .remu => (7, 2)
def loadCode : LoadOp → Nat
  | .lb => 0 | .lh => 1 | .lw => 2 | .ld => 3 | .lbu => 4 | .lhu => 5 | .lwu => 6
def storeCode : StoreOp → Nat
  | .sb => 0 | .sh => 1 | .sw => 2 | .sd => 3
def brCode : BrOp → Nat
  | .beq => 0 | .bne => 1 | .blt => 2 | .bge => 3 | .bltu => 4 | .bgeu => 5
def atomFn : AtomOp → Nat
  | .swap => 0 | .add => 1 | .and => 2 | .or => 3 | .xor => 4 | .min => 5 | .max => 6 | .minu => 7 | .maxu => 8
def fpCode : FpOp → Nat
  | .fadd => 0 | .fsub => 1 | .fmul => 2 | .fdiv => 3 | .fsqrt => 4 | .fmin => 5 | .fmax => 6 | .fcmp => 7 | .fsgn => 8
def macCode : MacOp → Nat
  | .fmacQ31 => 0 | .fmsuQ31 => 1 | .fmulQ31 => 2 | .fmac2Q15 => 3 | .fmacQ15 => 6 | .fmsuQ15 => 7
def blockCode : BlockOp → Nat
  | .bmov => 0 | .bfill => 1 | .bcmp => 2 | .bscan => 3
def vcmpCode : VCmpOp → Nat
  | .eq => 0 | .ne => 1 | .lt => 2 | .ltu => 3 | .le => 4 | .leu => 5 | .feq => 8 | .flt => 9 | .fle => 10 | .fun => 11

/-- A small number as a register field. -/
def regOf (n : Nat) : Fin 32 := ⟨n % 32, Nat.mod_lt _ (by decide)⟩

/-- The arithmetic opcodes by second operand: VV, VX, VI. -/
def encVInt (fn : Nat) (vd vs1 : Fin 32) (src : VSrc) (km : Fin 8) : Nat :=
  match src with
  | .v b => encV 0x22 fn vd vs1 b km
  | .x b => encV 0x23 fn vd vs1 b km
  | .i b => encV 0x24 fn vd vs1 b km
def encVFp (fn : Nat) (vd vs1 : Fin 32) (src : VSrc) (km : Fin 8) : Nat :=
  match src with
  | .v b => encV 0x25 fn vd vs1 b km
  | .x b => encV 0x26 fn vd vs1 b km
  | .i b => encV 0x26 fn vd vs1 b km
def encVMem (op : Nat) (form : VForm) (hint : Fin 4) (vd : Fin 32) (rs1 : GReg) (km : Fin 8) : Nat :=
  let w (f iw : Nat) (b : Fin 32) : Nat := encV op (f + iw * 8 + hint.val * 32) vd rs1 b km
  match form with
  | .unit => w 0 0 0
  | .strided b => w 1 0 b
  | .indexed b iw => w 2 iw.val b
  | .segment nf => w (nf.val + 1) 0 0
  | .wholeV => w 6 0 0
  | .wholeK => w 7 0 0

/-- The word of an instruction. -/
def gEncode : GInstr → Nat
  | .cMv a b => enc16 0x01 a.val b.val
  | .cAdd op a b => enc16 (0x02 + aluCode op) a.val b.val
  | .cLi a i => enc16 0x07 a.val i.val
  | .cAddi a i => enc16 0x08 a.val i.val
  | .cSlli op a i => enc16 (0x09 + (aluCode op - 5)) a.val i.val
  | .cBeqz a o => enc16 0x0C a.val o.val
  | .cBnez a o => enc16 0x0D a.val o.val
  | .cJ o => 0x0E * 2 + o.val * 2 ^ 6
  | .cJr a link => enc16 0x0F a.val (if link then 1 else 0)
  | .cLd word rt rb o => encM (if word then 0x12 else 0x10) rt rb o
  | .cSd word rt rb o => encM (if word then 0x13 else 0x11) rt rb o
  | .repI => 0x14 * 2
  | .repN n => 0x14 * 2 + 2 ^ 6 + n.val * 2 ^ 7
  | .cNop => 0x15 * 2
  | .add op a b c => encR 0x01 (aluCode op) 0 a b c
  | .slt op a b c => encR 0x01 (cmpCode op) 1 a b c
  | .qadd sub a b c => encR 0x01 (if sub then 7 else 6) 1 a b c
  | .mul op a b c => encR 0x01 (mulCode op) 2 a b c
  | .div op a b c => encR 0x01 (divCode op) 2 a b c
  | .alui op a b imm =>
    (match op with
     | .addi => encI 0x02 0 a b imm.toNat
     | .andi => encI 0x02 1 a b imm.toNat
     | .ori => encI 0x02 2 a b imm.toNat
     | .xori => encI 0x02 3 a b imm.toNat
     | .slti => encI 0x02 4 a b imm.toNat
     | .sltiu => encI 0x02 5 a b imm.toNat
     | .slli => encI 0x02 6 a b (imm.toNat % 64)
     | .srli => encI 0x02 6 a b (imm.toNat % 64 + 64)
     | .srai => encI 0x02 6 a b (imm.toNat % 64 + 128))
  | .aluw op a b c => encR 0x03 (aluwCode op).1 (aluwCode op).2 a b c
  | .load op a b imm => encI 0x04 (loadCode op) a b imm.toNat
  | .store op a b imm => encI 0x05 (storeCode op) a b imm.toNat
  | .branch op a b off => encI 0x06 (brCode op) b a off.toNat
  | .jal a off => encU 0x07 a off
  | .jalr a b imm => encI 0x08 0 a b imm.toNat
  | .lui a imm => encU 0x09 a imm
  | .auipc a imm => encU 0x0A a imm
  | .atomic op d a b c => encR 0x0B (if d then 3 else 2) (atomFn op) a b c
  | .cas d a b c => encR 0x0B (if d then 3 else 2) 9 a b c
  | .fenceAcq => encI 0x0C 0 0 0 0
  | .fenceRel => encI 0x0C 1 0 0 0
  | .fenceDev => encI 0x0C 2 0 0 0
  | .fenceSys => encI 0x0C 3 0 0 0
  | .fp op d f3 a b c => encR 0x0D f3.val (fpCode op + (if d then 0 else 16)) a b c
  | .fcvt kind f3 a b => encR 0x0D f3.val 0x20 a b (regOf kind.val)
  | .fma si su f3 a b c d => encR 0x0E f3.val ((if su then 1 else 0) + (if si then 2 else 0) + d.val * 4) a b c
  | .fmac op ad b c => encR 0x10 0 (macCode op) (regOf ad.val) b c
  | .fmacp q ad b c => encR 0x10 0 (if q then 5 else 4) (regOf ad.val) b c
  | .fext q a acc => encR 0x10 0 (if q then 9 else 8) a (regOf acc.val) 0
  | .mfa h a acc => encR 0x10 0 (if h then 0x0B else 0x0A) a (regOf acc.val) 0
  | .mta ad b c => encR 0x10 0 0x0C (regOf ad.val) b c
  | .block op z a b c => encR 0x11 z.val (blockCode op) a b c
  | .mfc a cr => encI 0x12 0 a 0 cr.toNat
  | .mtc cr b => encI 0x12 1 0 b cr.toNat
  | .mset m => encI 0x12 2 0 0 m.toNat
  | .mclr m => encI 0x12 3 0 0 m.toNat
  | .iwin n => encI 0x12 4 0 0 n.toNat
  | .syscall => encI 0x12 5 0 0 0
  | .brk => encI 0x12 5 0 0 1
  | .eret => encI 0x12 5 0 0 2
  | .wfi => encI 0x12 5 0 0 3
  | .iflush => encI 0x12 5 0 0 4
  | .vsetvl a b sew => encI 0x2C 0 a b sew.val
  | .vload f hint vd a km => encVMem 0x20 f hint vd a km
  | .vstore f hint vd a km => encVMem 0x21 f hint vd a km
  | .vadd op vd a src km =>
    encVInt (match op with | .vadd => 0 | .vsub => 1 | .vand => 2 | .vor => 3 | .vxor => 4) vd a src km
  | .vsll op vd a src km => encVInt (match op with | .vsll => 5 | .vsrl => 6 | .vsra => 7) vd a src km
  | .vmin op vd a src km => encVInt (match op with | .vmin => 8 | .vmax => 9 | .vminu => 10 | .vmaxu => 11) vd a src km
  | .vmul op vd a src km => encVInt (match op with | .vmul => 12 | .vmulh => 13 | .vmulhu => 14) vd a src km
  | .vmacc vd a src km => encVInt 15 vd a src km
  | .vsadd op vd a src km => encVInt (match op with | .vsadd => 16 | .vssub => 17) vd a src km
  | .vmv vd src km => encVInt 18 vd 0 src km
  | .vfadd op vd a src km => encVFp (match op with | .vfadd => 0 | .vfsub => 1 | .vfmul => 2 | .vfdiv => 3) vd a src km
  | .vfsqrt vd a km => encV 0x25 4 vd a 0 km
  | .vfmin op vd a src km => encVFp (match op with | .vfmin => 5 | .vfmax => 6) vd a src km
  | .vfma vd a src km => encVFp 7 vd a src km
  | .vfnms vd a src km => encVFp 8 vd a src km
  | .vfsgn vd a src km => encVFp 9 vd a src km
  | .vfcvt op vd a km =>
    encV 0x25 (match op with | .fFromI => 0x10 | .iFromF => 0x11 | .fFromU => 0x12 | .uFromF => 0x13) vd a 0 km
  | .vfwcvt op vd a km => encV 0x25 (match op with | .f32 => 0x14 | .bf16 => 0x16 | .f16 => 0x17) vd a 0 km
  | .vfncvt op vd a km => encV 0x25 (match op with | .f32 => 0x15 | .bf16 => 0x18 | .f16 => 0x19) vd a 0 km
  | .vwmul u vd a b km => encV 0x27 (if u then 1 else 0) vd a b km
  | .vwmacc vd a b km => encV 0x27 2 vd a b km
  | .vwfmul vd a b km => encV 0x27 3 vd a b km
  | .vwfma vd a b km => encV 0x27 4 vd a b km
  | .vdot4 op vd a b km => encV 0x27 (match op with | .i8 => 0x10 | .u8 => 0x11 | .su8 => 0x12) vd a b km
  | .vdot2 op vd a b km => encV 0x27 (match op with | .bf16 => 0x13 | .f16 => 0x14 | .f32 => 0x15) vd a b km
  | .vredsum vd a b km => encV 0x28 0 vd a b km
  | .vredmin op vd a b km => encV 0x28 (match op with | .min => 1 | .max => 2 | .minu => 3 | .maxu => 4) vd a b km
  | .vredand op vd a b km => encV 0x28 (match op with | .and => 5 | .or => 6 | .xor => 7) vd a b km
  | .vfredsum vd a b km => encV 0x28 8 vd a b km
  | .vfredmin op vd a b km => encV 0x28 (match op with | .vfmin => 9 | .vfmax => 10) vd a b km
  | .vfwredsum vd a b km => encV 0x28 11 vd a b km
  | .vcompress vd a km => encV 0x29 0 vd a 0 km
  | .vexpand vd a km => encV 0x29 1 vd a 0 km
  | .vperm vd a b km => encV 0x29 2 vd a b km
  | .vslideup vd a b km => encV 0x29 3 vd a b km
  | .vslidedown vd a b km => encV 0x29 4 vd a b km
  | .vmvXv d a b => encV 0x29 5 d a b 0
  | .vpopc d ks => encV 0x29 6 d (regOf ks.val) 0 0
  | .vfirst d ks => encV 0x29 7 d (regOf ks.val) 0 0
  | .vcmp op kd a src km =>
    (match src with
     | .v b => encV 0x2B (vcmpCode op) (regOf kd.val) a b km
     | .x b => encV 0x2B (vcmpCode op + 0x40) (regOf kd.val) a b km
     | .i b => encV 0x2B (vcmpCode op + 0x40) (regOf kd.val) a b km)
  | .kand op kd a b =>
    encV 0x2A (match op with | .kand => 0 | .kor => 1 | .kxor => 2 | .kandn => 3 | .knot => 4 | .kmov => 5)
      (regOf kd.val) (regOf a.val) (regOf b.val) 0

/-- Length in bytes of an instruction (06 R161). -/
def gLength (i : GInstr) : Nat := if (gEncode i).testBit 0 then 4 else 2

/-- May this instruction follow a REP (R173)? -/
def repAllowed : GInstr → Bool
  | .cMv _ _ | .cAdd _ _ _ | .cLi _ _ | .cAddi _ _ | .cSlli _ _ _ => true
  | .add _ _ _ _ | .slt _ _ _ _ | .qadd _ _ _ _ | .mul _ _ _ _ | .div _ _ _ _ => true
  | .alui _ _ _ _ | .aluw _ _ _ _ => true
  | .fp _ _ _ _ _ _ | .fcvt _ _ _ _ | .fma _ _ _ _ _ _ _ => true
  | .fmac _ _ _ _ | .fmacp _ _ _ _ => true
  | _ => false

end Sys2Proof.Machine
end

