-- ==== Sys2Proof/Machine/Vexten.lean ====
section
/-! DEFINITION. The Vexten instructions that touch the core alone (spec/07_vexten_vectors R188-R206). Sources are read before
any destination is written (R194); elements that are not active keep their values (R193). -/

namespace Sys2Proof.Machine

/-- Bytes of an element at the current width. -/
def Core.sewBytes (c : Core) : Nat := 2 ^ c.sew
def Core.sewBits (c : Core) : Nat := 8 * 2 ^ c.sew
def Core.vlmax (c : Core) : Nat := vlmaxOf c.sew

/-- Element `i` of `n` bytes of register `r`; a pair is the two registers' bytes in a row (R189, R201). -/
def Core.vget (c : Core) (r n i : Nat) : Nat := Mem.readLE c.v (r * 2048 + i * n) n
/-- Write elements (index, value) of `n` bytes of register `r`. -/
def Core.vput (c : Core) (r n : Nat) : List (Nat × Nat) → Core
  | [] => c
  | (i, x) :: l => Core.vput { c with v := Mem.writeN c.v (r * 2048 + i * n) (leBytes n x) } r n l
/-- The same, setting VSTAT.DIRTY when an element is written (R190). -/
def Core.vputs (c : Core) (r n : Nat) (l : List (Nat × Nat)) : Core :=
  if l.isEmpty then c else (c.vput r n l).dirty

/-- Is element `i` active under KM (R193)? -/
def Core.active (c : Core) (km : Fin 8) (i : Nat) : Bool := km.val == 0 || (c.rk km).getLsbD i
/-- The active elements below VL, ascending. -/
def Core.actives (c : Core) (km : Fin 8) : List Nat := (List.range c.vl).filter (c.active km)

/-- A Vexten instruction's first checks (R188, R190, R198): present, enabled, its own rule met. -/
def vCheck (hasV : Bool) (c : Core) (okRule : Bool) (k : CoreOut) : CoreOut :=
  if vextenOff hasV c then .illop 5 else if okRule then k else .illop 6

/-- The second operand's element `i` as SEW bits: VI sign-extends imm5, or takes it unsigned (shifts). -/
def Core.vsrc (c : Core) (src : VSrc) (unsignedImm : Bool) (i : Nat) : Nat :=
  match src with
  | .v r => c.vget r.val c.sewBytes i
  | .x r => (c.rg r).toNat % 2 ^ c.sewBits
  | .i imm => if unsignedImm then imm.val else signExt 5 c.sewBits imm.val

/-- An integer element-wise instruction. -/
def vMapInt (c : Core) (vd vs1 : Fin 32) (src : VSrc) (km : Fin 8) (uimm : Bool) (f : Nat → Nat → Nat → Nat) : Core :=
  let n := c.sewBytes
  c.vputs vd.val n ((c.actives km).map (fun i => (i, f (c.vget vd.val n i) (c.vget vs1.val n i) (c.vsrc src uimm i))))

def vAluElem (op : VAluOp) (w a b : Nat) : Nat :=
  match op with
  | .vadd => (a + b) % 2 ^ w
  | .vsub => (a + 2 ^ w - b) % 2 ^ w
  | .vand => a &&& b
  | .vor => a ||| b
  | .vxor => a ^^^ b

def gVadd (hasV : Bool) (op : VAluOp) (vd vs1 : Fin 32) (src : VSrc) (km : Fin 8) (c : Core) : CoreOut :=
  vCheck hasV c true (.ok (vMapInt c vd vs1 src km false (fun _ a b => vAluElem op c.sewBits a b)) none)

/-- Shifts by the low log2 SEW bits of the second operand (R199). -/
def vShElem (op : VShOp) (w a b : Nat) : Nat :=
  let s := b % w
  match op with
  | .vsll => (a <<< s) % 2 ^ w
  | .vsrl => a >>> s
  | .vsra => ofSigned w (toSigned w a >>> s)

def gVsll (hasV : Bool) (op : VShOp) (vd vs1 : Fin 32) (src : VSrc) (km : Fin 8) (c : Core) : CoreOut :=
  vCheck hasV c true (.ok (vMapInt c vd vs1 src km true (fun _ a b => vShElem op c.sewBits a b)) none)

def vMinElem (op : VMinOp) (w a b : Nat) : Nat :=
  match op with
  | .vmin => if toSigned w b < toSigned w a then b else a
  | .vmax => if toSigned w a < toSigned w b then b else a
  | .vminu => if b < a then b else a
  | .vmaxu => if a < b then b else a

def gVmin (hasV : Bool) (op : VMinOp) (vd vs1 : Fin 32) (src : VSrc) (km : Fin 8) (c : Core) : CoreOut :=
  vCheck hasV c true (.ok (vMapInt c vd vs1 src km false (fun _ a b => vMinElem op c.sewBits a b)) none)

def vMulElem (op : VMulOp) (w a b : Nat) : Nat :=
  match op with
  | .vmul => a * b % 2 ^ w
  | .vmulh => ofSigned w (toSigned w a * toSigned w b / ((2 ^ w : Nat) : Int))
  | .vmulhu => a * b / 2 ^ w

def gVmul (hasV : Bool) (op : VMulOp) (vd vs1 : Fin 32) (src : VSrc) (km : Fin 8) (c : Core) : CoreOut :=
  vCheck hasV c true (.ok (vMapInt c vd vs1 src km false (fun _ a b => vMulElem op c.sewBits a b)) none)

def gVmacc (hasV : Bool) (vd vs1 : Fin 32) (src : VSrc) (km : Fin 8) (c : Core) : CoreOut :=
  vCheck hasV c true (.ok (vMapInt c vd vs1 src km false (fun d a b => (d + a * b) % 2 ^ c.sewBits)) none)

/-- Signed saturating sum: the element and whether it saturated (R199). -/
def vSatElem (op : VSatOp) (w a b : Nat) : Nat × Bool :=
  let r := match op with
    | .vsadd => toSigned w a + toSigned w b
    | .vssub => toSigned w a - toSigned w b
  let lim : Int := ((2 ^ (w - 1) : Nat) : Int)
  (ofSigned w (clampInt (-lim) (lim - 1) r), decide (r < -lim ∨ lim ≤ r))

def gVsadd (hasV : Bool) (op : VSatOp) (vd vs1 : Fin 32) (src : VSrc) (km : Fin 8) (c : Core) : CoreOut :=
  let w := c.sewBits
  let n := c.sewBytes
  let rs := (c.actives km).map (fun i => (i, vSatElem op w (c.vget vs1.val n i) (c.vsrc src false i)))
  let c' := c.vputs vd.val n (rs.map (fun p => (p.1, p.2.1)))
  vCheck hasV c true (.ok (if rs.any (fun p => p.2.2) then c'.setSATF else c') none)

def gVmv (hasV : Bool) (vd : Fin 32) (src : VSrc) (km : Fin 8) (c : Core) : CoreOut :=
  vCheck hasV c true (.ok (vMapInt c vd 0 src km false (fun _ _ b => b)) none)

/-! ### Floating point (R200) -/

/-- SEW 32 is FP32 and SEW 64 is FP64. -/
def Core.vfmt (c : Core) : FpFmt := if c.sew = 3 then fp64 else fp32
def Core.sewIsFp (c : Core) : Bool := c.sew == 2 || c.sew == 3

/-- Collect element results and the flags of the whole instruction. -/
def orFlags (l : List (Nat × (Nat × FpFlags))) : FpFlags := l.foldl (fun f p => f.or p.2.2) {}

/-- Write the results of a floating-point instruction and set its flags. -/
def vFinFp (c : Core) (vd : Fin 32) (n : Nat) (l : List (Nat × (Nat × FpFlags))) : CoreOut :=
  .ok ((c.vputs vd.val n (l.map (fun p => (p.1, p.2.1)))).flags (orFlags l)) none

def vMapFp (c : Core) (vd vs1 : Fin 32) (src : VSrc) (km : Fin 8) (f : Nat → Nat → Nat → Nat × FpFlags) : CoreOut :=
  let n := c.sewBytes
  vFinFp c vd n ((c.actives km).map (fun i => (i, f (c.vget vd.val n i) (c.vget vs1.val n i) (c.vsrc src false i))))

def vFpElem (op : VFpOp) (f : FpFmt) (rm : RMode) (a b : Nat) : Nat × FpFlags :=
  match op with
  | .vfadd => fpAdd f rm a b
  | .vfsub => fpSub f rm a b
  | .vfmul => fpMul f rm a b
  | .vfdiv => fpDiv f rm a b

/-- The floating-point classes have no VI form (R197). -/
def srcNotImm : VSrc → Bool
  | .i _ => false | _ => true

def gVfadd (hasV : Bool) (op : VFpOp) (vd vs1 : Fin 32) (src : VSrc) (km : Fin 8) (c : Core) : CoreOut :=
  vCheck hasV c (c.sewIsFp && srcNotImm src) (vMapFp c vd vs1 src km (fun _ a b => vFpElem op c.vfmt c.frm a b))
def gVfsqrt (hasV : Bool) (vd vs1 : Fin 32) (km : Fin 8) (c : Core) : CoreOut :=
  vCheck hasV c c.sewIsFp (vMapFp c vd vs1 (.v vs1) km (fun _ a _ => fpSqrt c.vfmt c.frm a))
def gVfmin (hasV : Bool) (op : VFMinOp) (vd vs1 : Fin 32) (src : VSrc) (km : Fin 8) (c : Core) : CoreOut :=
  vCheck hasV c (c.sewIsFp && srcNotImm src)
    (vMapFp c vd vs1 src km (fun _ a b => fpMinMax c.vfmt (decide (op = .vfmax)) a b))
def gVfma (hasV : Bool) (vd vs1 : Fin 32) (src : VSrc) (km : Fin 8) (c : Core) : CoreOut :=
  vCheck hasV c (c.sewIsFp && srcNotImm src) (vMapFp c vd vs1 src km (fun d a b => fpFmaC c.vfmt c.frm a b d))
/-- Vd - Vs1 * op2, rounded once (R200). -/
def gVfnms (hasV : Bool) (vd vs1 : Fin 32) (src : VSrc) (km : Fin 8) (c : Core) : CoreOut :=
  vCheck hasV c (c.sewIsFp && srcNotImm src)
    (vMapFp c vd vs1 src km (fun d a b => fpFmaC c.vfmt c.frm (fpNegBits c.vfmt a) b d))

/-- VFSGN (R200): in the VV form Vs2 gives the sign, kind 0; in the VX form the field's bits are the kind, and the sign
they work on is that of Vs1 (log entry 6). -/
def gVfsgn (hasV : Bool) (vd vs1 : Fin 32) (src : VSrc) (km : Fin 8) (c : Core) : CoreOut :=
  match src with
  | .v r => vCheck hasV c c.sewIsFp
      (vMapFp c vd vs1 (.v r) km (fun _ a b => (fpSignInj c.vfmt 0 a b, {})))
  | .x r =>
    if vextenOff hasV c then .illop 5
    else if 2 < r.val then .illop 2
    else vCheck hasV c c.sewIsFp (vMapFp c vd vs1 (.v vs1) km (fun _ a b => (fpSignInj c.vfmt r.val a b, {})))
  | .i _ => vCheck hasV c false (.ok c none)

/-- Same-width conversions (R200). -/
def vCvtElem (op : VCvtOp) (f : FpFmt) (rm : RMode) (a : Nat) : Nat × FpFlags :=
  let w := f.width
  match op with
  | .fFromI => intToFp f rm (toSigned w a)
  | .fFromU => intToFp f rm (a : Int)
  | .iFromF => fpToInt f true w rm a
  | .uFromF => fpToInt f false w rm a

def gVfcvt (hasV : Bool) (op : VCvtOp) (vd vs1 : Fin 32) (km : Fin 8) (c : Core) : CoreOut :=
  vCheck hasV c c.sewIsFp (vMapFp c vd vs1 (.v vs1) km (fun _ a _ => vCvtElem op c.vfmt c.frm a))

def evenReg (r : Fin 32) : Bool := r.val % 2 == 0

/-- The narrow and wide formats and the SEW code a widening or narrowing conversion names (R200). -/
def wcvtFmts (op : VWCvtOp) : FpFmt × FpFmt :=
  match op with
  | .f32 => (fp32, fp64)
  | .bf16 => (bf16, fp32)
  | .f16 => (fp16, fp32)

def gVfwcvt (hasV : Bool) (op : VWCvtOp) (vd vs1 : Fin 32) (km : Fin 8) (c : Core) : CoreOut :=
  let (nf, wf) := wcvtFmts op
  let nb := nf.width / 8
  vCheck hasV c (c.sew == (if op = .f32 then 2 else 1) && evenReg vd)
    (vFinFp c vd (2 * nb) ((c.actives km).map (fun i => (i, fpConvert nf wf c.frm (c.vget vs1.val nb i)))))

def gVfncvt (hasV : Bool) (op : VWCvtOp) (vd vs1 : Fin 32) (km : Fin 8) (c : Core) : CoreOut :=
  let (nf, wf) := wcvtFmts op
  let nb := nf.width / 8
  vCheck hasV c (c.sew == (if op = .f32 then 3 else 2) && evenReg vs1)
    (vFinFp c vd nb ((c.actives km).map (fun i => (i, fpConvert wf nf c.frm (c.vget vs1.val (2 * nb) i)))))

/-! ### Widening and dot products (R201, R202) -/

/-- A widening integer instruction into the pair Vd. -/
def vWiden (c : Core) (vd vs1 vs2 : Fin 32) (km : Fin 8) (f : Nat → Nat → Nat → Nat) : Core :=
  let n := c.sewBytes
  c.vputs vd.val (2 * n)
    ((c.actives km).map (fun i => (i, f (c.vget vd.val (2 * n) i) (c.vget vs1.val n i) (c.vget vs2.val n i))))

def gVwmul (hasV unsigned : Bool) (vd vs1 vs2 : Fin 32) (km : Fin 8) (c : Core) : CoreOut :=
  let w := c.sewBits
  vCheck hasV c (c.sew != 3 && evenReg vd) (.ok (vWiden c vd vs1 vs2 km (fun _ a b =>
    if unsigned then a * b else ofSigned (2 * w) (toSigned w a * toSigned w b))) none)
def gVwmacc (hasV : Bool) (vd vs1 vs2 : Fin 32) (km : Fin 8) (c : Core) : CoreOut :=
  let w := c.sewBits
  vCheck hasV c (c.sew != 3 && evenReg vd) (.ok (vWiden c vd vs1 vs2 km (fun d a b =>
    ofSigned (2 * w) ((d : Int) + toSigned w a * toSigned w b))) none)

def gVwfmul (hasV : Bool) (vd vs1 vs2 : Fin 32) (km : Fin 8) (c : Core) : CoreOut :=
  vCheck hasV c (c.sew == 2 && evenReg vd) (vFinFp c vd 8 ((c.actives km).map (fun i =>
    let a := c.vget vs1.val 4 i
    let b := c.vget vs2.val 4 i
    let (p, nv) := valMul (fpDecode fp32 a) (fpDecode fp32 b)
    let (r, fl) := fpEncode fp64 c.frm p
    (i, (r, { fl with nv := nv || anySNaN fp32 [a, b] })))))

def gVwfma (hasV : Bool) (vd vs1 vs2 : Fin 32) (km : Fin 8) (c : Core) : CoreOut :=
  vCheck hasV c (c.sew == 2 && evenReg vd) (vFinFp c vd 8 ((c.actives km).map (fun i =>
    let a := c.vget vs1.val 4 i
    let b := c.vget vs2.val 4 i
    let d := c.vget vd.val 8 i
    let (p, nv) := valFma c.frm (fpDecode fp32 a) (fpDecode fp32 b) (fpDecode fp64 d)
    let (r, fl) := fpEncode fp64 c.frm p
    (i, (r, { fl with nv := nv || anySNaN fp32 [a, b] || fpIsSNaN fp64 d })))))

/-- Sub-element j of width w of an element. -/
def subElem (w x j : Nat) : Nat := (x >>> (w * j)) % 2 ^ w

def vDot4Elem (op : VDot4Op) (d a b : Nat) : Nat :=
  let rd8 (signed : Bool) (x j : Nat) : Int := if signed then toSigned 8 (subElem 8 x j) else (subElem 8 x j : Int)
  let (sa, sb) := match op with
    | .i8 => (true, true)
    | .u8 => (false, false)
    | .su8 => (true, false)
  ofSigned 32 ([0, 1, 2, 3].foldl (fun s j => s + rd8 sa a j * rd8 sb b j) (d : Int))

def gVdot4 (hasV : Bool) (op : VDot4Op) (vd vs1 vs2 : Fin 32) (km : Fin 8) (c : Core) : CoreOut :=
  vCheck hasV c (c.sew == 2) (.ok (vMapInt c vd vs1 (.v vs2) km false (fun d a b => vDot4Elem op d a b)) none)

/-- The exact sum of several values for one rounding: NaN and invalid by IEEE 754 for the sum of all terms. -/
def valSum (rm : RMode) (vs : List FpVal) : FpVal × Bool :=
  if vs.any valIsNaN then (.nan, false)
  else
    let pinf := vs.any (fun v => v == .inf false)
    let ninf := vs.any (fun v => v == .inf true)
    if pinf && ninf then (.nan, true)
    else if pinf then (.inf false, false)
    else if ninf then (.inf true, false)
    else
      let q := vs.foldl (fun (q : Int) v => match v with
        | .fin _ _ e => min q e
        | _ => q) 0
      let s := vs.foldl (fun (s : Int) v => match v with
        | .fin n m e => s + scaleTo e q n m
        | _ => s) 0
      if s = 0 then
        (if vs.all (fun v => valIsZero v && valSign v) then (.fin true 0 0, false)
         else if vs.all (fun v => valIsZero v && !valSign v) then (.fin false 0 0, false)
         else (.fin (decide (rm = .rdn)) 0 0, false))
      else (.fin (decide (s < 0)) s.natAbs q, false)

/-- A two-product dot step (R202): both products exact, one rounding. -/
def vDot2Elem (inF outF : FpFmt) (rm : RMode) (d a b : Nat) : Nat × FpFlags :=
  let w := inF.width
  let a0 := subElem w a 0
  let a1 := subElem w a 1
  let b0 := subElem w b 0
  let b1 := subElem w b 1
  let (p0, i0) := valMul (fpDecode inF a0) (fpDecode inF b0)
  let (p1, i1) := valMul (fpDecode inF a1) (fpDecode inF b1)
  let (s, i2) := valSum rm [p0, p1, fpDecode outF d]
  let (r, fl) := fpEncode outF rm s
  (r, { fl with nv := i0 || i1 || i2 || anySNaN inF [a0, a1, b0, b1] || fpIsSNaN outF d })

def gVdot2 (hasV : Bool) (op : VDot2Op) (vd vs1 vs2 : Fin 32) (km : Fin 8) (c : Core) : CoreOut :=
  let (inF, outF, sew) := match op with
    | .bf16 => (bf16, fp32, 2)
    | .f16 => (fp16, fp32, 2)
    | .f32 => (fp32, fp64, 3)
  vCheck hasV c (c.sew == sew) (vMapFp c vd vs1 (.v vs2) km (fun d a b => vDot2Elem inF outF c.frm d a b))

/-! ### Reductions (R203) -/

/-- One level of the pairwise tree: a node with one input absent passes the other on. -/
def vTreeLevel {α : Type} (op : α → α → α) : List (Option α) → List (Option α)
  | [] => []
  | [x] => [x]
  | x :: y :: l =>
    (match x, y with
      | some a, some b => some (op a b)
      | some a, none => some a
      | none, y => y) :: vTreeLevel op l

/-- The fixed tree of `n` levels (R203, R143). -/
def vTreeReduce {α : Type} (op : α → α → α) : Nat → List (Option α) → Option α
  | 0, l => l.headD none
  | n + 1, l => vTreeReduce op n (vTreeLevel op l)

/-- The leaves of a reduction: absent where an element is not active. -/
def Core.leaves (c : Core) (vs1 : Fin 32) (km : Fin 8) : List (Option Nat) :=
  (List.range c.vlmax).map (fun i =>
    if i < c.vl ∧ c.active km i then some (c.vget vs1.val c.sewBytes i) else none)

/-- An integer reduction: Vd[0] = Vs2[0] op T; with VL = 0 nothing is written (R195). -/
def vReduce (c : Core) (vd vs1 vs2 : Fin 32) (km : Fin 8) (op : Nat → Nat → Nat) : Core :=
  if c.vl = 0 then c
  else
    let n := c.sewBytes
    let b := c.vget vs2.val n 0
    let r := match vTreeReduce op (11 - c.sew) (c.leaves vs1 km) with
      | some t => op b t
      | none => b
    c.vputs vd.val n [(0, r)]

def gVredsum (hasV : Bool) (vd vs1 vs2 : Fin 32) (km : Fin 8) (c : Core) : CoreOut :=
  vCheck hasV c true (.ok (vReduce c vd vs1 vs2 km (fun a b => (a + b) % 2 ^ c.sewBits)) none)
def gVredmin (hasV : Bool) (op : VRedMinOp) (vd vs1 vs2 : Fin 32) (km : Fin 8) (c : Core) : CoreOut :=
  let m : VMinOp := match op with
    | .min => .vmin | .max => .vmax | .minu => .vminu | .maxu => .vmaxu
  vCheck hasV c true (.ok (vReduce c vd vs1 vs2 km (fun a b => vMinElem m c.sewBits a b)) none)
def gVredand (hasV : Bool) (op : VRedBitOp) (vd vs1 vs2 : Fin 32) (km : Fin 8) (c : Core) : CoreOut :=
  vCheck hasV c true (.ok (vReduce c vd vs1 vs2 km (fun a b => match op with
    | .and => a &&& b | .or => a ||| b | .xor => a ^^^ b)) none)

/-- A floating-point reduction in a format: every combination's flags are kept. -/
def vReduceFp (c : Core) (vd : Fin 32) (n : Nat) (base : Nat) (leaves : List (Option (Nat × FpFlags)))
    (op : Nat → Nat → Nat × FpFlags) : CoreOut :=
  if c.vl = 0 then .ok c none
  else
    let op' (a b : Nat × FpFlags) : Nat × FpFlags :=
      let (r, fl) := op a.1 b.1
      (r, (a.2.or b.2).or fl)
    let (r, fl) := match vTreeReduce op' (11 - c.sew) leaves with
      | some t => op' (base, {}) t
      | none => (base, {})
    .ok ((c.vputs vd.val n [(0, r)]).flags fl) none

def gVfredsum (hasV : Bool) (vd vs1 vs2 : Fin 32) (km : Fin 8) (c : Core) : CoreOut :=
  vCheck hasV c c.sewIsFp (vReduceFp c vd c.sewBytes (c.vget vs2.val c.sewBytes 0)
    ((c.leaves vs1 km).map (Option.map (fun x => (x, {})))) (fpAdd c.vfmt c.frm))
def gVfredmin (hasV : Bool) (op : VFMinOp) (vd vs1 vs2 : Fin 32) (km : Fin 8) (c : Core) : CoreOut :=
  vCheck hasV c c.sewIsFp (vReduceFp c vd c.sewBytes (c.vget vs2.val c.sewBytes 0)
    ((c.leaves vs1 km).map (Option.map (fun x => (x, {})))) (fpMinMax c.vfmt (decide (op = .vfmax))))
/-- VFWREDSUM: FP32 elements widened exactly, the tree and Vs2[0] in FP64 (R203). -/
def gVfwredsum (hasV : Bool) (vd vs1 vs2 : Fin 32) (km : Fin 8) (c : Core) : CoreOut :=
  vCheck hasV c (c.sew == 2) (vReduceFp c vd 8 (c.vget vs2.val 8 0)
    ((c.leaves vs1 km).map (Option.map (fun x => fpConvert fp32 fp64 c.frm x))) (fpAdd fp64 c.frm))

/-! ### Permutes, masks, compares (R204-R206) -/

def gVcompress (hasV : Bool) (vd vs1 : Fin 32) (km : Fin 8) (c : Core) : CoreOut :=
  let n := c.sewBytes
  let xs := (c.actives km).map (fun i => c.vget vs1.val n i)
  vCheck hasV c (km.val != 0) (.ok (c.vputs vd.val n ((List.range xs.length).zip xs)) none)
def gVexpand (hasV : Bool) (vd vs1 : Fin 32) (km : Fin 8) (c : Core) : CoreOut :=
  let n := c.sewBytes
  let acts := c.actives km
  vCheck hasV c (km.val != 0)
    (.ok (c.vputs vd.val n (acts.zip ((List.range acts.length).map (fun j => c.vget vs1.val n j)))) none)
def gVperm (hasV : Bool) (vd vs1 vs2 : Fin 32) (km : Fin 8) (c : Core) : CoreOut :=
  let n := c.sewBytes
  vCheck hasV c true (.ok (c.vputs vd.val n ((c.actives km).map (fun i =>
    let j := c.vget vs2.val n i
    (i, if j < c.vlmax then c.vget vs1.val n j else 0)))) none)
def gVslideup (hasV : Bool) (vd vs1 : Fin 32) (rs2 : GReg) (km : Fin 8) (c : Core) : CoreOut :=
  let n := c.sewBytes
  let d := (c.rg rs2).toNat
  vCheck hasV c true (.ok (c.vputs vd.val n (((c.actives km).filter (fun i => d ≤ i)).map (fun i =>
    (i, c.vget vs1.val n (i - d))))) none)
def gVslidedown (hasV : Bool) (vd vs1 : Fin 32) (rs2 : GReg) (km : Fin 8) (c : Core) : CoreOut :=
  let n := c.sewBytes
  let d := (c.rg rs2).toNat
  vCheck hasV c true (.ok (c.vputs vd.val n ((c.actives km).map (fun i =>
    (i, if i + d < c.vlmax then c.vget vs1.val n (i + d) else 0)))) none)
def gVmvXv (hasV : Bool) (rd : GReg) (vs1 : Fin 32) (rs2 : GReg) (c : Core) : CoreOut :=
  let i := (c.rg rs2).toNat
  vCheck hasV c true (.ok (c.wg rd (if i < c.vlmax then w64 (signExt c.sewBits 64 (c.vget vs1.val c.sewBytes i)) else 0)) none)
def gVpopc (hasV : Bool) (rd : GReg) (ks : Fin 8) (c : Core) : CoreOut :=
  vCheck hasV c true (.ok (c.wg rd (w64 ((List.range c.vl).filter (fun i => (c.rk ks).getLsbD i)).length)) none)
def gVfirst (hasV : Bool) (rd : GReg) (ks : Fin 8) (c : Core) : CoreOut :=
  vCheck hasV c true (.ok (c.wg rd (match (List.range c.vl).find? (fun i => (c.rk ks).getLsbD i) with
    | some i => w64 i
    | none => -1)) none)

/-- A relation on two elements (R205): the bit and the flags it sets. -/
def vCmpElem (op : VCmpOp) (w : Nat) (f : FpFmt) (a b : Nat) : Bool × FpFlags :=
  match op with
  | .eq => (a == b, {})
  | .ne => (a != b, {})
  | .lt => (decide (toSigned w a < toSigned w b), {})
  | .ltu => (decide (a < b), {})
  | .le => (decide (toSigned w a ≤ toSigned w b), {})
  | .leu => (decide (a ≤ b), {})
  | .feq => fpCompare f 0 a b
  | .flt => fpCompare f 1 a b
  | .fle => fpCompare f 2 a b
  | .fun => fpCompare f 3 a b

def vCmpIsFp (op : VCmpOp) : Bool :=
  match op with
  | .feq | .flt | .fle | .fun => true
  | _ => false

/-- Set bit `i` of a mask to `b`. -/
def putBit (m : BitVec 2048) (i : Nat) (b : Bool) : BitVec 2048 :=
  let one : BitVec 2048 := (1 : BitVec 2048) <<< i
  if b then m ||| one else m &&& ~~~one

def gVcmp (hasV : Bool) (op : VCmpOp) (kd : Fin 8) (vs1 : Fin 32) (src : VSrc) (km : Fin 8) (c : Core) : CoreOut :=
  let n := c.sewBytes
  let rs := (c.actives km).map (fun i => (i, vCmpElem op c.sewBits c.vfmt (c.vget vs1.val n i) (c.vsrc src false i)))
  let m := rs.foldl (fun m p => putBit m p.1 p.2.1) (c.rk kd)
  let fl := rs.foldl (fun (f : FpFlags) p => f.or p.2.2) {}
  vCheck hasV c ((!vCmpIsFp op || c.sewIsFp) && srcNotImm src)
    (.ok ((if rs.isEmpty then c else c.wk kd m).flags fl) none)

def gKand (hasV : Bool) (op : KOp) (kd ks1 ks2 : Fin 8) (c : Core) : CoreOut :=
  let a := c.rk ks1
  let b := c.rk ks2
  vCheck hasV c true (.ok (c.wk kd (match op with
    | .kand => a &&& b
    | .kor => a ||| b
    | .kxor => a ^^^ b
    | .kandn => a &&& ~~~b
    | .knot => ~~~a
    | .kmov => a)) none)

end Sys2Proof.Machine
end

