-- ==== Sys2Proof/Machine/Operands.lean ====
section
/-! DEFINITION. The operand forms of the instructions that access memory: sizes, addresses, elements
(spec/06_gelfort_core R162-R164, R167, R170, R175; spec/07_vexten_vectors R207, R208). -/

namespace Sys2Proof.Machine

/-! ### Scalar forms -/

/-- Bytes of a load or store, and the value a load writes. -/
def loadBytes : LoadOp → Nat
  | .lb => 1 | .lh => 2 | .lw => 4 | .ld => 8 | .lbu => 1 | .lhu => 2 | .lwu => 4
def loadValue (op : LoadOp) (n : Nat) : Word :=
  match op with
  | .lb => w64 (signExt 8 64 n)
  | .lh => w64 (signExt 16 64 n)
  | .lw => w64 (signExt 32 64 n)
  | _ => w64 n
def storeBytes : StoreOp → Nat
  | .sb => 1 | .sh => 2 | .sw => 4 | .sd => 8

/-- Address of an I or S format operand: base plus sign-extended imm12. -/
def Core.eaImm (c : Core) (rs1 : GReg) (imm : BitVec 12) : Word := c.rg rs1 + imm.signExtend 64
/-- Address of a CM format operand: offset scaled by 8, or by 4 for a word (R162). -/
def Core.eaCm (c : Core) (word : Bool) (rb : Fin 8) (off4 : Fin 16) : Word :=
  c.rg (mreg rb) + w64 (off4.val * (if word then 4 else 8))

/-- The value an atomic writes (R164), at the width of its operand. -/
def atomOp {w : Nat} (op : AtomOp) (a b : BitVec w) : BitVec w :=
  match op with
  | .swap => b
  | .add => a + b
  | .and => a &&& b
  | .or => a ||| b
  | .xor => a ^^^ b
  | .min => if b.slt a then b else a
  | .max => if a.slt b then b else a
  | .minu => if b.ult a then b else a
  | .maxu => if a.ult b then b else a
def atomCode : AtomOp → Nat
  | .swap => 0 | .add => 1 | .and => 2 | .or => 3 | .xor => 4 | .min => 5 | .max => 6 | .minu => 7 | .maxu => 8

/-- A word or doubleword result of an atomic: a word is sign-extended as every 32-bit integer result is (log entry 5). -/
def atomResult (dbl : Bool) (old : Nat) : Word := if dbl then w64 old else w64 (signExt 32 64 old)

/-! ### Accesses -/

/-- One access of an instruction, inside one 64-byte line or, for whole registers, one run: kind, address, length, the address
EADDR names when it fails, and the place of its bytes in the instruction's data. -/
structure CAcc where
  kind : Acc
  va : Nat
  n : Nat
  ea : Word
  dst : Nat
  deriving DecidableEq, Repr

/-- The address a scalar access forms: all 64 bits at Machine level (R158), 56 bits in a translated space (11 R287). -/
def Core.trim (c : Core) (a : Word) : Nat := if c.priv = 3 then a.toNat else a.toNat % 2 ^ 56
/-- The space vector addresses wrap in (07 R207). -/
def Core.vspace (c : Core) : Nat := if c.priv = 3 then 2 ^ 52 else 2 ^ 56

/-- Pieces of a range, one for each 64-byte line: address and length. -/
def lineParts (va n : Nat) : List (Nat × Nat) :=
  if n = 0 then []
  else (upFrom (va / 64) ((va + n - 1) / 64 + 1 - va / 64)).map (fun l =>
    let lo := max va (l * 64)
    (lo, min (va + n) (l * 64 + 64) - lo))

/-- A scalar access: whole, or in halves by line (10 R273), each half naming its own first byte (08 R236 scenario 7). -/
def Core.scalar (c : Core) (kind : Acc) (a : Word) (n dst : Nat) : List CAcc :=
  let va := c.trim a
  (lineParts va n).map (fun p =>
    { kind := kind, va := if c.priv = 3 then p.1 else p.1 % 2 ^ 56, n := p.2, ea := a + w64 (p.1 - va), dst := dst + (p.1 - va) })

/-- Does MISAL apply to a scalar address (R167)? -/
def Core.misal (c : Core) (a : Word) (n : Nat) : Bool := c.mce && a.toNat % n != 0

/-! ### Vector forms (07 R207) -/

/-- Bytes of an index at a width code. -/
def iwBytes (iw : Fin 3) : Nat := 2 ^ (iw.val + 1)

/-- Elements of a form: address, length, and place of the bytes counted from byte 0 of Vd (or of Kd). -/
def Core.vElems (c : Core) (form : VForm) (rs1 : GReg) (km : Fin 8) : List (Nat × Nat × Nat) :=
  let b := c.sewBytes
  let base := (c.rg rs1).toNat
  match form with
  | .unit => (c.actives km).map (fun i => ((base + i * b) % c.vspace, b, i * b))
  | .strided rs2 => (c.actives km).map (fun i => ((base + i * (c.rg rs2).toNat) % c.vspace, b, i * b))
  | .indexed vs2 iw => (c.actives km).map (fun i => ((base + c.vget vs2.val (iwBytes iw) i) % c.vspace, b, i * b))
  | .segment nf => (c.actives km).flatMap (fun i =>
      (List.range nf.val).map (fun f => ((base + (i * nf.val + f) * b) % c.vspace, b, f * 2048 + i * b)))
  | .wholeV => [(base % c.vspace, 2048, 0)]
  | .wholeK => [(base % c.vspace, 256, 0)]

/-- The accesses of the elements, in element order: each names its element's address; a whole register's, its own. -/
def Core.vAccs (c : Core) (kind : Acc) (es : List (Nat × Nat × Nat)) : List CAcc :=
  es.flatMap (fun (a, n, d) => (lineParts a n).map (fun p =>
    { kind := kind, va := p.1 % c.vspace, n := p.2, ea := w64 (if 8 < n then p.1 % c.vspace else a), dst := d + (p.1 - a) }))

/-- The operand rules of the form (R198): a group past V31, an index that VL outruns. -/
def Core.vFormOk (c : Core) (form : VForm) (vd : Fin 32) : Bool :=
  match form with
  | .segment nf => decide (2 ≤ nf.val) && decide (vd.val + nf.val ≤ 32)
  | .indexed _ iw => decide (c.vl ≤ vlmaxOf (iw.val + 1))
  | .wholeK => decide (vd.val < 8)
  | _ => true

/-- Forms whose elements R208 checks for alignment. -/
def formAligned : VForm → Bool
  | .strided _ | .indexed _ _ | .segment _ => true
  | _ => false
/-- Unit-stride and whole-register forms (R209). -/
def formUnit : VForm → Bool
  | .unit | .wholeV | .wholeK => true
  | _ => false
/-- The address and length of the whole access of such a form (R209). -/
def Core.vSpan (c : Core) (form : VForm) (rs1 : GReg) : Nat × Nat :=
  ((c.rg rs1).toNat % c.vspace, match form with
    | .wholeV => 2048
    | .wholeK => 256
    | _ => c.vl * c.sewBytes)

/-- Elements a Vexten instruction operates on (15 R412): its active elements; VLMAX for a whole V register; 2,048 for a whole K
register and a mask logical. -/
def Core.vCount (c : Core) : GInstr → Nat
  | .vload .wholeV _ _ _ _ | .vstore .wholeV _ _ _ _ => c.vlmax
  | .vload .wholeK _ _ _ _ | .vstore .wholeK _ _ _ _ => 2048
  | .vload _ _ _ _ km | .vstore _ _ _ _ km => (c.actives km).length
  | .kand _ _ _ _ => 2048
  | .vadd _ _ _ _ km | .vsll _ _ _ _ km | .vmin _ _ _ _ km | .vmul _ _ _ _ km | .vmacc _ _ _ km | .vsadd _ _ _ _ km
  | .vmv _ _ km | .vfadd _ _ _ _ km | .vfsqrt _ _ km | .vfmin _ _ _ _ km | .vfma _ _ _ km | .vfnms _ _ _ km | .vfsgn _ _ _ km
  | .vfcvt _ _ _ km | .vfwcvt _ _ _ km | .vfncvt _ _ _ km | .vwmul _ _ _ _ km | .vwmacc _ _ _ km | .vwfmul _ _ _ km
  | .vwfma _ _ _ km | .vdot4 _ _ _ _ km | .vdot2 _ _ _ _ km | .vredsum _ _ _ km | .vredmin _ _ _ _ km | .vredand _ _ _ _ km
  | .vfredsum _ _ _ km | .vfredmin _ _ _ _ km | .vfwredsum _ _ _ km | .vcompress _ _ km | .vexpand _ _ km | .vperm _ _ _ km
  | .vslideup _ _ _ km | .vslidedown _ _ _ km | .vcmp _ _ _ _ km => (c.actives km).length
  | .vmvXv _ _ _ => 1
  | .vpopc _ _ | .vfirst _ _ => c.vl
  | _ => 0

/-! ### Block instructions (R175) -/

def blockBytes (z : Fin 4) : Nat := 2 ^ z.val
/-- rd, rs1 and rs2 are distinct and none is G0. -/
def blockRegs (rd rs1 rs2 : GReg) : Bool :=
  rd.val != 0 && rs1.val != 0 && rs2.val != 0 && rd != rs1 && rd != rs2 && rs1 != rs2

end Sys2Proof.Machine
end

