-- ==== Sys2Proof/Machine/Smbus.lean ====
section
/-! DEFINITION. The SMBus: commands, their answers, and the alert (spec/20_module_data R522, R523; 16 R433; 18 R484). -/

namespace Sys2Proof.Machine

/-- Does the module answer its SMBus address: from the end of step 5 of a start and in Shed mode, and for SCRAPPED's commands? -/
def State.smbAnswers (s : State) : Bool :=
  s.pwr.input && decide (s.pwr.st ≠ PState.off) && (decide (6 ≤ s.boot.phase) || s.org.fuses.lifecycle == .scrapped)

/-- Does a command still run: POWER_STATE, until its request ends? -/
def State.smbRuns (s : State) : Bool := match s.pwr.req with | some r => r.smb | none => false

/-- A command has ended. -/
def State.smbEnd (s : State) (st : Nat) (data : List Byte) : State := { s with smb := { s.smb with status := st, data := data } }

/-- A Block Write of a command: discarded while the module does not answer or another command runs; in SCRAPPED ORG_RUN of
IDENTITY, ORG_STATUS and ORG_BUF_READ alone run. More than 240 bytes of data make no command (DEDUCED: the rule gives no status). -/
def State.smbCmd (s : State) (code : Nat) (data : List Byte) (f : State → State) : State :=
  if !s.smbAnswers then s
  else if s.smbRuns then s
  else if s.org.fuses.lifecycle = .scrapped ∧ !(code == 0x22 || code == 0x23 || (code == 0x21 && (data.head?.map BitVec.toNat) == some 0x30)) then
    s.smbEnd 2 []
  else if 240 < data.length then s.smbEnd 1 []
  else f s

/-- Request data of another length than the command's are MALFORMED. -/
def State.smbLen (s : State) (data : List Byte) (n : Nat) (f : State → State) : State :=
  if data.length = n then f s else s.smbEnd 1 []

/-- Blocks REG_READ reaches. -/
def smbReads (off : Nat) : Bool :=
  decide (off < 0x10000) || rangeIn off 1 0x100000 0x10000 || rangeIn off 1 0x200000 0x10000 || rangeIn off 1 0x1800000 0x10000
    || rangeIn off 1 0x1400000 0x100000 || rangeIn off 1 0x1B00000 0x10000 || rangeIn off 1 0x1C00000 0x10000
/-- Registers REG_WRITE reaches. -/
def smbWrites (off : Nat) : Bool :=
  match regAt off with
  | some (r, _) => [RegK.pwrCap, .pwrCtl, .bootCtl, .bootSlotcmd, .bootSlotsrc, .bootSlotlen].contains r.k
  | none => false

def byteAt (data : List Byte) (i : Nat) : Nat := leNat ((data.drop i).take 1)

/-- Master of the SMBus's register and memory accesses: GW management core 0. -/
def smbMaster : Nat := 0x502

def State.smbRegRead (s : State) (data : List Byte) : State :=
  let off := leNat (data.take 4)
  let n := byteAt data 4
  if (n ≠ 4 ∧ n ≠ 8) ∨ off % n ≠ 0 then s.smbEnd 1 []
  else if !smbReads off then s.smbEnd 2 []
  else match s.busRead smbMaster off n with
    | (.ok v, s1) => s1.smbEnd 0 (leBytes n v)
    | (.error _, s1) => s1.smbEnd 2 []

def State.smbRegWrite (s : State) (data : List Byte) : State :=
  let off := leNat (data.take 4)
  let n := byteAt data 4
  if data.length < 5 ∨ (n ≠ 4 ∧ n ≠ 8) ∨ off % n ≠ 0 ∨ data.length ≠ 5 + n then s.smbEnd 1 []
  else if !smbWrites off then s.smbEnd 2 []
  else match (s.smbEnd 0 []).busWrite smbMaster 2 off n (leNat (data.drop 5)) with
    | (none, s1) => s1
    | (some _, s1) => s1.smbEnd 2 []

/-- The sensors' readings: the module's own, and of the input and the coolant free values (log entry 1). -/
def State.smbSensors (s : State) : State :=
  let (v, s1) := s.draw
  let (a, s2) := s1.draw
  let (i, s3) := s2.draw
  let (o, s4) := s3.draw
  s4.smbEnd 0 (leBytes 2 v ++ leBytes 2 a ++ leBytes 4 s4.pwr.power ++ (List.range 10).flatMap (fun d => leBytes 2 (SMap.get 0 s4.pwr.temp d))
    ++ (List.range 16).flatMap (fun k => leBytes 2 (s4.stack k).temp) ++ leBytes 2 i ++ leBytes 2 o)

/-- ORG_RUN: the command is submitted on the SMBus channel (16 R436); while one runs there it is answered BUSY. -/
def State.smbOrgRun (s : State) (data : List Byte) : State :=
  let x := s.mbx 2
  if x.busy then s.smbEnd 0x80 []
  else
    let s1 := s.setMbx 2 { x with code := byteAt data 0, len := leNat ((data.drop 1).take 2), busy := true, done := false }
    { s1 with org := { s1.org with cmds := s1.org.cmds ++ [2] } }.smbEnd 0 []

/-- MEM_WRITE and MEM_READ reach the 64 MiB of P0's near memory, in Shed mode only. -/
def smbMemSize : Nat := 0x4000000
def State.smbMemWrite (s : State) (data : List Byte) : State :=
  let off := leNat (data.take 4)
  let bs := data.drop 4
  if !s.inShed then s.smbEnd 9 []
  else if data.length < 4 ∨ smbMemSize < off + bs.length then s.smbEnd 1 []
  else match s.devWrite smbMaster (nearBase + off) bs with
    | (true, s1) => s1.smbEnd 0 []
    | (false, s1) => s1.smbEnd 2 []
def State.smbMemRead (s : State) (data : List Byte) : State :=
  let off := leNat (data.take 4)
  let n := byteAt data 4
  if !s.inShed then s.smbEnd 9 []
  else if data.length ≠ 5 ∨ 240 < n ∨ smbMemSize < off + n then s.smbEnd 1 []
  else match s.devRead smbMaster (nearBase + off) n with
    | (some bs, s1) => s1.smbEnd 0 bs
    | (none, s1) => s1.smbEnd 2 []

/-! ### The commands -/

/-- INVENTORY (R522). -/
def execInventory (data : List Byte) (s : State) : Host.Outcome State Fault Refusal :=
  .next (s.smbCmd 0x01 data (fun s => s.smbLen data 0 (fun s =>
    s.smbEnd 0 (leBytes 8 (s.regWord ⟨.glbId, 0, 0, 0⟩) ++ leBytes 8 Config.serial ++ leBytes 4 s.orgWord ++ leBytes 2 s.bootWord
      ++ leBytes 1 s.pwrWord))))
/-- SENSORS (R522). -/
def execSensors (data : List Byte) (s : State) : Host.Outcome State Fault Refusal :=
  .next (s.smbCmd 0x02 data (fun s => s.smbLen data 0 State.smbSensors))
/-- REG_READ (R522). -/
def execRegRead (data : List Byte) (s : State) : Host.Outcome State Fault Refusal :=
  .next (s.smbCmd 0x03 data (fun s => s.smbLen data 5 (fun s => s.smbRegRead data)))
/-- REG_WRITE (R36, R522). -/
def execRegWrite (data : List Byte) (s : State) : Host.Outcome State Fault Refusal :=
  .next (s.smbCmd 0x04 data (fun s => s.smbRegWrite data))
/-- SMB_POWER_STATE (R486, R522): it runs until the request ends. -/
def execSmbPowerState (data : List Byte) (s : State) : Host.Outcome State Fault Refusal :=
  .next (s.smbCmd 0x10 data (fun s => s.smbLen data 1 (fun s =>
    if 3 < byteAt data 0 then s.smbEnd 1 []
    else if s.inShed then s.smbEnd 9 []
    else (s.smbEnd 0 []).powerReq (pstateOf (byteAt data 0)) none true)))
/-- SMB_POWER_CAP (R522). -/
def execSmbPowerCap (data : List Byte) (s : State) : Host.Outcome State Fault Refusal :=
  .next (s.smbCmd 0x11 data (fun s => s.smbLen data 2 (fun s =>
    if s.inShed then s.smbEnd 9 []
    else (s.rput regPwrCap 12 0 (min 6500 (max 1000 (leNat data)))).smbEnd 0 [])))
/-- WAKE (R484, R522). -/
def execWake (data : List Byte) (s : State) : Host.Outcome State Fault Refusal :=
  .next (s.smbCmd 0x12 data (fun s => s.smbLen data 0 (fun s => (s.smbEnd 0 []).wakeUp .smbus)))
/-- SMB_RESET (R453, R522). -/
def execSmbReset (data : List Byte) (s : State) : Host.Outcome State Fault Refusal :=
  .next (s.smbCmd 0x13 data (fun s => s.smbLen data 1 (fun s =>
    let s1 := s.smbEnd 0 []
    match byteAt data 0 with
    | 0 => s1.warmReset
    | 1 => s1.coldReset
    | 2 => s1.restart
    | _ => s.smbEnd 1 [])))
/-- ORG_BUF_WRITE (R522). -/
def execOrgBufWrite (data : List Byte) (s : State) : Host.Outcome State Fault Refusal :=
  .next (s.smbCmd 0x20 data (fun s =>
    let off := leNat (data.take 2)
    let bs := data.drop 2
    if data.length < 2 ∨ 65536 < off + bs.length then s.smbEnd 1 []
    else { s with org := { s.org with buf := Mem.writeN s.org.buf (2 * 65536 + off) bs } }.smbEnd 0 []))
/-- ORG_RUN (R433, R436, R522). -/
def execOrgRun (data : List Byte) (s : State) : Host.Outcome State Fault Refusal :=
  .next (s.smbCmd 0x21 data (fun s => s.smbLen data 3 (fun s => s.smbOrgRun data)))
/-- ORG_STATUS (R522). -/
def execOrgStatus (data : List Byte) (s : State) : Host.Outcome State Fault Refusal :=
  .next (s.smbCmd 0x22 data (fun s => s.smbLen data 0 (fun s => s.smbEnd 0 (leBytes 8 (s.mbx 2).word))))
/-- ORG_BUF_READ (R522). -/
def execOrgBufRead (data : List Byte) (s : State) : Host.Outcome State Fault Refusal :=
  .next (s.smbCmd 0x23 data (fun s => s.smbLen data 3 (fun s =>
    let off := leNat (data.take 2)
    let n := byteAt data 2
    if 240 < n ∨ 65536 < off + n then s.smbEnd 1 [] else s.smbEnd 0 (Mem.readN s.org.buf (2 * 65536 + off) n))))
/-- MEM_WRITE (R522). -/
def execMemWrite (data : List Byte) (s : State) : Host.Outcome State Fault Refusal :=
  .next (s.smbCmd 0x30 data (fun s => s.smbMemWrite data))
/-- MEM_READ (R522). -/
def execMemRead (data : List Byte) (s : State) : Host.Outcome State Fault Refusal :=
  .next (s.smbCmd 0x31 data (fun s => s.smbMemRead data))
/-- SMB_RESPONSE_READ (R522): a Block Read of 0xF0 returns the status and the data. -/
def execSmbResponseRead (s : State) : Host.Outcome State Fault Refusal :=
  .next { s with smb := { s.smb with reply := if s.smbAnswers then some (if s.smbRuns then leBytes 1 0x80 else leBytes 1 s.smb.status ++ s.smb.data) else none } }
/-- ALERT_RESPONSE (R523): the address byte is returned and SMB_ALERT# released; without an alert nothing answers. -/
def execAlertResponse (s : State) : Host.Outcome State Fault Refusal :=
  .next (if s.smb.alert then { s with smb := { s.smb with alert := false, reply := some (leBytes 1 0x58) } }
    else { s with smb := { s.smb with reply := none } })

end Sys2Proof.Machine
end

