-- ==== Sys2Proof/Machine/CoreMem.lean ====
section
/-! DEFINITION. A core's accesses to memory: places, checks, loads and stores through its buffers, and accesses that leave the
module (spec/06_gelfort_core R158, R167, R178-R184; spec/07_vexten_vectors R207-R213; spec/10_ordering_coherence R266-R274;
spec/08_exceptions_interrupts R216-R218). -/

namespace Sys2Proof.Machine

/-- One access at the place it reaches, with its effective hint (09 R247). -/
structure CPart where
  kind : Acc
  va : Nat
  n : Nat
  ea : Word
  dst : Nat
  loc : Loc
  hint : Nat
  deriving DecidableEq, Repr

/-- A translation fault of an access (11 R301). -/
structure CFault where
  kind : Acc
  va : Nat
  ea : Word
  cause : Nat
  level : Nat
  entry : Nat
  deriving DecidableEq, Repr

/-- A request an instruction sends outside the module: the part it completes, its place, a store's or atomic's data, and an
atomic's AOP. -/
structure CReq where
  part : RemotePart
  loc : Loc
  data : List Byte
  aop : Nat := 0
  deriving DecidableEq, Repr

/-- How an attempt at an instruction ends. -/
inductive GRes where
  /-- it has its effect; the pc, when not that of the next instruction -/
  | ok (s : State) (next : Option Word)
  | exc (s : State) (code sub : Nat) (addr : Word)
  /-- it parks on translation faults; page and address of each of its accesses -/
  | park (s : State) (fs : List CFault) (addrs : List (Nat × Word))
  /-- it waits for answers from outside the module; what it has read so far -/
  | need (s : State) (reqs : List CReq) (got : List RemotePart)
  /-- it must wait, with nothing done -/
  | hold (s : State)

def GRes.illop (s : State) (sub : Nat) : GRes := .exc s causeILLOP sub 0
/-- The outcome of an instruction that touches the core alone. -/
def GRes.ofCore (s : State) (k : Nat) : CoreOut → GRes
  | .ok c next => .ok (s.setCore k c) next
  | .exc code sub a => .exc s code sub a

/-! ### Places -/

/-- TLB of a core; those of the management and Orangery cores are one structure (log entry 40). -/
def coreTlb (k : Nat) : Nat := if k < 512 then tlbCore k else 1130
/-- The die whose fault queue takes a core's faults. -/
def coreDie (k : Nat) : Nat := if k < 512 then k / 64 else 0
def State.corePart (s : State) (k : Nat) : Option Nat := if k < 512 then s.dieOwner (k / 64) else none

/-- The access table's hint at a place. -/
def State.locHint (s : State) (k : Nat) : Loc → Nat
  | .dev a => s.hintAt (coreMaster k) a
  | _ => 0
/-- A place `d` bytes on. -/
def Loc.plus : Loc → Nat → Loc
  | .dev a, d => .dev (a + d)
  | .host p a c, d => .host p (a + d) c
  | .peer v a, d => .peer v (a + d)
/-- First byte of the page frame that a virtual address's place lies in. -/
def Loc.pageOf : Loc → Nat → Loc
  | .dev a, va => .dev (a - va % 65536)
  | .host p a c, va => .host p (a - va % 65536) c
  | .peer v a, va => .peer v (a - va % 65536)
/-- Number by which a core's caches and buffers know a place. -/
def Loc.uni : Loc → Nat
  | .dev a => a
  | .host port a _ => uniHost port a
  | .peer _ a => a

/-- Is a request of a core for a place held at a stack's port (09 R256): its stack is HOT, and no cache of its own serves it? -/
def State.coreHot (s : State) (k : Nat) (l : Loc) : Bool :=
  s.hotLoc l && ((s.core k).det || !hasL2 k || !(s.l2Of (k / 8)).any (fun x => x.line == l.uni / 64))

/-- Where one access lands: its place, a fault, or neither while its page moves (11 R310) or its stack is HOT (09 R256). -/
inductive CPlace where
  | here (p : CPart)
  | fault (f : CFault)
  | wait
  deriving DecidableEq, Repr

def State.corePlace (s : State) (k : Nat) (c : Core) (req : Nat) (a : CAcc) : CPlace × State :=
  let put := fun (s : State) (l : Loc) (pte : Nat) =>
    (if s.coreHot k l then CPlace.wait else .here ⟨a.kind, a.va, a.n, a.ea, a.dst, l, effHint (s.locHint k l) req pte⟩, s)
  if c.priv = 3 then put s (.dev a.va) 0
  else match c.tran.find? (fun t => t.page == a.va / 65536 && t.kind == a.kind) with
  | some t => put s (t.loc.plus (a.va % 65536)) t.hint
  | none => match s.translate (coreTlb k) anyEnd c.asid a.va a.kind (s.corePart k) with
    | (.ok t, s1) => put s1 (t.loc a.va) (t.hint a.kind)
    | (.moving, s1) => (.wait, s1)
    | (.fault cz lv e, s1) => (.fault ⟨a.kind, a.va, a.ea, cz, lv, e⟩, s1)

/-- One record for each page and kind, at the lowest address touched in it (07 R212; 11 R301). -/
def addFault (l : List CFault) (f : CFault) : List CFault :=
  let same := fun (x : CFault) => x.kind == f.kind && x.va / 65536 == f.va / 65536
  if l.any same then l.map (fun x => if same x && decide (f.va < x.va) then { x with va := f.va } else x) else l ++ [f]

/-- Places of every access, the faults among them, and whether one must wait. -/
structure CPlaces where
  parts : List CPart := []
  faults : List CFault := []
  wait : Bool := false
  deriving DecidableEq, Repr

def State.corePlaces (k : Nat) (c : Core) (req : Nat) : List CAcc → CPlaces → State → CPlaces × State
  | [], r, s => (r, s)
  | a :: as, r, s =>
    match s.corePlace k c req a with
    | (.here p, s1) => State.corePlaces k c req as { r with parts := r.parts ++ [p] } s1
    | (.fault f, s1) => State.corePlaces k c req as { r with faults := addFault r.faults f } s1
    | (.wait, s1) => State.corePlaces k c req as { r with wait := true } s1

/-! ### Checks (01 R32; 09 R238; 07 R209) -/

def Loc.mmio : Loc → Option Nat
  | .dev a => (match placeOf a with | .mmio off => some off | _ => none)
  | _ => none
/-- Cacheable memory (06 R178): HBM, near memory, coherent HOST pages. -/
def Loc.cacheable : Loc → Bool
  | .dev a => (match placeOf a with | .hbm _ => true | .near _ => true | _ => false)
  | .host _ _ coh => coh
  | .peer _ _ => false

/-- A vector access as R209 sees it: a unit-stride or whole-register form, its address and length. -/
structure VSpan where
  unit : Bool
  base : Nat
  len : Nat
  deriving DecidableEq, Repr

/-- Is the form permitted in the region (R209)? -/
def VSpan.okAt (v : VSpan) (l : Loc) : Bool :=
  match l with
  | .host _ _ coh => coh || v.unit
  | .peer _ _ => v.unit && v.base / 65536 == (v.base + v.len - 1) / 65536
  | .dev _ => l.mmio.isNone || (v.unit && v.base % 8 == 0 && v.len % 8 == 0)

/-- Why an access at its place is refused: subcode and what is recorded of it. Uncorrectable data is met by the read itself. -/
def State.partFail (s : State) (m : Nat) (v : Option VSpan) (p : CPart) : Option (Nat × Option (Nat × AccFail)) :=
  let tbl := match p.loc with
    | .dev a => match (linesOf a p.n).findSome? (fun l => match s.accCheck m p.kind [l] with | some (.bad _) => none | r => r) with
      | some (.absent l) => some (2, some (a, AccFail.absent l))
      | some f => some (1, some (a, f))
      | none => match p.loc.mmio with
        | some off => if (p.kind = .wr ∨ p.kind = .at) ∧ !s.mayWrite m off then some (1, some (a, AccFail.denied a)) else none
        | none => none
    | _ => none
  match tbl, v with
  | some r, _ => some r
  | none, some v => if v.okAt p.loc then none else some (5, none)
  | none, none => none

def State.firstFail (s : State) (m : Nat) (v : Option VSpan) : List CPart → Option (CPart × Nat × Option (Nat × AccFail))
  | [] => none
  | p :: ps => match s.partFail m v p with
    | some r => some (p, r)
    | none => s.firstFail m v ps

/-- Translate and check the accesses of an instruction (R218 5, 6; R211 phases 3, 4), then go on with their places. -/
def State.access (s : State) (k : Nat) (req : Nat) (v : Option VSpan) (accs : List CAcc) (f : State → List CPart → GRes) : GRes :=
  let c := s.core k
  match State.corePlaces k c req accs {} s with
  | (r, s1) =>
    match r.faults with
    | x :: fs =>
      if c.park.isSome then .exc s1 causeBUSERR 8 x.ea
      else .park s1 (x :: fs) (accs.map (fun a => (a.va / 65536, a.ea)))
    | [] =>
      if r.wait then .hold s1
      else match s1.firstFail (coreMaster k) v r.parts with
        | some (p, sub, w) =>
          .exc (match w with | some (a, e) => s1.failed (coreMaster k) a e | none => s1) causeBUSERR sub p.ea
        | none => f s1 r.parts

/-! ### Requests that leave the module (12 R327; 13 R366) -/

/-- Does an answer from outside complete the access: a PEER access, a read of an uncached HOST page? -/
def CPart.remote (p : CPart) : Bool :=
  match p.loc with
  | .peer _ _ => true
  | .host _ _ coh => !coh && p.kind != .wr
  | .dev _ => false

/-- An answered part of the instruction that covers an access. -/
def arrivedFor (arr : List RemotePart) (p : CPart) : Option RemotePart :=
  arr.find? (fun r => r.kind == p.kind.code && decide (r.va ≤ p.va) && decide (p.va + p.n ≤ r.va + r.n))

/-- Join accesses that follow one another in one page into one request, within 4 KiB (13 R366). -/
def addReq (data : CPart → List Byte) (l : List CReq) (p : CPart) : List CReq :=
  let q : CReq := { part := { va := p.va, n := p.n, kind := p.kind.code, host := (match p.loc with | .host port a _ => some (port, a) | _ => none) },
                    loc := p.loc, data := data p }
  match l.reverse with
  | r :: rs =>
    if r.part.kind = p.kind.code ∧ r.part.va + r.part.n = p.va ∧ p.va % 4096 ≠ 0 then
      (({ r with part := { r.part with n := r.part.n + p.n }, data := r.data ++ q.data } : CReq) :: rs).reverse
    else l ++ [q]
  | [] => [q]

/-- The requests still to be sent for accesses of a kind. -/
def missing (arr : List RemotePart) (data : CPart → List Byte) (ps : List CPart) : List CReq :=
  (ps.filter (fun p => p.remote && (arrivedFor arr p).isNone)).foldl (addReq data) []

/-- Subcode of an access that failed outside the module (08 R217). -/
def remoteSub (p : CPart) : Nat := match p.loc with | .host _ _ _ => 6 | _ => 7

/-! ### Loads -/

/-- Naturally aligned accesses of an MMIO range: words of 8, a range that is itself a power of two and aligned, or bytes. -/
def mmioChunks (off n : Nat) : List (Nat × Nat) :=
  if n % 8 = 0 ∧ off % 8 = 0 then (List.range (n / 8)).map (fun i => (off + 8 * i, 8))
  else if (n = 1 ∨ n = 2 ∨ n = 4) ∧ off % n = 0 then [(off, n)]
  else (upFrom off n).map (fun o => (o, 1))

def State.mmioGet (m : Nat) : List (Nat × Nat) → State → List Byte × State
  | [], s => ([], s)
  | (o, n) :: l, s =>
    let (v, s1) := if n < 4 then s.readPart m o n else s.mmioRead m o n
    let (bs, s2) := State.mmioGet m l s1
    (leBytes n v ++ bs, s2)

def State.mmioPut (m : Nat) : List (Nat × Nat) → List Byte → State → State
  | [], _, s => s
  | (o, n) :: l, bs, s =>
    let v := leNat (bs.take n)
    State.mmioPut m l (bs.drop n) (if n < 4 then s.writePart m (clampSrc m) o n v else s.mmioWrite m (clampSrc m) o n v)

/-- A parity error on an L1 line that an access finds: the line is invalidated, and the access is served again from L2; a corrected error is
recorded (R182). -/
def State.l1Parity (s : State) (k code line : Nat) : State :=
  if s.err.upsets = [] then s
  else match s.upset (fun u => u.code == code && u.unit == k && u.line % 256 == line % 256) with
    | some (_, s1) =>
      let drop := fun (x : Cache) => x.dropLines (fun l => l == line)
      (s1.structErr code (k / 64) (some (coreMaster k)) (line * 64) true true).onCore k
        (fun c => if code = 7 then { c with l1i := drop c.l1i } else { c with l1d := drop c.l1d })
    | none => s

/-- A lookup of L1D (06 R178, R179); a miss is counted, and its line comes from L2 (R181). -/
def State.l1dLook (s : State) (k line hint : Nat) : State :=
  let s := if ((s.core k).l1d.find 4 (line % 256) line).isSome then s.l1Parity k 8 line else s
  let s1 := if ((s.core k).l1d.find 4 (line % 256) line).isSome then s else (s.countCore k 4 1).l2Read k (line * 64) 64 hint
  s1.onCore k (fun c => { c with l1d := c.l1d.l1 line hint })

/-- One read at its place: its bytes, or nothing when its data is uncorrectable. A scalar read of cacheable memory goes through
L1D; it sees the core's buffered stores, in deterministic mode too (10 R267). Vector accesses bypass L1 (07 R210), and everything
bypasses the caches in deterministic mode (06 R184). -/
def State.readAt (s : State) (k : Nat) (vec : Bool) (p : CPart) : Option (List Byte) × State :=
  let m := coreMaster k
  let cached := p.loc.cacheable && !(s.core k).det
  let u := p.loc.uni
  let s := if vec || !p.loc.cacheable then s else State.letOut k u p.n ((s.core k).sbuf.length + (s.core k).mbuf.length) s
  let see := fun (bs : List Byte) => if vec || !p.loc.cacheable then bs else (s.core k).seeN u bs
  let look := fun (s : State) =>
    if !cached then (if u < 2 ^ 64 then s.traffic m .read p.hint u p.n else s)
    else if vec then s.l2Read k u p.n p.hint
    else s.l1dLook k (u / 64) p.hint
  match p.loc with
  | .dev a =>
    match placeOf a with
    | .mmio off => let (bs, s1) := State.mmioGet m (mmioChunks off p.n) s; (some bs, s1)
    | .mgmtRegs => let (v, s1) := s.draw; (some (leBytes p.n v), s1)
    | _ =>
      match s.tryAcc m .rd cached a p.n with
      | (some _, s1) => (none, s1)
      | (none, s1) => (some (see (Mem.readN s1.mem a p.n)), look s1)
  | .host port a _ => (some (see (s.hostRead port a p.n)), look s)
  | .peer _ _ => (some [], s)

/-- The bytes of every read, by their place in the instruction's data; or the access that failed and its subcode. -/
def State.readAll (k : Nat) (vec : Bool) (arr : List RemotePart) : List CPart → State → Except (Nat × Word) (List (Nat × List Byte)) × State
  | [], s => (.ok [], s)
  | p :: ps, s =>
    let go := fun (s : State) (bs : List Byte) =>
      match State.readAll k vec arr ps s with
      | (.ok r, s1) => (.ok ((p.dst, bs) :: r), s1)
      | (.error e, s1) => (.error e, s1)
    match arrivedFor arr p with
    | some r => match r.data with
      | some bs => go s ((bs.drop (p.va - r.va)).take p.n)
      | none => (.error (remoteSub p, p.ea), s)
    | none => match s.readAt k vec p with
      | (some bs, s1) => go s1 bs
      | (none, s1) => (.error (4, p.ea), s1)

/-! ### Stores -/

/-- One write at its place; none while a buffer is full. A scalar store of cacheable memory enters the store buffer (10 R267), in
deterministic mode too; any other is performed at once. -/
def State.writeAt (s : State) (k : Nat) (vec : Bool) (p : CPart) (bs : List Byte) : Option State :=
  let m := coreMaster k
  let u := p.loc.uni
  match p.loc with
  | .peer _ _ => some s
  | _ =>
    match p.loc.mmio with
    | some off => some (State.mmioPut m (mmioChunks off p.n) bs s)
    | none =>
      if vec then some ((s.coreWrite k u bs p.hint).onCore k (fun c => { c with l1d := c.l1d.dropLines (fun l => l == u / 64) }))
      else if p.loc.cacheable then
        (s.pushStore k ⟨u, bs, p.hint⟩).map (fun s => s.onCore k (fun c => { c with l1d := c.l1d.l1Store (u / 64) }))
      else some (s.coreWrite k u bs p.hint)

def State.writeAll (k : Nat) (vec : Bool) (data : CPart → List Byte) : List CPart → State → Option State
  | [], s => some s
  | p :: ps, s => match s.writeAt k vec p (data p) with
    | some s1 => State.writeAll k vec data ps s1
    | none => none

/-! ### An instruction's memory phase -/

/-- Elements of one aligned 8-byte unit of an MMIO block, when together they are the unit, are one access (07 R209); a unit some of whose
elements are inactive is accessed element by element (log entry 103). -/
def joinUnit (g : List CPart) : List CPart :=
  match g with
  | [] => []
  | p :: _ => if (g.map CPart.n).foldl (· + ·) 0 = 8 ∧ p.va % 8 = 0 then [{ p with n := 8 }] else g
def mmioUnits : List CPart → List CPart → List CPart
  | g, [] => joinUnit g
  | g, p :: ps =>
    let same := match g.head?, p.loc.mmio with
      | some q, some _ => q.loc.mmio.isSome && q.va / 8 == p.va / 8 && q.kind == p.kind
      | _, _ => false
    if same then mmioUnits (g ++ [p]) ps else joinUnit g ++ mmioUnits [p] ps

/-- The translations of an instruction that waits are held until its last access is performed (07 R213; 11 R312). -/
def State.holdTran (s : State) (k : Nat) (ps : List CPart) : State :=
  if (s.core k).priv = 3 then s
  else s.onCore k (fun c => { c with tran := (c.tran ++ ps.map (fun (p : CPart) => HeldTran.mk (p.va / 65536) p.kind (p.loc.pageOf p.va) p.hint)).eraseDups })

/-- The accesses of an instruction: its reads, then its writes, whose data may come from the reads, then `done`. Reads and writes
that leave the module are answered first, and the instruction then executes again (10 R279). -/
def State.memOp (s : State) (k req : Nat) (v : Option VSpan) (accs : List CAcc)
    (data : List (Nat × List Byte) → CPart → List Byte) (done : State → List (Nat × List Byte) → GRes) : GRes :=
  s.access k req v accs (fun s ps =>
    let ps := if v.isSome then mmioUnits [] ps else ps
    let arr := (s.core k).arrived
    let rds := ps.filter (fun p => p.kind != .wr)
    let wrs := ps.filter (fun p => p.kind == .wr)
    match missing arr (fun _ => []) rds with
    | q :: qs => .need (s.holdTran k ps) (q :: qs) []
    | [] =>
      let s1 := if v.isSome then s.drainOver k (ps.flatMap (fun p => linesOf p.loc.uni p.n)) else s
      match State.readAll k v.isSome arr rds s1 with
      | (.error (sub, ea), s2) => .exc s2 causeBUSERR sub ea
      | (.ok d, s2) =>
        match missing arr (data d) wrs with
        | q :: qs => .need (s2.holdTran k ps) (q :: qs) ((rds.zip d).map (fun x =>
            { va := x.1.va, n := x.1.n, kind := x.1.kind.code, host := none, data := some x.2.2 }))
        | [] =>
          match wrs.find? (fun p => match arrivedFor arr p with | some r => r.failed | none => false) with
          | some p => .exc s2 causeBUSERR (remoteSub p) p.ea
          | none => match State.writeAll k v.isSome (data d) wrs s2 with
            | some s3 => done s3 d
            | none => .hold s)

/-- The number a scalar's bytes spell: the pieces in order, from place `d` on. -/
def scalarNat (l : List (Nat × List Byte)) (d n : Nat) : Nat :=
  leNat ((l.filter (fun x => decide (d ≤ x.1) && decide (x.1 < d + n))).flatMap (fun x => x.2))
/-- A scalar's bytes for its pieces. -/
def scalarData (bs : List Byte) (p : CPart) : List Byte := (bs.drop p.dst).take p.n

/-- A load of `n` bytes at an address (06 R167), then `done` with its value. -/
def State.loadOp (s : State) (k : Nat) (a : Word) (n : Nat) (done : State → Nat → GRes) : GRes :=
  let c := s.core k
  if c.misal a n then .exc s causeMISAL 1 a
  else s.memOp k 0 none (c.scalar .rd a n 0) (fun _ _ => []) (fun s d => done s (scalarNat d 0 n))

/-- A store of `n` bytes. -/
def State.storeOp (s : State) (k : Nat) (a : Word) (bs : List Byte) (done : State → GRes) : GRes :=
  let c := s.core k
  if c.misal a bs.length then .exc s causeMISAL 1 a
  else s.memOp k 0 none (c.scalar .wr a bs.length 0) (fun _ p => scalarData bs p) (fun s _ => done s)

/-- An atomic of `n` bytes (06 R164, R167), performed at its location's home (10 R261): `f` gives the value written, none when it writes nothing; `aop` and `payload` are what
a Trellis ATOMIC carries (13 R359). A core's buffered stores to the line go first. -/
def State.atomicOn (s : State) (k : Nat) (a : Word) (n : Nat) (f : Nat → Option Nat) (aop : Nat) (payload : List Byte)
    (done : State → Nat → GRes) : GRes :=
  let c := s.core k
  if a.toNat % n ≠ 0 then .exc s causeMISAL 2 a
  else s.access k 0 none (c.scalar .at a n 0) (fun s ps =>
    match ps with
    | [] => .hold s
    | p :: _ =>
      let arr := (s.core k).arrived
      match missing arr (fun _ => payload) [p] with
      | q :: qs => .need (s.holdTran k [p]) ((q :: qs).map (fun (q : CReq) =>
          { q with aop := aop, part := { q.part with atom := match p.loc with | .host _ _ _ => some (aop, payload) | _ => none } })) []
      | [] =>
        let s1 := s.drainOver k (linesOf p.loc.uni p.n)
        let write := fun (s : State) (old : Nat) (put : State → List Byte → State) =>
          match f old with
          | some v => done (put s (leBytes n v)) old
          | none => done s old
        match arrivedFor arr p with
        | some r => (match r.data with
          | none => .exc s1 causeBUSERR (remoteSub p) p.ea
          | some bs => done s1 (leNat bs))
        | none =>
          match p.loc with
          | .dev x =>
            (match placeOf x with
            | .mmio off =>
              let (bs, s2) := State.mmioGet (coreMaster k) (mmioChunks off n) s1
              write s2 (leNat bs) (fun s b => State.mmioPut (coreMaster k) (mmioChunks off n) b s)
            | _ =>
              match s1.tryAcc (coreMaster k) .at (p.loc.cacheable && !c.det) x n with
              | (some _, s2) => .exc s2 causeBUSERR 4 p.ea
              | (none, s2) =>
                let s3 := ((s2.recall none x n).dropCopies none x n).memPort (coreMaster k) .atomic p.hint x n
                write s3 (Mem.readLE s2.mem x n) (fun s b => s.atomWrite k x b))
          | .host port x _ => write s1 (leNat (s1.hostRead port x n)) (fun s b => s.atomWrite k (uniHost port x) b)
          | .peer _ _ => .hold s1)

end Sys2Proof.Machine
end

