-- ==== Sys2Proof/Machine/Flags.lean ====
section
/-! DEFINITION. STATUS as entry and return change it, and the frame's words (spec/08_exceptions_interrupts R219, R221, R222). -/

namespace Sys2Proof.Machine

/-- Frame kinds (R221). -/
def kindExc : Nat := 0
def kindNormal : Nat := 1
def kindFast : Nat := 2
def kindEntry : Nat := 3

/-- Entry of a vector table that a cause selects (R216). -/
def vectorOf (code : Nat) : Nat :=
  match code with
  | 0x01 => 0
  | 0x02 => 1
  | 0x03 => 2
  | 0x04 => 3
  | 0x05 => 4
  | 0x10 => 5
  | _ => 6

/-- Word 1 of a frame. -/
def frameWord (status kind : Nat) (parked : Bool) (code sub : Nat) : Nat :=
  status % 256 + kind * 2 ^ 8 + (if parked then 2 ^ 10 else 0) + code * 2 ^ 16 + sub * 2 ^ 24

/-- ECAUSE and MCAUSE (R219). -/
def causeWord (code sub orig : Nat) : Nat := code + sub * 2 ^ 8 + orig * 2 ^ 24

/-- STATUS after an entry to a level: IE and RPT clear; a FAST entry clears FIE and turns to the fast bank (R221). -/
def statusEntry (status lvl : Nat) (fast : Bool) : Nat :=
  let s := natPut (natPut (natPut status 1 0 lvl) 2 2 0) 6 6 0
  if fast then natPut (natPut s 3 3 0) 5 5 1 else s

/-- STATUS after ERET: PRIV, IE, FIE, MCE, FB and RPT from the frame; WINOVR stands (R222). -/
def statusReturn (status saved : Nat) : Nat := natPut status 6 0 (saved % 128)

/-- Does ERET at a level refuse the frame's word 1 (R222)? -/
def eretRefused (priv w1 : Nat) : Bool :=
  w1 % 4 == 2 || (priv == 1 && (w1 % 4 == 3 || w1.testBit 5 || natBits w1 9 8 == kindFast || natBits w1 9 8 == kindEntry))

end Sys2Proof.Machine
end

