-- ==== Sys2Proof/Machine/CoreExec.lean ====
section
/-! DEFINITION. Executing one instruction of a core: the instructions that access memory, fetch, taking an exception, returning from
one, parking (spec/06_gelfort_core R156-R187; spec/07_vexten_vectors R207-R213; spec/08_exceptions_interrupts R216-R229). -/

namespace Sys2Proof.Machine

/-! ### Memory instructions (06 R164, R167, R170; 07 R207-R213) -/

/-- Write registers of the core after the accesses. -/
def State.okCore (s : State) (k : Nat) (f : Core → Core) : GRes := .ok (s.onCore k f) none

def gLoad (s : State) (k : Nat) (op : LoadOp) (rd rs1 : GReg) (imm : BitVec 12) : GRes :=
  s.loadOp k ((s.core k).eaImm rs1 imm) (loadBytes op) (fun s n => s.okCore k (fun c => c.wg rd (loadValue op n)))
def gStore (s : State) (k : Nat) (op : StoreOp) (rs2 rs1 : GReg) (imm : BitVec 12) : GRes :=
  s.storeOp k ((s.core k).eaImm rs1 imm) (leBytes (storeBytes op) ((s.core k).rg rs2).toNat) (fun s => .ok s none)
/-- C.LD, and C.LW, which sign-extends (R162). -/
def gCLd (s : State) (k : Nat) (word : Bool) (rt rb : Fin 8) (off4 : Fin 16) : GRes :=
  s.loadOp k ((s.core k).eaCm word rb off4) (if word then 4 else 8)
    (fun s n => s.okCore k (fun c => c.wg (mreg rt) (if word then loadValue .lw n else loadValue .ld n)))
def gCSd (s : State) (k : Nat) (word : Bool) (rt rb : Fin 8) (off4 : Fin 16) : GRes :=
  s.storeOp k ((s.core k).eaCm word rb off4) (leBytes (if word then 4 else 8) ((s.core k).rg (mreg rt)).toNat) (fun s => .ok s none)

def atomBytes (dbl : Bool) : Nat := if dbl then 8 else 4

def gAtomic (s : State) (k : Nat) (op : AtomOp) (dbl : Bool) (rd rs1 rs2 : GReg) : GRes :=
  let n := atomBytes dbl
  let b := (s.core k).rg rs2
  s.atomicOn k ((s.core k).rg rs1) n
    (fun old => some (if dbl then (atomOp op (w64 old) b).toNat else (atomOp op (BitVec.ofNat 32 old) (b.setWidth 32)).toNat))
    (atomCode op) (leBytes n b.toNat) (fun s old => s.okCore k (fun c => c.wg rd (atomResult dbl old)))
/-- CAS writes rs2 if the memory equals rd. -/
def gCas (s : State) (k : Nat) (dbl : Bool) (rd rs1 rs2 : GReg) : GRes :=
  let n := atomBytes dbl
  let b := ((s.core k).rg rs2).toNat % 2 ^ (8 * n)
  let x := ((s.core k).rg rd).toNat % 2 ^ (8 * n)
  s.atomicOn k ((s.core k).rg rs1) n (fun old => if old = x then some b else none) 9 (leBytes n x ++ leBytes n b)
    (fun s old => s.okCore k (fun c => c.wg rd (atomResult dbl old)))

/-- FMACP reads both operands before it changes anything; equal pointers advance once (R170). -/
def gFmacp (s : State) (k : Nat) (isQ31 : Bool) (ad : Fin 4) (rs1 rs2 : GReg) : GRes :=
  let c := s.core k
  let n := if isQ31 then 4 else 2
  let a := c.rg rs1
  let b := c.rg rs2
  if c.misal a n then .exc s causeMISAL 1 a
  else if c.misal b n then .exc s causeMISAL 1 b
  else s.memOp k 0 none (c.scalar .rd a n 0 ++ c.scalar .rd b n 8) (fun _ _ => []) (fun s d =>
    let x := scalarNat d 0 n
    let y := scalarNat d 8 n
    let t := if isQ31 then toSigned 32 x * toSigned 32 y * 2 else toSigned 16 x * toSigned 16 y * 2 ^ 33
    s.okCore k (fun c =>
      let c1 := c.accAdd ad (c.ra ad).toInt t
      let c2 := c1.wg rs1 (a + w64 n)
      if rs1 = rs2 then c2 else c2.wg rs2 (b + w64 n)))

/-- A Vexten load or store: decode, alignment, translation, checks, accesses (R211). -/
def vMem (s : State) (k : Nat) (kind : Acc) (form : VForm) (hint : Fin 4) (vd : Fin 32) (rs1 : GReg) (km : Fin 8)
    (data : CPart → List Byte) (done : State → List (Nat × List Byte) → GRes) : GRes :=
  let c := s.core k
  let km0 := if form = .wholeV ∨ form = .wholeK then 0 else km
  if vextenOff (coreHasV k) c then .illop s 5
  else if !c.vFormOk form vd then .illop s 6
  else
    let es := c.vElems form rs1 km0
    match if c.mce && formAligned form then es.find? (fun e => e.1 % c.sewBytes != 0) else none with
    | some e => .exc s causeMISAL 3 (w64 e.1)
    | none =>
      let (base, len) := c.vSpan form rs1
      s.memOp k hint.val (some ⟨formUnit form, base, len⟩) (c.vAccs kind es) (fun _ => data) done

/-- Bytes into V registers from byte 0 of Vd on, or into a K register. -/
def Core.vFill (c : Core) (form : VForm) (vd : Fin 32) (d : List (Nat × List Byte)) : Core :=
  if form = .wholeK then
    (if h : vd.val < 8 then c.wk ⟨vd.val, h⟩ (BitVec.ofNat 2048 (leNat (d.flatMap (fun (x : Nat × List Byte) => x.2)))) else c)
  else if d.isEmpty then c
  else { c with v := d.foldl (fun m (x : Nat × List Byte) => Mem.writeN m (vd.val * 2048 + x.1) x.2) c.v }.dirty
/-- Bytes of an access of a store: from V registers, or from a K register. -/
def Core.vData (c : Core) (form : VForm) (vd : Fin 32) (p : CPart) : List Byte :=
  if form = .wholeK then
    (if h : vd.val < 8 then ((leBytes 256 (c.rk ⟨vd.val, h⟩).toNat).drop p.dst).take p.n else [])
  else Mem.readN c.v (vd.val * 2048 + p.dst) p.n

def gVload (s : State) (k : Nat) (form : VForm) (hint : Fin 4) (vd : Fin 32) (rs1 : GReg) (km : Fin 8) : GRes :=
  vMem s k .rd form hint vd rs1 km (fun _ => []) (fun s d => s.okCore k (fun c => c.vFill form vd d))
def gVstore (s : State) (k : Nat) (form : VForm) (hint : Fin 4) (vd : Fin 32) (rs1 : GReg) (km : Fin 8) : GRes :=
  vMem s k .wr form hint vd rs1 km ((s.core k).vData form vd) (fun s _ => .ok s none)

/-! ### Block instructions (06 R175-R177) -/

/-- One element; true when the instruction ends with it. -/
def blockElem (s : State) (k : Nat) (op : BlockOp) (z : Fin 4) (rd rs1 rs2 : GReg) (done : State → Bool → GRes) : GRes :=
  let c := s.core k
  let n := blockBytes z
  let a := c.rg rd
  let b := c.rg rs1
  let left := c.rg rs2
  let adv := fun (c : Core) (rs : List GReg) => (rs.foldl (fun c r => c.wg r (c.rg r + w64 n)) c).wg rs2 (left - 1)
  if left = 0 then done s true
  else
    let go := fun (s : State) (rs : List GReg) => done (s.onCore k (fun c => adv c rs)) (left == 1)
    match op with
    | .bmov =>
      if c.misal b n then .exc s causeMISAL 1 b
      else if c.misal a n then .exc s causeMISAL 1 a
      else s.memOp k 0 none (c.scalar .rd b n 0 ++ c.scalar .wr a n 0)
        (fun d p => scalarData (leBytes n (scalarNat d 0 n)) p) (fun s _ => go s [rd, rs1])
    | .bfill => s.storeOp k a (leBytes n b.toNat) (fun s => go s [rd])
    | .bcmp =>
      if c.misal a n then .exc s causeMISAL 1 a
      else if c.misal b n then .exc s causeMISAL 1 b
      else s.memOp k 0 none (c.scalar .rd a n 0 ++ c.scalar .rd b n 8) (fun _ _ => [])
        (fun s d => if scalarNat d 0 n = scalarNat d 8 n then go s [rd, rs1] else done s true)
    | .bscan => s.loadOp k b n (fun s x => if x = a.toNat % 2 ^ (8 * n) then done s true else go s [rs1])

/-- Elements until the instruction ends. An answer from outside serves one element only. -/
def blockLoop (k : Nat) (op : BlockOp) (z : Fin 4) (rd rs1 rs2 : GReg) : Nat → State → GRes
  | 0, s => .ok s none
  | f + 1, s => blockElem s k op z rd rs1 rs2 (fun s isOver =>
      if isOver then .ok s none
      else blockLoop k op z rd rs1 rs2 f (s.onCore k (fun c => { c with arrived := [], tran := [] })))

/-- A whole block instruction, or one element of it, which ends at its own address unless the instruction is over. -/
def gBlock (s : State) (k : Nat) (one : Bool) (op : BlockOp) (z : Fin 4) (rd rs1 rs2 : GReg) : GRes :=
  let c := s.core k
  if !blockRegs rd rs1 rs2 then .illop s 2
  else if one then blockElem s k op z rd rs1 rs2 (fun s isOver => .ok s (if isOver then none else some c.pc))
  else blockLoop k op z rd rs1 rs2 ((c.rg rs2).toNat + 1) s

/-! ### Fences, IFLUSH, control registers with effects outside the core (06 R159, R183, R184; 08 R220; 10 R269, R271) -/

/-- FENCE.ACQ: accesses here are performed in order, so it has nothing to wait for. -/
def gFenceAcq (s : State) (_ : Nat) : GRes := .ok s none
def gFenceRel (s : State) (k : Nat) : GRes := .ok (s.drainAll k) none
def gFenceDev (s : State) (k : Nat) : GRes := .ok (s.drainAll k) none
/-- Coherent HOST lines leave the caches of a core's cluster, or of a core that has none (10 R271 step 3). -/
def State.dropHostLines (s : State) (k : Nat) : State :=
  let host := fun (l : Nat) => decide (2 ^ 58 ≤ l)
  let s1 := (if k < 512 then upFrom (k / 8 * 8) 8 else [k]).foldl (fun s j =>
    if (s.core j).l1d.any (fun w => host w.2.line) || (s.core j).l1i.any (fun w => host w.2.line) then
      s.onCore j (fun c => { c with l1d := c.l1d.dropLines host, l1i := c.l1i.dropLines host })
    else s) s
  if hasL2 k && (s1.l2Of (k / 8)).any (fun x => host x.line) then s1.setL2 (k / 8) ((s1.l2Of (k / 8)).filter (fun x => !host x.line)) else s1
/-- The zero-length read that goes to the last posted write of each port (10 R271 step 2). -/
def zeroReads (posted : SMap (Option Nat)) : List RemotePart :=
  posted.filterMap (fun e => e.2.map (fun a => { va := a, n := 0, kind := 0, host := some (e.1, a) }))
/-- FENCE.SYS: PEER stores have been answered; the zero-length reads go out and are waited for, and one that fails raises BUSERR as a read of
the port does (12 R327), with an address no rule gives; then coherent HOST lines leave the cluster's caches. -/
def gFenceSys (s : State) (k : Nat) : GRes :=
  let s1 := s.drainAll k
  let c := s1.core k
  let reads := zeroReads c.posted
  match reads.filter (fun p => !c.arrived.any (fun r => r.host == p.host && r.n == 0)) with
  | p :: ps => .need s1 ((p :: ps).map (fun (p : RemotePart) => { part := p, loc := .host (p.host.getD (0, 0)).1 p.va false, data := [] })) []
  | [] =>
    if c.arrived.any (fun r => r.n == 0 && r.failed) then
      let (v, s2) := s1.draw
      .exc s2 causeBUSERR 6 (w64 v)
    else .ok ((s1.onCore k (fun c => { c with posted := [] })).dropHostLines k) none
/-- IFLUSH: the merging buffer drains; L1I and the fetch buffer empty; the latches are loaded again (06 R183; 08 R220). -/
def gIflush (s : State) (k : Nat) : GRes :=
  .ok ((s.drainAll k).onCore k (fun c => { c with l1i := [], fbuf := none, svecL := none, mvecL := none, fvecL := none, due := 7 })) none

/-- MTC: a write of DETMODE drains the merging buffer (06 R180), and empties the caches when EN is set (06 R184); a vector base is loaded anew
(08 R220). -/
def gMtcIn (s : State) (k : Nat) (cr : BitVec 12) (rs1 : GReg) : GRes :=
  let c := s.core k
  match gMtc (coreHasV k) cr rs1 c with
  | .exc code sub a => .exc s code sub a
  | .ok c1 next =>
    if cr.toNat = crDETMODE then
      .ok ((s.drainAll k).onCore k (fun c =>
        if c1.det && !c.det then { c.wc crDETMODE (c1.rc crDETMODE) with l1d := [], l1i := [] } else c.wc crDETMODE (c1.rc crDETMODE))) next
    else if cr.toNat = crSVEC then .ok (s.setCore k { c1 with svecL := none, due := c1.due ||| 1 }) next
    else if cr.toNat = crMVEC then .ok (s.setCore k { c1 with mvecL := none, due := c1.due ||| 2 }) next
    else if cr.toNat = crFVEC then .ok (s.setCore k { c1 with fvecL := none, due := c1.due ||| 4 }) next
    else .ok (s.setCore k c1) next

/-! ### Vector-table latches (08 R220) -/

/-- Read a table by the core's master ID; words that cannot be read are free values (log entry 1). -/
def State.tableRead (s : State) (k base : Nat) : List Byte × State :=
  match s.devRead (coreMaster k) base 64 with
  | (some bs, s1) => (bs, s1)
  | (none, s1) => let (v, s2) := s1.draw; (leBytes 64 v, s2)
def wordsOf (bs : List Byte) : List Word := (List.range 8).map (fun i => w64 (leNat ((bs.drop (8 * i)).take 8)))
/-- Load a latch from its table. -/
def State.latchFrom (s : State) (k base : Nat) (f : List Byte → Core → Core) : State :=
  let (bs, s1) := s.tableRead k base
  s1.onCore k (f bs)
def State.loadSvec (s : State) (k : Nat) : State :=
  s.latchFrom k ((s.core k).crBits crSVEC 51 6 * 64) (fun bs c => { c with svecL := some (wordsOf bs), due := c.due &&& 6 })
def State.loadMvec (s : State) (k : Nat) : State :=
  s.latchFrom k ((s.core k).crBits crMVEC 51 6 * 64) (fun bs c => { c with mvecL := some (wordsOf bs), due := c.due &&& 5 })
def State.loadFvec (s : State) (k : Nat) : State :=
  s.latchFrom k ((s.core k).crBits crFVEC 51 1 * 2) (fun bs c => { c with fvecL := some bs, due := c.due &&& 3 })
/-- Load the latches that are due; a stack that is HOT holds the reads (09 R256), but those of an entry, which go at once (log entry 55). -/
def State.loadLatches (s : State) (k : Nat) : State :=
  let hot := fun (cr n : Nat) => s.hotAt ((s.core k).crBits cr 51 0 / n * n)
  let s1 := if (s.core k).due.testBit 0 && !hot crSVEC 64 then s.loadSvec k else s
  let s2 := if (s1.core k).due.testBit 1 && !hot crMVEC 64 then s1.loadMvec k else s1
  if (s2.core k).due.testBit 2 && !hot crFVEC 2 then s2.loadFvec k else s2
/-- A handler's address; an entry waits for its latch. -/
def State.handler (s : State) (k : Nat) (super : Bool) (i : Nat) : Word × State :=
  let s1 := if super then (if (s.core k).svecL.isNone then s.loadSvec k else s) else (if (s.core k).mvecL.isNone then s.loadMvec k else s)
  let l := if super then (s1.core k).svecL else (s1.core k).mvecL
  (evenTarget (nth 0 (l.getD []) i), s1)

/-! ### Taking an exception or interrupt (08 R221, R223) -/

/-- How the write of a frame ends. -/
inductive PushRes where
  | ok (s : State)
  | fault (s : State)
  | fail (s : State)
  | wait

/-- Write a frame at `f` as an access of a level, at once: a translation fault is not recorded and parks nothing. -/
def State.push (s : State) (k lvl : Nat) (f : Word) (bs : List Byte) : PushRes :=
  let c := (s.core k).crPut crSTATUS 1 0 lvl
  let accs := c.scalar .wr f bs.length 0
  match State.corePlaces k c 0 accs {} s with
  | (r, s1) =>
    if r.faults ≠ [] then .fault s1
    else if r.wait then .wait
    else match s1.firstFail (coreMaster k) none r.parts with
      | some (_, _, w) => .fail (match w with | some (a, e) => s1.failed (coreMaster k) a e | none => s1)
      | none =>
        if r.parts.any CPart.remote then .fail s1
        else
          let s2 := s1.drainOver k (r.parts.flatMap (fun p => linesOf p.loc.uni p.n))
          match State.writeAll k true (scalarData bs) r.parts s2 with
          | some s3 => .ok s3
          | none => .wait

/-- The 64 bytes of a frame; a FAST frame's words 2 to 7 are not written. -/
def Core.frame (c : Core) (kind code sub : Nat) (pc : Word) (parked : Bool) : List Byte :=
  leBytes 8 pc.toNat ++ leBytes 8 (frameWord (c.rc crSTATUS).toNat kind parked code sub) ++
    (if kind = kindFast then [] else [1, 2, 3, 4, 5, 6].flatMap (fun r => leBytes 8 (c.rg r).toNat))

/-- A failed Machine entry stops the core (R223): the record, and the source of the core's die. -/
def State.coreFatal (s : State) (k : Nat) : State :=
  let s1 := s.onCore k (fun c => { c with fatal := true })
  let c := s1.core k
  let s2 := s1.post { sev := 5, kind := 0x06, loc := if k < 512 then k / 64 else if k < 516 then 8 else if k < 520 then 9 else 0x0A,
                      master := some (coreMaster k), part := s1.corePart k, addr := (c.rc crMADDR).toNat,
                      info := (c.rc crMCAUSE).toNat % 2 ^ 16 }
  if k < 512 then s2.raise (k / 64) (128 + k % 64) else s2

/-- An entry as it is asked for. -/
structure Entry where
  kind : Nat
  code : Nat
  sub : Nat
  addr : Word
  pc : Word
  parked : Bool
  deriving DecidableEq, Repr

/-- The form of a repeat that an entry interrupts is kept for its return, which the frame has no bit for (06 R174; log entry 104). -/
def Core.keepRep (c : Core) : Core :=
  if c.rpt then { c with reps := (c.pc, c.repN) :: c.reps.filter (fun x => x.1 != c.pc), repN := false } else c
/-- What an entry leaves behind at the core: the window closed, the park's thread no longer waiting here (08 R221, R224, R229). -/
def Core.entered (c : Core) (pc : Word) : Core := { c.wc crIWCNT 0 with pc := pc, parked := false, arrived := [], tran := [] }

/-- Machine entry; none: it must wait. -/
def State.machineEntry (s : State) (k : Nat) (e : Entry) (orig : Nat) : Option State :=
  let c := s.core k
  let sp := c.rc crMSP
  let f := sp - 64
  if sp.toNat < (c.rc crMSTKLIM).toNat + 64 then some (s.coreFatal k)
  else match s.push k 3 f (c.frame e.kind e.code e.sub e.pc e.parked) with
    | .wait => none
    | .fault s1 => some (s1.coreFatal k)
    | .fail s1 => some (s1.coreFatal k)
    | .ok s1 =>
      let fast := decide (e.kind = kindFast)
      let (h, s2) := if fast then ((s1.core k).rc crFVEC, if (s1.core k).fvecL.isNone then s1.loadFvec k else s1)
        else s1.handler k false (vectorOf e.code)
      some (s2.onCore k (fun c =>
        let c := c.keepRep
        let c1 := (((c.wc crMSP f).wc crMEPC e.pc).wc crMCAUSE (w64 (causeWord e.code e.sub orig))).wc crMADDR e.addr
        (c1.wc crSTATUS (w64 (statusEntry (c1.rc crSTATUS).toNat 3 fast))).entered h))

/-- Entry (R221): to Supervisor level from User and Supervisor, to Machine level for FAST and from Machine; a Supervisor entry that
cannot be made goes to Machine level as ENTRY. -/
def State.enter (s : State) (k : Nat) (e : Entry) : Option State :=
  let c := s.core k
  if e.kind ≠ kindFast ∧ c.priv ≠ 3 then
    let sp := c.rc crSSP
    let f := sp - 64
    let refuse := fun (s : State) (sub : Nat) => s.machineEntry k { e with kind := kindEntry, code := causeENTRY, sub := sub, addr := f } e.code
    if sp.toNat < (c.rc crSTKLIM).toNat + 64 then refuse s 1
    else match s.push k 1 f (c.frame e.kind e.code e.sub e.pc e.parked) with
      | .wait => none
      | .fault s1 => refuse s1 2
      | .fail s1 => refuse s1 3
      | .ok s1 =>
        let (h, s2) := s1.handler k true (vectorOf e.code)
        some (s2.onCore k (fun c =>
          let c := c.keepRep
          let c1 := (((c.wc crSSP f).wc crEPC e.pc).wc crECAUSE (w64 (causeWord e.code e.sub 0))).wc crEADDR e.addr
          (c1.wc crSTATUS (w64 (statusEntry (c1.rc crSTATUS).toNat 1 false))).entered h))
  else s.machineEntry k e 0

/-- An exception of the instruction at the pc; SYSCALL and BREAK name the next one (R216). -/
def State.raiseExc (s : State) (k code sub : Nat) (addr : Word) : Option State :=
  let pc := (s.core k).pc
  s.enter k { kind := kindExc, code := code, sub := sub, addr := addr, parked := false,
              pc := if code = causeSYSCALL ∨ code = causeBREAK then pc + 4 else pc }

/-! ### ERET (08 R222, R229) -/

def eretRestore (c : Core) (w : Nat → Nat) : Core :=
  let w1 := w 1
  let c1 := if natBits w1 9 8 = kindFast then c
    else [1, 2, 3, 4, 5, 6].foldl (fun (c : Core) (r : Fin 32) => c.wg r (w64 (w (r.val + 1)))) c
  (c1.wc crSTATUS (w64 (statusReturn (c1.rc crSTATUS).toNat w1))).wc crIWCNT 0

/-- A repeat that ERET resumes is of the form it was interrupted in; of one this core never began, the form is a free value. -/
def State.resumeRep (s : State) (k : Nat) (pc : Word) : State :=
  let c := s.core k
  if !c.rpt then s
  else match c.reps.find? (fun x => x.1 == pc) with
    | some x => s.setCore k { c with repN := x.2, reps := c.reps.erase x }
    | none => let (v, s1) := s.draw; s1.setCore k { c with repN := v % 2 == 1 }

def gEret (s : State) (k : Nat) : GRes :=
  let c := s.core k
  if c.priv = 0 then .illop s 3
  else
    let spr := if c.priv = 3 then crMSP else crSSP
    let f := c.rc spr
    s.memOp k 0 none (c.scalar .rd f 64 0) (fun _ _ => []) (fun s d =>
      let w := fun i => scalarNat d 0 64 / 2 ^ (64 * i) % 2 ^ 64
      if eretRefused c.priv (w 1) then .illop s 3
      else
        let s1 := s.onCore k (fun c => (eretRestore c w).wc spr (f + 64))
        let s2 := if (w 1).testBit 10 then s1.onCore k (fun c => { c with parked := c.park.isSome }) else s1.dropPark k
        let pc := evenTarget (w64 (w 0))
        .ok (s2.resumeRep k pc) (some pc))

/-! ### Fetch (06 R161, R183; 08 R218) -/

/-- The bytes of a whole line by its number, as its home holds them. -/
def State.homeLine (s : State) (u : Nat) : List Byte :=
  if u < 2 ^ 58 then Mem.readN s.mem (u * 64) 64 else s.hostRead (u / 2 ^ 58 - 1) (u % 2 ^ 58 * 64) 64

/-- A fetch looks a cacheable line up in L1I; a miss is counted, and the line comes from L2 with the bytes its home holds now (06 R178, R181,
R183). -/
def State.l1iLook (s : State) (k line hint : Nat) : State :=
  let held := fun (s : State) => (s.core k).l1i.find 4 (line % 256) line
  let s := if (held s).isSome then s.l1Parity k 7 line else s
  let miss := (held s).isNone
  let s1 := if miss then (s.countCore k 3 1).l2Read k (line * 64) 64 hint else s
  let s2 := s1.onCore k (fun c => { c with l1i := c.l1i.l1 line hint })
  if miss then
    let bs := s2.homeLine line
    s2.onCore k (fun c => match c.l1i.find 4 (line % 256) line with
      | some w => { c with l1i := c.l1i.put 4 (line % 256) w { c.l1i.way 4 (line % 256) w with data := bs } }
      | none => c)
  else s2

/-- Fetch `n` bytes at an address: translated and checked, and L1I looked up. The instruction that executes is that of the command (log
entry 3). -/
def State.ifetch (s : State) (k : Nat) (a : Word) (n : Nat) (f : State → GRes) : GRes :=
  let c := s.core k
  s.access k 0 none (c.scalar .ex a n 0) (fun s ps =>
    match ps.findSome? (fun p => match p.loc with
      | .dev x => (match s.accCheck (coreMaster k) .ex (linesOf x p.n) with | some e => some (p, x, e) | none => none)
      | _ => none) with
    | some (p, x, e) => .exc (s.failed (coreMaster k) x e) causeBUSERR 4 p.ea
    | none => f (ps.foldl (fun s p =>
        if p.loc.cacheable && !(s.core k).det then s.l1iLook k (p.loc.uni / 64) p.hint
        else match p.loc with
          | .dev x => s.traffic (coreMaster k) .read p.hint x p.n
          | _ => s) s))

/-- A line's bytes as a fetch finds them: those of L1I, or of its home; or older ones that the fetch buffer still holds of the line, which of
the two is a free value (06 R183). The line then stands in the fetch buffer. -/
def State.fetchLine (s : State) (k line : Nat) (cached : Bool) : List Byte × State :=
  let c := s.core k
  let fresh := match (if cached then c.l1i.find 4 (line % 256) line else none) with
    | some w => (c.l1i.way 4 (line % 256) w).data
    | none => s.homeLine line
  let (bs, s1) := match c.fbuf with
    | some (l, old) => if l ≠ line ∨ old = fresh then (fresh, s) else (let (v, s1) := s.draw; (if v % 2 = 1 then old else fresh, s1))
    | none => (fresh, s)
  (bs, s1.onCore k (fun c => { c with fbuf := some (line, bs) }))

/-- A FAST handler's first 64 bytes come from the latch (08 R220, R226): at Machine level, with the fast bank in place. -/
def Core.latched (c : Core) (va n : Nat) : Option (List Byte) :=
  let base := c.crBits crFVEC 51 1 * 2
  match c.fvecL with
  | some bs => if c.priv = 3 ∧ c.fb ∧ base ≤ va ∧ va + n ≤ base + 64 then some ((bs.drop (va - base)).take n) else none
  | none => none

/-- The bytes of fetched places; a PEER page's are free values (log entry 1). -/
def State.fetchParts (k : Nat) (c : Core) : List CPart → State → List Byte × State
  | [], s => ([], s)
  | p :: ps, s =>
    let (bs, s1) := match c.latched p.va p.n, p.loc with
      | some bs, _ => (bs, s)
      | none, .peer _ _ => (let (v, s1) := s.draw; ((leBytes 64 v).take p.n, s1))
      | none, l =>
        let (b, s1) := s.fetchLine k (l.uni / 64) (l.cacheable && !c.det)
        ((b.drop (l.uni % 64)).take p.n, s1)
    let (r, s2) := State.fetchParts k c ps s1
    (bs ++ r, s2)

/-- The bytes a fetch brings (R161). -/
def State.codeAt (s : State) (k : Nat) (a : Word) (n : Nat) : Nat × State :=
  let c := s.core k
  match State.corePlaces k c 0 (c.scalar .ex a n 0) {} s with
  | (r, s1) =>
    let (bs, s2) := State.fetchParts k c r.parts s1
    (leNat bs, s2)

/-- Fetch and decode the instruction at an address: its first halfword tells its length. -/
def State.fetchDecode (s : State) (k : Nat) (a : Word) (f : State → GDec → GRes) : GRes :=
  s.ifetch k a 2 (fun s =>
    let (h, s1) := s.codeAt k a 2
    if h.testBit 0 then
      s1.ifetch k a 4 (fun s => let (w, s2) := s.codeAt k a 4; f s2 (gDecode w))
    else f s1 (gDecode h))

/-! ### Executing -/

/-- The session, if any, that holds breakpoints for the core (16 R442). -/
def State.breakSess (s : State) (k : Nat) : Option Nat := (SMap.get [] s.org.brk k).head?.map (fun b => b.1)
def State.breakHit (s : State) (k : Nat) : Option Nat :=
  let pc := (s.core k).pc.toNat
  ((SMap.get [] s.org.brk k).find? (fun b => b.2 == pc)).map (fun b => b.1)

/-- The count of an open window has fallen since it was last seen, by how much is a free value; while it is open one cycle at least is left
(08 R224). -/
def State.ageWindow (s : State) (k : Nat) : State :=
  let n := (s.core k).iwcnt
  if n = 0 ∨ (s.core k).halted then s
  else
    let (v, s1) := s.draw
    s1.onCore k (fun c => c.crPut crIWCNT 9 0 (1 + v % n))

/-- Run `f` on the core of a state. -/
def onC (s : State) (k : Nat) (f : Core → CoreOut) : GRes := .ofCore s k (f (s.core k))

/-- What an instruction does at its core; prefixes and BREAK's halt are met before. -/
def State.body (s : State) (k : Nat) (i : GInstr) : GRes :=
  let hv := coreHasV k
  match i with
  | .cMv rd rs => onC s k (gCMv rd rs)
  | .cAdd op rd rs => onC s k (gCAdd op rd rs)
  | .cLi rd i => onC s k (gCLi rd i)
  | .cAddi rd i => onC s k (gCAddi rd i)
  | .cSlli op rd i => onC s k (gCSlli op rd i)
  | .cBeqz rs o => onC s k (gCBeqz rs o)
  | .cBnez rs o => onC s k (gCBnez rs o)
  | .cJ o => onC s k (gCJ o)
  | .cJr rs l => onC s k (gCJr rs l)
  | .cLd w rt rb o => gCLd s k w rt rb o
  | .cSd w rt rb o => gCSd s k w rt rb o
  | .cNop => onC s k gCNop
  | .add op rd a b => onC s k (gAdd op rd a b)
  | .slt op rd a b => onC s k (gSlt op rd a b)
  | .qadd x rd a b => onC s k (gQadd x rd a b)
  | .mul op rd a b => onC s k (gMul op rd a b)
  | .div op rd a b => onC s k (gDiv op rd a b)
  | .alui op rd a i => onC s k (gAlui op rd a i)
  | .aluw op rd a b => onC s k (gAluw op rd a b)
  | .load op rd a i => gLoad s k op rd a i
  | .store op b a i => gStore s k op b a i
  | .branch op a b o => onC s k (gBranch op a b o)
  | .jal rd o => onC s k (gJal rd o)
  | .jalr rd a i => onC s k (gJalr rd a i)
  | .lui rd i => onC s k (gLui rd i)
  | .auipc rd i => onC s k (gAuipc rd i)
  | .atomic op d rd a b => gAtomic s k op d rd a b
  | .cas d rd a b => gCas s k d rd a b
  | .fenceAcq => gFenceAcq s k
  | .fenceRel => gFenceRel s k
  | .fenceDev => gFenceDev s k
  | .fenceSys => gFenceSys s k
  | .fp op d f3 rd a b => onC s k (gFp op d f3 rd a b)
  | .fcvt kd f3 rd a => onC s k (gFcvt kd f3 rd a)
  | .fma si su f3 rd a b c => onC s k (gFma si su f3 rd a b c)
  | .fmac op ad a b => onC s k (gFmac op ad a b)
  | .fmacp q ad a b => gFmacp s k q ad a b
  | .fext q rd ac => onC s k (gFext q rd ac)
  | .mfa h rd ac => onC s k (gMfa h rd ac)
  | .mta ad a b => onC s k (gMta ad a b)
  | .block op z rd a b => gBlock s k false op z rd a b
  | .mfc rd cr => onC (if cr.toNat = crIWCNT then s.ageWindow k else s) k (gMfc (coreMaster k) hv rd cr)
  | .mtc cr a => gMtcIn s k cr a
  | .mset m => onC s k (gMset m)
  | .mclr m => onC s k (gMclr m)
  | .iwin n => onC (s.ageWindow k) k (gIwin n)
  | .syscall => onC s k gSyscall
  | .brk => onC s k gBrk
  | .eret => gEret s k
  | .wfi => onC s k gWfi
  | .iflush => gIflush s k
  | .repI => .illop s 4
  | .repN _ => .illop s 4
  | .vsetvl rd a z => onC s k (gVsetvl hv rd a z)
  | .vload f h vd a km => gVload s k f h vd a km
  | .vstore f h vd a km => gVstore s k f h vd a km
  | .vadd op vd a b km => onC s k (gVadd hv op vd a b km)
  | .vsll op vd a b km => onC s k (gVsll hv op vd a b km)
  | .vmin op vd a b km => onC s k (gVmin hv op vd a b km)
  | .vmul op vd a b km => onC s k (gVmul hv op vd a b km)
  | .vmacc vd a b km => onC s k (gVmacc hv vd a b km)
  | .vsadd op vd a b km => onC s k (gVsadd hv op vd a b km)
  | .vmv vd b km => onC s k (gVmv hv vd b km)
  | .vfadd op vd a b km => onC s k (gVfadd hv op vd a b km)
  | .vfsqrt vd a km => onC s k (gVfsqrt hv vd a km)
  | .vfmin op vd a b km => onC s k (gVfmin hv op vd a b km)
  | .vfma vd a b km => onC s k (gVfma hv vd a b km)
  | .vfnms vd a b km => onC s k (gVfnms hv vd a b km)
  | .vfsgn vd a b km => onC s k (gVfsgn hv vd a b km)
  | .vfcvt op vd a km => onC s k (gVfcvt hv op vd a km)
  | .vfwcvt op vd a km => onC s k (gVfwcvt hv op vd a km)
  | .vfncvt op vd a km => onC s k (gVfncvt hv op vd a km)
  | .vwmul u vd a b km => onC s k (gVwmul hv u vd a b km)
  | .vwmacc vd a b km => onC s k (gVwmacc hv vd a b km)
  | .vwfmul vd a b km => onC s k (gVwfmul hv vd a b km)
  | .vwfma vd a b km => onC s k (gVwfma hv vd a b km)
  | .vdot4 op vd a b km => onC s k (gVdot4 hv op vd a b km)
  | .vdot2 op vd a b km => onC s k (gVdot2 hv op vd a b km)
  | .vredsum vd a b km => onC s k (gVredsum hv vd a b km)
  | .vredmin op vd a b km => onC s k (gVredmin hv op vd a b km)
  | .vredand op vd a b km => onC s k (gVredand hv op vd a b km)
  | .vfredsum vd a b km => onC s k (gVfredsum hv vd a b km)
  | .vfredmin op vd a b km => onC s k (gVfredmin hv op vd a b km)
  | .vfwredsum vd a b km => onC s k (gVfwredsum hv vd a b km)
  | .vcompress vd a km => onC s k (gVcompress hv vd a km)
  | .vexpand vd a km => onC s k (gVexpand hv vd a km)
  | .vperm vd a b km => onC s k (gVperm hv vd a b km)
  | .vslideup vd a b km => onC s k (gVslideup hv vd a b km)
  | .vslidedown vd a b km => onC s k (gVslidedown hv vd a b km)
  | .vmvXv rd a b => onC s k (gVmvXv hv rd a b)
  | .vpopc rd ks => onC s k (gVpopc hv rd ks)
  | .vfirst rd ks => onC s k (gVfirst hv rd ks)
  | .vcmp op kd a b km => onC s k (gVcmp hv op kd a b km)
  | .kand op kd a b => onC s k (gKand hv op kd a b)

/-- A Vexten instruction that completes is metered (15 R412, VEXTEN). -/
def State.meterV (s : State) (k : Nat) (c : Core) (i : GInstr) : State :=
  let n := c.vCount i
  if n = 0 then s else s.meter (s.meterPart (coreMaster k)) 7 n

/-- The domain of a core: CORE on a Pavilion die, SVC for a management core, ORANG for the Orangery's (18 R472). -/
def coreDom (k : Nat) : Dom := if k < 512 then .core else if k < 520 then .svc else .orang
/-- The state of a core that can issue: it runs, and waits for nothing (06 R160, R169; 08 R223; 16 R442; 18 R484). Cores of a
contained partition are stopped (19 R496). -/
def State.alive (s : State) (k : Nat) : Bool :=
  let c := s.core k
  c.run && !c.fatal && !c.wfi && c.wait.isNone && s.runs (coreDom k) &&
    (match s.corePart k with | some i => nth .unused s.ptr.parts i != .contained | none => true)

/-- An instruction is over: its pc, unless the core was reset under it (06 R187). -/
def State.retire (s : State) (k : Nat) (next : Word) : State :=
  if (s.core k).run then
    (s.countCore k 2 1).onCore k (fun c => { c with pc := next, arrived := [], tran := [] })
  else s

/-- The thread parks on its faults (08 R228; 11 R303, R305). -/
def State.parkOn (s : State) (k : Nat) (fs : List CFault) (addrs : List (Nat × Word)) : State :=
  let c := s.core k
  let (ids, w, s1) := fs.foldl (fun (x : List Nat × Nat × State) f =>
    let r := x.2.2.faultReq (.core k) c.asid f.va f.kind f.cause f.level f.entry (coreMaster k) 0x1FFF none
    match x.2.2.fault (coreDie k) r with
    | (some id, s1) => (if x.1.contains id then x.1 else x.1 ++ [id], x.2.1, s1)
    | (none, s1) => (x.1, x.2.1 + 1, s1)) ([], 0, s)
  s1.onCore k (fun c => { c with parked := true, arrived := [], tran := [], park := some ⟨c.pc, ids, w, [], addrs⟩ })

/-- Requests leave; the core waits (10 R279; 11 R294; 13 R366). -/
def State.await (s : State) (k : Nat) (reqs : List CReq) (got : List RemotePart) : State :=
  let id := (s.core k).waits
  let s1 := s.onCore k (fun c => { c with waits := id + 1, wait := some ⟨id, reqs.map CReq.part⟩, arrived := c.arrived ++ got })
  let i := (s.corePart k).getD 0
  let lvl := s.jobFloor i
  reqs.zipIdx.foldl (fun s x =>
    let r := x.1
    match r.loc with
    | .peer dev a =>
      let n := r.part.n
      let (opc, len, aux) := if r.part.kind = 1 then (2, 0, 0) else if r.part.kind = 3 then (3, n, 0) else (1, n, n)
      let p := s.mkPacket opc 0 dev i lvl 0 0 a aux r.data
      let p := if r.part.kind = 3 then (p.put 4 27 24 r.aop).put 4 28 28 (if n = 8 then 1 else 0) else p
      s.request (.core k id x.2) len p (s.corePart k)
    | _ => s) s1

/-- What an attempt at an instruction of `len` bytes leaves. An entry that must wait leaves the state as it was. -/
def State.settle (s0 : State) (k : Nat) (len : Nat) : GRes → State
  | .ok s next => s.retire k (next.getD ((s0.core k).pc + w64 len))
  | .exc s code sub a => (s.raiseExc k code sub a).getD s0
  | .park s fs addrs => s.parkOn k fs addrs
  | .need s reqs got => s.await k reqs got
  | .hold s => s

/-- Resolve a park that has been answered whole (08 R228, R229; 07 R212): replayed, the thread may issue again; cancelled, the
instruction raises BUSERR. None: the thread is still parked, or an exception has been taken. -/
def State.unpark (s : State) (k : Nat) : Option State × State :=
  let c := s.core k
  if !c.parked then (some s, s)
  else match c.park with
    | none => let s1 := s.onCore k (fun c => { c with parked := false }); (some s1, s1)
    | some p =>
      if !p.isOver then (none, s)
      else
        let s1 := s.onCore k (fun c => { c with parked := false, park := none })
        if p.cancelled = [] then (some s1, s1)
        else
          let a := match p.addrs.find? (fun x => p.cancelled.contains x.1) with | some x => x.2 | none => 0
          (none, (s1.raiseExc k causeBUSERR 3 a).getD s)

/-- Issue an instruction: the core alive and not halted, a park resolved, a breakpoint met (16 R442), then `f`. -/
def State.issue (s : State) (k : Nat) (step : Bool) (f : State → State) : State :=
  if !s.alive k || ((s.core k).halted && !step) then s
  else match s.unpark k with
    | (none, s1) => s1
    | (some s1, _) =>
      match if step then none else s1.breakHit k with
      | some j => s1.haltCore j k
      | none => f s1

/-- An error in a V or K register that a Vexten instruction meets (07 R192; 19 R492): true when it is not corrected, and the core's partition
is contained. -/
def State.vUpset (s : State) (k : Nat) (i : GInstr) : Bool × State :=
  if s.err.upsets = [] || (s.core k).vCount i == 0 then (false, s)
  else match s.upset (fun u => u.code == 6 && u.unit == k) with
    | some (u, s1) => (u.unc, s1.structErr 6 (k / 64) (some (coreMaster k)) 0 false (!u.unc))
    | none => (false, s)

/-- An instruction that stands at the pc, fetched and executed; a BREAK goes to the session that holds breakpoints. -/
def State.perform (s : State) (k : Nat) (i : GInstr) (len : Nat) : State :=
  if i = .brk ∧ (s.breakSess k).isSome then s.haltCore ((s.breakSess k).getD 0) k
  else
    let c := s.core k
    match s.vUpset k i with
    | (true, s0) => (let (v, s1) := s0.draw; s.settle k len (.exc s1 causeBUSERR 4 (w64 v)))
    | (false, s0) =>
      match s0.body k i with
      | .ok s1 next => (s1.meterV k c i).retire k (next.getD (c.pc + w64 len))
      | r => s0.settle k len r

/-- The command of an instruction: nothing while a repeat is in progress, whose iterations have their own command (R174). -/
def State.runG (s : State) (k : Nat) (i : GInstr) (len : Nat) : State :=
  s.issue k false (fun s =>
    if (s.core k).rpt then s
    else match (if (s.core k).tran ≠ [] then .ok s none else s.ifetch k (s.core k).pc len (fun s1 => .ok s1 none)) with
      | .ok s1 _ => s1.perform k i len
      | r => s.settle k len r)

/-! ### Repeats (06 R172-R174) -/

/-- A prefix: what follows is fetched and judged; then the repeat begins, or, with LC = 0, is over. -/
def State.repeatStart (s : State) (k : Nat) (count : Option Nat) : State :=
  let pc := (s.core k).pc
  match s.ifetch k pc 2 (fun s => s.fetchDecode k (pc + 2) (fun s d =>
    match d with
    | .error _ => .illop s 4
    | .ok (i, len) =>
      if !repAllowed i then .illop s 4
      else
        let s1 := match count with | some n => s.onCore k (fun c => c.wc crLC (w64 n)) | none => s
        if (s1.core k).lc = 0 then .ok s1 (some (pc + 2 + w64 len))
        else .ok (s1.onCore k (fun c => { c.crPut crSTATUS 6 6 1 with repN := count.isSome })) (some (pc + 2)))) with
  | r => s.settle k 2 r

/-- The repeat is over: RPT clears and execution goes on after the instruction. -/
def Core.repEnd (c : Core) : Core := { c.crPut crSTATUS 6 6 0 with repN := false }

/-- One iteration of a repeat. -/
def State.iterate (s : State) (k : Nat) : State :=
  let c := s.core k
  if !c.rpt then s
  else
    let r := s.fetchDecode k c.pc (fun s d =>
      match d with
      | .error _ => .illop s 4
      | .ok (i, len) =>
        if !repAllowed i then .illop s 4
        else if c.lc = 0 then .ok (s.onCore k Core.repEnd) (some (c.pc + w64 len))
        else match s.body k i with
          | .ok s1 _ =>
            let s2 := s1.onCore k (fun c => c.wc crLC (w64 (c.lc - 1)))
            if (s2.core k).lc = 0 then .ok (s2.onCore k Core.repEnd) (some (c.pc + w64 len)) else .ok s2 (some c.pc)
          | r => r)
    s.settle k 4 r

/-- A whole repeat's iterations, for a debug step over a REP.N (16 R442). -/
def State.iterateAll (k : Nat) : Nat → State → State
  | 0, s => s
  | f + 1, s =>
    let s1 := s.iterate k
    if (s1.core k).repN && (s1.core k).rpt && (s1.core k).lc + 1 == (s.core k).lc then State.iterateAll k f s1 else s1

/-! ### One element of a block instruction; one instruction of a halted core -/

def State.blockStep (s : State) (k : Nat) : State :=
  s.settle k 4 (s.fetchDecode k (s.core k).pc (fun s d =>
    match d with
    | .ok (.block op z rd rs1 rs2, _) => gBlock s k true op z rd rs1 rs2
    | _ => .hold s))

/-- STEP (16 R442): the instruction at the pc, fetched from memory; a REP.N is counted whole. -/
def State.stepCore (s : State) (k : Nat) : State :=
  s.issue k true (fun s =>
    let c := s.core k
    if c.rpt then s.iterate k
    else match s.fetchDecode k c.pc (fun s d => match d with | .error sub => .illop s sub | .ok _ => .ok s none) with
      | .ok s1 _ =>
        let (h, s2) := s1.codeAt k c.pc 2
        let (w, s3) := if h.testBit 0 then s2.codeAt k c.pc 4 else (h, s2)
        (match gDecode w with
        | .ok (.repI, _) => s3.repeatStart k none
        | .ok (.repN n, _) => State.iterateAll k 64 (s3.repeatStart k (some (n.val + 1)))
        | .ok (i, len) => s3.perform k i len
        | .error _ => s)
      | r => s.settle k 4 r)

end Sys2Proof.Machine
end

