-- ==== Sys2Proof/Machine/CoreRows.lean ====
section
/-! DEFINITION. The commands of the cores' instructions and of their interrupts: what core `k` does when the instruction stands at its
pc (spec/06_gelfort_core R162-R187; spec/07_vexten_vectors R191-R211; spec/08_exceptions_interrupts R216-R235). -/

namespace Sys2Proof.Machine

/-- C_MV (R162). -/
def execCMv (k : CoreIx) (rd rs : GReg) (s : State) : Host.Outcome State Fault Refusal :=
  .next (s.runG k.val (.cMv rd rs) 2)
/-- C_ADD (R162). -/
def execCAdd (k : CoreIx) (op : AluOp) (rd rs : GReg) (s : State) : Host.Outcome State Fault Refusal :=
  .next (s.runG k.val (.cAdd op rd rs) 2)
/-- C_LI (R162). -/
def execCLi (k : CoreIx) (rd : GReg) (imm5 : Fin 32) (s : State) : Host.Outcome State Fault Refusal :=
  .next (s.runG k.val (.cLi rd imm5) 2)
/-- C_ADDI (R162). -/
def execCAddi (k : CoreIx) (rd : GReg) (imm5 : Fin 32) (s : State) : Host.Outcome State Fault Refusal :=
  .next (s.runG k.val (.cAddi rd imm5) 2)
/-- C_SLLI (R162). -/
def execCSlli (k : CoreIx) (op : AluOp) (rd : GReg) (imm5 : Fin 32) (s : State) : Host.Outcome State Fault Refusal :=
  .next (s.runG k.val (.cSlli op rd imm5) 2)
/-- C_BEQZ (R162). -/
def execCBeqz (k : CoreIx) (rs : GReg) (off5 : Fin 32) (s : State) : Host.Outcome State Fault Refusal :=
  .next (s.runG k.val (.cBeqz rs off5) 2)
/-- C_BNEZ (R162). -/
def execCBnez (k : CoreIx) (rs : GReg) (off5 : Fin 32) (s : State) : Host.Outcome State Fault Refusal :=
  .next (s.runG k.val (.cBnez rs off5) 2)
/-- C_J (R162). -/
def execCJ (k : CoreIx) (off10 : Fin 1024) (s : State) : Host.Outcome State Fault Refusal :=
  .next (s.runG k.val (.cJ off10) 2)
/-- C_JR (R162). -/
def execCJr (k : CoreIx) (rs : GReg) (link : Bool) (s : State) : Host.Outcome State Fault Refusal :=
  .next (s.runG k.val (.cJr rs link) 2)
/-- C_LD (R162). -/
def execCLd (k : CoreIx) (word : Bool) (rt rb : Fin 8) (off4 : Fin 16) (s : State) : Host.Outcome State Fault Refusal :=
  .next (s.runG k.val (.cLd word rt rb off4) 2)
/-- C_SD (R162). -/
def execCSd (k : CoreIx) (word : Bool) (rt rb : Fin 8) (off4 : Fin 16) (s : State) : Host.Outcome State Fault Refusal :=
  .next (s.runG k.val (.cSd word rt rb off4) 2)
/-- C_NOP (R162). -/
def execCNop (k : CoreIx) (s : State) : Host.Outcome State Fault Refusal :=
  .next (s.runG k.val (.cNop) 2)
/-- ADD (R165). -/
def execAdd (k : CoreIx) (op : AluOp) (rd rs1 rs2 : GReg) (s : State) : Host.Outcome State Fault Refusal :=
  .next (s.runG k.val (.add op rd rs1 rs2) 4)
/-- SLT (R164). -/
def execSlt (k : CoreIx) (op : CmpOp) (rd rs1 rs2 : GReg) (s : State) : Host.Outcome State Fault Refusal :=
  .next (s.runG k.val (.slt op rd rs1 rs2) 4)
/-- QADD (R165). -/
def execQadd (k : CoreIx) (sub : Bool) (rd rs1 rs2 : GReg) (s : State) : Host.Outcome State Fault Refusal :=
  .next (s.runG k.val (.qadd sub rd rs1 rs2) 4)
/-- MUL (R164). -/
def execMul (k : CoreIx) (op : MulOp) (rd rs1 rs2 : GReg) (s : State) : Host.Outcome State Fault Refusal :=
  .next (s.runG k.val (.mul op rd rs1 rs2) 4)
/-- DIV (R165). -/
def execDiv (k : CoreIx) (op : DivOp) (rd rs1 rs2 : GReg) (s : State) : Host.Outcome State Fault Refusal :=
  .next (s.runG k.val (.div op rd rs1 rs2) 4)
/-- ALUI (R164). -/
def execAlui (k : CoreIx) (op : AluiOp) (rd rs1 : GReg) (imm : BitVec 12) (s : State) : Host.Outcome State Fault Refusal :=
  .next (s.runG k.val (.alui op rd rs1 imm) 4)
/-- ALUW (R165). -/
def execAluw (k : CoreIx) (op : AluwOp) (rd rs1 rs2 : GReg) (s : State) : Host.Outcome State Fault Refusal :=
  .next (s.runG k.val (.aluw op rd rs1 rs2) 4)
/-- LOAD (R167). -/
def execLoad (k : CoreIx) (op : LoadOp) (rd rs1 : GReg) (imm : BitVec 12) (s : State) : Host.Outcome State Fault Refusal :=
  .next (s.runG k.val (.load op rd rs1 imm) 4)
/-- STORE (R167). -/
def execStore (k : CoreIx) (op : StoreOp) (rs2 rs1 : GReg) (imm : BitVec 12) (s : State) : Host.Outcome State Fault Refusal :=
  .next (s.runG k.val (.store op rs2 rs1 imm) 4)
/-- BRANCH (R164). -/
def execBranch (k : CoreIx) (op : BrOp) (rs1 rs2 : GReg) (off : BitVec 12) (s : State) : Host.Outcome State Fault Refusal :=
  .next (s.runG k.val (.branch op rs1 rs2 off) 4)
/-- JAL (R164). -/
def execJal (k : CoreIx) (rd : GReg) (off : BitVec 20) (s : State) : Host.Outcome State Fault Refusal :=
  .next (s.runG k.val (.jal rd off) 4)
/-- JALR (R164). -/
def execJalr (k : CoreIx) (rd rs1 : GReg) (imm : BitVec 12) (s : State) : Host.Outcome State Fault Refusal :=
  .next (s.runG k.val (.jalr rd rs1 imm) 4)
/-- LUI (R164). -/
def execLui (k : CoreIx) (rd : GReg) (imm : BitVec 20) (s : State) : Host.Outcome State Fault Refusal :=
  .next (s.runG k.val (.lui rd imm) 4)
/-- AUIPC (R164). -/
def execAuipc (k : CoreIx) (rd : GReg) (imm : BitVec 20) (s : State) : Host.Outcome State Fault Refusal :=
  .next (s.runG k.val (.auipc rd imm) 4)
/-- ATOMIC (R164). -/
def execAtomic (k : CoreIx) (op : AtomOp) (dbl : Bool) (rd rs1 rs2 : GReg) (s : State) : Host.Outcome State Fault Refusal :=
  .next (s.runG k.val (.atomic op dbl rd rs1 rs2) 4)
/-- CAS (R164). -/
def execCas (k : CoreIx) (dbl : Bool) (rd rs1 rs2 : GReg) (s : State) : Host.Outcome State Fault Refusal :=
  .next (s.runG k.val (.cas dbl rd rs1 rs2) 4)
/-- FENCE_ACQ (R269). -/
def execFenceAcq (k : CoreIx) (s : State) : Host.Outcome State Fault Refusal :=
  .next (s.runG k.val (.fenceAcq) 4)
/-- FENCE_REL (R269). -/
def execFenceRel (k : CoreIx) (s : State) : Host.Outcome State Fault Refusal :=
  .next (s.runG k.val (.fenceRel) 4)
/-- FENCE_DEV (R269). -/
def execFenceDev (k : CoreIx) (s : State) : Host.Outcome State Fault Refusal :=
  .next (s.runG k.val (.fenceDev) 4)
/-- FENCE_SYS (R271). -/
def execFenceSys (k : CoreIx) (s : State) : Host.Outcome State Fault Refusal :=
  .next (s.runG k.val (.fenceSys) 4)
/-- FADD (R166). -/
def execFadd (k : CoreIx) (op : FpOp) (dbl : Bool) (f3 : Fin 8) (rd rs1 rs2 : GReg) (s : State) : Host.Outcome State Fault Refusal :=
  .next (s.runG k.val (.fp op dbl f3 rd rs1 rs2) 4)
/-- FCVT (R166). -/
def execFcvt (k : CoreIx) (kind : Fin 8) (f3 : Fin 8) (rd rs1 : GReg) (s : State) : Host.Outcome State Fault Refusal :=
  .next (s.runG k.val (.fcvt kind f3 rd rs1) 4)
/-- FMA (R164). -/
def execFma (k : CoreIx) (single sub : Bool) (f3 : Fin 8) (rd rs1 rs2 rs3 : GReg) (s : State) : Host.Outcome State Fault Refusal :=
  .next (s.runG k.val (.fma single sub f3 rd rs1 rs2 rs3) 4)
/-- FMAC (R170). -/
def execFmac (k : CoreIx) (op : MacOp) (ad : Fin 4) (rs1 rs2 : GReg) (s : State) : Host.Outcome State Fault Refusal :=
  .next (s.runG k.val (.fmac op ad rs1 rs2) 4)
/-- FMACP (R170). -/
def execFmacp (k : CoreIx) (q31 : Bool) (ad : Fin 4) (rs1 rs2 : GReg) (s : State) : Host.Outcome State Fault Refusal :=
  .next (s.runG k.val (.fmacp q31 ad rs1 rs2) 4)
/-- FEXT (R171). -/
def execFext (k : CoreIx) (q15 : Bool) (rd : GReg) (acc : Fin 4) (s : State) : Host.Outcome State Fault Refusal :=
  .next (s.runG k.val (.fext q15 rd acc) 4)
/-- MFA (R170). -/
def execMfa (k : CoreIx) (high : Bool) (rd : GReg) (acc : Fin 4) (s : State) : Host.Outcome State Fault Refusal :=
  .next (s.runG k.val (.mfa high rd acc) 4)
/-- MTA (R170). -/
def execMta (k : CoreIx) (ad : Fin 4) (rs1 rs2 : GReg) (s : State) : Host.Outcome State Fault Refusal :=
  .next (s.runG k.val (.mta ad rs1 rs2) 4)
/-- BMOV (R175). -/
def execBmov (k : CoreIx) (size : Fin 4) (rd rs1 rs2 : GReg) (s : State) : Host.Outcome State Fault Refusal :=
  .next (s.runG k.val (.block .bmov size rd rs1 rs2) 4)
/-- BFILL (R175). -/
def execBfill (k : CoreIx) (size : Fin 4) (rd rs1 rs2 : GReg) (s : State) : Host.Outcome State Fault Refusal :=
  .next (s.runG k.val (.block .bfill size rd rs1 rs2) 4)
/-- BCMP (R175). -/
def execBcmp (k : CoreIx) (size : Fin 4) (rd rs1 rs2 : GReg) (s : State) : Host.Outcome State Fault Refusal :=
  .next (s.runG k.val (.block .bcmp size rd rs1 rs2) 4)
/-- BSCAN (R175). -/
def execBscan (k : CoreIx) (size : Fin 4) (rd rs1 rs2 : GReg) (s : State) : Host.Outcome State Fault Refusal :=
  .next (s.runG k.val (.block .bscan size rd rs1 rs2) 4)
/-- MFC (R157). -/
def execMfc (k : CoreIx) (rd : GReg) (cr : BitVec 12) (s : State) : Host.Outcome State Fault Refusal :=
  .next (s.runG k.val (.mfc rd cr) 4)
/-- MTC (R159). -/
def execMtc (k : CoreIx) (cr : BitVec 12) (rs1 : GReg) (s : State) : Host.Outcome State Fault Refusal :=
  .next (s.runG k.val (.mtc cr rs1) 4)
/-- MSET (R169). -/
def execMset (k : CoreIx) (mask : BitVec 12) (s : State) : Host.Outcome State Fault Refusal :=
  .next (s.runG k.val (.mset mask) 4)
/-- MCLR (R169). -/
def execMclr (k : CoreIx) (mask : BitVec 12) (s : State) : Host.Outcome State Fault Refusal :=
  .next (s.runG k.val (.mclr mask) 4)
/-- IWIN (R224). -/
def execIwin (k : CoreIx) (n : BitVec 12) (s : State) : Host.Outcome State Fault Refusal :=
  .next (s.runG k.val (.iwin n) 4)
/-- SYSCALL (R216). -/
def execSyscall (k : CoreIx) (s : State) : Host.Outcome State Fault Refusal :=
  .next (s.runG k.val (.syscall) 4)
/-- BREAK (R218). -/
def execBrk (k : CoreIx) (s : State) : Host.Outcome State Fault Refusal :=
  .next (s.runG k.val (.brk) 4)
/-- ERET (R222). -/
def execEret (k : CoreIx) (s : State) : Host.Outcome State Fault Refusal :=
  .next (s.runG k.val (.eret) 4)
/-- WFI (R169). -/
def execWfi (k : CoreIx) (s : State) : Host.Outcome State Fault Refusal :=
  .next (s.runG k.val (.wfi) 4)
/-- IFLUSH (R183). -/
def execIflush (k : CoreIx) (s : State) : Host.Outcome State Fault Refusal :=
  .next (s.runG k.val (.iflush) 4)
/-- VSETVL (R191). -/
def execVsetvl (k : CoreIx) (rd rs1 : GReg) (sew : Fin 4) (s : State) : Host.Outcome State Fault Refusal :=
  .next (s.runG k.val (.vsetvl rd rs1 sew) 4)
/-- VLOAD (R211). -/
def execVload (k : CoreIx) (form : VForm) (hint : Fin 4) (vd : Fin 32) (rs1 : GReg) (km : Fin 8) (s : State) : Host.Outcome State Fault Refusal :=
  .next (s.runG k.val (.vload form hint vd rs1 km) 4)
/-- VSTORE (R211). -/
def execVstore (k : CoreIx) (form : VForm) (hint : Fin 4) (vd : Fin 32) (rs1 : GReg) (km : Fin 8) (s : State) : Host.Outcome State Fault Refusal :=
  .next (s.runG k.val (.vstore form hint vd rs1 km) 4)
/-- VADD (R199). -/
def execVadd (k : CoreIx) (op : VAluOp) (vd vs1 : Fin 32) (src : VSrc) (km : Fin 8) (s : State) : Host.Outcome State Fault Refusal :=
  .next (s.runG k.val (.vadd op vd vs1 src km) 4)
/-- VSLL (R199). -/
def execVsll (k : CoreIx) (op : VShOp) (vd vs1 : Fin 32) (src : VSrc) (km : Fin 8) (s : State) : Host.Outcome State Fault Refusal :=
  .next (s.runG k.val (.vsll op vd vs1 src km) 4)
/-- VMIN (R199). -/
def execVmin (k : CoreIx) (op : VMinOp) (vd vs1 : Fin 32) (src : VSrc) (km : Fin 8) (s : State) : Host.Outcome State Fault Refusal :=
  .next (s.runG k.val (.vmin op vd vs1 src km) 4)
/-- VMUL (R199). -/
def execVmul (k : CoreIx) (op : VMulOp) (vd vs1 : Fin 32) (src : VSrc) (km : Fin 8) (s : State) : Host.Outcome State Fault Refusal :=
  .next (s.runG k.val (.vmul op vd vs1 src km) 4)
/-- VMACC (R199). -/
def execVmacc (k : CoreIx) (vd vs1 : Fin 32) (src : VSrc) (km : Fin 8) (s : State) : Host.Outcome State Fault Refusal :=
  .next (s.runG k.val (.vmacc vd vs1 src km) 4)
/-- VSADD (R199). -/
def execVsadd (k : CoreIx) (op : VSatOp) (vd vs1 : Fin 32) (src : VSrc) (km : Fin 8) (s : State) : Host.Outcome State Fault Refusal :=
  .next (s.runG k.val (.vsadd op vd vs1 src km) 4)
/-- VMV (R199). -/
def execVmv (k : CoreIx) (vd : Fin 32) (src : VSrc) (km : Fin 8) (s : State) : Host.Outcome State Fault Refusal :=
  .next (s.runG k.val (.vmv vd src km) 4)
/-- VFADD (R200). -/
def execVfadd (k : CoreIx) (op : VFpOp) (vd vs1 : Fin 32) (src : VSrc) (km : Fin 8) (s : State) : Host.Outcome State Fault Refusal :=
  .next (s.runG k.val (.vfadd op vd vs1 src km) 4)
/-- VFSQRT (R200). -/
def execVfsqrt (k : CoreIx) (vd vs1 : Fin 32) (km : Fin 8) (s : State) : Host.Outcome State Fault Refusal :=
  .next (s.runG k.val (.vfsqrt vd vs1 km) 4)
/-- VFMIN (R200). -/
def execVfmin (k : CoreIx) (op : VFMinOp) (vd vs1 : Fin 32) (src : VSrc) (km : Fin 8) (s : State) : Host.Outcome State Fault Refusal :=
  .next (s.runG k.val (.vfmin op vd vs1 src km) 4)
/-- VFMA (R200). -/
def execVfma (k : CoreIx) (vd vs1 : Fin 32) (src : VSrc) (km : Fin 8) (s : State) : Host.Outcome State Fault Refusal :=
  .next (s.runG k.val (.vfma vd vs1 src km) 4)
/-- VFNMS (R200). -/
def execVfnms (k : CoreIx) (vd vs1 : Fin 32) (src : VSrc) (km : Fin 8) (s : State) : Host.Outcome State Fault Refusal :=
  .next (s.runG k.val (.vfnms vd vs1 src km) 4)
/-- VFSGN (R200). -/
def execVfsgn (k : CoreIx) (vd vs1 : Fin 32) (src : VSrc) (km : Fin 8) (s : State) : Host.Outcome State Fault Refusal :=
  .next (s.runG k.val (.vfsgn vd vs1 src km) 4)
/-- VFCVT (R200). -/
def execVfcvt (k : CoreIx) (op : VCvtOp) (vd vs1 : Fin 32) (km : Fin 8) (s : State) : Host.Outcome State Fault Refusal :=
  .next (s.runG k.val (.vfcvt op vd vs1 km) 4)
/-- VFWCVT (R200). -/
def execVfwcvt (k : CoreIx) (op : VWCvtOp) (vd vs1 : Fin 32) (km : Fin 8) (s : State) : Host.Outcome State Fault Refusal :=
  .next (s.runG k.val (.vfwcvt op vd vs1 km) 4)
/-- VFNCVT (R200). -/
def execVfncvt (k : CoreIx) (op : VWCvtOp) (vd vs1 : Fin 32) (km : Fin 8) (s : State) : Host.Outcome State Fault Refusal :=
  .next (s.runG k.val (.vfncvt op vd vs1 km) 4)
/-- VWMUL (R201). -/
def execVwmul (k : CoreIx) (unsigned : Bool) (vd vs1 vs2 : Fin 32) (km : Fin 8) (s : State) : Host.Outcome State Fault Refusal :=
  .next (s.runG k.val (.vwmul unsigned vd vs1 vs2 km) 4)
/-- VWMACC (R201). -/
def execVwmacc (k : CoreIx) (vd vs1 vs2 : Fin 32) (km : Fin 8) (s : State) : Host.Outcome State Fault Refusal :=
  .next (s.runG k.val (.vwmacc vd vs1 vs2 km) 4)
/-- VWFMUL (R201). -/
def execVwfmul (k : CoreIx) (vd vs1 vs2 : Fin 32) (km : Fin 8) (s : State) : Host.Outcome State Fault Refusal :=
  .next (s.runG k.val (.vwfmul vd vs1 vs2 km) 4)
/-- VWFMA (R201). -/
def execVwfma (k : CoreIx) (vd vs1 vs2 : Fin 32) (km : Fin 8) (s : State) : Host.Outcome State Fault Refusal :=
  .next (s.runG k.val (.vwfma vd vs1 vs2 km) 4)
/-- VDOT4 (R202). -/
def execVdot4 (k : CoreIx) (op : VDot4Op) (vd vs1 vs2 : Fin 32) (km : Fin 8) (s : State) : Host.Outcome State Fault Refusal :=
  .next (s.runG k.val (.vdot4 op vd vs1 vs2 km) 4)
/-- VDOT2 (R202). -/
def execVdot2 (k : CoreIx) (op : VDot2Op) (vd vs1 vs2 : Fin 32) (km : Fin 8) (s : State) : Host.Outcome State Fault Refusal :=
  .next (s.runG k.val (.vdot2 op vd vs1 vs2 km) 4)
/-- VREDSUM (R203). -/
def execVredsum (k : CoreIx) (vd vs1 vs2 : Fin 32) (km : Fin 8) (s : State) : Host.Outcome State Fault Refusal :=
  .next (s.runG k.val (.vredsum vd vs1 vs2 km) 4)
/-- VREDMIN (R203). -/
def execVredmin (k : CoreIx) (op : VRedMinOp) (vd vs1 vs2 : Fin 32) (km : Fin 8) (s : State) : Host.Outcome State Fault Refusal :=
  .next (s.runG k.val (.vredmin op vd vs1 vs2 km) 4)
/-- VREDAND (R203). -/
def execVredand (k : CoreIx) (op : VRedBitOp) (vd vs1 vs2 : Fin 32) (km : Fin 8) (s : State) : Host.Outcome State Fault Refusal :=
  .next (s.runG k.val (.vredand op vd vs1 vs2 km) 4)
/-- VFREDSUM (R203). -/
def execVfredsum (k : CoreIx) (vd vs1 vs2 : Fin 32) (km : Fin 8) (s : State) : Host.Outcome State Fault Refusal :=
  .next (s.runG k.val (.vfredsum vd vs1 vs2 km) 4)
/-- VFREDMIN (R203). -/
def execVfredmin (k : CoreIx) (op : VFMinOp) (vd vs1 vs2 : Fin 32) (km : Fin 8) (s : State) : Host.Outcome State Fault Refusal :=
  .next (s.runG k.val (.vfredmin op vd vs1 vs2 km) 4)
/-- VFWREDSUM (R203). -/
def execVfwredsum (k : CoreIx) (vd vs1 vs2 : Fin 32) (km : Fin 8) (s : State) : Host.Outcome State Fault Refusal :=
  .next (s.runG k.val (.vfwredsum vd vs1 vs2 km) 4)
/-- VCOMPRESS (R204). -/
def execVcompress (k : CoreIx) (vd vs1 : Fin 32) (km : Fin 8) (s : State) : Host.Outcome State Fault Refusal :=
  .next (s.runG k.val (.vcompress vd vs1 km) 4)
/-- VEXPAND (R204). -/
def execVexpand (k : CoreIx) (vd vs1 : Fin 32) (km : Fin 8) (s : State) : Host.Outcome State Fault Refusal :=
  .next (s.runG k.val (.vexpand vd vs1 km) 4)
/-- VPERM (R204). -/
def execVperm (k : CoreIx) (vd vs1 vs2 : Fin 32) (km : Fin 8) (s : State) : Host.Outcome State Fault Refusal :=
  .next (s.runG k.val (.vperm vd vs1 vs2 km) 4)
/-- VSLIDEUP (R204). -/
def execVslideup (k : CoreIx) (vd vs1 : Fin 32) (rs2 : GReg) (km : Fin 8) (s : State) : Host.Outcome State Fault Refusal :=
  .next (s.runG k.val (.vslideup vd vs1 rs2 km) 4)
/-- VSLIDEDOWN (R204). -/
def execVslidedown (k : CoreIx) (vd vs1 : Fin 32) (rs2 : GReg) (km : Fin 8) (s : State) : Host.Outcome State Fault Refusal :=
  .next (s.runG k.val (.vslidedown vd vs1 rs2 km) 4)
/-- VMV_XV (R204). -/
def execVmvXv (k : CoreIx) (rd : GReg) (vs1 : Fin 32) (rs2 : GReg) (s : State) : Host.Outcome State Fault Refusal :=
  .next (s.runG k.val (.vmvXv rd vs1 rs2) 4)
/-- VPOPC (R204). -/
def execVpopc (k : CoreIx) (rd : GReg) (ks : Fin 8) (s : State) : Host.Outcome State Fault Refusal :=
  .next (s.runG k.val (.vpopc rd ks) 4)
/-- VFIRST (R204). -/
def execVfirst (k : CoreIx) (rd : GReg) (ks : Fin 8) (s : State) : Host.Outcome State Fault Refusal :=
  .next (s.runG k.val (.vfirst rd ks) 4)
/-- VECTOR_COMPARE (R205). -/
def execVectorCompare (k : CoreIx) (op : VCmpOp) (kd : Fin 8) (vs1 : Fin 32) (src : VSrc) (km : Fin 8) (s : State) : Host.Outcome State Fault Refusal :=
  .next (s.runG k.val (.vcmp op kd vs1 src km) 4)
/-- KAND (R206). -/
def execKand (k : CoreIx) (op : KOp) (kd ks1 ks2 : Fin 8) (s : State) : Host.Outcome State Fault Refusal :=
  .next (s.runG k.val (.kand op kd ks1 ks2) 4)

/-! ### Reserved encodings, repeats, block elements -/

/-- ILLOP (R164, R161): an instruction word that decodes to nothing; a word that is an instruction has its own command. -/
def execIllop (k : CoreIx) (w : BitVec 32) (s : State) : Host.Outcome State Fault Refusal :=
  .next (match gDecode w.toNat with
    | .ok _ => s
    | .error sub => s.issue k.val false (fun s =>
        if (s.core k.val).rpt then s
        else s.settle k.val 4 (s.ifetch k.val (s.core k.val).pc (if w.getLsbD 0 then 4 else 2) (fun s => .illop s sub))))
/-- REP_I (R172): the count stands in LC. -/
def execRepI (k : CoreIx) (s : State) : Host.Outcome State Fault Refusal :=
  .next (s.issue k.val false (fun s => if (s.core k.val).rpt then s else s.repeatStart k.val none))
/-- REP_N (R172): LC takes the count, 1 to 64. -/
def execRepN (k : CoreIx) (count : Fin 64) (s : State) : Host.Outcome State Fault Refusal :=
  .next (s.issue k.val false (fun s => if (s.core k.val).rpt then s else s.repeatStart k.val (some (count.val + 1))))
/-- REP_ITERATION (R172, R174). -/
def execRepIteration (k : CoreIx) (s : State) : Host.Outcome State Fault Refusal :=
  .next (s.issue k.val true (fun s => if (s.core k.val).halted then s else s.iterate k.val))
/-- BLOCK_ELEMENT (R176, R177): one element of the block instruction at the pc. -/
def execBlockElement (k : CoreIx) (s : State) : Host.Outcome State Fault Refusal :=
  .next (s.issue k.val true (fun s => if (s.core k.val).halted ∨ (s.core k.val).rpt then s else s.blockStep k.val))

/-! ### WFI, the merging buffer, release and reset -/

/-- WFI_COMPLETE (R169): a source that targets the core is pending, its class enabled or not. Of the controllers of the management and
Orangery cores no rule states the sources, so that the command itself says that one of theirs is pending (log entry 68). -/
def execWfiComplete (k : CoreIx) (s : State) : Host.Outcome State Fault Refusal :=
  .next (if (s.core k.val).wfi && !(s.core k.val).halted && s.runs (coreDom k.val) && (decide (512 ≤ k.val) || s.anyIrq k.val) then
      (s.countCore k.val 2 1).onCore k.val (fun c => { c with wfi := false, pc := c.pc + 4 })
    else s)
/-- MERGE_BUFFER_DRAIN (R180). -/
def execMergeBufferDrain (k : CoreIx) (s : State) : Host.Outcome State Fault Refusal := .next (s.drainOne k.val)
/-- CORE_RELEASE (R160, R187). -/
def execCoreRelease (p : DieIx) (j : Fin 64) (s : State) : Host.Outcome State Fault Refusal := .next (s.releaseCore (64 * p.val + j.val))
/-- CORE_RESET (R187). -/
def execCoreReset (p : DieIx) (j : Fin 64) (s : State) : Host.Outcome State Fault Refusal := .next (s.stopCore (64 * p.val + j.val))

/-! ### Interrupts (08 R224, R225, R231-R235) -/

/-- Is a core at a boundary where an interrupt may be accepted: no window, no REP.N, not inside an instruction (R225)? -/
def State.atBoundary (s : State) (k : Nat) : Bool :=
  let c := s.core k
  s.alive k && !c.halted && c.arrived.isEmpty && c.iwcnt == 0 && !(c.rpt && c.repN)
/-- Is an interrupt of a class (0 NORMAL, 1 FAST) there for a core: a source pends for it, or signalled it before its TARGET was written
(R233)? For a management or Orangery core it is a free value (log entry 68). -/
def State.called (s : State) (k cls : Nat) : Bool × State :=
  if k < 512 then ((s.irq (k / 64) (k % 64) cls).isSome || (s.core k).signal.testBit cls, s)
  else
    let (v, s1) := s.draw
    (v % 2 == 1, s1)
/-- FAST before NORMAL (R225). -/
def State.accept (s : State) (k : Nat) : State :=
  let c := s.core k
  let go := fun (s : State) (kind code cls : Nat) =>
    let s1 := if (s.core k).signal.testBit cls then s.onCore k (fun c => { c with signal := c.signal - 2 ^ cls }) else s
    (s1.enter k { kind := kind, code := code, sub := 0, addr := 0, pc := c.pc, parked := c.parked }).getD s
  let (fast, s1) := if c.fie && !c.fb then s.called k 1 else (false, s)
  if fast then go s1 kindFast causeFAST 1
  else
    let (normal, s2) := if c.ie then s1.called k 0 else (false, s1)
    if normal then go s2 kindNormal causeNORMAL 0 else s2
/-- INTERRUPT_ACCEPT (R221, R225): a park that has been answered is resolved first (R228). -/
def execInterruptAccept (k : CoreIx) (s : State) : Host.Outcome State Fault Refusal :=
  .next (if !s.atBoundary k.val then s
    else
      let c := s.core k.val
      let s1 := if c.parked && (c.park.map Park.isOver).getD true then (s.unpark k.val).2 else s
      if s1.atBoundary k.val then s1.accept k.val else s1)
/-- IWIN_EXPIRE (R224): the count of an open window reaches zero; a halted core's count holds (16 R442). -/
def execIwinExpire (k : CoreIx) (s : State) : Host.Outcome State Fault Refusal :=
  let c := s.core k.val
  .next (if c.iwcnt = 0 ∨ c.halted then s else s.setCore k.val ((c.wc crIWCNT 0).crPut crSTATUS 7 7 1))
/-- VECTOR_LATCH_LOAD (R220). -/
def execVectorLatchLoad (k : CoreIx) (s : State) : Host.Outcome State Fault Refusal := .next (s.loadLatches k.val)
/-- INTERRUPT_SOURCE_EVENT (R231). -/
def execInterruptSourceEvent (p : DieIx) (src : Fin 1024) (s : State) : Host.Outcome State Fault Refusal := .next (s.raise p.val src.val)

/-- A core's access to an INT register of its own die (R232, R235): 4 bytes at a BAR0 offset, checked as any of its accesses. -/
def State.intAccess (s : State) (k : Nat) (wr : Bool) (off : Nat) (f : State → GRes) : State :=
  s.issue k false (fun s =>
    if (s.core k).rpt then s
    else
      let a := mmioBase + off
      let p : CPart := ⟨if wr then .wr else .rd, a, 4, w64 a, 0, .dev a, 0⟩
      match s.ifetch k (s.core k).pc 4 (fun s =>
        match s.partFail (coreMaster k) none p with
        | some (sub, w) => .exc (match w with | some (x, e) => s.failed (coreMaster k) x e | none => s) causeBUSERR sub p.ea
        | none => f s) with
      | r => s.settle k 4 r)
def intOff (k o : Nat) : Nat := 0x440000 + coreDie k * 0x200000 + o
def State.claimRead (s : State) (k cls : Nat) (rd : GReg) : State :=
  let r : Reg := ⟨if cls = 0 then .intClaimN else .intClaimF, coreDie k, 0, 0⟩
  s.intAccess k false r.addr (fun s =>
    let (v, s1) := s.claim (coreDie k) (coreMaster k) cls
    s1.okCore k (fun c => c.wg rd (w64 v)))
/-- INT_CLAIM_N (R232). -/
def execIntClaimN (k : CoreIx) (rd : GReg) (s : State) : Host.Outcome State Fault Refusal := .next (s.claimRead k.val 0 rd)
/-- INT_CLAIM_F (R232). -/
def execIntClaimF (k : CoreIx) (rd : GReg) (s : State) : Host.Outcome State Fault Refusal := .next (s.claimRead k.val 1 rd)
/-- INT_DONE (R232). -/
def execIntDone (k : CoreIx) (v : BitVec 32) (s : State) : Host.Outcome State Fault Refusal :=
  let r : Reg := ⟨.intDone, coreDie k.val, 0, 0⟩
  .next (s.intAccess k.val true r.addr (fun s => .ok (s.intDone (coreDie k.val) v.toNat) none))
/-- INT_SWSET (R235). -/
def execIntSwset (p : DieIx) (v : BitVec 32) (s : State) : Host.Outcome State Fault Refusal := .next (s.swset p.val v.toNat)
/-- INT_PEND (R233). -/
def execIntPend (p : DieIx) (w : Fin 16) (v arriving : BitVec 64) (s : State) : Host.Outcome State Fault Refusal :=
  .next (s.pendClear p.val w.val v.toNat arriving.toNat)

end Sys2Proof.Machine
end

