-- ==== Sys2Proof/Machine/PciRows.lean ====
section
/-! DEFINITION. Requests that the hosts send through the PCI Express ports, in their order, and configuration space
(spec/12_queues_pcie R319-R325; spec/10_ordering_coherence R277; spec/17_start_up R454). -/

namespace Sys2Proof.Machine

/-! ### BAR4 (R323, R324) -/

def State.bar4Size (s : State) (n : Nat) : Nat := 2 ^ (30 + (s.port n).bar4log)
def State.bar4Base (s : State) (n : Nat) : Nat := s.rf ⟨.pciBar4, n, 0, 0⟩ 39 30 * 2 ^ 30
/-- Is BAR4 there for a function: PF0, serving memory requests, inside the window? -/
def State.bar4Open (s : State) (n f off len : Nat) : Bool := f == 0 && s.fnServes n 0 && decide (off + len ≤ s.bar4Size n)

/-- Pieces of a range, one for each 64-byte line (09 R238). -/
def linePieces (a n : Nat) : List (Nat × Nat) :=
  (linesOf a n).map (fun l => (max a l, min (a + n) (l + 64) - max a l))

/-- A posted write, line by line. -/
def State.postedWrite (m a : Nat) : List (Nat × Nat) → List Byte → State → State
  | [], _, s => s
  | (x, n) :: l, bs, s => State.postedWrite m a l (bs.drop n) (s.devWrite m x (bs.take n)).2

/-- An access of BAR4; outside the window, or by another function, it finds nothing (R324). -/
def State.bar4 (s : State) (n f off len : Nat) (wr : Option (List Byte)) : State :=
  let m := fnMaster n f
  let a := s.bar4Base n + off
  if !s.bar4Open n f off (match wr with | some b => b.length | none => len) then
    (let s1 := s.postAbsent m a
     match wr with | some _ => s1 | none => s1.reply n 1 [])
  else match wr with
    | some bs => State.postedWrite m a (linePieces a bs.length) bs s
    | none =>
      match s.tryAcc m .rd false a len with
      | (some f, s1) => s1.reply n f.cplStatus []
      | (none, s1) => (s1.traffic m .read 0 a len).reply n 0 (Mem.readN s1.mem a len)

/-- FetchAdd, Swap and CAS (R323). -/
def atomVal (op : PciAtom) (w old a b : Nat) : Nat :=
  match op with
  | .fetchAdd => (old + a) % 2 ^ (8 * w)
  | .swap => a
  | .cas => if old = a then b else old

/-- An AtomicOp of operands of `w` bytes (R323): of 16 bytes, at no aligned address or outside BAR4 it is an Unsupported Request. -/
def State.atomicOp (s : State) (n f : Nat) (bar4 : Bool) (off : Nat) (op : PciAtom) (w a b : Nat) : State :=
  let m := fnMaster n f
  let x := s.bar4Base n + off
  if w = 16 then s.reply n 1 []
  else if !bar4 then (s.postAbsent m (mmioBase + off % 2 ^ 25)).reply n 1 []
  else if !s.bar4Open n f off w || x % w != 0 then (s.postAbsent m x).reply n 1 []
  else match s.tryAcc m .at false x w with
    | (some e, s1) => s1.reply n e.cplStatus []
    | (none, s1) =>
      let old := Mem.readLE s1.mem x w
      let s2 := ((s1.traffic m .atomic 0 x w).store x (leBytes w (atomVal op w old (a % 2 ^ (8 * w)) (b % 2 ^ (8 * w))))).meterMem m true x w
      s2.reply n 0 (leBytes w old)

/-! ### The order of a function's requests (10 R277; 09 R256) -/

def HostOp.isWrite : HostOp → Bool
  | .bar0 _ _ _ wr => wr.isSome
  | .bar4 _ _ wr => wr.isSome
  | .atomic _ _ _ _ _ _ => false

/-- Perform a request. -/
def State.hostGo (s : State) (n : Nat) (r : HostReq) : State :=
  match r.op with
  | .bar0 two off size wr => s.bar0 n r.f two off size wr
  | .bar4 off len wr => s.bar4 n r.f off len wr
  | .atomic bar4 off op w a b => s.atomicOp n r.f bar4 off op w a b

/-- Does a request go to a stack that is HOT? -/
def State.hostHot (s : State) (n : Nat) (r : HostReq) : Bool :=
  match r.op with
  | .bar0 _ _ _ _ => false
  | .bar4 off _ _ => s.hotAt (s.bar4Base n + off)
  | .atomic bar4 off _ _ _ _ => bar4 && s.hotAt (s.bar4Base n + off)

/-- Is a request held: at its stack, or behind a posted write of its function that is held: a read behind every one, a write where neither
carries Relaxed Ordering? -/
def State.hostWaits (s : State) (n : Nat) (ahead : List HostReq) (r : HostReq) : Bool :=
  s.hostHot n r || ahead.any (fun e => e.f == r.f && e.op.isWrite && (!r.op.isWrite || (!e.ro && !r.ro)))

/-- Requests in order: each is performed, or stays held behind those that do. -/
def State.hostServe (n : Nat) : List HostReq → List HostReq → State → State
  | ahead, [], s => s.setPort n { s.port n with inq := ahead }
  | ahead, r :: rs, s =>
    if s.hostWaits n ahead r then State.hostServe n (ahead ++ [r]) rs s else State.hostServe n ahead rs (s.hostGo n r)

/-- A request arrives. -/
def State.hostReq (s : State) (n : Nat) (r : HostReq) : State :=
  if s.hostWaits n (s.port n).inq r then s.setPort n { s.port n with inq := (s.port n).inq ++ [r] } else s.hostGo n r
/-- The held requests of both ports are tried again. -/
def State.hostAgain (s : State) : State :=
  [0, 1].foldl (fun s n => if (s.port n).inq = [] then s else State.hostServe n [] (s.port n).inq s) s

/-- A poisoned request is discarded, reported under AER, and recorded as the fourth case of R324 (log entry 108). -/
def State.poisoned (s : State) (n f : Nat) : State :=
  let s1 := s.setPort n { s.port n with aer := (s.port n).aer ||| 1 }
  s1.post { sev := 0, kind := 0x07, loc := 8, master := some (fnMaster n f), part := s.partOf (fnMaster n f), info := n + 4 * 2 ^ 8 }

/-! ### Configuration space (R319, R320)

The layouts are those of the PCI Express Base Specification: PRESUMED, log entry 109. A doubleword that neither the spec nor the state
gives reads as a free value. -/

/-- Capability ID, version and next pointer of an extended capability. -/
def extCap (id ver next : Nat) : Nat := id + ver * 2 ^ 16 + next * 2 ^ 20

/-- The extended capabilities of PF0: offset, ID, version, next. -/
def extCaps : List (Nat × Nat) :=
  [(0x100, extCap 0x0001 2 0x148), (0x148, extCap 0x0003 1 0x158), (0x158, extCap 0x000E 1 0x168), (0x168, extCap 0x0010 1 0x1A8),
   (0x1A8, extCap 0x0015 1 0x1B8), (0x1B8, extCap 0x0019 1 0x1F8), (0x1F8, extCap 0x0025 1 0x208), (0x208, extCap 0x0026 1 0x238),
   (0x238, extCap 0x002A 1 0x268), (0x268, extCap 0x0031 1 0x288), (0x288, extCap 0x0027 1 0)]

/-- Doublewords that every function has: the header, MSI-X and PCI Express. -/
def State.cfgBoth (s : State) (n f off : Nat) : Option Nat :=
  let fn := s.fn n f
  let p := s.port n
  let vf := f != 0
  match off with
  | 0x00 => some (0x1D9A + (if vf then 0x0817 else 0x0816) * 2 ^ 16)
  | 0x04 => some (b2n fn.memEn * 2 + b2n fn.bme * 4 + 2 ^ 20)
  | 0x08 => some (0x12000000)
  | 0x2C => some (0x1D9A + 0x0001 * 2 ^ 16)
  | 0x34 => some (if vf then 0x50 else 0x40)
  | 0x50 => some (0x11 + 0x60 * 2 ^ 8 + lastVec f * 2 ^ 16 + b2n fn.msixMask * 2 ^ 30 + b2n fn.msixEn * 2 ^ 31)
  | 0x54 => some (if vf then 0x80000 else 0x1710000 + n * 0x10000)
  | 0x58 => some (if vf then 0x88000 else 0x1718000 + n * 0x10000)
  | 0x60 => some (0x10 + 2 * 2 ^ 16)
  | 0x68 => some (b2n fn.relaxed * 2 ^ 4 + p.mps * 2 ^ 5 + p.mrrs * 2 ^ 12)
  | 0x70 => some (p.aspm + p.rate * 2 ^ 16 + p.width * 2 ^ 20)
  | _ => none

/-- Doublewords of PF0's other capabilities. -/
def State.cfgPf (s : State) (n off : Nat) : Option Nat :=
  let p := s.port n
  let serial := natPut (Config.serial % 2 ^ 64) 63 63 n
  match off with
  | 0x40 => some (0x01 + 0x50 * 2 ^ 8 + 3 * 2 ^ 16 + 3 * 2 ^ 30)
  | 0x44 => some (3 * b2n (s.fn n 0).d3 + b2n p.pme * 2 ^ 15)
  | 0x14C => some (serial % 2 ^ 32)
  | 0x150 => some (serial / 2 ^ 32)
  | 0x170 => some (b2n p.vfEnable)
  | 0x174 => some (63 + 63 * 2 ^ 16)
  | 0x178 => some p.numVfs
  | 0x17C => some (1 + 2 ^ 16)
  | 0x180 => some (0x0817 * 2 ^ 16)
  | 0x1AC => some (0x7FF * 2 ^ 14)
  | 0x1B0 => some (4 + 2 ^ 5 + (10 + p.bar4log) * 2 ^ 8)
  | _ => (extCaps.find? (fun e => e.1 == off)).map (fun e => e.2)

/-- A doubleword of configuration space; a VF has MSI-X, PCI Express and ARI only. -/
def State.cfgRead (s : State) (n f off : Nat) : Nat × State :=
  let known := match s.cfgBoth n f off with
    | some v => some v
    | none => if f = 0 then s.cfgPf n off else if off = 0x158 then some (extCap 0x000E 1 0) else none
  match known with
  | some v => (v, s)
  | none => let (v, s1) := s.draw; (v % 2 ^ 32, s1)

/-- A configuration request: Retry Status before step 6 of a start has ended (17 R454), Unsupported Request where the function does not
exist. -/
def State.cfgRequest (s : State) (n f : Nat) (q : CfgReq) : State :=
  if !(s.port n).cfgUp then s
  else if !s.cfgServes n f then s.reply n (if s.boot.phase ≤ 6 then 3 else 1) []
  else match q with
    | .read reg => let (v, s1) := s.cfgRead n f (4 * reg.val); s1.reply n 0 (leBytes 4 v)
    | .write w => (s.cfgWrite n f w).reply n 0 []

/-! ### The commands -/

/-- BAR0_ACCESS (R321, R322, R324, R325; 10 R277). -/
def execBar0Access (n : PortIx) (f : FnIx) (bar2 : Bool) (off : BitVec 25) (size : BitVec 8) (tlp : Tlp (BitVec 64))
    (s : State) : Host.Outcome State Fault Refusal :=
  .next (if tlp.ep && tlp.wr.isSome then s.poisoned n.val f.val else s.hostReq n.val ⟨f.val, tlp.ro, .bar0 bar2 off.toNat size.toNat tlp.wr⟩)
/-- BAR4_ACCESS (R323, R324; 10 R277). -/
def execBar4Access (n : PortIx) (f : FnIx) (off : BitVec 40) (len : Fin 4097) (tlp : Tlp (List Byte)) (s : State) :
    Host.Outcome State Fault Refusal :=
  .next (if tlp.ep && tlp.wr.isSome then s.poisoned n.val f.val else s.hostReq n.val ⟨f.val, tlp.ro, .bar4 off.toNat len.val tlp.wr⟩)
/-- ATOMICOP (R322-R324): operands of 4, 8 or 16 bytes. -/
def execAtomicop (n : PortIx) (f : FnIx) (bar4 : Bool) (off : BitVec 40) (op : PciAtom) (width : Fin 3) (args : BitVec 64 × BitVec 64) (ep : Bool)
    (s : State) : Host.Outcome State Fault Refusal :=
  .next (if ep then s.poisoned n.val f.val
    else s.hostReq n.val ⟨f.val, false, .atomic bar4 off.toNat op (4 * 2 ^ width.val) args.1.toNat args.2.toNat⟩)
/-- CONFIG_REQUEST (R319, R320; 17 R454). -/
def execConfigRequest (n : PortIx) (f : FnIx) (req : CfgReq) (s : State) : Host.Outcome State Fault Refusal :=
  .next (s.cfgRequest n.val f.val req)
/-- HBM_SAMPLE (09 R254-R256; 18 R477): a stack that cools serves what its port held. -/
def execHbmSample (st : StackIx) (t : Fin 1024) (s : State) : Host.Outcome State Fault Refusal :=
  .next (((s.hbmSample st.val t.val).switchDies).hostAgain)
/-- POWER_EXIT_COMPLETE (18 R482; 09 R252). -/
def execPowerExitComplete (lanes : List (StackIx × Fin 2080)) (s : State) : Host.Outcome State Fault Refusal :=
  .next (s.exitComplete lanes).hostAgain

end Sys2Proof.Machine
end

