-- ==== Sys2Proof/Machine/RemoteRows.lean ====
section
/-! DEFINITION. Packets injected, requests of other modules served, responses, and completions of reads through a port
(spec/13_trellis_fabric R363-R369; spec/12_queues_pcie R327; spec/16_orangery_security R442 STEP). -/

namespace Sys2Proof.Machine

/-! ### Injection (13 R363, R364, R368; 01 R40; 15 R411; 19 R496) -/

/-- A packet that is not injected: its request, choice or collective ends. -/
def State.injFail (s : State) (p : Packet) (status : Nat) : State :=
  if p.cls = 0 then
    (match s.tag p.tag with
     | some e => s.xferFail p.tag e status true
     | none => s)
  else if p.opc = 0x20 then (s.trlOutcome status).updEnt p.tok.odie (entKey p.tok.ctx p.tok.cent) (fun e =>
    (maskBits 32 (p.aux % 2 ^ 32)).foldl (fun e q =>
      match e.choice ⟨p.dst, p.tok.tdie, q⟩ with
      | some j => if nth .wait e.st j = .wait then e.setChoice j (.failed status) else e
      | none => e) e)
  else if p.cls = 3 then
    (match s.txu.colls.find? (fun r => r.cid == natBits p.collSub 15 0) with
     | some r => (s.trlOutcome status).collEnd r status
     | none => s.trlOutcome status)
  else s.trlOutcome status
/-- Try to inject packet `i` of those that wait. A packet held by its partition's share goes on when the window of 4,096 TRLS
cycles is over: the command then begins a new window of that port. -/
def State.injectAt (s : State) (i : Nat) : State :=
  match s.trl.out[i]? with
  | none => s
  | some o =>
    if s.outStopped o then s
    else
      let drop := fun (s : State) => ({ s with trl := { s.trl with out := s.trl.out.eraseIdx i } } : State).tokSent o.pkt
      match s.inject o with
      | (.sent, s1) => drop s1
      | (.discarded, s1) => drop s1
      | (.unreachable, s1) => (drop s1).injFail o.pkt 0x80
      | (.malformed, s1) => (drop s1).injFail o.pkt 1
      | (.held, s1) =>
        match s1.injPort o with
        | some n => if s1.shareSpent o n then s1.setTport n { s1.tport n with share := [] } else s1
        | none => s1

/-! ### Serving a request (13 R367) -/

/-- A request of an opcode at a source: ill-formed, unadmitted, or served by `f` as its remote tag's master. -/
def State.takeReq (s : State) (src : PktSrc) (opc : Nat) (f : State → Packet → Nat → Nat → State) : State :=
  match s.peekPacket src with
  | none => s
  | some p =>
    if p.cls ≠ 0 ∨ p.opc ≠ opc then s
    else if !p.wellFormed then s.turnAway src
    else if s.hotLoc (.dev p.addr) then s
    else
      let s1 := s.dropPacket src
      if !p.reqOk then s1.nackReq p 1 none
      else match s1.admitReq p with
        | .error st => s1.nackReq p st none
        | .ok (m, i) => f s1 p m i
/-- NACK ACCESS. -/
def State.nackAcc (s : State) (p : Packet) (i : Nat) : State := s.nackReq p 2 (some i)

/-- A remote master's read and write of bytes, of memory or of registers. -/
def State.remoteRead (s : State) (m a n : Nat) : Option (List Byte) × State :=
  match placeOf a with
  | .mmio off => (match s.tryAcc m .rd false a n with
    | (some _, s1) => (none, s1)
    | (none, s1) => let (bs, s2) := State.mmioGet m (mmioChunks off n) s1; (some bs, s2))
  | _ => s.devRead m a n
def State.remoteWrite (s : State) (m a : Nat) (bs : List Byte) : Bool × State :=
  match placeOf a with
  | .mmio off => (match s.tryAcc m .wr false a bs.length with
    | (some _, s1) => (false, s1)
    | (none, s1) =>
      if !s1.mayWrite m off then (false, s1.postDenied m a) else (true, State.mmioPut m (mmioChunks off bs.length) bs s1))
  | _ => s.devWrite m a bs

/-- The value an ATOMIC writes (13 R359): AOP as FN7 of the core's atomics, CAS with its compare value first. -/
def remoteAtom (aop w old : Nat) (data : List Byte) : Option Nat :=
  let b := leNat (data.take w)
  let bits := fun (op : AtomOp) => (atomOp op (BitVec.ofNat (8 * w) old) (BitVec.ofNat (8 * w) b)).toNat
  match aop with
  | 0 => some b
  | 1 => some (bits .add)
  | 2 => some (bits .and)
  | 3 => some (bits .or)
  | 4 => some (bits .xor)
  | 5 => some (bits .min)
  | 6 => some (bits .max)
  | 7 => some (bits .minu)
  | 8 => some (bits .maxu)
  | _ => if old = b then some (leNat ((data.drop w).take w)) else none

def State.serveAtomic (s : State) (p : Packet) (m i : Nat) : State :=
  let w := if p.asz = 1 then 8 else 4
  let fin := fun (s : State) (old : Nat) => s.respond p 0x12 0 (leBytes w old) (some i)
  match s.tryAcc m .at false p.addr w with
  | (some _, s1) => s1.nackAcc p i
  | (none, s1) =>
    match placeOf p.addr with
    | .mmio off =>
      if !s1.mayWrite m off then (s1.postDenied m p.addr).nackAcc p i
      else
        let (bs, s2) := State.mmioGet m [(off, w)] s1
        (match remoteAtom p.aop w (leNat bs) p.data with
         | some v => fin (State.mmioPut m [(off, w)] (leBytes w v) s2) (leNat bs)
         | none => fin s2 (leNat bs))
    | _ =>
      let old := Mem.readLE s1.mem p.addr w
      let s2 := s1.traffic m .atomic 0 p.addr w
      (match remoteAtom p.aop w old p.data with
       | some v => fin ((s2.store p.addr (leBytes w v)).meterMem m true p.addr w) old
       | none => fin s2 old)

/-! ### Responses (13 R368, R369) -/

def State.reqPart (s : State) : TrlReq → Option Nat
  | .xfer q _ _ => s.queueOwner q
  | .core k _ _ => s.corePart k

/-- A response of an opcode at a source: of an outstanding tag, whose requester takes it and whose tag is free again; of any other
tag, or not of the length asked for, it is discarded and counted. -/
def State.takeRsp (s : State) (src : PktSrc) (opc : Nat) : State :=
  match s.peekPacket src with
  | none => s
  | some p =>
    if p.cls ≠ 1 ∨ p.opc ≠ opc then s
    else if !p.wellFormed then s.turnAway src
    else
      let s1 := s.dropPacket src
      let stray := fun (s : State) => { s with trl := { s.trl with stray := s.trl.stray + 1 } }
      match s1.tag p.tag with
      | none => stray s1
      | some e =>
        if e.timedOut ∨ (opc ≠ 0x13 ∧ p.data.length ≠ e.len) then stray s1
        else
          let s2 := if src = .loop then s1 else s1.meterRx (s1.reqPart e.req) p
          let s3 := if opc = 0x13 then s2.trlOutcome p.status else s2
          let r := if opc = 0x13 then none else some p.data
          match e.req with
          | .xfer q ix off => (s3.freeTagOf p.tag).xferPiece q ix off r p.status
          | .core k id i => (s3.freeTagOf p.tag).coreAnswer k id i r

/-! ### Completions of outbound reads (12 R327) -/

/-- The first part of a core's wait that a port still owes it. -/
def State.hostPart (s : State) (k : Nat) : Option (Nat × Nat × RemotePart) :=
  (s.core k).wait.bind (fun w => (w.parts.zipIdx.find? (fun x => x.1.host.isSome && !x.1.isOver)).map (fun x => (w.id, x.2, x.1)))

/-- A read ends (12 R327): its requester has its data, or the error of a kind is counted, recorded and reported to it. An atomic's write follows
its read at once, so that nothing comes between (10 R264, R278). -/
def State.outDone (s : State) (r : OutReader) (err : Nat) (data : List Byte) : State :=
  match r with
  | .core k =>
    (match s.hostPart k.val with
     | some (id, i, p) =>
       let (port, a) := p.host.getD (0, 0)
       if err ≠ 0 then (s.outErr port err (coreMaster k.val) a).coreAnswer k.val id i none
       else
         let bs := leBytes p.n (leNat data)
         let s1 := match p.atom.bind (fun x => remoteAtom x.1 p.n (leNat bs) x.2) with
           | some v => s.atomWrite k.val (uniHost port a) (leBytes p.n v)
           | none => s
         s1.coreAnswer k.val id i (some bs)
     | none => s)
  | .desc q => if (s.prefOf q.val).isSome then s.prefPageDone q.val err else s.dmaPage q.val err
  | .ring q => s.fetch q.val err
  | .walker t asid va kind => s.walkDone t asid.toNat va.toNat (accOf kind.val) err
/-- PCI_OUTERR.KIND of a read's end (12 R346). -/
def readEndKind : ReadEnd → Nat
  | .ok => 0 | .ur => 1 | .ca => 2 | .poisoned => 4

/-- OUTBOUND_READ_COMPLETION (R327). -/
def execOutboundReadCompletion (r : OutReader) (err : ReadEnd) (data : List Byte) (s : State) : Host.Outcome State Fault Refusal :=
  .next (s.outDone r (readEndKind err) data)
/-- COMPLETION_TIMEOUT (R327). -/
def execCompletionTimeout (r : OutReader) (s : State) : Host.Outcome State Fault Refusal := .next (s.outDone r 3 [])
/-- PACKET_INJECT (R363, R364). -/
def execPacketInject (i : Fin 65536) (s : State) : Host.Outcome State Fault Refusal := .next (s.injectAt i.val)
/-- RD (R359, R367). -/
def execRd (src : PktSrc) (s : State) : Host.Outcome State Fault Refusal :=
  .next (s.takeReq src 1 (fun s p m i =>
    match s.remoteRead m p.addr p.aux with
    | (some bs, s1) => s1.respond p 0x10 0 bs (some i)
    | (none, s1) => s1.nackAcc p i))
/-- WR (R359, R367). -/
def execWr (src : PktSrc) (s : State) : Host.Outcome State Fault Refusal :=
  .next (s.takeReq src 2 (fun s p m i =>
    match s.remoteWrite m p.addr p.data with
    | (true, s1) => s1.respond p 0x11 0 [] (some i)
    | (false, s1) => s1.nackAcc p i))
/-- ATOMIC (R359, R367). -/
def execTrellisAtomic (src : PktSrc) (s : State) : Host.Outcome State Fault Refusal := .next (s.takeReq src 3 State.serveAtomic)
/-- RDATA (R359, R366). -/
def execRdata (src : PktSrc) (s : State) : Host.Outcome State Fault Refusal := .next (s.takeRsp src 0x10)
/-- WACK (R359, R366). -/
def execWack (src : PktSrc) (s : State) : Host.Outcome State Fault Refusal := .next (s.takeRsp src 0x11)
/-- ARSP (R359, R366). -/
def execArsp (src : PktSrc) (s : State) : Host.Outcome State Fault Refusal := .next (s.takeRsp src 0x12)
/-- NACK (R359, R368). -/
def execNack (src : PktSrc) (s : State) : Host.Outcome State Fault Refusal := .next (s.takeRsp src 0x13)
/-- E2E_TIMEOUT (R368): no response TIMEOUT after the request was sent. -/
def execE2eTimeout (t : Fin 8192) (s : State) : Host.Outcome State Fault Refusal :=
  .next (match s.tag t.val with
    | some e =>
      if e.timedOut ∨ s.trl.out.any (fun o => o.pkt.cls == 0 && o.pkt.tag == t.val) then s else s.xferFail t.val e 0x81 false
    | none => s)

/-! ### STEP (16 R442) -/

/-- STEP of a halted core (log entry 44): one instruction. -/
def State.dbgStep (s : State) (req : List Byte) : OrgRes × State :=
  s.dbgCore req (fun s _ _ k =>
    if !(s.core k).halted then (.refused 0x0D, s) else (.ok [], s.stepCore k))
/-- DEBUG_STEP (R442). -/
def execDebugStep (ch : OrgSrc) (hostErr : HostErr) (s : State) : Host.Outcome State Fault Refusal :=
  .next (s.debugRun ch 0x03 hostErr State.dbgStep)

end Sys2Proof.Machine
end

