-- ==== Sys2Proof/Machine/Dispatch.lean ====
section
/-! DEFINITION. The meaning of each command: one arm per row of the opcode table, each one call. -/

namespace Sys2Proof.Machine

/-- A command's effect on everything but the queue. -/
def exec (i : Instr) (s : State) : Host.Outcome State Fault Refusal :=
  match i with
  | .registerWrite m off wide v => Sys2Proof.Machine.execRegisterWrite m off wide v s
  | .ptrClamplogClr => Sys2Proof.Machine.execPtrClamplogClr s
  | .stageImage q hostErr => Sys2Proof.Machine.execStageImage q hostErr s
  | .commitImage q => Sys2Proof.Machine.execCommitImage q s
  | .discardImage q => Sys2Proof.Machine.execDiscardImage q s
  | .imageVerified => Sys2Proof.Machine.execImageVerified s
  | .quiesceDone => Sys2Proof.Machine.execQuiesceDone s
  | .quiesceTimeout => Sys2Proof.Machine.execQuiesceTimeout s
  | .applyComplete => Sys2Proof.Machine.execApplyComplete s
  | .aopAdmit p => Sys2Proof.Machine.execAopAdmit p s
  | .aopAdmissionDone p => Sys2Proof.Machine.execAopAdmissionDone p s
  | .gatherBudgetExpire p i1 => Sys2Proof.Machine.execGatherBudgetExpire p i1 s
  | .arrGctlFlush p => Sys2Proof.Machine.execArrGctlFlush p s
  | .operationIssue p => Sys2Proof.Machine.execOperationIssue p s
  | .stagingReadArrive p => Sys2Proof.Machine.execStagingReadArrive p s
  | .loadFirstWrite p => Sys2Proof.Machine.execLoadFirstWrite p s
  | .loadLastWrite p => Sys2Proof.Machine.execLoadLastWrite p s
  | .swap p => Sys2Proof.Machine.execSwap p s
  | .vectorEntry p => Sys2Proof.Machine.execVectorEntry p s
  | .vectorAccumulate p => Sys2Proof.Machine.execVectorAccumulate p s
  | .biasHeld p => Sys2Proof.Machine.execBiasHeld p s
  | .residualRowHeld p => Sys2Proof.Machine.execResidualRowHeld p s
  | .readinessReport p => Sys2Proof.Machine.execReadinessReport p s
  | .arrayHalt p => Sys2Proof.Machine.execArrayHalt p s
  | .haltComplete p => Sys2Proof.Machine.execHaltComplete p s
  | .arrAbort p m v => Sys2Proof.Machine.execArrAbort p m v s
  | .operationComplete p => Sys2Proof.Machine.execOperationComplete p s
  | .cringTailWrite p v => Sys2Proof.Machine.execCringTailWrite p v s
  | .cringCompletionWrite p => Sys2Proof.Machine.execCringCompletionWrite p s
  | .sageTake p => Sys2Proof.Machine.execSageTake p s
  | .sageRowStart p x => Sys2Proof.Machine.execSageRowStart p x s
  | .sageSlotRelease p => Sys2Proof.Machine.execSageSlotRelease p s
  | .sageNop p x => Sys2Proof.Machine.execSageNop p x s
  | .prog p x => Sys2Proof.Machine.execProg p x s
  | .sageFadd p x => Sys2Proof.Machine.execSageFadd p x s
  | .sageFsub p x => Sys2Proof.Machine.execSageFsub p x s
  | .sageFmul p x => Sys2Proof.Machine.execSageFmul p x s
  | .sageFma p x => Sys2Proof.Machine.execSageFma p x s
  | .sageFmax p x => Sys2Proof.Machine.execSageFmax p x s
  | .sageFmin p x => Sys2Proof.Machine.execSageFmin p x s
  | .sageFcmp p x => Sys2Proof.Machine.execSageFcmp p x s
  | .sel p x => Sys2Proof.Machine.execSel p x s
  | .sageIadd p x => Sys2Proof.Machine.execSageIadd p x s
  | .sageShl p x => Sys2Proof.Machine.execSageShl p x s
  | .movi p x => Sys2Proof.Machine.execMovi p x s
  | .movf p x => Sys2Proof.Machine.execMovf p x s
  | .cvt p x => Sys2Proof.Machine.execCvt p x s
  | .lut p x => Sys2Proof.Machine.execLut p x s
  | .rsum p x => Sys2Proof.Machine.execRsum p x s
  | .rmax p x => Sys2Proof.Machine.execRmax p x s
  | .rmin p x => Sys2Proof.Machine.execRmin p x s
  | .rargmax p x => Sys2Proof.Machine.execRargmax p x s
  | .topk p x => Sys2Proof.Machine.execTopk p x s
  | .tbr p x => Sys2Proof.Machine.execTbr p x s
  | .tbw p x => Sys2Proof.Machine.execTbw p x s
  | .jmp p x => Sys2Proof.Machine.execJmp p x s
  | .bnz p x => Sys2Proof.Machine.execBnz p x s
  | .sto p x => Sys2Proof.Machine.execSto p x s
  | .route p x => Sys2Proof.Machine.execRoute p x s
  | .sgeHold p hold => Sys2Proof.Machine.execSgeHold p hold s
  | .sgeTblData p wr => Sys2Proof.Machine.execSgeTblData p wr s
  | .sgeMemoryWrite p off wide v => Sys2Proof.Machine.execSgeMemoryWrite p off wide v s
  | .sgeErrlogClr p => Sys2Proof.Machine.execSgeErrlogClr p s
  | .illop k w => Sys2Proof.Machine.execIllop k w s
  | .cMv k rd rs => Sys2Proof.Machine.execCMv k rd rs s
  | .cAdd k op rd rs => Sys2Proof.Machine.execCAdd k op rd rs s
  | .cLi k rd imm5 => Sys2Proof.Machine.execCLi k rd imm5 s
  | .cAddi k rd imm5 => Sys2Proof.Machine.execCAddi k rd imm5 s
  | .cSlli k op rd imm5 => Sys2Proof.Machine.execCSlli k op rd imm5 s
  | .cBeqz k rs off5 => Sys2Proof.Machine.execCBeqz k rs off5 s
  | .cBnez k rs off5 => Sys2Proof.Machine.execCBnez k rs off5 s
  | .cJ k off10 => Sys2Proof.Machine.execCJ k off10 s
  | .cJr k rs link => Sys2Proof.Machine.execCJr k rs link s
  | .cLd k word rt rb off4 => Sys2Proof.Machine.execCLd k word rt rb off4 s
  | .cSd k word rt rb off4 => Sys2Proof.Machine.execCSd k word rt rb off4 s
  | .cNop k => Sys2Proof.Machine.execCNop k s
  | .repI k => Sys2Proof.Machine.execRepI k s
  | .repN k count => Sys2Proof.Machine.execRepN k count s
  | .repIteration k => Sys2Proof.Machine.execRepIteration k s
  | .add k op rd rs1 rs2 => Sys2Proof.Machine.execAdd k op rd rs1 rs2 s
  | .slt k op rd rs1 rs2 => Sys2Proof.Machine.execSlt k op rd rs1 rs2 s
  | .qadd k sub rd rs1 rs2 => Sys2Proof.Machine.execQadd k sub rd rs1 rs2 s
  | .mul k op rd rs1 rs2 => Sys2Proof.Machine.execMul k op rd rs1 rs2 s
  | .div k op rd rs1 rs2 => Sys2Proof.Machine.execDiv k op rd rs1 rs2 s
  | .alui k op rd rs1 imm => Sys2Proof.Machine.execAlui k op rd rs1 imm s
  | .aluw k op rd rs1 rs2 => Sys2Proof.Machine.execAluw k op rd rs1 rs2 s
  | .load k op rd rs1 imm => Sys2Proof.Machine.execLoad k op rd rs1 imm s
  | .store k op rs2 rs1 imm => Sys2Proof.Machine.execStore k op rs2 rs1 imm s
  | .branch k op rs1 rs2 off => Sys2Proof.Machine.execBranch k op rs1 rs2 off s
  | .jal k rd off => Sys2Proof.Machine.execJal k rd off s
  | .jalr k rd rs1 imm => Sys2Proof.Machine.execJalr k rd rs1 imm s
  | .lui k rd imm => Sys2Proof.Machine.execLui k rd imm s
  | .auipc k rd imm => Sys2Proof.Machine.execAuipc k rd imm s
  | .atomic k op dbl rd rs1 rs2 => Sys2Proof.Machine.execAtomic k op dbl rd rs1 rs2 s
  | .cas k dbl rd rs1 rs2 => Sys2Proof.Machine.execCas k dbl rd rs1 rs2 s
  | .fenceAcq k => Sys2Proof.Machine.execFenceAcq k s
  | .fenceRel k => Sys2Proof.Machine.execFenceRel k s
  | .fenceDev k => Sys2Proof.Machine.execFenceDev k s
  | .fenceSys k => Sys2Proof.Machine.execFenceSys k s
  | .fadd k op dbl f3 rd rs1 rs2 => Sys2Proof.Machine.execFadd k op dbl f3 rd rs1 rs2 s
  | .fcvt k kind f3 rd rs1 => Sys2Proof.Machine.execFcvt k kind f3 rd rs1 s
  | .fma k single sub f3 rd rs1 rs2 rs3 => Sys2Proof.Machine.execFma k single sub f3 rd rs1 rs2 rs3 s
  | .fmac k op ad rs1 rs2 => Sys2Proof.Machine.execFmac k op ad rs1 rs2 s
  | .fmacp k q31 ad rs1 rs2 => Sys2Proof.Machine.execFmacp k q31 ad rs1 rs2 s
  | .fext k q15 rd acc => Sys2Proof.Machine.execFext k q15 rd acc s
  | .mfa k high rd acc => Sys2Proof.Machine.execMfa k high rd acc s
  | .mta k ad rs1 rs2 => Sys2Proof.Machine.execMta k ad rs1 rs2 s
  | .bmov k size rd rs1 rs2 => Sys2Proof.Machine.execBmov k size rd rs1 rs2 s
  | .bfill k size rd rs1 rs2 => Sys2Proof.Machine.execBfill k size rd rs1 rs2 s
  | .bcmp k size rd rs1 rs2 => Sys2Proof.Machine.execBcmp k size rd rs1 rs2 s
  | .bscan k size rd rs1 rs2 => Sys2Proof.Machine.execBscan k size rd rs1 rs2 s
  | .blockElement k => Sys2Proof.Machine.execBlockElement k s
  | .mfc k rd cr => Sys2Proof.Machine.execMfc k rd cr s
  | .mtc k cr rs1 => Sys2Proof.Machine.execMtc k cr rs1 s
  | .mset k mask => Sys2Proof.Machine.execMset k mask s
  | .mclr k mask => Sys2Proof.Machine.execMclr k mask s
  | .iwin k n => Sys2Proof.Machine.execIwin k n s
  | .syscall k => Sys2Proof.Machine.execSyscall k s
  | .brk k => Sys2Proof.Machine.execBrk k s
  | .eret k => Sys2Proof.Machine.execEret k s
  | .wfi k => Sys2Proof.Machine.execWfi k s
  | .wfiComplete k => Sys2Proof.Machine.execWfiComplete k s
  | .iflush k => Sys2Proof.Machine.execIflush k s
  | .mergeBufferDrain k => Sys2Proof.Machine.execMergeBufferDrain k s
  | .coreRelease p j => Sys2Proof.Machine.execCoreRelease p j s
  | .coreReset p j => Sys2Proof.Machine.execCoreReset p j s
  | .vsetvl k rd rs1 sew => Sys2Proof.Machine.execVsetvl k rd rs1 sew s
  | .vload k form hint vd rs1 km => Sys2Proof.Machine.execVload k form hint vd rs1 km s
  | .vstore k form hint vd rs1 km => Sys2Proof.Machine.execVstore k form hint vd rs1 km s
  | .vadd k op vd vs1 src km => Sys2Proof.Machine.execVadd k op vd vs1 src km s
  | .vsll k op vd vs1 src km => Sys2Proof.Machine.execVsll k op vd vs1 src km s
  | .vmin k op vd vs1 src km => Sys2Proof.Machine.execVmin k op vd vs1 src km s
  | .vmul k op vd vs1 src km => Sys2Proof.Machine.execVmul k op vd vs1 src km s
  | .vmacc k vd vs1 src km => Sys2Proof.Machine.execVmacc k vd vs1 src km s
  | .vsadd k op vd vs1 src km => Sys2Proof.Machine.execVsadd k op vd vs1 src km s
  | .vmv k vd src km => Sys2Proof.Machine.execVmv k vd src km s
  | .vfadd k op vd vs1 src km => Sys2Proof.Machine.execVfadd k op vd vs1 src km s
  | .vfsqrt k vd vs1 km => Sys2Proof.Machine.execVfsqrt k vd vs1 km s
  | .vfmin k op vd vs1 src km => Sys2Proof.Machine.execVfmin k op vd vs1 src km s
  | .vfma k vd vs1 src km => Sys2Proof.Machine.execVfma k vd vs1 src km s
  | .vfnms k vd vs1 src km => Sys2Proof.Machine.execVfnms k vd vs1 src km s
  | .vfsgn k vd vs1 src km => Sys2Proof.Machine.execVfsgn k vd vs1 src km s
  | .vfcvt k op vd vs1 km => Sys2Proof.Machine.execVfcvt k op vd vs1 km s
  | .vfwcvt k op vd vs1 km => Sys2Proof.Machine.execVfwcvt k op vd vs1 km s
  | .vfncvt k op vd vs1 km => Sys2Proof.Machine.execVfncvt k op vd vs1 km s
  | .vwmul k unsigned vd vs1 vs2 km => Sys2Proof.Machine.execVwmul k unsigned vd vs1 vs2 km s
  | .vwmacc k vd vs1 vs2 km => Sys2Proof.Machine.execVwmacc k vd vs1 vs2 km s
  | .vwfmul k vd vs1 vs2 km => Sys2Proof.Machine.execVwfmul k vd vs1 vs2 km s
  | .vwfma k vd vs1 vs2 km => Sys2Proof.Machine.execVwfma k vd vs1 vs2 km s
  | .vdot4 k op vd vs1 vs2 km => Sys2Proof.Machine.execVdot4 k op vd vs1 vs2 km s
  | .vdot2 k op vd vs1 vs2 km => Sys2Proof.Machine.execVdot2 k op vd vs1 vs2 km s
  | .vredsum k vd vs1 vs2 km => Sys2Proof.Machine.execVredsum k vd vs1 vs2 km s
  | .vredmin k op vd vs1 vs2 km => Sys2Proof.Machine.execVredmin k op vd vs1 vs2 km s
  | .vredand k op vd vs1 vs2 km => Sys2Proof.Machine.execVredand k op vd vs1 vs2 km s
  | .vfredsum k vd vs1 vs2 km => Sys2Proof.Machine.execVfredsum k vd vs1 vs2 km s
  | .vfredmin k op vd vs1 vs2 km => Sys2Proof.Machine.execVfredmin k op vd vs1 vs2 km s
  | .vfwredsum k vd vs1 vs2 km => Sys2Proof.Machine.execVfwredsum k vd vs1 vs2 km s
  | .vcompress k vd vs1 km => Sys2Proof.Machine.execVcompress k vd vs1 km s
  | .vexpand k vd vs1 km => Sys2Proof.Machine.execVexpand k vd vs1 km s
  | .vperm k vd vs1 vs2 km => Sys2Proof.Machine.execVperm k vd vs1 vs2 km s
  | .vslideup k vd vs1 rs2 km => Sys2Proof.Machine.execVslideup k vd vs1 rs2 km s
  | .vslidedown k vd vs1 rs2 km => Sys2Proof.Machine.execVslidedown k vd vs1 rs2 km s
  | .vmvXv k rd vs1 rs2 => Sys2Proof.Machine.execVmvXv k rd vs1 rs2 s
  | .vpopc k rd ks => Sys2Proof.Machine.execVpopc k rd ks s
  | .vfirst k rd ks => Sys2Proof.Machine.execVfirst k rd ks s
  | .vectorCompare k op kd vs1 src km => Sys2Proof.Machine.execVectorCompare k op kd vs1 src km s
  | .kand k op kd ks1 ks2 => Sys2Proof.Machine.execKand k op kd ks1 ks2 s
  | .interruptAccept k => Sys2Proof.Machine.execInterruptAccept k s
  | .iwinExpire k => Sys2Proof.Machine.execIwinExpire k s
  | .vectorLatchLoad k => Sys2Proof.Machine.execVectorLatchLoad k s
  | .interruptSourceEvent p src => Sys2Proof.Machine.execInterruptSourceEvent p src s
  | .intClaimN k rd => Sys2Proof.Machine.execIntClaimN k rd s
  | .intClaimF k rd => Sys2Proof.Machine.execIntClaimF k rd s
  | .intDone k v => Sys2Proof.Machine.execIntDone k v s
  | .intSwset p v => Sys2Proof.Machine.execIntSwset p v s
  | .intPend p w v arriving => Sys2Proof.Machine.execIntPend p w v arriving s
  | .nearBankRequest p g off m array => Sys2Proof.Machine.execNearBankRequest p g off m array s
  | .mscRequest m addr len kind hints => Sys2Proof.Machine.execMscRequest m addr len kind hints s
  | .wcbRetire st => Sys2Proof.Machine.execWcbRetire st s
  | .selfrefTimeout st => Sys2Proof.Machine.execSelfrefTimeout st s
  | .hbmSample st t => Sys2Proof.Machine.execHbmSample st t s
  | .hbmTempClr st => Sys2Proof.Machine.execHbmTempClr st s
  | .mscFlush st => Sys2Proof.Machine.execMscFlush st s
  | .mscFlushInv st => Sys2Proof.Machine.execMscFlushInv st s
  | .mscCmdComplete st => Sys2Proof.Machine.execMscCmdComplete st s
  | .translationWalk r asid va kind hostErr => Sys2Proof.Machine.execTranslationWalk r asid va kind hostErr s
  | .batchClose p n => Sys2Proof.Machine.execBatchClose p n s
  | .faultBatchWrite n => Sys2Proof.Machine.execFaultBatchWrite n s
  | .invalidate q => Sys2Proof.Machine.execInvalidate q s
  | .translationFence q => Sys2Proof.Machine.execTranslationFence q s
  | .translationFenceDone q => Sys2Proof.Machine.execTranslationFenceDone q s
  | .replay q => Sys2Proof.Machine.execReplay q s
  | .cancel q => Sys2Proof.Machine.execCancel q s
  | .prefetch q hostErr => Sys2Proof.Machine.execPrefetch q hostErr s
  | .prefetchPageDone q hostErr => Sys2Proof.Machine.execPrefetchPageDone q hostErr s
  | .advise q hostErr => Sys2Proof.Machine.execAdvise q hostErr s
  | .xltInvCmd p asid all fence => Sys2Proof.Machine.execXltInvCmd p asid all fence s
  | .xltInvDone p => Sys2Proof.Machine.execXltInvDone p s
  | .doorbellWrite m q v => Sys2Proof.Machine.execDoorbellWrite m q v s
  | .descriptorFetch q hostErr => Sys2Proof.Machine.execDescriptorFetch q hostErr s
  | .completionRecord q => Sys2Proof.Machine.execCompletionRecord q s
  | .notifyTimer q => Sys2Proof.Machine.execNotifyTimer q s
  | .queueEnable q => Sys2Proof.Machine.execQueueEnable q s
  | .queueEnClear q => Sys2Proof.Machine.execQueueEnClear q s
  | .queueReset q => Sys2Proof.Machine.execQueueReset q s
  | .adminNop q => Sys2Proof.Machine.execAdminNop q s
  | .queueDisable q => Sys2Proof.Machine.execQueueDisable q s
  | .copy q => Sys2Proof.Machine.execCopy q s
  | .fill q => Sys2Proof.Machine.execFill q s
  | .dmaPageComplete q hostErr => Sys2Proof.Machine.execDmaPageComplete q hostErr s
  | .msg q hostErr => Sys2Proof.Machine.execMsg q hostErr s
  | .functionLevelReset n f => Sys2Proof.Machine.execFunctionLevelReset n f s
  | .flrComplete n f => Sys2Proof.Machine.execFlrComplete n f s
  | .portReset n kind => Sys2Proof.Machine.execPortReset n kind s
  | .bar0Access n f bar2 off size tlp => Sys2Proof.Machine.execBar0Access n f bar2 off size tlp s
  | .bar4Access n f off len tlp => Sys2Proof.Machine.execBar4Access n f off len tlp s
  | .atomicop n f bar4 off op width args ep => Sys2Proof.Machine.execAtomicop n f bar4 off op width args ep s
  | .configRequest n f req => Sys2Proof.Machine.execConfigRequest n f req s
  | .busMasterEnable n f on => Sys2Proof.Machine.execBusMasterEnable n f on s
  | .outboundReadCompletion r err data => Sys2Proof.Machine.execOutboundReadCompletion r err data s
  | .completionTimeout r => Sys2Proof.Machine.execCompletionTimeout r s
  | .pciOuterrClr n => Sys2Proof.Machine.execPciOuterrClr n s
  | .partnerDetect n => Sys2Proof.Machine.execPartnerDetect n s
  | .linkTrainingDone n failing who => Sys2Proof.Machine.execLinkTrainingDone n failing who s
  | .partnerTimeout n => Sys2Proof.Machine.execPartnerTimeout n s
  | .trainingRetry n => Sys2Proof.Machine.execTrainingRetry n s
  | .trlRetrain n => Sys2Proof.Machine.execTrlRetrain n s
  | .retrainComplete n failing who => Sys2Proof.Machine.execRetrainComplete n failing who s
  | .retrainTimeout n => Sys2Proof.Machine.execRetrainTimeout n s
  | .trlPortEn n on => Sys2Proof.Machine.execTrlPortEn n on s
  | .flitReceive n flit => Sys2Proof.Machine.execFlitReceive n flit s
  | .nak n seq => Sys2Proof.Machine.execNak n seq s
  | .packetInject i1 => Sys2Proof.Machine.execPacketInject i1 s
  | .packetForward n sub => Sys2Proof.Machine.execPacketForward n sub s
  | .rd src => Sys2Proof.Machine.execRd src s
  | .wr src => Sys2Proof.Machine.execWr src s
  | .trellisAtomic src => Sys2Proof.Machine.execTrellisAtomic src s
  | .rdata src => Sys2Proof.Machine.execRdata src s
  | .wack src => Sys2Proof.Machine.execWack src s
  | .arsp src => Sys2Proof.Machine.execArsp src s
  | .nack src => Sys2Proof.Machine.execNack src s
  | .e2eTimeout t => Sys2Proof.Machine.execE2eTimeout t s
  | .put q hostErr => Sys2Proof.Machine.execPut q hostErr s
  | .get q hostErr => Sys2Proof.Machine.execGet q hostErr s
  | .trlDetourSel b => Sys2Proof.Machine.execTrlDetourSel b s
  | .trlLinkerrClr n => Sys2Proof.Machine.execTrlLinkerrClr n s
  | .place q hostErr => Sys2Proof.Machine.execPlace q hostErr s
  | .tokenDispatch p => Sys2Proof.Machine.execTokenDispatch p s
  | .disp src => Sys2Proof.Machine.execDisp src s
  | .expertChunkSubmit p e => Sys2Proof.Machine.execExpertChunkSubmit p e s
  | .chunkWaitExpire p e => Sys2Proof.Machine.execChunkWaitExpire p e s
  | .stageComplete p e => Sys2Proof.Machine.execStageComplete p e s
  | .result src => Sys2Proof.Machine.execResult src s
  | .hold src => Sys2Proof.Machine.execHold src s
  | .passed src => Sys2Proof.Machine.execPassed src s
  | .fail src => Sys2Proof.Machine.execFail src s
  | .holdRetry p c cent => Sys2Proof.Machine.execHoldRetry p c cent s
  | .choiceTimeout p c cent j => Sys2Proof.Machine.execChoiceTimeout p c cent j s
  | .combine p c cent => Sys2Proof.Machine.execCombine p c cent s
  | .coll q hostErr => Sys2Proof.Machine.execColl q hostErr s
  | .cdata src => Sys2Proof.Machine.execCdata src s
  | .cfail src => Sys2Proof.Machine.execCfail src s
  | .collTimeout q => Sys2Proof.Machine.execCollTimeout q s
  | .txuPdata p => Sys2Proof.Machine.execTxuPdata p s
  | .txuCtxCountClr c => Sys2Proof.Machine.execTxuCtxCountClr c s
  | .txuEvlogClr p => Sys2Proof.Machine.execTxuEvlogClr p s
  | .announce dev tag level box => Sys2Proof.Machine.execAnnounce dev tag level box s
  | .join dev seq level max floor parts stamp => Sys2Proof.Machine.execJoin dev seq level max floor parts stamp s
  | .welcome dev tag lodgeSide accept => Sys2Proof.Machine.execWelcome dev tag lodgeSide accept s
  | .heartbeat dev seq answer free stamp => Sys2Proof.Machine.execHeartbeat dev seq answer free stamp s
  | .notice dev seq ev stamp => Sys2Proof.Machine.execNotice dev seq ev stamp s
  | .admitJob dev tag job tenant part floor action array hbm energy sub => Sys2Proof.Machine.execAdmitJob dev tag job tenant part floor action array hbm energy sub s
  | .admitAck dev tag job ok reason => Sys2Proof.Machine.execAdmitAck dev tag job ok reason s
  | .endJob dev tag job => Sys2Proof.Machine.execEndJob dev tag job s
  | .endDrained i1 => Sys2Proof.Machine.execEndDrained i1 s
  | .endAck dev tag job => Sys2Proof.Machine.execEndAck dev tag job s
  | .ckptStep dev tag job step => Sys2Proof.Machine.execCkptStep dev tag job step s
  | .ckptAck dev tag job step ok bytes => Sys2Proof.Machine.execCkptAck dev tag job step ok bytes s
  | .ckptReady i1 => Sys2Proof.Machine.execCkptReady i1 s
  | .ckptWaitExpire i1 => Sys2Proof.Machine.execCkptWaitExpire i1 s
  | .detourWrite dev tag entries => Sys2Proof.Machine.execDetourWrite dev tag entries s
  | .detourSwitch dev tag bank => Sys2Proof.Machine.execDetourSwitch dev tag bank s
  | .detourAck dev tag => Sys2Proof.Machine.execDetourAck dev tag s
  | .meter dev tag chunk data => Sys2Proof.Machine.execMeter dev tag chunk data s
  | .drain dev tag => Sys2Proof.Machine.execDrain dev tag s
  | .undrain dev tag => Sys2Proof.Machine.execUndrain dev tag s
  | .sleepReq dev tag => Sys2Proof.Machine.execSleepReq dev tag s
  | .sleepGrant dev tag grant => Sys2Proof.Machine.execSleepGrant dev tag grant s
  | .mgmtResend seq => Sys2Proof.Machine.execMgmtResend seq s
  | .heartbeatPeriod => Sys2Proof.Machine.execHeartbeatPeriod s
  | .heartbeatMiss dev => Sys2Proof.Machine.execHeartbeatMiss dev s
  | .announcePeriod => Sys2Proof.Machine.execAnnouncePeriod s
  | .memberRemoval dev => Sys2Proof.Machine.execMemberRemoval dev s
  | .jobSubmit q => Sys2Proof.Machine.execJobSubmit q s
  | .jobEnd q => Sys2Proof.Machine.execJobEnd q s
  | .jobCheckpoint q => Sys2Proof.Machine.execJobCheckpoint q s
  | .members q hostErr => Sys2Proof.Machine.execMembers q hostErr s
  | .relinquish q => Sys2Proof.Machine.execRelinquish q s
  | .meterClose q => Sys2Proof.Machine.execMeterClose q s
  | .ldgMeterClose => Sys2Proof.Machine.execLdgMeterClose s
  | .meterInterval => Sys2Proof.Machine.execMeterInterval s
  | .recordSeal => Sys2Proof.Machine.execRecordSeal s
  | .meterRingWrite => Sys2Proof.Machine.execMeterRingWrite s
  | .identity ch hostErr => Sys2Proof.Machine.execIdentity ch hostErr s
  | .quote ch hostErr => Sys2Proof.Machine.execQuote ch hostErr s
  | .challenge ch hostErr => Sys2Proof.Machine.execChallenge ch hostErr s
  | .unlock ch hostErr => Sys2Proof.Machine.execUnlock ch hostErr s
  | .close ch hostErr => Sys2Proof.Machine.execClose ch hostErr s
  | .enrollSite ch hostErr => Sys2Proof.Machine.execEnrollSite ch hostErr s
  | .extend ch hostErr => Sys2Proof.Machine.execExtend ch hostErr s
  | .authorise ch hostErr => Sys2Proof.Machine.execAuthorise ch hostErr s
  | .debugStatus ch hostErr => Sys2Proof.Machine.execDebugStatus ch hostErr s
  | .debugHalt ch hostErr => Sys2Proof.Machine.execDebugHalt ch hostErr s
  | .resumeCore ch hostErr => Sys2Proof.Machine.execResumeCore ch hostErr s
  | .debugStep ch hostErr => Sys2Proof.Machine.execDebugStep ch hostErr s
  | .brkset ch hostErr => Sys2Proof.Machine.execBrkset ch hostErr s
  | .brkclr ch hostErr => Sys2Proof.Machine.execBrkclr ch hostErr s
  | .rdreg ch hostErr => Sys2Proof.Machine.execRdreg ch hostErr s
  | .wrreg ch hostErr => Sys2Proof.Machine.execWrreg ch hostErr s
  | .rdmem ch hostErr => Sys2Proof.Machine.execRdmem ch hostErr s
  | .wrmem ch hostErr => Sys2Proof.Machine.execWrmem ch hostErr s
  | .traceOn ch hostErr => Sys2Proof.Machine.execTraceOn ch hostErr s
  | .traceOff ch hostErr => Sys2Proof.Machine.execTraceOff ch hostErr s
  | .sessionExpire j => Sys2Proof.Machine.execSessionExpire j s
  | .inputInRange => Sys2Proof.Machine.execInputInRange s
  | .inputOutOfRange => Sys2Proof.Machine.execInputOutOfRange s
  | .overcurrentTrip => Sys2Proof.Machine.execOvercurrentTrip s
  | .start upTo recErr lanes => Sys2Proof.Machine.execStart upTo recErr lanes s
  | .startStepTimeout elapsed => Sys2Proof.Machine.execStartStepTimeout elapsed s
  | .startRestart => Sys2Proof.Machine.execStartRestart s
  | .refxoWindow refA refB ring => Sys2Proof.Machine.execRefxoWindow refA refB ring s
  | .perstDeassert n => Sys2Proof.Machine.execPerstDeassert n s
  | .coldReset => Sys2Proof.Machine.execColdReset s
  | .warmReset => Sys2Proof.Machine.execWarmReset s
  | .restart => Sys2Proof.Machine.execRestart s
  | .writeFw slot loc hostErr => Sys2Proof.Machine.execWriteFw slot loc hostErr s
  | .writeImage slot loc hostErr => Sys2Proof.Machine.execWriteImage slot loc hostErr s
  | .erase slot => Sys2Proof.Machine.execErase slot s
  | .slotcmdComplete norErr => Sys2Proof.Machine.execSlotcmdComplete norErr s
  | .pllLockLoss i1 => Sys2Proof.Machine.execPllLockLoss i1 s
  | .pllRelock i1 => Sys2Proof.Machine.execPllRelock i1 s
  | .powerCapPeriod mw rails hbms other => Sys2Proof.Machine.execPowerCapPeriod mw rails hbms other s
  | .dieThermalSample d t => Sys2Proof.Machine.execDieThermalSample d t s
  | .thmDieClr d => Sys2Proof.Machine.execThmDieClr d s
  | .powerState q => Sys2Proof.Machine.execPowerState q s
  | .powerCap q => Sys2Proof.Machine.execPowerCap q s
  | .pwrCtlGo target => Sys2Proof.Machine.execPwrCtlGo target s
  | .idleDelayExpire => Sys2Proof.Machine.execIdleDelayExpire s
  | .powerEntryBegin => Sys2Proof.Machine.execPowerEntryBegin s
  | .powerEntryComplete => Sys2Proof.Machine.execPowerEntryComplete s
  | .wakeEvent ev => Sys2Proof.Machine.execWakeEvent ev s
  | .powerExitComplete lanes => Sys2Proof.Machine.execPowerExitComplete lanes s
  | .containmentOrder => Sys2Proof.Machine.execContainmentOrder s
  | .errorRingWrite n => Sys2Proof.Machine.execErrorRingWrite n s
  | .scrubRead key outcome => Sys2Proof.Machine.execScrubRead key outcome s
  | .errRelease mask => Sys2Proof.Machine.execErrRelease mask s
  | .errInj m v => Sys2Proof.Machine.execErrInj m v s
  | .sampleCapture k c skid => Sys2Proof.Machine.execSampleCapture k c skid s
  | .pmcCollGo c => Sys2Proof.Machine.execPmcCollGo c s
  | .pmcInterval c => Sys2Proof.Machine.execPmcInterval c s
  | .snapshot q hostErr => Sys2Proof.Machine.execSnapshot q hostErr s
  | .inventory data => Sys2Proof.Machine.execInventory data s
  | .sensors data => Sys2Proof.Machine.execSensors data s
  | .regRead data => Sys2Proof.Machine.execRegRead data s
  | .regWrite data => Sys2Proof.Machine.execRegWrite data s
  | .smbPowerState data => Sys2Proof.Machine.execSmbPowerState data s
  | .smbPowerCap data => Sys2Proof.Machine.execSmbPowerCap data s
  | .wake data => Sys2Proof.Machine.execWake data s
  | .smbReset data => Sys2Proof.Machine.execSmbReset data s
  | .orgBufWrite data => Sys2Proof.Machine.execOrgBufWrite data s
  | .orgRun data => Sys2Proof.Machine.execOrgRun data s
  | .orgStatus data => Sys2Proof.Machine.execOrgStatus data s
  | .orgBufRead data => Sys2Proof.Machine.execOrgBufRead data s
  | .memWrite data => Sys2Proof.Machine.execMemWrite data s
  | .memRead data => Sys2Proof.Machine.execMemRead data s
  | .smbResponseRead => Sys2Proof.Machine.execSmbResponseRead s
  | .alertResponse => Sys2Proof.Machine.execAlertResponse s
  | .cableUnmated n => Sys2Proof.Machine.execCableUnmated n s
  | .ckptQuiesceTimeout i1 => Sys2Proof.Machine.execCkptQuiesceTimeout i1 s
  | .timedOutTagRelease t => Sys2Proof.Machine.execTimedOutTagRelease t s
  | .cycleCountOverflow b c => Sys2Proof.Machine.execCycleCountOverflow b c s
  | .bootRecordUpdateDone => Sys2Proof.Machine.execBootRecordUpdateDone s

end Sys2Proof.Machine
end

