-- ==== Sys2Proof/WellFormed.lean ====
section
/-! DEFINITION. Which commands are well formed: what the types of their operands leave open and the spec fixes. A command that is not
well formed is one that no agent can send; `exec` gives it an effect all the same. -/

namespace Sys2Proof

open Sys2Proof.Machine

/-- An instruction word that the decoder can give: shift counts of six bits, and the encoding's operand rules (06 R161-R164, R175;
07 R196, R197). -/
def GInstr.wf : GInstr → Bool
  | .cAdd op _ _ => op != .sll && op != .srl && op != .sra
  | .cSlli op _ _ => op == .sll || op == .srl || op == .sra
  | .alui .slli _ _ imm | .alui .srli _ _ imm | .alui .srai _ _ imm => decide (imm.toNat < 64)
  | .vload form _ vd _ km | .vstore form _ vd _ km =>
    (match form with
     | .segment nf => decide (2 ≤ nf.val)
     | .wholeV => km == 0
     | .wholeK => km == 0 && decide (vd.val < 8)
     | _ => true)
  | .vfadd _ _ _ src _ | .vfmin _ _ _ src _ | .vfma _ _ src _ | .vfnms _ _ src _ | .vfsgn _ _ src _ | .vcmp _ _ _ src _ =>
    (match src with | .i _ => false | _ => true)
  | .kand op _ _ ks2 => (op != .knot && op != .kmov) || ks2 == 0
  | _ => true

/-- The core and the instruction of a command that is one instruction of a core, with the instruction's length in bytes. -/
def Instr.asCore : Instr → Option (CoreIx × GInstr × Nat)
  | .cMv k dst rs => some (k, .cMv dst rs, 2)
  | .cAdd k op dst rs => some (k, .cAdd op dst rs, 2)
  | .cLi k dst imm5 => some (k, .cLi dst imm5, 2)
  | .cAddi k dst imm5 => some (k, .cAddi dst imm5, 2)
  | .cSlli k op dst imm5 => some (k, .cSlli op dst imm5, 2)
  | .cBeqz k rs off5 => some (k, .cBeqz rs off5, 2)
  | .cBnez k rs off5 => some (k, .cBnez rs off5, 2)
  | .cJ k off10 => some (k, .cJ off10, 2)
  | .cJr k rs link => some (k, .cJr rs link, 2)
  | .cLd k word rt rb off4 => some (k, .cLd word rt rb off4, 2)
  | .cSd k word rt rb off4 => some (k, .cSd word rt rb off4, 2)
  | .cNop k => some (k, .cNop, 2)
  | .add k op dst rs1 rs2 => some (k, .add op dst rs1 rs2, 4)
  | .slt k op dst rs1 rs2 => some (k, .slt op dst rs1 rs2, 4)
  | .qadd k sub dst rs1 rs2 => some (k, .qadd sub dst rs1 rs2, 4)
  | .mul k op dst rs1 rs2 => some (k, .mul op dst rs1 rs2, 4)
  | .div k op dst rs1 rs2 => some (k, .div op dst rs1 rs2, 4)
  | .alui k op dst rs1 imm => some (k, .alui op dst rs1 imm, 4)
  | .aluw k op dst rs1 rs2 => some (k, .aluw op dst rs1 rs2, 4)
  | .load k op dst rs1 imm => some (k, .load op dst rs1 imm, 4)
  | .store k op rs2 rs1 imm => some (k, .store op rs2 rs1 imm, 4)
  | .branch k op rs1 rs2 off => some (k, .branch op rs1 rs2 off, 4)
  | .jal k dst off => some (k, .jal dst off, 4)
  | .jalr k dst rs1 imm => some (k, .jalr dst rs1 imm, 4)
  | .lui k dst imm => some (k, .lui dst imm, 4)
  | .auipc k dst imm => some (k, .auipc dst imm, 4)
  | .atomic k op dbl dst rs1 rs2 => some (k, .atomic op dbl dst rs1 rs2, 4)
  | .cas k dbl dst rs1 rs2 => some (k, .cas dbl dst rs1 rs2, 4)
  | .fenceAcq k => some (k, .fenceAcq, 4)
  | .fenceRel k => some (k, .fenceRel, 4)
  | .fenceDev k => some (k, .fenceDev, 4)
  | .fenceSys k => some (k, .fenceSys, 4)
  | .fadd k op dbl f3 dst rs1 rs2 => some (k, .fp op dbl f3 dst rs1 rs2, 4)
  | .fcvt k kind f3 dst rs1 => some (k, .fcvt kind f3 dst rs1, 4)
  | .fma k single sub f3 dst rs1 rs2 rs3 => some (k, .fma single sub f3 dst rs1 rs2 rs3, 4)
  | .fmac k op ad rs1 rs2 => some (k, .fmac op ad rs1 rs2, 4)
  | .fmacp k q31 ad rs1 rs2 => some (k, .fmacp q31 ad rs1 rs2, 4)
  | .fext k q15 dst acc => some (k, .fext q15 dst acc, 4)
  | .mfa k high dst acc => some (k, .mfa high dst acc, 4)
  | .mta k ad rs1 rs2 => some (k, .mta ad rs1 rs2, 4)
  | .bmov k size dst rs1 rs2 => some (k, .block .bmov size dst rs1 rs2, 4)
  | .bfill k size dst rs1 rs2 => some (k, .block .bfill size dst rs1 rs2, 4)
  | .bcmp k size dst rs1 rs2 => some (k, .block .bcmp size dst rs1 rs2, 4)
  | .bscan k size dst rs1 rs2 => some (k, .block .bscan size dst rs1 rs2, 4)
  | .mfc k dst cr => some (k, .mfc dst cr, 4)
  | .mtc k cr rs1 => some (k, .mtc cr rs1, 4)
  | .mset k mask => some (k, .mset mask, 4)
  | .mclr k mask => some (k, .mclr mask, 4)
  | .iwin k n => some (k, .iwin n, 4)
  | .syscall k => some (k, .syscall, 4)
  | .brk k => some (k, .brk, 4)
  | .eret k => some (k, .eret, 4)
  | .wfi k => some (k, .wfi, 4)
  | .iflush k => some (k, .iflush, 4)
  | .vsetvl k dst rs1 sew => some (k, .vsetvl dst rs1 sew, 4)
  | .vload k form hint vd rs1 km => some (k, .vload form hint vd rs1 km, 4)
  | .vstore k form hint vd rs1 km => some (k, .vstore form hint vd rs1 km, 4)
  | .vadd k op vd vs1 src km => some (k, .vadd op vd vs1 src km, 4)
  | .vsll k op vd vs1 src km => some (k, .vsll op vd vs1 src km, 4)
  | .vmin k op vd vs1 src km => some (k, .vmin op vd vs1 src km, 4)
  | .vmul k op vd vs1 src km => some (k, .vmul op vd vs1 src km, 4)
  | .vmacc k vd vs1 src km => some (k, .vmacc vd vs1 src km, 4)
  | .vsadd k op vd vs1 src km => some (k, .vsadd op vd vs1 src km, 4)
  | .vmv k vd src km => some (k, .vmv vd src km, 4)
  | .vfadd k op vd vs1 src km => some (k, .vfadd op vd vs1 src km, 4)
  | .vfsqrt k vd vs1 km => some (k, .vfsqrt vd vs1 km, 4)
  | .vfmin k op vd vs1 src km => some (k, .vfmin op vd vs1 src km, 4)
  | .vfma k vd vs1 src km => some (k, .vfma vd vs1 src km, 4)
  | .vfnms k vd vs1 src km => some (k, .vfnms vd vs1 src km, 4)
  | .vfsgn k vd vs1 src km => some (k, .vfsgn vd vs1 src km, 4)
  | .vfcvt k op vd vs1 km => some (k, .vfcvt op vd vs1 km, 4)
  | .vfwcvt k op vd vs1 km => some (k, .vfwcvt op vd vs1 km, 4)
  | .vfncvt k op vd vs1 km => some (k, .vfncvt op vd vs1 km, 4)
  | .vwmul k unsigned vd vs1 vs2 km => some (k, .vwmul unsigned vd vs1 vs2 km, 4)
  | .vwmacc k vd vs1 vs2 km => some (k, .vwmacc vd vs1 vs2 km, 4)
  | .vwfmul k vd vs1 vs2 km => some (k, .vwfmul vd vs1 vs2 km, 4)
  | .vwfma k vd vs1 vs2 km => some (k, .vwfma vd vs1 vs2 km, 4)
  | .vdot4 k op vd vs1 vs2 km => some (k, .vdot4 op vd vs1 vs2 km, 4)
  | .vdot2 k op vd vs1 vs2 km => some (k, .vdot2 op vd vs1 vs2 km, 4)
  | .vredsum k vd vs1 vs2 km => some (k, .vredsum vd vs1 vs2 km, 4)
  | .vredmin k op vd vs1 vs2 km => some (k, .vredmin op vd vs1 vs2 km, 4)
  | .vredand k op vd vs1 vs2 km => some (k, .vredand op vd vs1 vs2 km, 4)
  | .vfredsum k vd vs1 vs2 km => some (k, .vfredsum vd vs1 vs2 km, 4)
  | .vfredmin k op vd vs1 vs2 km => some (k, .vfredmin op vd vs1 vs2 km, 4)
  | .vfwredsum k vd vs1 vs2 km => some (k, .vfwredsum vd vs1 vs2 km, 4)
  | .vcompress k vd vs1 km => some (k, .vcompress vd vs1 km, 4)
  | .vexpand k vd vs1 km => some (k, .vexpand vd vs1 km, 4)
  | .vperm k vd vs1 vs2 km => some (k, .vperm vd vs1 vs2 km, 4)
  | .vslideup k vd vs1 rs2 km => some (k, .vslideup vd vs1 rs2 km, 4)
  | .vslidedown k vd vs1 rs2 km => some (k, .vslidedown vd vs1 rs2 km, 4)
  | .vmvXv k dst vs1 rs2 => some (k, .vmvXv dst vs1 rs2, 4)
  | .vpopc k dst ks => some (k, .vpopc dst ks, 4)
  | .vfirst k dst ks => some (k, .vfirst dst ks, 4)
  | .vectorCompare k op kd vs1 src km => some (k, .vcmp op kd vs1 src km, 4)
  | .kand k op kd ks1 ks2 => some (k, .kand op kd ks1 ks2, 4)
  | _ => none

/-- A box of 1 to 64 devices a side (15 R403). -/
def Box.wf (b : Box) : Bool := decide (1 ≤ b.xn.val) && decide (1 ≤ b.yn.val) && decide (1 ≤ b.zn.val)
/-- A partner whose torus has 1 to 64 devices a side (13 R350). -/
def PartnerId.wf (w : PartnerId) : Bool := decide (1 ≤ w.xs.val) && decide (1 ≤ w.ys.val) && decide (1 ≤ w.zs.val)
/-- A partition as its fields can report it (15 R402). -/
def PlotPart.wf (x : PlotPart) : Bool := decide (x.dies < 256) && decide (x.gang ≤ 3) && decide (x.job < 2 ^ 64)
/-- Data of an SMBus Block Write (20 R522). -/
def smbData (d : List Byte) : Bool := decide (d.length ≤ 240)

/-- The checks that the operands' types do not make. -/
def Instr.wf (c : Instr) : Bool :=
  match c.asCore with
  | some (_, i, _) => i.wf
  | none =>
    match c with
    | .registerWrite _ off wide _ => off.toNat % (if wide then 8 else 4) == 0
    | .sgeMemoryWrite _ off wide _ => off.toNat % (if wide then 8 else 4) == 0
    | .illop _ w => (match gDecode w.toNat with | .ok _ => false | .error _ => true)
    | .mscRequest _ addr len _ _ => decide (1 ≤ len.val) && decide (addr.toNat % 128 + len.val ≤ 128)
    | .bar4Access _ _ _ len tlp => decide (1 ≤ len.val) && (match tlp.wr with | some d => d.length == len.val | none => true)
    | .outboundReadCompletion _ err data => err == .ok || data.isEmpty
    | .linkTrainingDone _ _ who => who.wf
    | .retrainComplete _ _ who => who.wf
    | .announce _ _ _ box => box.wf
    | .join _ _ _ _ _ parts _ => parts.length == 8 && parts.all PlotPart.wf
    | .admitJob _ _ _ _ _ _ _ _ _ _ sub => (match sub with | some j => j.box.wf | none => true)
    | .detourWrite _ _ entries => entries.length == 64
    | .meter _ _ _ data => decide (data.length ≤ 4096)
    | .powerCapPeriod _ rails hbms _ => rails.length == 8 && hbms.length == 16
    | .inventory d | .sensors d | .regRead d | .regWrite d | .smbPowerState d | .smbPowerCap d | .wake d | .smbReset d
    | .orgBufWrite d | .orgRun d | .orgStatus d | .orgBufRead d | .memWrite d | .memRead d => smbData d
    | _ => true

end Sys2Proof
end

