-- ==== Sys2Proof/Safety.lean ====
section
/-! DEFINITION. The terms in which claims about the module are made: what a command answers, a core that can issue, what an
instruction of a core leaves alone, and memory in canonical form. -/

namespace Sys2Proof

open Sys2Proof.Machine

/-- A command answers a next state, and the state has a property. -/
def Next (c : Instr) (s : State) (p : State → Prop) : Prop := ∃ t, exec c s = .next t ∧ p t

/-- Core `k` can issue the instruction of `len` bytes at its pc: it runs with its clock, is not halted, waits for nothing, is in no repeat and
meets no breakpoint, holds no translation of an instruction begun before, and the fetch succeeds and leaves `s1` (06 R160, R169, R174; 07 R213;
08 R218, R228; 16 R442; 18 R472). -/
def Ready (s : State) (k len : Nat) (s1 : State) : Prop :=
  s.alive k = true ∧ (s.core k).halted = false ∧ (s.core k).parked = false ∧ (s.core k).rpt = false ∧ (s.core k).tran = [] ∧
    s.breakHit k = none ∧
    s.ifetch k (s.core k).pc len (fun s => .ok s none) = .ok s1 none ∧ (s1.core k).run = true

/-- Is an offset that of a performance counter or of its configuration (19 R504)? -/
def CounterAt (off : Nat) : Prop := ∃ b c, c < 8 ∧ (off = (pmcCtrReg b c).addr ∨ off = (pmcEvtReg b c).addr)

/-- Between `s` and `t` nothing differs but core `k`, performance counters, the Lodge's meters, and the stamps of the notices that a budget
then exceeded sends. -/
def CoreOnly (s t : State) (k : Nat) : Prop :=
  t = { s with cores := t.cores, regs := t.regs, ldg := t.ldg, err := { s.err with stamps := t.err.stamps } } ∧
    (∀ j, j ≠ k → t.core j = s.core j) ∧
    ∀ off, ¬ CounterAt off → SMap.get none t.regs off = SMap.get none s.regs off

/-- A stack before and after requests: its MSC and write-combining tags, how far a command of its MSC has come, and its waking from SELFREF
(09 R245-R250, R259). -/
def StackTags (x y : Stack) : Prop :=
  y = { x with msc := y.msc, wcb := y.wcb, passed := y.passed, st := y.st, woken := y.woken } ∧
    ((y.st = x.st ∧ y.woken = x.woken) ∨ (x.st = .selfref ∧ y.st = .ready ∧ y.woken = true))

/-- Between `s` and `t` nothing differs but the tags of caches, counters, meters and draws of free values: nothing that a program sees
(06 R178-R183; 09 R246; 10 R262). -/
def CacheOnly (s t : State) : Prop :=
  t = { s with cores := t.cores, regs := t.regs, ldg := t.ldg, free := t.free, memsys := t.memsys,
               err := { s.err with stamps := t.err.stamps } } ∧
    t.memsys = { s.memsys with hbms := t.memsys.hbms, l2 := t.memsys.l2 } ∧ (∀ j, StackTags (s.stack j) (t.stack j)) ∧
    (∀ j, ∃ d i, t.core j = { s.core j with l1d := d, l1i := i }) ∧
    ∀ off, ¬ CounterAt off → SMap.get none t.regs off = SMap.get none s.regs off

/-- Between `s` and `t` nothing differs but core `k`, and what `CacheOnly` lets an access change. -/
def CoreTags (s t : State) (k : Nat) : Prop := CacheOnly (s.setCore k (t.core k)) t

/-- Core `k` in `t` is `c`, but for its L1 tags. -/
def CoreIs (t : State) (k : Nat) (c : Core) : Prop := ∃ d i, t.core k = { c with l1d := d, l1i := i }

/-- The command is one instruction of core `k`, which leaves core `k` as `c` with its pc at `pc`, and leaves everything else alone:
the answer of an instruction that touches its core alone. -/
def Gives (i : Instr) (s s1 : State) (k : Nat) (c : Core) (pc : Word) : Prop :=
  Next i s (fun t => t.core k = { c with pc := pc, arrived := [], tran := [] } ∧ CoreOnly s1 t k)

/-- An address of HBM or near memory whose stack, if any, is not HOT (09 R237, R256). -/
def InMemory (s : State) (a : Nat) : Prop := (∃ d, placeOf a = .near d) ∨ ∃ j, placeOf a = .hbm j ∧ (s.stack j).st ≠ .hot

/-- Bytes `a … a+n-1` are memory inside one line that core `k` may access untranslated, at Machine level, none known bad (06 R158;
09 R238; 19 R494). -/
def PlainPlace (s : State) (k : Nat) (kd : Acc) (a : Word) (n : Nat) : Prop :=
  (s.core k).priv = 3 ∧ n ≠ 0 ∧ a.toNat % 64 + n ≤ 64 ∧ InMemory s a.toNat ∧ s.accCheck (coreMaster k) kd (linesOf a.toNat n) = none

/-- A scalar access of `n` bytes at `a` that core `k` makes in such memory: aligned where STATUS.MCE asks for it, no answer from outside
awaited, no error injection armed, no error standing in a protected structure (06 R167; 19 R492, R503). -/
def PlainAccess (s : State) (k : Nat) (kd : Acc) (a : Word) (n : Nat) : Prop :=
  PlainPlace s k kd a n ∧ (s.core k).arrived = [] ∧ ((s.core k).mce = true → a.toNat % n = 0) ∧ (s.rget regErrInj).testBit 63 = false ∧
    s.err.upsets = []

/-- The bytes at `a` as core `k` sees them: its own buffered stores over memory (10 R267, R268). -/
def Seen (s : State) (k : Nat) (a n : Nat) : List Byte := (s.core k).seeN a (Mem.readN s.mem a n)

/-- No store that core `k` buffers overlaps the `n` bytes at `a`, but that the youngest of those that do holds them all (10 R267). -/
def Whole (c : Core) (a n : Nat) : Prop :=
  ∀ e, c.sbuf.reverse.find? (fun e => e.overlaps a n) = some e → e.addr ≤ a ∧ a + n ≤ e.addr + e.bytes.length

/-- The line of an address as core `k`'s fetches find it: L1I's bytes of it, which are not coherent with memory; memory's where L1I does not hold
the line, or is bypassed (06 R183, R184). -/
def codeLine (s : State) (k a : Nat) : List Byte :=
  match if (s.core k).det then none else (s.core k).l1i.find 4 (a / 64 % 256) (a / 64) with
  | some w => ((s.core k).l1i.way 4 (a / 64 % 256) w).data
  | none => Mem.readN s.mem (a / 64 * 64) 64

/-- A number that the code bytes at `a` spell. -/
def codeNat (s : State) (k a n : Nat) : Nat := leNat (((codeLine s k a).drop (a % 64)).take n)

/-- Core `k` fetches at `a` from that line: no FAST handler's latch stands there, and the fetch buffer holds no older bytes of it (06 R183;
08 R220). -/
def FetchesLine (s : State) (k a : Nat) : Prop :=
  (s.core k).fb = false ∧ ∀ bs, (s.core k).fbuf = some (a / 64, bs) → bs = codeLine s k a

/-- Between `s` and `t` nothing differs but what `CacheOnly` lets an access change, and core `k`'s fetch buffer. -/
def FetchOnly (s t : State) (k : Nat) : Prop := CacheOnly (s.onCore k (fun c => { c with fbuf := (t.core k).fbuf })) t

/-- Core `k` fetches and decodes what stands at `a`: `d`, and the fetch leaves `s1`. -/
def Fetches (s : State) (k : Nat) (a : Word) (d : GDec) (s1 : State) : Prop := ∀ f, s.fetchDecode k a f = f s1 d

/-- Bytes `a … a+n-1` of a memory are those of another. -/
def SameBytes (m m' : Mem) (a n : Nat) : Prop := ∀ x, a ≤ x → x < a + n → Mem.read m x = Mem.read m' x

/-- Between `s` and `t` core `k` has performed a store of bytes at `a`: those bytes of memory and the list of bad lines; else what `CoreTags`
lets an access change. -/
def StoreOnly (s t : State) (k a : Nat) (bs : List Byte) : Prop :=
  CoreTags { s with mem := Mem.writeN s.mem a bs, err := { s.err with bad := t.err.bad } } t k

/-- The 64 bytes of a frame that is no FAST frame (08 R221). -/
def frameOf (c : Core) (kind code sub : Nat) (pc : Word) (parked : Bool) : List Byte :=
  leBytes 8 pc.toNat ++
    leBytes 8 ((c.rc crSTATUS).toNat % 256 + kind * 2 ^ 8 + (if parked then 2 ^ 10 else 0) + code * 2 ^ 16 + sub * 2 ^ 24) ++
    leBytes 8 (c.rg 1).toNat ++ leBytes 8 (c.rg 2).toNat ++ leBytes 8 (c.rg 3).toNat ++ leBytes 8 (c.rg 4).toNat ++
    leBytes 8 (c.rg 5).toNat ++ leBytes 8 (c.rg 6).toNat

/-- Core `k` has entered Supervisor (`super`) or Machine level: between `s`, where the frame is written, and `t`, the level's stack pointer,
saved pc, cause and address are as given, STATUS holds the level with IE and RPT clear (a FAST entry: FIE clear and FB set), the window
is closed and the pc is `h`; a repeat that was in progress is kept with its form, for the return (06 R174; log entry 104); nothing else changes
(08 R219, R221, R224). -/
def Entered (s t : State) (k : Nat) (super : Bool) (sp pc : Word) (cause : Nat) (addr : Word) (fast : Bool) (h : Word) : Prop :=
  let c := s.core k
  let u := t.core k
  CoreOnly s t k ∧ u = { c with cr := u.cr, pc := h, parked := false, arrived := [], tran := [], reps := u.reps, repN := u.repN } ∧
    (c.rpt = true → u.reps.head? = some (c.pc, c.repN) ∧ u.repN = false) ∧ (c.rpt = false → u.reps = c.reps ∧ u.repN = c.repN) ∧
    u.rc (if super then crSSP else crMSP) = sp ∧ u.rc (if super then crEPC else crMEPC) = pc ∧
    u.rc (if super then crECAUSE else crMCAUSE) = BitVec.ofNat 64 cause ∧ u.rc (if super then crEADDR else crMADDR) = addr ∧
    u.rc crIWCNT = 0 ∧
    (∀ b, b < 64 → (u.rc crSTATUS).getLsbD b = match b with
      | 0 => true
      | 1 => !super
      | 2 => false
      | 3 => if fast then false else (c.rc crSTATUS).getLsbD 3
      | 5 => if fast then true else (c.rc crSTATUS).getLsbD 5
      | 6 => false
      | b => (c.rc crSTATUS).getLsbD b) ∧
    ∀ r, r ≠ crSTATUS → r ≠ crIWCNT → r ≠ (if super then crSSP else crMSP) → r ≠ (if super then crEPC else crMEPC) →
      r ≠ (if super then crECAUSE else crMCAUSE) → r ≠ (if super then crEADDR else crMADDR) → u.rc r = c.rc r

/-- A core's buffers as stores leave them (06 R180): at most one merging-buffer entry for a line, offsets rising inside the line, and
every address a device physical address. -/
def BuffersOk (c : Core) : Prop :=
  (c.mbuf.map MergeEnt.line).Nodup ∧
    (∀ e ∈ c.mbuf, e.bytes.Pairwise (fun x y => x.1 < y.1) ∧ (∀ b ∈ e.bytes, b.1 < 64) ∧ e.line * 64 + 64 ≤ 2 ^ 64) ∧
    ∀ e ∈ c.sbuf, e.addr < 2 ^ 64 ∧ e.addr + e.bytes.length ≤ 2 ^ 64

/-- `s` with core `k`'s buffered stores, memory and the list of bad lines those of `t`. -/
def storesOf (s t : State) (k : Nat) : State :=
  { s.setCore k { s.core k with sbuf := (t.core k).sbuf, mbuf := (t.core k).mbuf } with mem := t.mem, err := { s.err with bad := t.err.bad } }

/-- Between `s` and `t` core `k`'s buffered stores may have moved on, to its merging buffer or to memory: the core sees what it saw, no line has
become bad, and nothing else changes but what `CacheOnly` lets an access change (06 R180; 10 R267-R269). -/
def StoresMoved (s t : State) (k : Nat) : Prop :=
  CacheOnly (storesOf s t k) t ∧
    (∀ x, (t.core k).see x (Mem.read t.mem x) = (s.core k).see x (Mem.read s.mem x)) ∧ ∀ l, t.isBad l = true → s.isBad l = true

/-- Between `s` and `t` the count of core `k`'s interrupt window has fallen, to any count but 0; a window that is not open stays so (08 R224). -/
def Aged (s t : State) (k : Nat) : Prop :=
  ((s.core k).iwcnt = 0 → t = s) ∧
    ((s.core k).iwcnt ≠ 0 → ∃ n, 1 ≤ n ∧ n ≤ (s.core k).iwcnt ∧
      t = { s.setCore k ((s.core k).crPut crIWCNT 9 0 n) with free := t.free })

/-- Core `k` may issue whatever stands at its pc: it runs, is not halted, waits for nothing. -/
def Issues (s : State) (k : Nat) : Prop := s.alive k = true ∧ (s.core k).halted = false ∧ (s.core k).parked = false

/-- Core `k` has its Vexten unit, enabled, and no error stands in its registers (07 R188, R190, R192). -/
def VextenOn (s : State) (k : Nat) : Prop :=
  k < 512 ∧ (s.core k).crBit crVSTAT 0 = true ∧ ∀ u ∈ s.err.upsets, ¬ (u.code = 6 ∧ u.unit = k)

/-- Is element `i` below VL and active under KM (07 R193)? -/
def Active (c : Core) (km : Fin 8) (i : Nat) : Prop := i < c.vl ∧ (km.val = 0 ∨ (c.rk km).getLsbD i = true)

/-- Core `c'` is `c` with elements of V register `r`, or of the pair that begins there, written: `f i` in element `i` of `n` bytes
wherever `act i`; every other byte of the V registers stays; VSTAT.DIRTY is set when an element was written (07 R189, R190, R193). -/
def VWrites (c c' : Core) (r n : Nat) (act : Nat → Prop) (f : Nat → Nat) : Prop :=
  (∀ i, act i → c'.vget r n i = f i % 256 ^ n) ∧
    (∀ x, (∀ i, act i → x < r * 2048 + i * n ∨ r * 2048 + i * n + n ≤ x) → Mem.read c'.v x = Mem.read c.v x) ∧
    ((∃ i, act i) → c' = { c.crPut crVSTAT 1 1 1 with v := c'.v }) ∧ ((∀ i, ¬ act i) → c' = c)

/-- The same for an instruction in floating point, whose elements also raise flags: FPST gains each of them (07 R200). -/
def VFloat (c c' : Core) (r n : Nat) (act : Nat → Prop) (f : Nat → Nat × FpFlags) : Prop :=
  ∃ c1 fl, VWrites c c1 r n act (fun i => (f i).1) ∧ c' = c1.wc crFPST (c1.rc crFPST ||| fl) ∧
    ∀ b, fl.getLsbD b = true ↔ ∃ i, act i ∧ (w64 (f i).2.bits).getLsbD b = true

/-- Between `s` and `t` nothing differs but what posting error records, raising interrupt sources and sending notices change: pending
bits and messages, the error state, the Lodge's messages, ALERT, and the trace buffers of debug sessions, where there are any, with
the copies of their lines in caches (08 R231; 16 R442; 19 R500-R502). -/
def Reported (s t : State) : Prop :=
  t = { s with mem := t.mem, host := t.host, cores := t.cores, memsys := t.memsys, ints := t.ints, ports := t.ports, err := t.err, ldg := t.ldg,
               org := t.org, smb := t.smb } ∧
    (∀ j, ∃ d i, t.core j = { s.core j with l1d := d, l1i := i }) ∧
    (s.org.sess = [] → t.mem = s.mem ∧ t.cores = s.cores ∧ t.memsys = s.memsys ∧ t.org = s.org)

/-! ### Sage engines (05) -/

/-- The 512 words of S register `d` of a row (05 R129). -/
def regOf (r : SageRow) (d : Nat) : List Nat := (List.range 512).map (fun l => SMap.get 0 r.s (d * 512 + l))

/-- Context `x` of die `p`'s engine holds `row` of tile `t`, a row of requester `i`, which is `r`; it is about to issue the word `w`, with
steps left, and the domain is clocked (05 R129, R133, R138; 18 R472). -/
def SageAt (s : State) (p x : Nat) (t : SageTile) (row : SageRow) (i : Nat) (r : Req) (w : Nat) : Prop :=
  s.runs .sage = true ∧ (s.sg p).tile = some t ∧ (t.ctxs[x]?).bind (fun c => c.cur) = some row ∧ s.rowReq p t row.row = some (i, r) ∧
    w = SMap.get 0 (s.sg p).prog row.pc ∧ row.steps < s.rf ⟨.sgeStepLimit, p, 0, 0⟩ 15 0 ∧ row.pc ≤ 1023

/-- The command issues the word `w`: the row of context `x` becomes one that `P` holds of, or ends when E is set, and the tile buffers are
`tb`; nothing else of any engine changes, nor of the module but meters and their notices' stamps, counters and a requester's sticky flags
(05 R134, R151). -/
def SageTo (c : Instr) (s : State) (p x : Nat) (t : SageTile) (w : Nat) (tb : SMap Nat) (P : SageRow → Prop) : Prop :=
  Next c s (fun u => u = { s with sage := u.sage, regs := u.regs, ldg := u.ldg, arr := u.arr, err := { s.err with stamps := u.err.stamps } } ∧
    (∀ d, d ≠ p → u.sg d = s.sg d) ∧ (∀ d, u.ar d = { s.ar d with ops := (u.ar d).ops }) ∧
    ∃ row', P row' ∧ u.sg p = { s.sg p with
      tb := tb,
      tile := some { t with
        ctxs := t.ctxs.set x { nth { next := 0 } t.ctxs x with cur := if siE w then none else some row' },
        ended := if siE w then t.ended + 1 else t.ended } })

/-- `row'` is `row` after an instruction that wrote `vs` to register `d` and went on to the next word. -/
def SageWrote (row row' : SageRow) (d : Nat) (vs : List Nat) : Prop :=
  row' = { row with s := row'.s, pc := row.pc + 1, steps := row.steps + 1 } ∧ regOf row' d = vs ∧
    ∀ k, k ≠ d → regOf row' k = regOf row k

/-! ### Translation (11) -/

/-- Address of the table entry a walk of `va` reads after following `n` table entries from a root, in device memory (11 R287, R292). -/
def walkAt (m : Mem) (root va : Nat) : Nat → Nat
  | 0 => root + 8 * natBits va 55 46
  | n + 1 => natBits (Mem.readLE m (walkAt m root va n) 8) 55 13 * 2 ^ 13 + 8 * natBits va (45 - 10 * n) (36 - 10 * n)

/-- A walk of `va` in context `c`, made for the port's PF0, finds a leaf at `lv` that permits an access of a kind: the entries above are valid
tables in device memory, in no HOT stack, every one may be read, no PREFETCH moves the page, and no error stands in a protected structure
(09 R256; 11 R289-R299). -/
def WalkFinds (s : State) (c : Ctx) (va : Nat) (k : Acc) (part : Option Nat) (lv : Nat) : Prop :=
  let a := walkAt s.mem c.root va
  let e := fun n => Mem.readLE s.mem (a n) 8
  lv ≤ 2 ∧ c.rtype ≠ 2 ∧ (s.rget regErrInj).testBit 63 = false ∧ s.err.upsets = [] ∧
    (∀ n, n ≤ 3 - lv → s.accCheck (fnMaster c.port 0) .rd (linesOf (a n) 8) = none ∧ s.hotAt (a n) = false) ∧
    (∀ n, n < 3 - lv → (e n).testBit 0 = true ∧ (e n).testBit 1 = false ∧ entryOk (e n) (3 - n) = true ∧ leafType (e n) ≠ 2) ∧
    (e (3 - lv)).testBit 0 = true ∧ (e (3 - lv)).testBit 1 = true ∧ entryOk (e (3 - lv)) lv = true ∧
    (leafType (e (3 - lv)) ≠ 3 → leafMoving (e (3 - lv)) = false) ∧ leafPermits (e (3 - lv)) k part = none

/-- Every byte memory is in canonical form: the module's and the hosts'. -/
def MemOk (s : State) : Prop := Mem.wf s.mem = true ∧ Mem.wf s.host = true

end Sys2Proof
end

