-- ==== Sys2Proof/Certificates/Slice0/Obligations.lean ====
section
/-! DEFINITION. The statements about the module: what a step, each family of commands and each kind of state does. -/

open Sys2Proof Sys2Proof.Machine

/-- A step takes the command at the front of the queue and answers what `exec` does with it on the rest; with nothing pending time passes in the
module, as `tick` says (the model's choice, log entries 38, 99 and 107). Every command has an effect in every state: none faults and none is refused. -/
def Obligations.StepRunsCommand : Prop :=
  (∀ (c : Instr) (cs : List Instr) (s : State), s.pending = c :: cs → step s = exec c { s with pending := cs }) ∧
    (∀ s : State, s.pending = [] → step s = .next s.tick) ∧ ∀ (c : Instr) (s : State), ∃ t, exec c s = .next t

/-- After reset (01 R18, R47; 06 R160; 07 R192; 08 R235; 09 R257; 12 R346; 18 R490; 19 R510): memories zero, the factory image, every core held with
its control registers at Reset, no interrupt pending, queues DISABLED and empty, registers at their Reset values, links DOWN. The start-up phase
0, the host memories and every value no rule gives are the model's choice (log entries 4 and 35). -/
def Obligations.StateAfterReset : Prop :=
  let s := State.reset
  (∀ a, Mem.read s.mem a = 0) ∧ MemOk s ∧ s.ptr.parts.length = 8 ∧ s.ldg.parts.length = 8 ∧ s.pending = [] ∧
  -- the factory image
  (∀ d, d < 8 → s.dieOwner d = some 0) ∧ (∀ k, k < 16 → s.stackOwner k = some 0) ∧ (∀ q, q < 4096 → s.queueOwner q = some 0 ∧
    s.qPort q = q / 2048 ∧ s.qFunc q = 0 ∧ s.qAsid q = q / 2048 ∧ s.qst q = .disabled ∧
    let o := q % 2048
    s.qType q = if o = 0 then 4 else if o < 512 then 0 else if o < 1024 then 1 else if o < 1536 then 2 else 3) ∧
  (∀ i, 1 ≤ i → i < 8 → (s.entry i).dies = 0) ∧ (s.entry 0).shares = [64, 64, 64, 64, 64, 64] ∧ (s.entry 0).funcA = 1 ∧ (s.entry 0).funcB = 1 ∧
  s.device = 0 ∧ s.ptr.image.lodge = false ∧ s.ptr.image.floor = 1 ∧ s.ptr.image.arrayDiv = 4 ∧ s.ptr.image.stepEn = 0xF ∧
  s.ptr.image.meter = 2 ^ 30 ∧ s.ptr.source = 0 ∧ s.ptr.phase = .idle ∧ s.ptr.commits = 0 ∧
  (∀ t m, s.ptr.image.access t m = if m = 0x300 ∨ m = 0x380 ∨ (0x500 ≤ m ∧ m ≤ 0x509) then 15 else if m < 0x2A0 then 31 else 0) ∧
  -- cores and interrupt controllers
  (∀ k r, (s.core k).run = false ∧ (s.core k).rg r = 0 ∧ (s.core k).rc crSTATUS = 3 ∧ (s.core k).rc crVSTAT = 1 ∧ (s.core k).rc crVL = 0 ∧
    (s.core k).rc crVTYPE = 0 ∧ (s.core k).rc crLC = 0 ∧ (s.core k).rc crMSP = 0 ∧ (s.core k).rc crSTKLIM = 0 ∧ (s.core k).v = [] ∧
    (s.core k).parked = false ∧ (s.core k).svecL = none) ∧
  (∀ k, k < 512 → (s.core k).pc.toNat = nearOf (k / 64) ∧ (s.core k).det = false) ∧
  (∀ k, 512 ≤ k → k < 521 → (s.core k).det = true) ∧
  (∀ p n, (s.intc p).pend = 0 ∧ (s.intc p).active = 0 ∧ s.rget (intTarget p n) = 0) ∧
  -- queues, arrays, engines, ports
  (∀ q, (s.queue q).flight = [] ∧ (s.queue q).sqTail = 0 ∧ (s.queue q).cqHead = 0 ∧ (s.queue q).phase = true ∧ (s.queue q).en = false) ∧
  (∀ p, (s.ar p).seq = .idle ∧ (s.ar p).ops = [] ∧ (s.ar p).acb = [] ∧ (s.sg p).tile = none ∧ (s.sg p).prog = [] ∧ (s.tdie p).stopped = false) ∧
  (∀ n, (s.tport n).st = .down) ∧ s.err.buf = [] ∧ s.err.contained = 0 ∧ s.err.ce = 0 ∧ s.err.last = 0 ∧
  (∀ r, SMap.get 0 s.org.meas r = 0) ∧ (∀ j, s.sess j = none) ∧ s.org.level = 0 ∧ s.pwr.acc = 0 ∧ s.pwr.u = 0 ∧ s.pwr.crit = false ∧ s.pwr.st = .active ∧
  -- registers
  (∀ r, r ∈ [(⟨.ptrClamplog, 0, 0, 0⟩, 0), (⟨.pwrCap, 0, 0, 0⟩, 6500 + 2 * 2 ^ 16 + 100 * 2 ^ 32), (⟨.pwrCtl, 0, 0, 0⟩, 8), (⟨.pwrIdleDelay, 0, 0, 0⟩, 0x4000),
    (⟨.errScrub, 0, 0, 0⟩, 0x1000 + 2 ^ 16 + 0x100 * 2 ^ 32 + 2 ^ 48), (⟨.errRing, 0, 0, 0⟩, 0xA * 2), (⟨.errRingPtr, 1, 0, 0⟩, 0xFF * 2 ^ 43 + 2 ^ 51),
    (⟨.bootSlotlen, 0, 0, 0⟩, 0x100), (⟨.queSq, 5, 0, 0⟩, 4 * 2), (⟨.queCq, 5, 0, 0⟩, 4 * 2), (⟨.errInj, 0, 0, 0⟩, 2 ^ 52 + 2 ^ 56),
    (⟨.pmcColl, 3, 0, 0⟩, 0x100000 * 2 ^ 8), (⟨.mscCtl, 2, 0, 0⟩, 0xC), (⟨.trlE2e, 0, 0, 0⟩, 0x1000000)] → s.rget r.1 = r.2)

/-- General registers (06 R156): G0 reads zero and discards writes; while STATUS.FB is 1 the fast bank stands for G16 to G31. -/
def Obligations.GeneralRegisters : Prop :=
  ∀ (c : Core) (r q : GReg) (v : Word),
    c.rg 0 = 0 ∧ c.wg 0 v = c ∧ (r.val ≠ 0 → (c.wg r v).rg r = v) ∧ (q ≠ r → (c.wg r v).rg q = c.rg q) ∧
    (c.wg r v).pc = c.pc ∧ (c.wg r v).cr = c.cr ∧ (c.wg r v).acc = c.acc ∧ (c.wg r v).v = c.v ∧ (c.wg r v).k = c.k ∧
    (c.fb = false → (c.wg r v).fast = c.fast) ∧ (c.fb = true → 16 ≤ r.val → (c.wg r v).g = c.g) ∧
    (c.fb = true → r.val < 16 → (c.wg r v).fast = c.fast)

/-- Integer instructions (06 R164, R165): ADD, SLT, MUL, DIV, ALUI, LUI, AUIPC, ALUW and QADD: every operation's result, none of which raises
anything; nothing else of the module changes. -/
def Obligations.IntegerResults : Prop :=
  (∀ (k : CoreIx) (s s1 : State) (rd a b : GReg), Ready s k 4 s1 →
      let c := s1.core k
      let x := c.rg a
      let y := c.rg b
      let res := fun (i : Instr) (v : Word) => Gives i s s1 k (c.wg rd v) (c.pc + 4)
      res (.add k .add rd a b) (x + y) ∧ res (.add k .sub rd a b) (x - y) ∧
      res (.add k .and rd a b) (x &&& y) ∧ res (.add k .or rd a b) (x ||| y) ∧ res (.add k .xor rd a b) (x ^^^ y) ∧
      res (.add k .sll rd a b) (x <<< (y.toNat % 64)) ∧ res (.add k .srl rd a b) (x >>> (y.toNat % 64)) ∧
      res (.add k .sra rd a b) (x.sshiftRight (y.toNat % 64)) ∧
      res (.slt k .slt rd a b) (if x.toInt < y.toInt then 1 else 0) ∧ res (.slt k .sltu rd a b) (if x.toNat < y.toNat then 1 else 0) ∧
      res (.slt k .min rd a b) (if y.toInt < x.toInt then y else x) ∧ res (.slt k .max rd a b) (if x.toInt < y.toInt then y else x) ∧
      res (.slt k .minu rd a b) (if y.toNat < x.toNat then y else x) ∧ res (.slt k .maxu rd a b) (if x.toNat < y.toNat then y else x) ∧
      res (.mul k .mul rd a b) (BitVec.ofInt 64 (x.toInt * y.toInt)) ∧
      res (.mul k .mulh rd a b) (BitVec.ofInt 64 (x.toInt * y.toInt / 2 ^ 64)) ∧
      res (.mul k .mulhu rd a b) (BitVec.ofNat 64 (x.toNat * y.toNat / 2 ^ 64)) ∧
      res (.mul k .mulhsu rd a b) (BitVec.ofInt 64 (x.toInt * (y.toNat : Int) / 2 ^ 64)) ∧
      res (.div k .div rd a b) (if y = 0 then -1 else BitVec.ofInt 64 (x.toInt.tdiv y.toInt)) ∧
      res (.div k .divu rd a b) (if y = 0 then -1 else BitVec.ofNat 64 (x.toNat / y.toNat)) ∧
      res (.div k .rem rd a b) (if y = 0 then x else BitVec.ofInt 64 (x.toInt.tmod y.toInt)) ∧
      res (.div k .remu rd a b) (if y = 0 then x else BitVec.ofNat 64 (x.toNat % y.toNat))) ∧
  (∀ (k : CoreIx) (s s1 : State) (rd a b : GReg) (imm : BitVec 12) (up : BitVec 20), Ready s k 4 s1 →
      let c := s1.core k
      let x := c.rg a
      let i : Word := imm.signExtend 64
      let lo : BitVec 32 := x.setWidth 32
      let hi : BitVec 32 := (c.rg b).setWidth 32
      let res := fun (i : Instr) (v : Word) => Gives i s s1 k (c.wg rd v) (c.pc + 4)
      let word := fun (op : AluwOp) (v : BitVec 32) => res (.aluw k op rd a b) (v.signExtend 64)
      let sum := x.toInt + (c.rg b).toInt
      let diff := x.toInt - (c.rg b).toInt
      let fits := fun (r : Int) => -(2 ^ 63) ≤ r ∧ r < 2 ^ 63
      let sat := c.crBit crFXCTL 2
      res (.alui k .addi rd a imm) (x + i) ∧ res (.alui k .andi rd a imm) (x &&& i) ∧ res (.alui k .ori rd a imm) (x ||| i) ∧
      res (.alui k .xori rd a imm) (x ^^^ i) ∧ res (.alui k .slti rd a imm) (if x.toInt < i.toInt then 1 else 0) ∧
      res (.alui k .sltiu rd a imm) (if x.toNat < i.toNat then 1 else 0) ∧
      (imm.toNat < 64 → res (.alui k .slli rd a imm) (x <<< imm.toNat) ∧ res (.alui k .srli rd a imm) (x >>> imm.toNat) ∧
        res (.alui k .srai rd a imm) (x.sshiftRight imm.toNat)) ∧
      res (.lui k rd up) (up.signExtend 64 * 4096) ∧ res (.auipc k rd up) (c.pc + up.signExtend 64 * 4096) ∧
      word .add (lo + hi) ∧ word .sub (lo - hi) ∧ word .mul (lo * hi) ∧ word .sll (lo <<< (hi.toNat % 32)) ∧
      word .srl (lo >>> (hi.toNat % 32)) ∧ word .sra (lo.sshiftRight (hi.toNat % 32)) ∧
      word .div (if hi = 0 then -1 else BitVec.ofInt 32 (lo.toInt.tdiv hi.toInt)) ∧
      word .divu (if hi = 0 then -1 else BitVec.ofNat 32 (lo.toNat / hi.toNat)) ∧
      word .rem (if hi = 0 then lo else BitVec.ofInt 32 (lo.toInt.tmod hi.toInt)) ∧
      word .remu (if hi = 0 then lo else BitVec.ofNat 32 (lo.toNat % hi.toNat)) ∧
      (fits sum ∨ sat = false → res (.qadd k false rd a b) (BitVec.ofInt 64 sum)) ∧
      (fits diff ∨ sat = false → res (.qadd k true rd a b) (BitVec.ofInt 64 diff)) ∧
      (¬ fits sum → sat = true → Gives (.qadd k false rd a b) s s1 k
        ((c.wg rd (BitVec.ofInt 64 (if sum < 0 then -(2 ^ 63) else 2 ^ 63 - 1))).crPut crFXCTL 3 3 1) (c.pc + 4)) ∧
      (¬ fits diff → sat = true → Gives (.qadd k true rd a b) s s1 k
        ((c.wg rd (BitVec.ofInt 64 (if diff < 0 then -(2 ^ 63) else 2 ^ 63 - 1))).crPut crFXCTL 3 3 1) (c.pc + 4)))

/-- The 16-bit register forms (06 R162), and the targets of branches and jumps (06 R162, R164): halfword offsets from the
instruction's own address, the link register, bit 0 of a register target cleared. -/
def Obligations.CoreShortAndJumps : Prop :=
  ∀ (k : CoreIx) (s s1 : State),
    let c := s1.core k
    (Ready s k 2 s1 → ∀ (a b : GReg) (i : Fin 32) (o : Fin 1024),
      let x := c.rg a
      let y := c.rg b
      let imm : Word := (BitVec.ofNat 5 i.val).signExtend 64
      let res := fun (j : Instr) (v : Word) => Gives j s s1 k (c.wg a v) (c.pc + 2)
      res (.cMv k a b) y ∧ res (.cAdd k .add a b) (x + y) ∧ res (.cAdd k .sub a b) (x - y) ∧ res (.cAdd k .and a b) (x &&& y) ∧
      res (.cAdd k .or a b) (x ||| y) ∧ res (.cAdd k .xor a b) (x ^^^ y) ∧ res (.cLi k a i) imm ∧ res (.cAddi k a i) (x + imm) ∧
      res (.cSlli k .sll a i) (x <<< i.val) ∧ res (.cSlli k .srl a i) (x >>> i.val) ∧
      res (.cSlli k .sra a i) (x.sshiftRight i.val) ∧ Gives (.cNop k) s s1 k c (c.pc + 2) ∧
      Gives (.cBeqz k a i) s s1 k c (if x = 0 then c.pc + imm * 2 else c.pc + 2) ∧
      Gives (.cBnez k a i) s s1 k c (if x = 0 then c.pc + 2 else c.pc + imm * 2) ∧
      Gives (.cJ k o) s s1 k c (c.pc + (BitVec.ofNat 10 o.val).signExtend 64 * 2) ∧
      Gives (.cJr k a false) s s1 k c (x &&& ~~~1) ∧ Gives (.cJr k a true) s s1 k (c.wg 1 (c.pc + 2)) (x &&& ~~~1)) ∧
    (Ready s k 4 s1 → ∀ (rd a b : GReg) (off : BitVec 12) (far : BitVec 20),
      let x := c.rg a
      let y := c.rg b
      let br := fun (op : BrOp) (taken : Prop) => ∀ [Decidable taken],
        Gives (.branch k op a b off) s s1 k c (if taken then c.pc + off.signExtend 64 * 2 else c.pc + 4)
      br .beq (x = y) ∧ br .bne (x ≠ y) ∧ br .blt (x.toInt < y.toInt) ∧ br .bge (y.toInt ≤ x.toInt) ∧
      br .bltu (x.toNat < y.toNat) ∧ br .bgeu (y.toNat ≤ x.toNat) ∧
      Gives (.jal k rd far) s s1 k (c.wg rd (c.pc + 4)) (c.pc + far.signExtend 64 * 2) ∧
      Gives (.jalr k rd a off) s s1 k (c.wg rd (c.pc + 4)) ((x + off.signExtend 64) &&& ~~~1))

/-- Loads (06 R162, R164, R167; 10 R267): every width, sign-extended or zero-extended, of what the core sees at the address; a load that overlaps
a buffered store in part waits until it has moved on; memory as the core sees it and every other register stay. -/
def Obligations.CoreLoads : Prop :=
  ∀ (k : CoreIx) (s s1 : State),
    let c := s1.core k
    let res := fun (i : Instr) (len : Word) (a : Word) (n : Nat) (r : GReg) (v : Nat → Word) =>
      let c' := { c.wg r (v (leNat (Seen s1 k a.toNat n))) with pc := c.pc + len, arrived := [], tran := [] }
      PlainAccess s1 k .rd a n → BuffersOk c →
        Next i s (fun t => StoresMoved (s1.setCore k c') t k ∧ (Whole c a.toNat n → CacheOnly (s1.setCore k c') t))
    (Ready s k 4 s1 → ∀ (rd b : GReg) (imm : BitVec 12),
      let a := c.rg b + imm.signExtend 64
      res (.load k .lb rd b imm) 4 a 1 rd (fun x => (BitVec.ofNat 8 x).signExtend 64) ∧
      res (.load k .lh rd b imm) 4 a 2 rd (fun x => (BitVec.ofNat 16 x).signExtend 64) ∧
      res (.load k .lw rd b imm) 4 a 4 rd (fun x => (BitVec.ofNat 32 x).signExtend 64) ∧
      res (.load k .ld rd b imm) 4 a 8 rd (fun x => BitVec.ofNat 64 x) ∧
      res (.load k .lbu rd b imm) 4 a 1 rd (fun x => BitVec.ofNat 64 x) ∧
      res (.load k .lhu rd b imm) 4 a 2 rd (fun x => BitVec.ofNat 64 x) ∧
      res (.load k .lwu rd b imm) 4 a 4 rd (fun x => BitVec.ofNat 64 x)) ∧
    (Ready s k 2 s1 → ∀ (rt rb : Fin 8) (o : Fin 16),
      let r : GReg := ⟨8 + rt.val, by omega⟩
      let b : GReg := ⟨8 + rb.val, by omega⟩
      res (.cLd k false rt rb o) 2 (c.rg b + BitVec.ofNat 64 (o.val * 8)) 8 r (fun x => BitVec.ofNat 64 x) ∧
      res (.cLd k true rt rb o) 2 (c.rg b + BitVec.ofNat 64 (o.val * 4)) 4 r (fun x => (BitVec.ofNat 32 x).signExtend 64))

/-- Stores (06 R162, R164, R180, R184; 09 R247; 10 R267): the bytes enter the core's store buffer, with their hint, and memory stays. With all 8
entries held the oldest store moves on first: to the merging buffer, or in deterministic mode to memory; with no room for it the store waits. -/
def Obligations.CoreStores : Prop :=
  ∀ (k : CoreIx) (s s1 : State),
    let c := s1.core k
    let res := fun (i : Instr) (len : Word) (a : Word) (n : Nat) (v : Word) =>
      let new : StoreEnt := ⟨a.toNat, leBytes n v.toNat, s1.hintAt (coreMaster k) a.toNat⟩
      let after := fun (c' : Core) => { c' with sbuf := c'.sbuf ++ [new], pc := c.pc + len, arrived := [], tran := [] }
      PlainAccess s1 k .wr a n →
        (c.sbuf.length < 8 → Next i s (fun t => CacheOnly (s1.setCore k (after c)) t)) ∧
        (8 ≤ c.sbuf.length → (c.det = true → c.mbuf = [] → ∀ e es, c.sbuf = e :: es → e.addr < 2 ^ 64 → Next i s (fun t => CacheOnly
            { s1.setCore k (after { c with sbuf := es }) with mem := Mem.writeN s1.mem e.addr e.bytes, err := { s1.err with bad := t.err.bad } } t)) ∧
          (c.det = false → (∀ c1, c.popStore = some c1 → Next i s (fun t => CacheOnly (s1.setCore k (after c1)) t)) ∧
            (c.popStore = none → exec i s = .next s1)))
    (Ready s k 4 s1 → ∀ (r b : GReg) (imm : BitVec 12),
      let a := c.rg b + imm.signExtend 64
      res (.store k .sb r b imm) 4 a 1 (c.rg r) ∧ res (.store k .sh r b imm) 4 a 2 (c.rg r) ∧
      res (.store k .sw r b imm) 4 a 4 (c.rg r) ∧ res (.store k .sd r b imm) 4 a 8 (c.rg r)) ∧
    (Ready s k 2 s1 → ∀ (rt rb : Fin 8) (o : Fin 16),
      let r : GReg := ⟨8 + rt.val, by omega⟩
      let b : GReg := ⟨8 + rb.val, by omega⟩
      res (.cSd k false rt rb o) 2 (c.rg b + BitVec.ofNat 64 (o.val * 8)) 8 (c.rg r) ∧
      res (.cSd k true rt rb o) 2 (c.rg b + BitVec.ofNat 64 (o.val * 4)) 4 (c.rg r))

/-- Atomics (06 R164, R167; 10 R261): buffered stores to the line go first; rd takes the old value, memory the new one; CAS stores only where memory
equals rd.
Where no rule decides, the clauses follow the model's choices of log entry 5. -/
def Obligations.CoreAtomics : Prop :=
  ∀ (k : CoreIx) (s s1 : State) (rd a b : GReg), Ready s k 4 s1 → BuffersOk (s1.core k) →
    let c := s1.core k
    let at_ := c.rg a
    let done := fun (i : Instr) (v : Word) (n : Nat) (new : Option Nat) => Next i s (fun t => ∃ s2, StoresMoved s1 s2 k ∧
      let after := s2.setCore k { (s2.core k).wg rd v with pc := c.pc + 4, arrived := [], tran := [] }
      match new with
      | some x => CacheOnly { after with mem := Mem.writeN s2.mem at_.toNat (leBytes n x), err := { s2.err with bad := t.err.bad } } t
      | none => CacheOnly after t)
    (PlainAccess s1 k .at at_ 8 → at_.toNat % 8 = 0 →
      let x : Word := BitVec.ofNat 64 (leNat (Seen s1 k at_.toNat 8))
      let y := c.rg b
      let res := fun (op : AtomOp) (v : Word) => done (.atomic k op true rd a b) x 8 (some v.toNat)
      res .swap y ∧ res .add (x + y) ∧ res .and (x &&& y) ∧ res .or (x ||| y) ∧ res .xor (x ^^^ y) ∧
      res .min (if y.toInt < x.toInt then y else x) ∧ res .max (if x.toInt < y.toInt then y else x) ∧
      res .minu (if y.toNat < x.toNat then y else x) ∧ res .maxu (if x.toNat < y.toNat then y else x) ∧
      done (.cas k true rd a b) x 8 (if x = c.rg rd then some y.toNat else none)) ∧
    (PlainAccess s1 k .at at_ 4 → at_.toNat % 4 = 0 →
      let x : BitVec 32 := BitVec.ofNat 32 (leNat (Seen s1 k at_.toNat 4))
      let y : BitVec 32 := (c.rg b).setWidth 32
      let res := fun (op : AtomOp) (v : BitVec 32) => done (.atomic k op false rd a b) (x.signExtend 64) 4 (some v.toNat)
      res .swap y ∧ res .add (x + y) ∧ res .and (x &&& y) ∧ res .or (x ||| y) ∧ res .xor (x ^^^ y) ∧
      res .min (if y.toInt < x.toInt then y else x) ∧ res .max (if x.toInt < y.toInt then y else x) ∧
      res .minu (if y.toNat < x.toNat then y else x) ∧ res .maxu (if x.toNat < y.toNat then y else x) ∧
      done (.cas k false rd a b) (x.signExtend 64) 4 (if x = (c.rg rd).setWidth 32 then some y.toNat else none))

/-- Vexten integer instructions (07 R193, R194, R199, R201, R202): every active element's result, from operands read before any is
written; other elements stay. -/
def Obligations.VectorIntegerResults : Prop :=
  ∀ (k : CoreIx) (s s1 : State) (vd a b : Fin 32) (src : VSrc) (km : Fin 8), Ready s k 4 s1 → VextenOn s1 k →
    let c := s1.core k
    let n := 2 ^ c.crBits crVTYPE 1 0
    let w := 8 * n
    let act := Active c km
    let x := fun i => c.vget a.val n i
    let y := fun i => match src with
      | .v r => c.vget r.val n i
      | .x r => (c.rg r).toNat % 2 ^ w
      | .i m => if m.val < 16 then m.val else 2 ^ w - 32 + m.val
    let d := fun i => c.vget vd.val n i
    let sx := fun i => toSigned w (x i)
    let sy := fun i => toSigned w (y i)
    let cnt := fun i => (match src with | .i m => m.val | _ => y i) % w
    let res := fun (j : Instr) (f : Nat → Nat) => ∃ c', VWrites c c' vd.val n act f ∧ Gives j s s1 k c' (c.pc + 4)
    let sat := fun (op : VSatOp) (f : Nat → Int) =>
      let big := fun i => f i < -((2 ^ (w - 1) : Nat) : Int) ∨ ((2 ^ (w - 1) : Nat) : Int) ≤ f i
      ∃ c', VWrites c c' vd.val n act (fun i => ofSigned w
          (if f i < -((2 ^ (w - 1) : Nat) : Int) then -((2 ^ (w - 1) : Nat) : Int)
           else if ((2 ^ (w - 1) : Nat) : Int) ≤ f i then ((2 ^ (w - 1) : Nat) : Int) - 1 else f i)) ∧
        ((∃ i, act i ∧ big i) → Gives (.vsadd k op vd a src km) s s1 k (c'.crPut crFXCTL 3 3 1) (c.pc + 4)) ∧
        ((∀ i, act i → ¬ big i) → Gives (.vsadd k op vd a src km) s s1 k c' (c.pc + 4))
    let wide := fun (j : Instr) (f : Nat → Nat) => ∃ c', VWrites c c' vd.val (2 * n) act f ∧ Gives j s s1 k c' (c.pc + 4)
    let dot := fun (op : VDot4Op) (f g : Nat → Nat → Int) =>
      c.crBits crVTYPE 1 0 = 2 → ∃ c', VWrites c c' vd.val 4 act (fun i => ofSigned 32 ((d i : Int) + f i 0 * g i 0 + f i 1 * g i 1 +
        f i 2 * g i 2 + f i 3 * g i 3)) ∧ Gives (.vdot4 k op vd a b km) s s1 k c' (c.pc + 4)
    let byteA := fun i j => x i / 2 ^ (8 * j) % 256
    let byteB := fun i j => c.vget b.val n i / 2 ^ (8 * j) % 256
    res (.vadd k .vadd vd a src km) (fun i => x i + y i) ∧ res (.vadd k .vsub vd a src km) (fun i => x i + 2 ^ w - y i) ∧
    res (.vadd k .vand vd a src km) (fun i => x i &&& y i) ∧ res (.vadd k .vor vd a src km) (fun i => x i ||| y i) ∧
    res (.vadd k .vxor vd a src km) (fun i => x i ^^^ y i) ∧ res (.vsll k .vsll vd a src km) (fun i => x i * 2 ^ cnt i) ∧
    res (.vsll k .vsrl vd a src km) (fun i => x i / 2 ^ cnt i) ∧
    res (.vsll k .vsra vd a src km) (fun i => ofSigned w (sx i / ((2 ^ cnt i : Nat) : Int))) ∧
    res (.vmin k .vmin vd a src km) (fun i => if sy i < sx i then y i else x i) ∧
    res (.vmin k .vmax vd a src km) (fun i => if sx i < sy i then y i else x i) ∧
    res (.vmin k .vminu vd a src km) (fun i => if y i < x i then y i else x i) ∧
    res (.vmin k .vmaxu vd a src km) (fun i => if x i < y i then y i else x i) ∧
    res (.vmul k .vmul vd a src km) (fun i => x i * y i) ∧ res (.vmul k .vmulhu vd a src km) (fun i => x i * y i / 2 ^ w) ∧
    res (.vmul k .vmulh vd a src km) (fun i => ofSigned w (sx i * sy i / ((2 ^ w : Nat) : Int))) ∧
    res (.vmacc k vd a src km) (fun i => d i + x i * y i) ∧ res (.vmv k vd src km) y ∧
    sat .vsadd (fun i => sx i + sy i) ∧ sat .vssub (fun i => sx i - sy i) ∧
    (c.crBits crVTYPE 1 0 ≠ 3 → vd.val % 2 = 0 →
      let e := fun i => c.vget b.val n i
      wide (.vwmul k true vd a b km) (fun i => x i * e i) ∧
      wide (.vwmul k false vd a b km) (fun i => ofSigned (2 * w) (sx i * toSigned w (e i))) ∧
      wide (.vwmacc k vd a b km) (fun i => ofSigned (2 * w) ((c.vget vd.val (2 * n) i : Int) + sx i * toSigned w (e i)))) ∧
    dot .i8 (fun i j => toSigned 8 (byteA i j)) (fun i j => toSigned 8 (byteB i j)) ∧
    dot .u8 (fun i j => byteA i j) (fun i j => byteB i j) ∧ dot .su8 (fun i j => toSigned 8 (byteA i j)) (fun i j => byteB i j)

/-- Vexten floating point (07 R200, R201, R202): the operations of 06 R166 on every active element, the flags of all of them set.
The sign that VFSGN's VX form works on is the model's choice (log entry 6). -/
def Obligations.VectorFloatResults : Prop :=
  ∀ (k : CoreIx) (s s1 : State) (vd a b : Fin 32) (km : Fin 8) (kind : Fin 3) (src : VSrc), Ready s k 4 s1 → VextenOn s1 k →
    let c := s1.core k
    let sew := c.crBits crVTYPE 1 0
    let n := 2 ^ sew
    let act := Active c km
    let rm := c.frm
    let at_ := fun (r : Fin 32) (n i : Nat) => c.vget r.val n i
    let res := fun (j : Instr) (n : Nat) (f : Nat → Nat × FpFlags) => ∃ c', VFloat c c' vd.val n act f ∧ Gives j s s1 k c' (c.pc + 4)
    ((∀ m, src ≠ .i m) → sew = 2 ∨ sew = 3 →
      let fm := if sew = 3 then fp64 else fp32
      let x := at_ a n
      let y := fun i => match src with | .x r => (c.rg r).toNat % 256 ^ n | .v r => at_ r n i | .i _ => 0
      let d := at_ vd n
      res (.vfadd k .vfadd vd a src km) n (fun i => fpAdd fm rm (x i) (y i)) ∧
      res (.vfadd k .vfsub vd a src km) n (fun i => fpSub fm rm (x i) (y i)) ∧
      res (.vfadd k .vfmul vd a src km) n (fun i => fpMul fm rm (x i) (y i)) ∧
      res (.vfadd k .vfdiv vd a src km) n (fun i => fpDiv fm rm (x i) (y i)) ∧
      res (.vfsqrt k vd a km) n (fun i => fpSqrt fm rm (x i)) ∧
      res (.vfmin k .vfmin vd a src km) n (fun i => fpMinMax fm false (x i) (y i)) ∧
      res (.vfmin k .vfmax vd a src km) n (fun i => fpMinMax fm true (x i) (y i)) ∧
      res (.vfma k vd a src km) n (fun i => fpFmaC fm rm (x i) (y i) (d i)) ∧
      res (.vfnms k vd a src km) n (fun i => fpFmaC fm rm (fpNegBits fm (x i)) (y i) (d i)) ∧
      res (.vfsgn k vd a (.v b) km) n (fun i => (fpSignInj fm 0 (x i) (at_ b n i), {})) ∧
      res (.vfsgn k vd a (.x ⟨kind.val, by omega⟩) km) n (fun i => (fpSignInj fm kind.val (x i) (x i), {})) ∧
      res (.vfcvt k .fFromI vd a km) n (fun i => intToFp fm rm (toSigned (8 * n) (x i))) ∧
      res (.vfcvt k .fFromU vd a km) n (fun i => intToFp fm rm (x i)) ∧
      res (.vfcvt k .iFromF vd a km) n (fun i => fpToInt fm true (8 * n) rm (x i)) ∧
      res (.vfcvt k .uFromF vd a km) n (fun i => fpToInt fm false (8 * n) rm (x i))) ∧
    (vd.val % 2 = 0 → (sew = 2 → res (.vfwcvt k .f32 vd a km) 8 (fun i => fpConvert fp32 fp64 rm (at_ a 4 i))) ∧
      (sew = 1 → res (.vfwcvt k .bf16 vd a km) 4 (fun i => fpConvert bf16 fp32 rm (at_ a 2 i)) ∧
        res (.vfwcvt k .f16 vd a km) 4 (fun i => fpConvert fp16 fp32 rm (at_ a 2 i))) ∧
      (sew = 2 →
        let nan := fun i => anySNaN fp32 [at_ a 4 i, at_ b 4 i]
        let prod := fun i => valMul (fpDecode fp32 (at_ a 4 i)) (fpDecode fp32 (at_ b 4 i))
        let fused := fun i => valFma rm (fpDecode fp32 (at_ a 4 i)) (fpDecode fp32 (at_ b 4 i)) (fpDecode fp64 (at_ vd 8 i))
        let once := fun (v : FpVal) (nv : Bool) => ((fpEncode fp64 rm v).1, { (fpEncode fp64 rm v).2 with nv := nv })
        res (.vwfmul k vd a b km) 8 (fun i => once (prod i).1 ((prod i).2 || nan i)) ∧
        res (.vwfma k vd a b km) 8 (fun i => once (fused i).1 ((fused i).2 || nan i || fpIsSNaN fp64 (at_ vd 8 i))))) ∧
    (a.val % 2 = 0 → (sew = 3 → res (.vfncvt k .f32 vd a km) 4 (fun i => fpConvert fp64 fp32 rm (at_ a 8 i))) ∧
      (sew = 2 → res (.vfncvt k .bf16 vd a km) 2 (fun i => fpConvert fp32 bf16 rm (at_ a 4 i)) ∧
        res (.vfncvt k .f16 vd a km) 2 (fun i => fpConvert fp32 fp16 rm (at_ a 4 i)))) ∧
    (sew = 2 → res (.vdot2 k .bf16 vd a b km) 4 (fun i => vDot2Elem bf16 fp32 rm (at_ vd 4 i) (at_ a 4 i) (at_ b 4 i)) ∧
      res (.vdot2 k .f16 vd a b km) 4 (fun i => vDot2Elem fp16 fp32 rm (at_ vd 4 i) (at_ a 4 i) (at_ b 4 i))) ∧
    (sew = 3 → res (.vdot2 k .f32 vd a b km) 8 (fun i => vDot2Elem fp32 fp64 rm (at_ vd 8 i) (at_ a 8 i) (at_ b 8 i)))

/-- Vexten reductions (07 R195, R203): an integer reduction combines Vs2[0] with every active element; a floating-point one follows the
fixed pairwise tree and sets the flags of every combination; only Vd[0] is written, and with VL = 0 nothing. -/
def Obligations.VectorReductions : Prop :=
  ∀ (k : CoreIx) (s s1 : State) (vd a b : Fin 32) (km : Fin 8), Ready s k 4 s1 → VextenOn s1 k →
    let c := s1.core k
    let sew := c.crBits crVTYPE 1 0
    let n := 2 ^ sew
    let w := 8 * n
    let sg := toSigned w
    let leaves := (List.range (2048 / n)).map (fun i => if i ∈ c.actives km then some (c.vget a.val n i) else none)
    let xs := leaves.filterMap id
    let int := fun (j : Instr) (op : Nat → Nat → Nat) =>
      (c.vl = 0 → Gives j s s1 k c (c.pc + 4)) ∧
      (c.vl ≠ 0 → ∃ c', VWrites c c' vd.val n (· = 0) (fun _ => xs.foldl op (c.vget b.val n 0)) ∧ Gives j s s1 k c' (c.pc + 4))
    let fp := fun (j : Instr) (n : Nat) (widen : Nat → Nat × FpFlags) (op : Nat → Nat → Nat × FpFlags) =>
      let op' := fun (x y : Nat × FpFlags) => ((op x.1 y.1).1, (x.2.or y.2).or (op x.1 y.1).2)
      let r := match vTreeReduce op' (11 - sew) (leaves.map (Option.map widen)) with
        | some t => op' (c.vget b.val n 0, {}) t
        | none => (c.vget b.val n 0, {})
      (c.vl = 0 → Gives j s s1 k c (c.pc + 4)) ∧
      (c.vl ≠ 0 → ∃ c', VWrites c c' vd.val n (· = 0) (fun _ => r.1) ∧ Gives j s s1 k (c'.flags r.2) (c.pc + 4))
    let fm := if sew = 3 then fp64 else fp32
    int (.vredsum k vd a b km) (fun x y => (x + y) % 2 ^ w) ∧
    int (.vredmin k .min vd a b km) (fun x y => if sg y < sg x then y else x) ∧
    int (.vredmin k .max vd a b km) (fun x y => if sg x < sg y then y else x) ∧
    int (.vredmin k .minu vd a b km) (fun x y => if y < x then y else x) ∧
    int (.vredmin k .maxu vd a b km) (fun x y => if x < y then y else x) ∧
    int (.vredand k .and vd a b km) (· &&& ·) ∧ int (.vredand k .or vd a b km) (· ||| ·) ∧ int (.vredand k .xor vd a b km) (· ^^^ ·) ∧
    (sew = 2 ∨ sew = 3 → fp (.vfredsum k vd a b km) n (fun x => (x, {})) (fpAdd fm c.frm) ∧
      fp (.vfredmin k .vfmin vd a b km) n (fun x => (x, {})) (fpMinMax fm false) ∧
      fp (.vfredmin k .vfmax vd a b km) n (fun x => (x, {})) (fpMinMax fm true)) ∧
    (sew = 2 → fp (.vfwredsum k vd a b km) 8 (fun x => fpConvert fp32 fp64 c.frm x) (fpAdd fp64 c.frm))

/-- Vexten permutes, masks, compares and VSETVL (07 R190, R191, R204, R205, R206). -/
def Obligations.VectorPermutesAndMasks : Prop :=
  ∀ (k : CoreIx) (s s1 : State) (rd g : GReg) (vd a b : Fin 32) (kd ka kb km : Fin 8) (src : VSrc) (z : Fin 4),
    Ready s k 4 s1 → VextenOn s1 k →
    let c := s1.core k
    let sew := c.crBits crVTYPE 1 0
    let n := 2 ^ sew
    let max := 2048 / n
    let act := Active c km
    let x := fun i => c.vget a.val n i
    let off := (c.rg g).toNat
    let res := fun (j : Instr) (act : Nat → Prop) (f : Nat → Nat) => ∃ c', VWrites c c' vd.val n act f ∧ Gives j s s1 k c' (c.pc + 4)
    let bit := fun (r : Fin 8) (i : Nat) => (c.rk r).getLsbD i
    let mask := fun (c' : Core) (r : Fin 8) (m : BitVec 2048) => ({ c' with k := SMap.set 0 c.k r.val m }).crPut crVSTAT 1 1 1
    let y := fun i => match src with | .x r => (c.rg r).toNat % 2 ^ (8 * n) | .v r => c.vget r.val n i | .i _ => 0
    let cmp := fun (op : VCmpOp) (rel : Nat → Bool × FpFlags) => (∀ m, src ≠ .i m) →
      (∀ i, ¬ act i) → Gives (.vectorCompare k op kd a src km) s s1 k (c.flags {}) (c.pc + 4)
    let cmp' := fun (op : VCmpOp) (rel : Nat → Bool × FpFlags) => (∀ m, src ≠ .i m) → (∃ i, act i) →
      ∃ m fl, Gives (.vectorCompare k op kd a src km) s s1 k ((mask c kd m).wc crFPST (c.rc crFPST ||| fl)) (c.pc + 4) ∧
        (∀ i, act i → i < 2048 → m.getLsbD i = (rel i).1) ∧ (∀ i, ¬ act i → m.getLsbD i = bit kd i) ∧
        ∀ j, fl.getLsbD j = true ↔ ∃ i, act i ∧ (w64 (rel i).2.bits).getLsbD j = true
    let both := fun (op : VCmpOp) (rel : Nat → Bool × FpFlags) => cmp op rel ∧ cmp' op rel
    let set := fun (op : KOp) (m : BitVec 2048) => Gives (.kand k op kd ka kb) s s1 k (mask c kd m) (c.pc + 4)
    let vl := min (c.rg g).toNat (2048 / 2 ^ z.val)
    let sg := toSigned (8 * n)
    let fm := if sew = 3 then fp64 else fp32
    (km.val ≠ 0 →
      res (.vcompress k vd a km) (· < (c.actives km).length) (fun j => x ((c.actives km).getD j 0)) ∧
      res (.vexpand k vd a km) act (fun i => x ((List.range i).filter (c.active km)).length)) ∧
    res (.vperm k vd a b km) act (fun i => if c.vget b.val n i < max then x (c.vget b.val n i) else 0) ∧
    res (.vslideup k vd a g km) (fun i => act i ∧ off ≤ i) (fun i => x (i - off)) ∧
    res (.vslidedown k vd a g km) act (fun i => if i + off < max then x (i + off) else 0) ∧
    Gives (.vmvXv k rd a g) s s1 k (c.wg rd (if off < max then BitVec.ofInt 64 (sg (x off)) else 0)) (c.pc + 4) ∧
    Gives (.vpopc k rd ka) s s1 k (c.wg rd (BitVec.ofNat 64 ((List.range c.vl).filter (bit ka)).length)) (c.pc + 4) ∧
    (∀ i, i < c.vl → bit ka i = true → (∀ j, j < i → bit ka j = false) →
      Gives (.vfirst k rd ka) s s1 k (c.wg rd (BitVec.ofNat 64 i)) (c.pc + 4)) ∧
    ((∀ j, j < c.vl → bit ka j = false) → Gives (.vfirst k rd ka) s s1 k (c.wg rd (-1)) (c.pc + 4)) ∧
    both .eq (fun i => (decide (x i = y i), {})) ∧ both .ne (fun i => (decide (x i ≠ y i), {})) ∧
    both .lt (fun i => (decide (sg (x i) < sg (y i)), {})) ∧ both .ltu (fun i => (decide (x i < y i), {})) ∧
    both .le (fun i => (decide (sg (x i) ≤ sg (y i)), {})) ∧ both .leu (fun i => (decide (x i ≤ y i), {})) ∧
    (sew = 2 ∨ sew = 3 → both .feq (fun i => fpCompare fm 0 (x i) (y i)) ∧ both .flt (fun i => fpCompare fm 1 (x i) (y i)) ∧
      both .fle (fun i => fpCompare fm 2 (x i) (y i)) ∧ both .fun (fun i => fpCompare fm 3 (x i) (y i))) ∧
    set .kand (c.rk ka &&& c.rk kb) ∧ set .kor (c.rk ka ||| c.rk kb) ∧ set .kxor (c.rk ka ^^^ c.rk kb) ∧
    set .kandn (c.rk ka &&& ~~~(c.rk kb)) ∧ set .knot (~~~(c.rk ka)) ∧ set .kmov (c.rk ka) ∧
    ∃ c2 : Core, Gives (.vsetvl k rd g z) s s1 k (c2.wg rd (BitVec.ofNat 64 vl)) (c.pc + 4) ∧ c2 = { c with cr := c2.cr } ∧
      c2.rc crVTYPE = BitVec.ofNat 64 z.val ∧ c2.rc crVL = BitVec.ofNat 64 vl ∧
      c2.rc crVSTAT = BitVec.ofNat 64 (natPut (c.rc crVSTAT).toNat 1 1 1) ∧
      ∀ r, r ≠ crVTYPE → r ≠ crVL → r ≠ crVSTAT → c2.rc r = c.rc r

/-- FADD, FCVT and FMA (06 R156, R164, R166): the result in rd, zero-extended where it has 32 bits, and the flags of FPST; F3 selects the
rounding. That a 32-bit integer result is sign-extended is the model's reading (log entry 5). -/
def Obligations.CoreFloatingPoint : Prop :=
  ∀ (k : CoreIx) (s s1 : State) (rd a b d : GReg) (dbl : Bool) (f3 : Fin 8), Ready s k 4 s1 →
    let c := s1.core k
    let fm := if dbl then fp64 else fp32
    let val := fun (dbl : Bool) (r : GReg) => if dbl then (c.rg r).toNat else (c.rg r).toNat % 2 ^ 32
    let x := val dbl a
    let y := val dbl b
    let res := fun (i : Instr) (r : Nat × FpFlags) => Gives i s s1 k ((c.wg rd (BitVec.ofNat 64 r.1)).flags r.2) (c.pc + 4)
    let b2w := fun (r : Bool × FpFlags) => ((if r.1 then 1 else 0 : Nat), r.2)
    (f3.val < 4 → res (.fadd k .fcmp dbl f3 rd a b) (b2w (fpCompare fm f3.val x y))) ∧
    (f3.val < 3 → Gives (.fadd k .fsgn dbl f3 rd a b) s s1 k (c.wg rd (BitVec.ofNat 64 (fpSignInj fm f3.val x y))) (c.pc + 4)) ∧
    ∀ rm, (f3.val = 0 ∧ rm = .rne) ∨ (f3.val = 1 ∧ rm = .rz) ∨ (f3.val = 2 ∧ rm = .rdn) ∨ (f3.val = 3 ∧ rm = .rup) ∨
        (f3.val = 7 ∧ rm = c.frm) →
      res (.fadd k .fadd dbl f3 rd a b) (fpAdd fm rm x y) ∧ res (.fadd k .fsub dbl f3 rd a b) (fpSub fm rm x y) ∧
      res (.fadd k .fmul dbl f3 rd a b) (fpMul fm rm x y) ∧ res (.fadd k .fdiv dbl f3 rd a b) (fpDiv fm rm x y) ∧
      res (.fadd k .fsqrt dbl f3 rd a 0) (fpSqrt fm rm x) ∧ res (.fadd k .fmin dbl f3 rd a b) (fpMinMax fm false x y) ∧
      res (.fadd k .fmax dbl f3 rd a b) (fpMinMax fm true x y) ∧
      res (.fcvt k 0 f3 rd a) (fpConvert fp32 fp64 rm (val false a)) ∧ res (.fcvt k 1 f3 rd a) (fpConvert fp64 fp32 rm (val true a)) ∧
      res (.fcvt k 2 f3 rd a) (intToFp fp64 rm (c.rg a).toInt) ∧ res (.fcvt k 3 f3 rd a) (intToFp fp64 rm (c.rg a).toNat) ∧
      res (.fcvt k 4 f3 rd a) (fpToInt fp64 true 64 rm (val true a)) ∧ res (.fcvt k 5 f3 rd a) (fpToInt fp64 false 64 rm (val true a)) ∧
      res (.fcvt k 6 f3 rd a) (intToFp fp32 rm ((c.rg a).setWidth 32).toInt) ∧
      Gives (.fcvt k 7 f3 rd a) s s1 k ((c.wg rd ((BitVec.ofNat 32 (fpToInt fp32 true 32 rm (val false a)).1).signExtend 64)).flags
        (fpToInt fp32 true 32 rm (val false a)).2) (c.pc + 4) ∧
      res (.fma k (!dbl) false f3 rd a b d) (fpFmaC fm rm x y (val dbl d)) ∧
      res (.fma k (!dbl) true f3 rd a b d) (fpFmaC fm rm x y (val dbl d ^^^ 2 ^ (fm.width - 1)))

/-- The fixed-point instructions (06 R170, R171): products into the accumulator modulo 2^72 with FXCTL.AOVF where the exact sum leaves the
range, extraction with its rounding and saturation, and the accumulator's two halves. -/
def Obligations.CoreFixedPoint : Prop :=
  ∀ (k : CoreIx) (s s1 : State) (rd a b : GReg) (ad : Fin 4), Ready s k 4 s1 →
    let c := s1.core k
    let q31 := fun (r : GReg) => ((c.rg r).setWidth 32).toInt
    let q15 := fun (r : GReg) => ((c.rg r).setWidth 16).toInt
    let q15h := fun (r : GReg) => ((c.rg r).extractLsb' 16 16).toInt
    let acc := (c.ra ad).toInt
    let fits := fun (v : Int) => -(2 ^ 71) ≤ v ∧ v < 2 ^ 71
    let sum := fun (i : Instr) (v : Int) =>
      (fits v → Gives i s s1 k (c.wa ad (BitVec.ofInt 72 v)) (c.pc + 4)) ∧
      (¬ fits v → Gives i s s1 k ((c.wa ad (BitVec.ofInt 72 v)).crPut crFXCTL 4 4 1) (c.pc + 4))
    let ext := fun (is15 : Bool) (sh : Nat) =>
      let p := (2 : Int) ^ sh
      let q := acc / p
      let r := acc % p
      let rnd := c.crBits crFXCTL 1 0
      let q' := if rnd = 1 then (if p / 2 < r ∨ (r = p / 2 ∧ q % 2 = 1) then q + 1 else q)
        else if rnd = 2 then (if p / 2 ≤ r then q + 1 else q)
        else if rnd = 3 then (if acc < 0 ∧ r ≠ 0 then q + 1 else q)
        else q
      let lim := (2 : Int) ^ (63 - sh)
      let out := q' < -lim ∨ lim ≤ q'
      (¬ out → Gives (.fext k is15 rd ad) s s1 k (c.wg rd (BitVec.ofInt 64 q')) (c.pc + 4)) ∧
      (out → c.crBit crFXCTL 2 = true → Gives (.fext k is15 rd ad) s s1 k
        ((c.wg rd (BitVec.ofInt 64 (if q' < 0 then -lim else lim - 1))).crPut crFXCTL 3 3 1) (c.pc + 4)) ∧
      (out → c.crBit crFXCTL 2 = false → Gives (.fext k is15 rd ad) s s1 k
        (c.wg rd ((BitVec.ofInt (64 - sh) q').signExtend 64)) (c.pc + 4))
    sum (.fmac k .fmacQ31 ad a b) (acc + q31 a * q31 b * 2) ∧ sum (.fmac k .fmsuQ31 ad a b) (acc - q31 a * q31 b * 2) ∧
    sum (.fmac k .fmulQ31 ad a b) (q31 a * q31 b * 2) ∧
    sum (.fmac k .fmac2Q15 ad a b) (acc + (q15 a * q15 b + q15h a * q15h b) * 2 ^ 33) ∧
    sum (.fmac k .fmacQ15 ad a b) (acc + q15 a * q15 b * 2 ^ 33) ∧ sum (.fmac k .fmsuQ15 ad a b) (acc - q15 a * q15 b * 2 ^ 33) ∧
    ext false 32 ∧ ext true 48 ∧
    Gives (.mfa k false rd ad) s s1 k (c.wg rd ((c.ra ad).setWidth 64)) (c.pc + 4) ∧
    Gives (.mfa k true rd ad) s s1 k (c.wg rd (((c.ra ad).extractLsb' 64 8).signExtend 64)) (c.pc + 4) ∧
    Gives (.mta k ad a b) s s1 k (c.wa ad ((c.rg b).setWidth 8 ++ c.rg a)) (c.pc + 4)

/-- Control registers (06 R157, R159; 07 R188, R190; 08 R219, R220): at a level that may, MFC reads each register and MTC writes it with the
fields its clamp leaves; a write of a vector base makes its latch due, one of DETMODE drains the merging buffer (06 R180). IWCNT reads what is
left of an open window. A read or write below the level raises ILLOP.
Where no rule decides, the clauses follow the model's choices of log entry 69. -/
def Obligations.ControlRegisters : Prop :=
  ∀ (k : CoreIx) (s s1 : State) (rd a : GReg), Ready s k 4 s1 →
    let c := s1.core k
    let v := c.rg a
    let n := v.toNat
    let read := fun (lvl : Nat) (cr : BitVec 12) (w : Word) =>
      (lvl ≤ c.priv → Gives (.mfc k rd cr) s s1 k (c.wg rd w) (c.pc + 4)) ∧
      (c.priv < lvl → exec (.mfc k rd cr) s = .next ((s1.raiseExc k 1 3 0).getD s1))
    let plain := fun (lvl : Nat) (cr : BitVec 12) => read lvl cr (c.rc cr.toNat)
    let write := fun (lvl : Nat) (cr : BitVec 12) (w : Nat) =>
      (lvl ≤ c.priv → Gives (.mtc k cr a) s s1 k (c.wc cr.toNat (BitVec.ofNat 64 w)) (c.pc + 4)) ∧
      (c.priv < lvl → exec (.mtc k cr a) s = .next ((s1.raiseExc k 1 3 0).getD s1))
    let ro := fun (cr : BitVec 12) => exec (.mtc k cr a) s = .next ((s1.raiseExc k 1 3 0).getD s1)
    plain 0 0x000 ∧ plain 1 0x001 ∧ plain 1 0x002 ∧ plain 1 0x003 ∧ plain 1 0x004 ∧ plain 3 0x005 ∧ plain 3 0x006 ∧ plain 1 0x007 ∧
    plain 3 0x008 ∧ plain 1 0x009 ∧ plain 3 0x00A ∧ plain 3 0x00B ∧ plain 3 0x00D ∧ plain 3 0x00E ∧ plain 3 0x00F ∧
    plain 0 0x010 ∧ plain 0 0x011 ∧ plain 0 0x012 ∧ plain 0 0x013 ∧ plain 1 0x040 ∧
    (c.halted = false → ∃ s2, Aged s1 s2 k ∧
      (1 ≤ c.priv → Gives (.mfc k rd 0x00C) s s2 k ((s2.core k).wg rd ((s2.core k).rc 0x00C)) (c.pc + 4)) ∧
      (c.priv = 0 → exec (.mfc k rd 0x00C) s = .next ((s2.raiseExc k 1 3 0).getD s1))) ∧
    read 0 0x030 (BitVec.ofNat 64 (if k.val < 512 then k.val else if k.val < 520 then 0x502 + (k.val - 512) else 0x500)) ∧
    (VextenOn s1 k → plain 0 0x020 ∧ plain 0 0x021) ∧ (k.val < 512 → plain 0 0x022) ∧
    ro 0x002 ∧ ro 0x003 ∧ ro 0x00C ∧ ro 0x00E ∧ ro 0x00F ∧ ro 0x030 ∧
    write 1 0x001 (n - n % 2) ∧ write 1 0x004 (n - n % 64) ∧ write 3 0x005 (n - n % 64) ∧ write 3 0x006 (min (n % 1024) 512) ∧
    write 1 0x007 (n - n % 64) ∧ write 3 0x008 (n - n % 64) ∧ write 3 0x00D (n - n % 2) ∧ write 0 0x010 (n % 2 ^ 32) ∧
    write 0 0x011 (n % 32) ∧ write 0 0x013 (if 4 ≤ n / 32 % 8 then n % 32 else n % 128) ∧ write 1 0x040 (n % 4096) ∧
    (k.val < 512 → write 1 0x022 (n % 4)) ∧
    (1 ≤ c.priv → Gives (.mtc k 0x000 a) s s1 k (c.wc 0x000 (BitVec.ofNat 64
      (if n / 128 % 2 = 1 then natPut (natPut (c.rc 0).toNat 4 2 (n / 4 % 8)) 7 7 0 else natPut (c.rc 0).toNat 4 2 (n / 4 % 8)))) (c.pc + 4)) ∧
    (1 ≤ c.priv → Gives (.mtc k 0x009 a) s s1 k
      { c.wc 0x009 (BitVec.ofNat 64 (n / 64 % 2 ^ 46 * 64)) with svecL := none, due := c.due ||| 1 } (c.pc + 4)) ∧
    (c.priv = 3 → Gives (.mtc k 0x00A a) s s1 k
      { c.wc 0x00A (BitVec.ofNat 64 (n / 64 % 2 ^ 46 * 64)) with mvecL := none, due := c.due ||| 2 } (c.pc + 4)) ∧
    (c.priv = 3 → Gives (.mtc k 0x00B a) s s1 k
      { c.wc 0x00B (BitVec.ofNat 64 (n / 2 % 2 ^ 51 * 2)) with fvecL := none, due := c.due ||| 4 } (c.pc + 4)) ∧
    (c.priv = 3 → s1.err.upsets = [] → BuffersOk c → ∃ s2, StoresMoved s1 s2 k ∧ (s2.core k).sbuf = [] ∧ (s2.core k).mbuf = [] ∧
      Gives (.mtc k 0x012 a) s s2 k (if n % 2 = 1 ∧ c.det = false then { (s2.core k).wc 0x012 1 with l1d := [], l1i := [] }
        else (s2.core k).wc 0x012 (BitVec.ofNat 64 (n % 2))) (c.pc + 4)) ∧
    (VextenOn s1 k → ∀ d, d = c.crPut crVSTAT 1 1 1 →
      Gives (.mtc k 0x020 a) s s1 k ((c.wc 0x020 (BitVec.ofNat 64 (min (n % 4096) (2048 / 2 ^ c.crBits crVTYPE 1 0)))).crPut crVSTAT 1 1 1)
        (c.pc + 4) ∧
      ∃ c2 : Core, Gives (.mtc k 0x021 a) s s1 k c2 (c.pc + 4) ∧ c2 = { c with cr := c2.cr } ∧ c2.rc crVTYPE = BitVec.ofNat 64 (n % 4) ∧
        c2.rc crVL = BitVec.ofNat 64 (min c.vl (2048 / 2 ^ (n % 4))) ∧ c2.rc crVSTAT = d.rc crVSTAT ∧
        ∀ r, r ≠ crVL → r ≠ crVTYPE → r ≠ crVSTAT → c2.rc r = c.rc r)

/-- MSET, MCLR and IWIN, which takes the lesser of what is left of an open window (06 R169; 08 R224), and WFI, which stalls the core at its own address (06 R169): their effects, and ILLOP where
the level or the bits do not allow them. -/
def Obligations.StatusWindowAndWait : Prop :=
  ∀ (k : CoreIx) (s s1 : State) (m : BitVec 12), Ready s k 4 s1 →
    let c := s1.core k
    let ok := m.toNat &&& (if 1 ≤ c.priv then 0x1C else 0x10) = m.toNat
    let illop := fun (i : Instr) => exec i s = .next ((s1.raiseExc k 1 3 0).getD s1)
    let len := min m.toNat (c.crBits crIWINMAX 9 0)
    (ok → Gives (.mset k m) s s1 k (c.wc crSTATUS (c.rc crSTATUS ||| m.setWidth 64)) (c.pc + 4) ∧
      Gives (.mclr k m) s s1 k (c.wc crSTATUS (c.rc crSTATUS &&& ~~~(m.setWidth 64))) (c.pc + 4)) ∧
    (¬ ok → illop (.mset k m) ∧ illop (.mclr k m)) ∧
    (c.halted = false → ∃ s2, Aged s1 s2 k ∧
      let left := (s2.core k).crBits crIWCNT 9 0
      (1 ≤ c.priv → Gives (.iwin k m) s s2 k ((s2.core k).wc crIWCNT (BitVec.ofNat 64 (if left = 0 then len else min left len))) (c.pc + 4)) ∧
      (c.priv = 0 → exec (.iwin k m) s = .next ((s2.raiseExc k 1 3 0).getD s1))) ∧
    (1 ≤ c.priv → Gives (.wfi k) s s1 k { c with wfi := true } c.pc) ∧ (c.priv = 0 → illop (.wfi k))

/-- Exceptions (08 R216, R217, R219, R221, R223): SYSCALL, BREAK, an undefined word and a misaligned access enter Supervisor level from User
and Supervisor, and Machine level from Machine, through the vector of their cause; a Machine entry without stack stops the core.
Where no rule decides, the clauses follow the model's choices of log entry 67. -/
def Obligations.ExceptionEntry : Prop :=
  ∀ (k : CoreIx) (s s1 s2 : State) (l : List Word) (rd b : GReg) (imm : BitVec 12) (w : BitVec 32) (len : Nat), Ready s k len s1 →
    let c := s1.core k
    let super := decide (c.priv ≠ 3)
    let sp := c.rc (if super then crSSP else crMSP)
    let lim := c.rc (if super then crSTKLIM else crMSTKLIM)
    let room := lim.toNat + 64 ≤ sp.toNat
    let took := fun (i : Instr) (code sub : Nat) (addr pc : Word) (entry : Nat) =>
      (room → s1.push k (if super then 1 else 3) (sp - 64) (frameOf c 0 code sub pc false) = .ok s2 →
        (if super then (s2.core k).svecL else (s2.core k).mvecL) = some l →
          Next i s (fun t => Entered s2 t k super (sp - 64) pc (code + sub * 2 ^ 8) addr false (l.getD entry 0 &&& ~~~1))) ∧
      (super = false → ¬ room → Next i s (fun t => (t.core k).fatal = true ∧ (t.core k).pc = c.pc ∧ (s1.org.sess = [] → t.mem = s1.mem)))
    (len = 4 → took (.syscall k) 0x04 0 0 (c.pc + 4) 3 ∧ (s1.breakSess k = none → took (.brk k) 0x05 0 0 (c.pc + 4) 4) ∧
      (let a := c.rg b + imm.signExtend 64
       c.mce = true → (a.toNat % 8 ≠ 0 → took (.load k .ld rd b imm) 0x02 1 a c.pc 1 ∧ took (.store k .sd rd b imm) 0x02 1 a c.pc 1) ∧
         (a.toNat % 4 ≠ 0 → took (.load k .lw rd b imm) 0x02 1 a c.pc 1 ∧ took (.store k .sw rd b imm) 0x02 1 a c.pc 1))) ∧
    (len = (if w.getLsbD 0 then 4 else 2) → ∀ sub, gDecode w.toNat = .error sub → took (.illop k w) 0x01 sub 0 c.pc 0)

/-- Interrupts (08 R221, R224, R225, R232, R233): at a boundary with no window open and no REP.N, FAST before NORMAL, one to Machine level with a
frame of two words and its handler's latch; a source asks while it pends and is not active, or once it has signalled the core. IWIN_EXPIRE
closes the window and sets WINOVR.
Where no rule decides, the clauses follow the model's choices of log entry 68. -/
def Obligations.InterruptEntry : Prop :=
  ∀ (k : CoreIx) (s s2 : State) (l : List Word),
    let c := s.core k
    let p := k.val / 64
    let asks := fun (cls : Nat) => c.signal.testBit cls = true ∨
      ∃ n, n < 1024 ∧ (s.intc p).pend.testBit n = true ∧ (s.intc p).active.testBit n = false ∧
        (let t := s.rget (intTarget p n); t.testBit 6 = true ∧ natBits t 5 0 = k.val % 64 ∧ natBits t 8 8 = cls)
    let taken := fun (cls : Nat) => if c.signal.testBit cls = true then s.setCore k { c with signal := c.signal - 2 ^ cls } else s
    let super := decide (c.priv ≠ 3)
    let sp := c.rc (if super then crSSP else crMSP)
    let lim := c.rc (if super then crSTKLIM else crMSTKLIM)
    let msp := c.rc crMSP
    let boundary := k.val < 512 ∧ s.alive k = true ∧ c.halted = false ∧ c.arrived = [] ∧ c.crBits crIWCNT 9 0 = 0 ∧
      (c.rpt = false ∨ c.repN = false) ∧ (c.parked = true → (c.park.map Park.isOver).getD true = false)
    (boundary → c.fie = true → c.fb = false → asks 1 → (c.rc crMSTKLIM).toNat + 64 ≤ msp.toNat →
      (taken 1).push k 3 (msp - 64) (leBytes 8 c.pc.toNat ++ leBytes 8 ((c.rc crSTATUS).toNat % 256 + 2 * 2 ^ 8 +
        (if c.parked then 2 ^ 10 else 0) + 0x11 * 2 ^ 16)) = .ok s2 → (s2.core k).fvecL ≠ none →
      Next (.interruptAccept k) s (fun t => Entered s2 t k false (msp - 64) c.pc 0x11 0 true ((s2.core k).rc crFVEC))) ∧
    (boundary → (c.fie = false ∨ c.fb = true ∨ ¬ asks 1) → c.ie = true → asks 0 → lim.toNat + 64 ≤ sp.toNat →
      (taken 0).push k (if super then 1 else 3) (sp - 64) (frameOf c 1 0x10 0 c.pc c.parked) = .ok s2 →
      (if super then (s2.core k).svecL else (s2.core k).mvecL) = some l →
      Next (.interruptAccept k) s (fun t => Entered s2 t k super (sp - 64) c.pc 0x10 0 false (l.getD 5 0 &&& ~~~1))) ∧
    (boundary → (c.fie = false ∨ c.fb = true ∨ ¬ asks 1) → (c.ie = false ∨ ¬ asks 0) → exec (.interruptAccept k) s = .next s) ∧
    (c.crBits crIWCNT 9 0 ≠ 0 → c.halted = false → Next (.iwinExpire k) s (fun t => CoreOnly s t k ∧
      ∃ c2 : Core, t.core k = c2 ∧ c2 = { c with cr := c2.cr } ∧ c2.rc crIWCNT = 0 ∧
        c2.rc crSTATUS = BitVec.ofNat 64 (natPut (c.rc crSTATUS).toNat 7 7 1) ∧ ∀ r, r ≠ crIWCNT → r ≠ crSTATUS → c2.rc r = c.rc r))

/-- ERET (06 R174; 08 R222, R229) at Machine level, whose stack is not translated: pc, STATUS bits 6:0 and G1 to G6 from the frame, the stack
pointer up by 64, the window closed, a repeat resumed in the form it had; a frame with a reserved level changes nothing and raises ILLOP. -/
def Obligations.ExceptionReturn : Prop :=
  ∀ (k : CoreIx) (s s1 : State), Ready s k 4 s1 →
    let c := s1.core k
    let f := c.rc crMSP
    let w := fun (i : Nat) => leNat (((Seen s1 k f.toNat 64).drop (8 * i)).take 8)
    let kind := w 1 / 2 ^ 8 % 4
    let pc := BitVec.ofNat 64 (w 0) &&& ~~~1
    let resumes := (w 1).testBit 6
    (c.priv = 0 → exec (.eret k) s = .next ((s1.raiseExc k 1 3 0).getD s1)) ∧
    (c.parked = false → BuffersOk c → PlainAccess s1 k .rd f 64 → ∃ s2, StoresMoved s1 s2 k ∧
      (w 1 % 4 ≠ 2 → Next (.eret k) s (fun t =>
        let u := t.core k
        let held := if (w 1).testBit 10 then c.park else none
        u = { s2.core k with g := u.g, cr := u.cr, arrived := [], tran := [], pc := pc, park := held, parked := held.isSome, reps := u.reps,
                             repN := u.repN } ∧
        (∀ r, SMap.get 0 u.g r = if 1 ≤ r ∧ r ≤ 6 ∧ kind ≠ 2 then BitVec.ofNat 64 (w (r + 1)) else SMap.get 0 c.g r) ∧
        u.rc crMSP = f + 64 ∧ u.rc crIWCNT = 0 ∧ u.rc crSTATUS = BitVec.ofNat 64 (natPut (c.rc crSTATUS).toNat 6 0 (w 1 % 128)) ∧
        (∀ r, r ≠ crMSP → r ≠ crIWCNT → r ≠ crSTATUS → u.rc r = c.rc r) ∧ t.mem = s2.mem ∧
        (resumes = false → u.reps = c.reps ∧ u.repN = c.repN) ∧
        (∀ x, resumes = true → c.reps.find? (fun x => x.1 == pc) = some x → u.repN = x.2 ∧ u.reps = c.reps.erase x) ∧
        (c.park = none → resumes = false ∨ (∃ x, c.reps.find? (fun x => x.1 == pc) = some x) → CoreOnly s2 t k))) ∧
      (w 1 % 4 = 2 → exec (.eret k) s = .next ((s2.raiseExc k 1 3 0).getD s1)))

/-- Fences, IFLUSH and the merging buffer (06 R180, R183, R184; 08 R220; 10 R267, R269, R271): a fence that drains, and IFLUSH, leave the core's
buffers empty and memory as the core saw it; FENCE.SYS, with no posted write to read back, also drops the cluster's coherent HOST lines, and
waits for a zero-length read of each port written to otherwise; MERGE_BUFFER_DRAIN writes the oldest entry, and what the core sees stays.
Where no rule decides, the clauses follow the model's choices of log entries 50 and 62. -/
def Obligations.FencesAndDrains : Prop :=
  ∀ (k : CoreIx) (s s1 : State),
    (Ready s k 4 s1 →
      let c := s1.core k
      let pc := c.pc + 4
      Gives (.fenceAcq k) s s1 k c pc ∧
      (BuffersOk c → s1.err.upsets = [] → ∃ s2, StoresMoved s1 s2 k ∧ (s2.core k).sbuf = [] ∧ (s2.core k).mbuf = [] ∧
        (∀ a, Mem.read s2.mem a = c.see a (Mem.read s1.mem a)) ∧
        Gives (.fenceRel k) s s2 k (s2.core k) pc ∧ Gives (.fenceDev k) s s2 k (s2.core k) pc ∧
        ((∀ e ∈ c.posted, e.2 = none) → c.arrived = [] → Next (.fenceSys k) s (fun t =>
          CacheOnly (s2.setCore k { s2.core k with posted := [], pc := pc, arrived := [], tran := [] }) t ∧
          ∀ j, (if k.val < 512 then j / 8 = k.val / 8 else j = k.val) → ∀ w, w ∈ (t.core j).l1d ++ (t.core j).l1i → w.2.line < 2 ^ 58)) ∧
        (c.arrived = [] → ∀ n a, (n, some a) ∈ c.posted → Next (.fenceSys k) s (fun t =>
          ∃ ps, (t.core k).wait = some ⟨c.waits, ps⟩ ∧ (∃ q ∈ ps, q.n = 0 ∧ q.host = some (n, a)) ∧ ∀ q ∈ ps, q.n = 0)) ∧
        Gives (.iflush k) s s2 k
          { s2.core k with l1i := [], fbuf := none, svecL := none, mvecL := none, fvecL := none, due := 7 } pc)) ∧
    (BuffersOk (s.core k) → s.err.upsets = [] → ∀ e es, (s.core k).mbuf = e :: es →
      Next (.mergeBufferDrain k) s (fun t => (t.core k).mbuf = es ∧ (t.core k).sbuf = (s.core k).sbuf ∧
        (∀ a, Mem.read t.mem a = if a / 64 = e.line then SMap.get (Mem.read s.mem a) e.bytes (a % 64) else Mem.read s.mem a) ∧
        StoresMoved s t k))

/-- Release, reset, and the end of WFI (06 R160, R169, R186, R187): a held core of a released die begins at GFC_BOOT_PC as after a reset; a
running one that is no service core of a Lodge stops, drains and is reset; WFI ends when a source that targets the core pends and is not
active; for a management or Orangery core whenever the command says so (log entry 68).
Where no rule decides, the clauses follow the model's choices of log entry 68. -/
def Obligations.CoreReleaseResetWake : Prop :=
  ∀ (p : DieIx) (j : Fin 64) (k : CoreIx) (s : State), k.val = 64 * p.val + j.val →
    let c := s.core k
    let fresh := fun (t : State) =>
      t.core k = { Core.afterReset (BitVec.ofNat 64 (natBits (s.rget ⟨.gfcBootPc, p.val, 0, 0⟩) 51 1 * 2)) (s.ptr.image.lodge && decide (k.val < 8)) with
        run := true, waits := c.waits }
    let asks := fun (cls : Nat) => ∃ n, n < 1024 ∧ (s.intc p).pend.testBit n = true ∧ (s.intc p).active.testBit n = false ∧
      (let t := s.rget (intTarget p n); t.testBit 6 = true ∧ natBits t 5 0 = j.val ∧ natBits t 8 8 = cls)
    let service := s.ptr.image.lodge = true ∧ k.val < 8
    (c.run = false → s.dieReleased p = true → (s.inShed = true → k.val < 8) → Next (.coreRelease p j) s (fun t => fresh t ∧ t.mem = s.mem ∧
      ∀ i, i ≠ k.val → t.core i = s.core i)) ∧
    (c.run = true ∨ s.dieReleased p = false → exec (.coreRelease p j) s = .next s) ∧
    (c.run = true → ¬ service → BuffersOk c → s.err.upsets = [] → Next (.coreReset p j) s (fun t =>
      (∃ pc d, t.core k = { Core.afterReset pc d with run := false, waits := c.waits }) ∧
      ∀ a, Mem.read t.mem a = c.see a (Mem.read s.mem a))) ∧
    (c.run = false ∨ service → exec (.coreReset p j) s = .next s) ∧
    (c.wfi = true → c.halted = false → s.runs .core = true → asks 0 ∨ asks 1 → Next (.wfiComplete k) s (fun t => CoreOnly s t k ∧
      t.core k = { c with wfi := false, pc := c.pc + 4 })) ∧
    (c.wfi = true → ¬ asks 0 → ¬ asks 1 → exec (.wfiComplete k) s = .next s) ∧
    ∀ m : CoreIx, 512 ≤ m.val → (s.core m).wfi = true → (s.core m).halted = false → s.runs (coreDom m) = true →
      Next (.wfiComplete m) s (fun t => CoreOnly s t m ∧ t.core m = { s.core m with wfi := false, pc := (s.core m).pc + 4 })

/-- The interrupt controller (08 R231, R232, R233, R235): an event sets its source's pending bit, a claim moves the lowest pending source of
the class that is not active from pending to active, a write of INT_DONE ends its active state, and INT_PEND clears what is written to it.
Where no rule decides, the clauses follow the model's choices of log entry 70. -/
def Obligations.InterruptController : Prop :=
  ∀ (p : DieIx) (k : CoreIx) (rd : GReg) (s s1 : State) (src : Fin 1024) (v : BitVec 32), k.val / 64 = p.val → k.val < 512 →
    let i := s1.intc p
    let targets := fun (cls n : Nat) => i.pend.testBit n = true ∧ i.active.testBit n = false ∧
      (let t := s1.rget (intTarget p n); t.testBit 6 = true ∧ natBits t 5 0 = k.val % 64 ∧ natBits t 8 8 = cls)
    let may := fun (kd : Acc) (a : Nat) => s1.accCheck (coreMaster k) kd (linesOf a 4) = none
    let reg := 0x11000000000 + 0x440000 + p.val * 0x200000
    let claim := fun (c : Instr) (cls a : Nat) => may .rd a →
      (∀ n, n < 1024 → targets cls n → (∀ m, m < n → ¬ targets cls m) → Next c s (fun t =>
        t.core k = { (s1.core k).wg rd (BitVec.ofNat 64 (n + 2 ^ 15 + cls * 2 ^ 16)) with pc := (s.core k).pc + 4, arrived := [], tran := [] } ∧
        (∀ m, (t.intc p).pend.testBit m = (decide (m ≠ n) && i.pend.testBit m)) ∧
        (∀ m, (t.intc p).active.testBit m = (decide (m = n) || i.active.testBit m)) ∧ t.mem = s1.mem)) ∧
      ((∀ n, n < 1024 → ¬ targets cls n) → Gives c s s1 k ((s1.core k).wg rd (BitVec.ofNat 64 (cls * 2 ^ 16))) ((s.core k).pc + 4))
    (Ready s k 4 s1 → claim (.intClaimN k rd) 0 (reg + 0x2100) ∧ claim (.intClaimF k rd) 1 (reg + 0x2108) ∧
      (may .wr (reg + 0x2110) → s1.mayWrite (coreMaster k) (0x442110 + p.val * 0x200000) = true → Next (.intDone k v) s (fun t =>
        (∀ m, (t.intc p).active.testBit m = (decide (m ≠ v.toNat % 1024) && i.active.testBit m)) ∧ (t.intc p).pend = i.pend ∧
        t.core k = { s1.core k with pc := (s.core k).pc + 4, arrived := [], tran := [] }))) ∧
    ((src.val < 231 ∨ 512 ≤ src.val) →
      let t := s.rget (intTarget p src.val)
      t.testBit 7 = false → Next (.interruptSourceEvent p src) s (fun u =>
        u = s.setIntc p { s.intc p with pend := (s.intc p).pend ||| 2 ^ src.val })) ∧
    ((s.rget (intTarget p (v.toNat % 64))).testBit 7 = false → Next (.intSwset p v) s (fun u =>
        u = s.setIntc p { s.intc p with pend := (s.intc p).pend ||| 2 ^ (v.toNat % 64) })) ∧
    (∀ (w : Fin 16) (x : BitVec 64), Next (.intPend p w x 0) s (fun u =>
      (∀ m, (u.intc p).pend.testBit m = ((s.intc p).pend.testBit m && !(decide (m / 64 = w.val) && x.getLsbD (m % 64)))) ∧
      (u.intc p).active = (s.intc p).active ∧ u.cores = s.cores ∧ u.mem = s.mem))

/-- The instruction decoder reads from the encoder's word the instruction and its length, for every well-formed instruction
(06 R161-R175; 07 R196-R207). -/
def Obligations.DecodeOfEncode : Prop := ∀ i : GInstr, i.wf = true → gDecode (gEncode i) = .ok (i, gLength i)

/-- What the decoder accepts is well formed, and its bits are the encoder's: no two words of one length give one instruction
(06 R161-R175; 07 R196-R207). -/
def Obligations.DecodedIsEncoded : Prop :=
  ∀ (w : Nat) (i : GInstr) (n : Nat), gDecode w = .ok (i, n) → i.wf = true ∧ n = gLength i ∧ gEncode i = w % 2 ^ (8 * n)

/-- A fetch in plain memory leaves a core that runs ready to execute, with nothing changed but tags and counters; what it decodes are the bytes
of its line in L1I, or of memory, and for a FAST handler those of the latch; VECTOR_LATCH_LOAD reads the three tables into their latches
(06 R178, R183; 08 R218, R220, R226).
Where no rule decides, the clauses follow the model's choices of log entries 3, 61 and 66. -/
def Obligations.CoreFetchAndLatches : Prop :=
  (∀ (k : CoreIx) (s : State) (n : Nat), (n = 2 ∨ n = 4) → Issues s k → (s.core k).rpt = false → (s.core k).tran = [] → s.breakHit k = none →
    s.err.upsets = [] → PlainPlace s k .ex (s.core k).pc n → ∃ s1, Ready s k n s1 ∧ CacheOnly s s1) ∧
  (∀ (k : CoreIx) (s : State) (a : Word), s.err.upsets = [] → PlainPlace s k .ex a 2 → PlainPlace s k .ex a 4 →
    let word := fun (code : Nat → Nat) => if (code 2).testBit 0 then code 4 else code 2
    (FetchesLine s k a.toNat → ∃ s1, Fetches s k a (gDecode (word (codeNat s k a.toNat))) s1 ∧ FetchOnly s s1 k) ∧
    ∀ bs, (s.core k).fvecL = some bs → (s.core k).fb = true →
      let base := (s.core k).crBits crFVEC 51 1 * 2
      base ≤ a.toNat → a.toNat + 4 ≤ base + 64 →
        ∃ s1, Fetches s k a (gDecode (word (fun n => leNat ((bs.drop (a.toNat - base)).take n)))) s1 ∧ CacheOnly s s1) ∧
  ∀ (k : CoreIx) (s : State), (s.core k).due = 7 → (s.rget regErrInj).testBit 63 = false → s.err.upsets = [] →
    let c := s.core k
    let at' := fun (cr hi lo : Nat) => c.crBits cr hi lo * 2 ^ lo
    let may := fun (a : Nat) => a % 64 = 0 ∧ InMemory s a ∧ s.accCheck (coreMaster k) .rd (linesOf a 64) = none
    let words := fun (a : Nat) => (List.range 8).map (fun i => BitVec.ofNat 64 (leNat ((Mem.readN s.mem a 64).drop (8 * i) |>.take 8)))
    let fast := (c.crBits crFVEC 51 1) * 2
    may (at' crSVEC 51 6) → may (at' crMVEC 51 6) → may fast →
    Next (.vectorLatchLoad k) s (fun t => CacheOnly (s.setCore k
      { c with svecL := some (words (at' crSVEC 51 6)), mvecL := some (words (at' crMVEC 51 6)),
               fvecL := some (Mem.readN s.mem fast 64), due := 0 }) t)

/-- Vector loads and stores of every form, in memory a Machine-level core may access, with nothing buffered: the accesses are those of the
active elements, in element order; a load's bytes go to V registers or a K register, a store's come from them (07 R207, R208, R210, R211, R213).
Where no rule decides, the clauses follow the model's choices of log entries 57 and 62. -/
def Obligations.VectorMemory : Prop :=
  ∀ (k : CoreIx) (form : VForm) (hint : Fin 4) (vd : Fin 32) (rs1 : GReg) (km : Fin 8) (s s1 : State), Ready s k 4 s1 → VextenOn s1 k →
    let c := s1.core k
    let es := c.vElems form rs1 (if form = .wholeV ∨ form = .wholeK then 0 else km)
    let bytes := fun (kd : Acc) (f : CAcc → List Byte) => (c.vAccs kd es).flatMap f
    let may := fun (kd : Acc) => c.priv = 3 ∧ c.arrived = [] ∧ c.sbuf = [] ∧ c.mbuf = [] ∧ c.vFormOk form vd = true ∧
      (c.mce = true → formAligned form = true → ∀ e ∈ es, e.1 % c.sewBytes = 0) ∧ (s1.rget regErrInj).testBit 63 = false ∧ s1.err.upsets = [] ∧
      ∀ a ∈ c.vAccs kd es, InMemory s1 a.va ∧ s1.accCheck (coreMaster k) kd (linesOf a.va a.n) = none
    let loads := fun (c' : Core) => Next (.vload k form hint vd rs1 km) s (fun t =>
      CacheOnly (s1.setCore k { c' with pc := c.pc + 4, arrived := [], tran := [] }) t)
    let stores := fun (b : CAcc → List Byte) => Next (.vstore k form hint vd rs1 km) s (fun t =>
      CacheOnly { s1.setCore k { c with pc := c.pc + 4, arrived := [], tran := [] } with
        mem := (c.vAccs .wr es).foldl (fun m a => Mem.writeN m a.va (b a)) s1.mem, err := { s1.err with bad := t.err.bad } } t)
    (may .rd → form ≠ .wholeK → es ≠ [] → loads { c.crPut crVSTAT 1 1 1 with
      v := (c.vAccs .rd es).foldl (fun m a => Mem.writeN m (vd.val * 2048 + a.dst) (Mem.readN s1.mem a.va a.n)) c.v }) ∧
    (may .rd → form ≠ .wholeK → es = [] → loads c) ∧
    (may .rd → form = .wholeK → ∀ kr : Fin 8, kr.val = vd.val → loads
      (c.wk kr (BitVec.ofNat 2048 (leNat (bytes .rd (fun a => Mem.readN s1.mem a.va a.n)))))) ∧
    (may .wr → form ≠ .wholeK → stores (fun a => Mem.readN c.v (vd.val * 2048 + a.dst) a.n)) ∧
    (may .wr → form = .wholeK → ∀ kr : Fin 8, kr.val = vd.val → stores (fun a => ((leBytes 256 (c.rk kr).toNat).drop a.dst).take a.n))

/-- FMACP and block instructions (06 R170, R175-R177). FMACP multiplies what two pointers name and moves them on. A block instruction
with nothing left is over; BLOCK_ELEMENT does one element of the block instruction at the pc, which is over with the last.
Where no rule decides, the clauses follow the model's choices of log entry 65. -/
def Obligations.BlockInstructions : Prop :=
  ∀ (k : CoreIx) (z : Fin 4) (rd rs1 rs2 : GReg) (ad : Fin 4) (s s1 : State),
    let n := 2 ^ z.val
    let c := s1.core k
    let pc := (s.core k).pc
    let x := fun (n : Nat) (r : GReg) => leNat (Seen s1 k (c.rg r).toNat n)
    (Ready s k 4 s1 →
      let macp := fun (q31 : Bool) (n : Nat) (t : Int) =>
        BuffersOk c → PlainAccess s1 k .rd (c.rg rs1) n → PlainAccess s1 k .rd (c.rg rs2) n →
          let c1 := c.accAdd ad (c.ra ad).toInt t
          let c2 := c1.wg rs1 (c.rg rs1 + BitVec.ofNat 64 n)
          Next (.fmacp k q31 ad rs1 rs2) s (fun t' => StoresMoved (s1.setCore k
            { (if rs1 = rs2 then c2 else c2.wg rs2 (c.rg rs2 + BitVec.ofNat 64 n)) with pc := c.pc + 4, arrived := [], tran := [] }) t' k)
      macp true 4 (toSigned 32 (x 4 rs1) * toSigned 32 (x 4 rs2) * 2) ∧ macp false 2 (toSigned 16 (x 2 rs1) * toSigned 16 (x 2 rs2) * 2 ^ 33) ∧
      (blockRegs rd rs1 rs2 = true → c.rg rs2 = 0 →
        Gives (.bmov k z rd rs1 rs2) s s1 k c (c.pc + 4) ∧ Gives (.bfill k z rd rs1 rs2) s s1 k c (c.pc + 4) ∧
        Gives (.bcmp k z rd rs1 rs2) s s1 k c (c.pc + 4) ∧ Gives (.bscan k z rd rs1 rs2) s s1 k c (c.pc + 4))) ∧
    (∀ op, Issues s k → (s.core k).rpt = false → Fetches s k pc (.ok (.block op z rd rs1 rs2, 4)) s1 → c.run = true →
      blockRegs rd rs1 rs2 = true → BuffersOk c →
      let a := c.rg rd
      let b := c.rg rs1
      let next := fun (c' : Core) (rs : List GReg) =>
        { ((rs.foldl (fun c r => c.wg r (c.rg r + BitVec.ofNat 64 n)) c').wg rs2 (c.rg rs2 - 1)) with
          pc := if c.rg rs2 = 1 then pc + 4 else c.pc, arrived := [], tran := [] }
      let ended := { c with pc := pc + 4, arrived := [], tran := [] }
      let put := fun (c' : Core) (v : Nat) => { c' with sbuf := c'.sbuf ++ [⟨a.toNat, leBytes n v, s1.hintAt (coreMaster k) a.toNat⟩] }
      (c.rg rs2 = 0 → Next (.blockElement k) s (fun t => CoreOnly s1 t k ∧ t.core k = ended)) ∧
      (c.rg rs2 ≠ 0 →
        (op = .bmov → PlainAccess s1 k .rd b n → PlainAccess s1 k .wr a n → c.sbuf.length < 8 →
          Next (.blockElement k) s (fun t => ∃ s2, StoresMoved s1 s2 k ∧
            CacheOnly (s2.setCore k (next (put (s2.core k) (x n rs1)) [rd, rs1])) t)) ∧
        (op = .bfill → PlainAccess s1 k .wr a n → c.sbuf.length < 8 →
          Next (.blockElement k) s (fun t => CacheOnly (s1.setCore k (next (put c b.toNat) [rd])) t)) ∧
        (op = .bcmp → PlainAccess s1 k .rd a n → PlainAccess s1 k .rd b n →
          Next (.blockElement k) s (fun t => StoresMoved (s1.setCore k (if x n rd = x n rs1 then next c [rd, rs1] else ended)) t k)) ∧
        (op = .bscan → PlainAccess s1 k .rd b n →
          Next (.blockElement k) s (fun t => StoresMoved (s1.setCore k
            (if x n rs1 = a.toNat % 2 ^ (8 * n) then ended else next c [rs1])) t k))))

/-- Repeats (06 R172-R174): a prefix before an instruction that may be repeated sets RPT, REP.N's with LC; with LC 0 both are passed over; before
any other instruction it is ILLOP 4; an iteration runs the body and counts LC down, and the last one clears RPT and goes on.
Where no rule decides, the clauses follow the model's choices of log entry 64. -/
def Obligations.Repeats : Prop :=
  ∀ (k : CoreIx) (s sa sb : State) (cnt : Fin 64) (i : GInstr) (n : Nat), Issues s k →
    let pc := (s.core k).pc
    let c := sb.core k
    let past := fun (c' : Core) => { c' with pc := pc + (if (s.core k).rpt then 0 else 2) + BitVec.ofNat 64 n, arrived := [], tran := [] }
    let ended := fun (c' : Core) => { c'.crPut crSTATUS 6 6 0 with repN := false }
    let begun := fun (c' : Core) (n : Bool) =>
      { c'.crPut crSTATUS 6 6 1 with repN := n, pc := pc + 2, arrived := [], tran := [] }
    let illop := exec (.repI k) s = .next ((sb.raiseExc k causeILLOP 4 0).getD s) ∧ exec (.repN k cnt) s = .next ((sb.raiseExc k causeILLOP 4 0).getD s)
    ((s.core k).rpt = false → s.breakHit k = none → (∀ f, s.ifetch k pc 2 f = f sa) → c.run = true →
      (∀ e, Fetches sa k (pc + 2) (.error e) sb → illop) ∧
      (Fetches sa k (pc + 2) (.ok (i, n)) sb →
        (repAllowed i = true → c.lc ≠ 0 → Next (.repI k) s (fun t => CoreOnly sb t k ∧ t.core k = begun c false)) ∧
        (repAllowed i = true → c.lc = 0 → Next (.repI k) s (fun t => CoreOnly sb t k ∧ t.core k = past c)) ∧
        (repAllowed i = true → Next (.repN k cnt) s (fun t => CoreOnly sb t k ∧
          t.core k = begun (c.wc crLC (BitVec.ofNat 64 (cnt.val + 1))) true)) ∧
        (repAllowed i = false → illop))) ∧
    ((s.core k).rpt = true → Fetches s k pc (.ok (i, n)) sb → repAllowed i = true →
      let left := (s.core k).lc
      (left = 0 → c.run = true → Next (.repIteration k) s (fun t => CoreOnly sb t k ∧ t.core k = past (ended c))) ∧
      ∀ s2 next, left ≠ 0 → sb.body k i = .ok s2 next →
        let c' := s2.core k
        c'.run = true → c'.lc = left → Next (.repIteration k) s (fun t => CoreOnly s2 t k ∧ t.core k =
          if left = 1 then past (ended (c'.wc crLC 0))
          else { c'.wc crLC (BitVec.ofNat 64 (left - 1)) with pc := pc, arrived := [], tran := [] }))

/-- Register writes (01 R34-R36, R48): an aligned write that the access table permits stores each field clamped and touches no other register (a new
INT_TARGET may leave a core signalled, 08 R233; a new ERR_RING may let records go, 19 R502), and a clamped one is counted in PTR_CLAMPLOG with its
offset; every write completes; the CLR bits and SGE_CTL.HOLD do what their register tables say
(05 R155; 09 R259; 12 R346; 13 R375; 14 R399; 18 R491).
Where no rule decides, the clauses follow the model's choices of log entry 75. -/
def Obligations.RegisterWrites : Prop :=
  ∀ (s : State) (m : BitVec 12) (off : BitVec 25) (v : BitVec 64) (r : Reg) (b : Nat),
    let log : Reg := ⟨.ptrClamplog, 0, 0, 0⟩
    let only := fun (t : State) (r : Reg) => t = { s with regs := t.regs } ∧ ∀ o, o ≠ r.addr → SMap.get none t.regs o = SMap.get none s.regs o
    let plain := [RegK.intTarget, .errRing, .arrFillTarget, .arrBatchBudget, .arrWorkLimit, .arrCring, .arrCringPtr, .arrCcmp, .arrCcmpPtr, .arrCringAsid,
      .sgeStepLimit, .sgeTblSel, .gfcBootPc, .gfcDet, .nmcArb, .mscCtl, .xltAsidtab, .xltFringBase, .xltFringCtl, .xltFringPtr, .xltInvVa, .xltInvLen,
      .trlE2e, .trlDetourSel, .trlJobfloor, .txuCtxCfg, .txuCtxDelta, .txuCtxStage, .txuCtxTime, .txuEqCfg, .txuEqTmpl, .txuPsel, .ldgBox, .ldgTimers,
      .ldgMring, .ldgMringPtr, .bootSlotsrc, .bootSlotlen, .clkDiv, .pwrIdleDelay, .pwrCap, .errScrub, .pmcDst, .pmcDstM, .pmcCtxen, .pmcCtr, .pmcCtrM]
    let cleared := fun (c : Instr) (r : Reg) => Next c s (fun t => t.rget r = 0 ∧ only t r)
    (∀ wide, Next (.registerWrite m off wide v) s (fun _ => True)) ∧
    (regAt off.toNat = some (r, b) → r.k ∈ plain → off.toNat % 4 = 0 → s.accCheck m.toNat .wr (linesOf (mmioBase + off.toNat) 4) = none →
      let w := s.newWord r (s.rget r) (8 * b) 32 (v.toNat % 2 ^ 32)
      Next (.registerWrite m off false v) s (fun t => t.rget r = w.1 ∧
        t = { s with regs := t.regs, cores := if r.k = .intTarget then t.cores else s.cores, err := if r.k = .errRing then t.err else s.err } ∧
        (∀ o, o ≠ r.addr → o ≠ log.addr → SMap.get none t.regs o = SMap.get none s.regs o) ∧
        (w.2 = false → SMap.get none t.regs log.addr = SMap.get none s.regs log.addr) ∧
        (w.2 = true → t.rget log = min (natBits (s.rget log) 31 0 + 1) 0xFFFFFFFF + off.toNat * 2 ^ 32 + clampSrc m.toNat % 4 * 2 ^ 60))) ∧
    cleared .ptrClamplogClr log ∧ (∀ p, cleared (.sgeErrlogClr p) ⟨.sgeErrlog, p.val, 0, 0⟩) ∧
    (∀ p, cleared (.txuEvlogClr p) ⟨.txuEvlog, p.val, 0, 0⟩) ∧ (∀ c, cleared (.txuCtxCountClr c) ⟨.txuCtxCount, 0, c.val, 0⟩) ∧
    (∀ p hold, Next (.sgeHold p hold) s (fun t => (t.rget ⟨.sgeCtl, p.val, 0, 0⟩).testBit 0 = hold ∧ only t ⟨.sgeCtl, p.val, 0, 0⟩)) ∧
    (∀ d, Next (.trlDetourSel d) s (fun t => t.rget ⟨.trlDetourSel, 0, 0, 0⟩ = (if d then 1 else 0) ∧ only t ⟨.trlDetourSel, 0, 0, 0⟩)) ∧
    (∀ n, exec (.trlLinkerrClr n) s = .next (s.setTport n { s.tport n with replays := 0, retrains := 0, discards := 0 })) ∧
    (∀ n, exec (.pciOuterrClr n) s = .next (s.setPort n { s.port n with outKind := 0, outMaster := 0, outCount := 0 })) ∧
    (∀ d, Next (.thmDieClr d) s (fun t => t = { s with pwr := { s.pwr with peak := t.pwr.peak } } ∧
      ∀ i, SMap.get 0 t.pwr.peak i = if i = d.val then SMap.get 0 s.pwr.temp d.val else SMap.get 0 s.pwr.peak i)) ∧
    ∀ k, exec (.hbmTempClr k) s = .next (s.setStack k { s.stack k with peak := (s.stack k).temp })

/-- Staging and committing an image (01 R39-R45; 12 R336): STAGE_IMAGE holds the bytes it read; COMMIT_IMAGE takes them for verification;
DISCARD_IMAGE drops them; verification rejects with its reason or begins quiescing; a time-out ends the commit with reason 0x12; apply makes
the image the committed one; PTR_CLAMPLOG clears.
Where no rule decides, the clauses follow the model's choices of log entries 47 and 48. -/
def Obligations.ImageAndCommit : Prop :=
  ∀ (s : State) (q : QIx) (d : QDesc),
    let p := s.ptr
    let ends := fun (t : State) (r : Nat) => ∀ e, (s.queue p.cmdQueue).flight.find? (fun d => d.st == .running && d.opcode == 0x11) = some e →
      Reported (({ s with ptr := { p with phase := if p.staged.isSome then .staged else .idle, lastReason := r, next := none, taken := none } }
        : State).descDone p.cmdQueue e.ix 0x80 r 0) t
    (s.startOp q.val tyAdmin 0x10 = some d → d.f 6 31 0 ≠ 0 → d.f 6 31 0 ≤ 2 ^ 21 → d.f 7 31 1 = 0 → d.zeroFrom 8 = true →
      (s.commitBusy = true → ∀ b, exec (.stageImage q b) s = .next (s.descDone q.val d.ix 0x80 0x11 0)) ∧
      (s.commitBusy = false → d.f 7 0 0 = 0 → (s.fn (s.qPort q.val) (s.qFunc q.val)).bme = true → exec (.stageImage q 0) s = .next
        (({ s with ptr := { p with staged := some (s.hostRead (s.qPort q.val) (natBits d.raw 191 128) (d.f 6 31 0)), phase := .staged } } : State).descDone
          q.val d.ix 0 0 0))) ∧
    (s.startOp q.val tyAdmin 0x11 = some d → d.zeroFrom 4 = true → s.commitBusy = false →
      (p.staged = none → exec (.commitImage q) s = .next (s.descDone q.val d.ix 0x80 0x13 0)) ∧
      ∀ bs, p.staged = some bs → exec (.commitImage q) s = .next
        (({ s with ptr := { p with phase := .verifying, cmdQueue := q.val, staged := none, taken := some bs, affected := 0 } } : State).descRun
          q.val d.ix)) ∧
    (s.startOp q.val tyAdmin 0x12 = some d → d.zeroFrom 4 = true → exec (.discardImage q) s = .next
        (({ s with ptr := { p with staged := none, phase := if p.phase = .staged then .idle else p.phase } } : State).descDone q.val d.ix 0 0 0)) ∧
    (∀ bs, p.phase = .verifying → p.taken = some bs →
      (∀ r, s.verify bs = .error r → r ≠ 0 → Next .imageVerified s (fun t => ends t r)) ∧
      ∀ i, s.verify bs = .ok i → Next .imageVerified s (fun t =>
        t = { s with ptr := { p with phase := .quiescing, next := some i, affected := affectedBy p.image i }, arr := t.arr } ∧
        ∀ e, ∃ g, t.ar e = { s.ar e with groups := g })) ∧
    (p.phase = .quiescing → Next .quiesceTimeout s (fun t => ends t 0x12)) ∧
    (p.phase = .quiescing → s.affectedParts.all s.quiet = false → exec .quiesceDone s = .next s) ∧
    (p.phase = .quiescing → p.affected = 0 → exec .quiesceDone s = .next { s with ptr := { p with phase := .applying } }) ∧
    (∀ i, p.phase = .applying → p.next = some i → p.affected = 0 → p.image.floor = i.floor → (∀ k, p.image.stackOwner k = i.stackOwner k) →
      [p.image.x, p.image.y, p.image.z, p.image.xs, p.image.ys, p.image.zs, p.image.floor, p.image.seed] =
        [i.x, i.y, i.z, i.xs, i.ys, i.zs, i.floor, i.seed] → p.parts.length = 8 →
      (s.queue p.cmdQueue).flight = [] → s.boot.warmHeld = false → Next .applyComplete s (fun t => ∃ u : State, Reported u t ∧ u.queues = s.queues ∧ u.mem = s.mem ∧
        u.ptr = { p with image := i, source := 3, commits := min (p.commits + 1) 0xFFFF, lastReason := 0, next := none, taken := none,
                         phase := if p.staged.isSome then .staged else .idle })) ∧
    Next .ptrClamplogClr s (fun t => t = { s with regs := t.regs } ∧ t.rget ⟨.ptrClamplog, 0, 0, 0⟩ = 0 ∧
      ∀ off, off ≠ Reg.addr ⟨.ptrClamplog, 0, 0, 0⟩ → SMap.get none t.regs off = SMap.get none s.regs off)

/-- The life of a queue (12 R325, R329-R336, R339, R340, R345): a doorbell of the bound function sets SQ_TAIL, another master's is denied; a
queue whose turn it is fetches up to four descriptors from SQ_HEAD on, which a DRAINING one ends with status 4; the oldest descriptor, once
ended, has its record written at CQ_TAIL with the phase, and leaves; EN, RESET, the notification timer, NOP and QUEUE_DISABLE act as the rules
say.
Where no rule decides, the clauses follow the model's choices of log entries 73 and 94. -/
def Obligations.QueueLife : Prop :=
  ∀ (s : State) (q : QIx),
    let x := s.queue q.val
    let port := s.qPort q.val
    let moves := fun (c : Instr) (u : State) (y : Queue) => Next c s (fun t => t = { u with queues := t.queues } ∧ t.queue q.val = y ∧
      ∀ r, r ≠ q.val → t.queue r = s.queue r)
    let slot := fun (j : Nat) => s.hostRead port (ringBase x.sq + 64 * ((x.sqHead + j) % x.sqSize)) 64
    let w := s.descSlots q.val
    let raw := fun (j : Nat) => leNat (slot (w * j) ++ if w = 1 then [] else slot (w * j + 1))
    let begun := fun (r : Nat) => match x.st with | .draining => DescSt.done 4 0 0 | .unavailable => .done 9 0 0 | _ => s.fetchSt q.val r
    (∀ (m : BitVec 12) (v : BitVec 16), s.accCheck m.toNat .wr (linesOf (quePtrAddr q.val) 8) = none →
      (s.mayDrive m.toNat q.val = true → s.qst q.val = .enabled → x.resetting = false → v.toNat < x.sqSize → moves (.doorbellWrite m q v) s { x with sqTail := v.toNat }) ∧
      (m.toNat ≠ s.qMaster q.val → isMgmt m.toNat = false → exec (.doorbellWrite m q v) s = .next (s.postDenied m.toNat (quePtrAddr q.val)))) ∧
    ((s.canFetch q.val && s.hasTurn q.val) = false → ∀ b, exec (.descriptorFetch q b) s = .next s) ∧
    (s.canFetch q.val = true → s.hasTurn q.val = true → ringLoc x.sq = 0 → x.sqHead < x.sqSize →
      let n := min (min 4 (x.ready / w)) (16 - x.flight.length)
      moves (.descriptorFetch q 0) (s.setPort port { s.port port with turn := (q.val + 1) % 4096 }) { x with
        sqHead := (x.sqHead + w * n) % x.sqSize, nextIx := x.nextIx + n,
        flight := x.flight ++ (List.range n).map (fun j =>
          { raw := raw j, next := (x.sqHead + w * (j + 1)) % x.sqSize, st := begun (raw j), ix := x.nextIx + j }) }) ∧
    (∀ d rest st tsf res, x.flight = d :: rest → d.st = .done st tsf res → x.err ≠ 2 → s.recordGoes q.val d = true → d.other = false →
      ringLoc x.cq = 0 → x.counted + 1 < natBits x.notify 39 32 → x.st = .enabled → x.resetting = false →
      let c := s.qType q.val == tyCompute
      moves (.completionRecord q) (s.hostWrite port (ringBase x.cq + 32 * (x.cqTail % x.cqSize))
          (leBytes 32 (complRaw st (b2n x.phase) d.next q.val d.opcode tsf (if c then Aop.tag d.raw else d.f 1 15 0)
            (if c then 0 else natBits d.raw 127 64) res)))
        { x with cqTail := (x.cqTail + 1) % x.cqSize, phase := if (x.cqTail + 1) % x.cqSize = 0 then !x.phase else x.phase, flight := rest,
                 counted := x.counted + 1 }) ∧
    (natBits x.notify 55 40 ≠ 0 → x.counted ≠ 0 → x.resetting = false → x.notify.testBit 0 = true → x.notify.testBit 12 = false →
      moves (.notifyTimer q) (s.msix port (s.qFunc q.val) (natBits x.notify 11 1)) { x with counted := 0 }) ∧
    (∀ i, s.queueOwner q.val = some i → x.st = .disabled → x.resetting = false → s.boot.phase = 12 → nth .unused s.ptr.parts i = .running →
      moves (.queueEnable q) s { x with err := 0, en := true, st := .enabled }) ∧
    (x.st = .enabled → x.resetting = false → (x.flight ≠ [] ∨ w ≤ x.ready) → moves (.queueEnClear q) s { x with en := false, st := .draining }) ∧
    (x.st = .enabled → x.resetting = false → x.flight = [] → x.ready < w → x.counted = 0 → x.disableFor = [] →
      moves (.queueEnClear q) s { x with en := false, st := .disabled }) ∧
    (s.qst q.val = .disabled → x.resetting = false → moves (.queueReset q) s { x with sqTail := 0, sqHead := 0, cqTail := 0, cqHead := 0, phase := true }) ∧
    (∀ d, s.startOp q.val tyAdmin 1 = some d → d.zeroFrom 4 = true → moves (.adminNop q) s { x with
      flight := x.flight.map (fun e => if e.ix = d.ix then { e with st := .done 0 0 0, batches := [] } else e) }) ∧
    ∀ d, s.startOp q.val tyAdmin 2 = some d → d.f 4 31 12 = 0 → d.zeroFrom 5 = true →
      let n := d.f 4 11 0
      n ≠ q.val → s.qPort n = port → s.qst n = .enabled → (s.queue n).resetting = false → ((s.queue n).flight ≠ [] ∨ s.descSlots n ≤ (s.queue n).ready) →
      Next (.queueDisable q) s (fun t => t = { s with queues := t.queues } ∧
        t.queue q.val = { x with flight := x.flight.map (fun e => if e.ix = d.ix then { e with st := .running } else e) } ∧
        t.queue n = { s.queue n with en := false, st := .draining, disableFor := (s.queue n).disableFor ++ [q.val] } ∧
        ∀ r, r ≠ q.val → r ≠ n → t.queue r = s.queue r)

/-- Copies, fills and messages (12 R331, R337, R338): COPY and FILL start unless malformed; each page is read, or made of the pattern, and
written whole with the hint it names, PROG grows by its length, and the last one ends the descriptor; MSG writes words 4-15 at DEST.
Where no rule decides, the clauses follow the model's choices of log entry 26. -/
def Obligations.CopiesAndMessages : Prop :=
  ∀ (s : State) (q : QIx) (d : QDesc),
    let done := fun (t : State) (st : Nat) => t.descDone q.val d.ix st 0 0
    let n := pageLen (d.addr 6) d.prog (d.len40 8)
    let m := dmaMaster d.die q.val d.ix
    let after := fun (u : State) => (let v := u.updDesc q.val d.ix (fun e => { e with prog := d.prog + n })
      if d.prog + n = d.len40 8 then
        ((v.raise d.die (192 + Config.dmaEngine q.val d.ix % 16)).count (pmcDie d.die 66) 4 1).descDone q.val d.ix 0 0 (d.prog + n)
      else v)
    (s.runs .dma = true → ∀ c opc, (c, opc) ∈ [(Instr.copy q, 1), (Instr.fill q, 2)] → s.startOp q.val tyCopy opc = some d →
      exec c s = .next (if s.copyBad q.val d then done s 1 else s.descRun q.val d.ix)) ∧
    (s.runs .dma = true → s.qType q.val = tyCopy →
      (s.queue q.val).flight.find? (fun d => d.st == .running && d.batches == [] && (d.opcode == 1 || d.opcode == 2)) = some d →
      ∀ (e : HostErr) ld s1, State.descPages q.val d.ix d.die .wr e (pagesOf (d.addr 6 + d.prog) n) s = (some ld, s1) →
      (d.opcode = 2 → ∀ u, s1.descWrite q.val d.ix m (d.f 10 7 6) ld
          ((upFrom (d.addr 6 + d.prog) n).map (fun a => BitVec.ofNat 8 (d.pattern >>> (8 * (a % 8))))) = (true, u) →
        exec (.dmaPageComplete q e) s = .next (after (u.count (pmcDie d.die 66) 3 n))) ∧
      (d.opcode = 1 → ∀ ls s2 bs s3 u, State.descPages q.val d.ix d.die .rd e (pagesOf (d.addr 4 + d.prog) n) s1 = (some ls, s2) →
        State.readLocs m e (d.f 10 5 4) ls s2 = (some bs, s3) →
        (s3.count (pmcDie d.die 66) 2 n).descWrite q.val d.ix m (d.f 10 7 6) ld bs = (true, u) →
        exec (.dmaPageComplete q e) s = .next (after (u.count (pmcDie d.die 66) 3 n)))) ∧
    (s.opDesc q.val tyService 0x70 = some d → d.addr 4 % 64 = 0 → d.f 5 31 24 = 0 → ∀ e : HostErr,
      let p := s.homeDie q.val
      let k := dmaMaster p q.val d.ix
      (∀ s1, State.descPages q.val d.ix p .wr e [(d.addr 4, 48)] s = (none, s1) → exec (.msg q e) s = .next (s1.descRun q.val d.ix)) ∧
      ∀ a h s1, State.descPages q.val d.ix p .wr e [(d.addr 4, 48)] s = (some [⟨.dev a, 48, h⟩], s1) → s1.accCheck k .wr (linesOf a 48) = none →
        exec (.msg q e) s = .next (done ((s1.store a (leBytes 48 (natBits d.raw 511 128))).memPort k .write (effHint 0 0 h) a 48) 0))

/-- Requests of a host and what a port undergoes (10 R277; 12 R319-R327, R341, R342, R346; 17 R454): a request whose stack is HOT, or that may
not pass one held, is held; a poisoned write is discarded; BAR2 doorbells, BAR0 accesses, BAR4 reads, writes and AtomicOps answer and act as
the rules say; configuration space answers; a function-level or port reset is counted and begins; a completion, or its error, reaches the core
that waits for it; PCI_OUTERR clears; PERST# deasserting brings the link to 2.5 GT/s.
Where no rule decides, the clauses follow the model's choices of log entry 74. -/
def Obligations.HostAccess : Prop :=
  ∀ (s : State) (n : PortIx) (f : FnIx) (ro : Bool),
    let p := s.port n
    let m := fnMaster n f
    let m0 := fnMaster n 0
    let a := fun (off : BitVec 40) => s.bar4Base n + off.toNat
    let passes := fun (g : FnIx) (o : HostOp) => s.hostWaits n p.inq ⟨g, ro, o⟩ = false
    let opens := fun (x : Nat) (len : Nat) => p.cfgUp = true ∧ (s.fn n 0).memEn = true ∧ (s.fn n 0).d3 = false ∧ x + len ≤ s.bar4Size n
    let sound := (s.rget regErrInj).testBit 63 = false ∧ s.err.upsets = []
    let replies := fun (u : State) (st : Nat) (bs : List Byte) => u.setPort n { u.port n with cpl := some (st, bs) }
    let stored := fun (t : State) (x : Nat) (bs : List Byte) =>
      CacheOnly { s with mem := Mem.writeN s.mem x bs, err := { s.err with bad := t.err.bad } } t
    let quiet := (∀ g : FnIx, s.fnQueues n g = []) ∧
      ∀ d, (s.ar d).ops = [] ∧ (s.ar d).groups = [] ∧ (s.ar d).admitting = none ∧ (s.ar d).parked = []
    (∀ (off : BitVec 40) (l : Fin 4097) wr, ¬ passes f (.bar4 off.toNat l wr) → exec (.bar4Access n f off l ⟨wr, ro, false⟩) s =
      .next (s.setPort n { p with inq := p.inq ++ [⟨f, ro, .bar4 off.toNat l wr⟩] })) ∧
    (∀ (off : BitVec 40) (l : Fin 4097) bs, exec (.bar4Access n f off l ⟨some bs, ro, true⟩) s = .next (s.poisoned n f)) ∧
    (∀ (off : BitVec 25) v, s.fnServes n f = true → 12 ≤ s.boot.phase → off.toNat < 4096 * 4096 → off.toNat % 4096 = 0 →
      passes f (.bar0 true off.toNat 4 (some v)) → exec (.bar0Access n f true off 4 ⟨some v, ro, false⟩) s =
        .next (s.busWrite m (clampSrc m) (Reg.addr ⟨.quePtr, off.toNat / 4096, 0, 0⟩) 4 (v.toNat % 2 ^ 16)).2) ∧
    (∀ (off : BitVec 25), s.fnServes n 0 = true → 12 ≤ s.boot.phase → off.toNat % 4 = 0 → (mmioTarget off.toNat).isSome = true →
      (∀ v, passes 0 (.bar0 false off.toNat 4 (some v)) → exec (.bar0Access n 0 false off 4 ⟨some v, ro, false⟩) s =
        .next (s.busWrite m0 (clampSrc m0) off.toNat 4 (v.toNat % 2 ^ 32)).2) ∧
      ∀ x s1, passes 0 (.bar0 false off.toNat 4 none) → s.busRead m0 off.toNat 4 = (.ok x, s1) →
        exec (.bar0Access n 0 false off 4 ⟨none, ro, false⟩) s = .next (replies s1 0 (leBytes 4 x))) ∧
    (∀ (off : BitVec 40) (l : Fin 4097), opens off.toNat l → passes 0 (.bar4 off.toNat l none) → sound →
      s.accCheck m0 .rd (linesOf (a off) l.val) = none →
      Next (.bar4Access n 0 off l ⟨none, ro, false⟩) s (fun t => ∃ u, CacheOnly s u ∧ t = replies u 0 (Mem.readN s.mem (a off) l.val))) ∧
    (∀ (off : BitVec 40) (l : Fin 4097) bs, opens off.toNat bs.length → passes 0 (.bar4 off.toNat l (some bs)) → bs ≠ [] →
      (a off) % 64 + bs.length ≤ 64 → s.accCheck m0 .wr (linesOf (a off) bs.length) = none →
      Next (.bar4Access n 0 off l ⟨some bs, ro, false⟩) s (fun t => stored t (a off) bs)) ∧
    (∀ (off : BitVec 40) op (wide : Fin 2) (x y : BitVec 64), let w := 4 * 2 ^ wide.val
      opens off.toNat w → a off % w = 0 → s.hostWaits n p.inq ⟨0, false, .atomic true off.toNat op w x.toNat y.toNat⟩ = false → sound →
      s.accCheck m0 .at (linesOf (a off) w) = none →
      let old := Mem.readLE s.mem (a off) w
      let new := match op with
        | .fetchAdd => (old + x.toNat % 2 ^ (8 * w)) % 2 ^ (8 * w)
        | .swap => x.toNat % 2 ^ (8 * w)
        | .cas => if old = x.toNat % 2 ^ (8 * w) then y.toNat % 2 ^ (8 * w) else old
      Next (.atomicop n 0 true off op ⟨wide.val, by omega⟩ (x, y) false) s (fun t =>
        ∃ u, stored u (a off) (leBytes w new) ∧ t = replies u 0 (leBytes w old))) ∧
    (s.cfgServes n f = true → (s.fn n f).msix = [] → ∀ on, let t := s.setFn n f { s.fn n f with bme := on }
      let u := if on then t.heldAll else t
      exec (.busMasterEnable n f on) s = .next u ∧ exec (.configRequest n f (.write (.busMaster on))) s = .next (replies u 0 []) ∧
      exec (.configRequest n f (.read 0)) s = .next (replies s 0 (leBytes 4 (0x1D9A + (if f.val = 0 then 0x0816 else 0x0817) * 2 ^ 16)))) ∧
    (s.cfgServes n f = false → (∀ on, exec (.busMasterEnable n f on) s = .next s) ∧ (p.cfgUp = true → ∀ r,
      exec (.configRequest n f r) s = .next (replies s (if s.boot.phase ≤ 6 then 3 else 1) []))) ∧
    (f.val ≠ 0 → quiet → Next (.functionLevelReset n f) s (fun t => t = { s with ports := t.ports, arr := t.arr } ∧ (∀ d, t.ar d = s.ar d) ∧
      t.port n = { p with flrs := min (p.flrs + 1) 0xFFFFFFFF, fns := (t.port n).fns } ∧ t.fn n f = { s.fn n f with flr := true })) ∧
    (f.val ≠ 0 → s.arr = [] → (s.fn n f).flr = true → s.fnQueues n f = [] → exec (.flrComplete n f) s = .next (s.setFn n f {})) ∧
    (quiet → ∀ kind : Fin 3, Next (.portReset n kind) s (fun t => (t.port n).resets = min (p.resets + 1) 0xFFFF ∧ (t.port n).inq = [] ∧
      (∀ g : FnIx, t.fn n g = { s.fn n g with bme := false, flr := true, cut := true }) ∧
      (t.port n).link = (if kind.val = 0 then 1 else 0) ∧
      (kind.val = 2 → (t.port n).perst = true ∧ (t.port n).cfgUp = false) ∧ (kind.val ≠ 2 → (t.port n).cfgUp = p.cfgUp) ∧
      t.queues = s.queues ∧ t.mem = s.mem ∧ ∀ d, t.ar d = s.ar d)) ∧
    (∀ k id i r, s.hostPart k.val = some (id, i, r) → r.atom = none → ∀ data, exec (.outboundReadCompletion (.core k) .ok data) s =
      .next (s.coreAnswer k.val id i (some (leBytes r.n (leNat data))))) ∧
    (∀ k id i r g b, s.hostPart k.val = some (id, i, r) → r.host = some (g, b) →
      let fails := fun (e : Nat) => (s.outErr g e (coreMaster k.val) b).coreAnswer k.val id i none
      exec (.completionTimeout (.core k)) s = .next (fails 3) ∧ ∀ e data, e ≠ .ok →
        exec (.outboundReadCompletion (.core k) e data) s = .next (fails (match e with | .ok => 0 | .ur => 1 | .ca => 2 | .poisoned => 4))) ∧
    exec (.pciOuterrClr n) s = .next (s.setPort n { p with outKind := 0, outMaster := 0, outCount := 0 }) ∧
    (s.pwr.input = true → p.perst = true → if s.boot.phase < 3 ∨ (s.boot.phase = 13 ∧ n.val = 1) then
        exec (.perstDeassert n) s = .next (s.setPort n { p with perst := false })
      else Next (.perstDeassert n) s (fun t => t = { s with free := s.free + 1, ports := t.ports } ∧
        t.port n = { p with perst := false, cfgUp := true, link := 3, rate := 1, width := (t.port n).width, flit := (t.port n).flit,
                            reversed := (t.port n).reversed } ∧ (t.port n).width ∈ [1, 2, 4, 8, 16]))

/-- Admission, issue and ends of array operations (04 R103-R124): the sequencer takes the AOP of the source whose turn it is; one that fails a
check completes MALFORMED with its detail; one that passes waits for issue; FLUSH and the budget close groups; issue puts the sequencer in
PREP; ARR_ABORT and a halt end what runs; a completed operation is reported to its source; the core ring's TAIL and records.
Where no rule decides, the clauses follow the model's choices of log entries 51 and 52. -/
def Obligations.ArrayAdmission : Prop :=
  ∀ (s : State) (p : DieIx),
    let a := s.ar p
    let arrOnly := fun (t : State) (x : Arr) => t = { s with arr := t.arr } ∧ t.ar p = x ∧ ∀ d, d ∉ s.gang p → t.ar d = s.ar d
    let halted := fun (t : State) => (t.ar p).seq = .halting ∧ (t.ar p).groups = [] ∧ (t.ar p).loads = [] ∧
      (∀ id, id ∈ s.running p → ∃ o, o ∈ (t.ar p).ops ∧ o.id = id ∧ o.fate = .aborted) ∧ (t.ar p).slots = (Arr.freeDrained { a with
        slots := a.slots.map (fun l => if (s.running p).contains l.op then
          (if l.st = .filling then { l with st := .discarded } else if l.st = .complete then {} else l) else l) }).slots ∧
      ∀ d, d ∈ s.gang p → d ≠ p.val → (t.ar d).relay = (s.ar d).relay ++ [.halt]
    (∀ src ix raw asid, s.runs .array = true → s.isMaster p = true → a.seq ≠ .stopped → s.dieReleased p = true → a.admitting = none →
      (a.ops.filter (fun o => !o.issued && !o.gathered)).length < 16 → s.nextSource p = some src → s.reAdmit p src = none →
      s.offer p src = some (ix, raw, asid) → Next (.aopAdmit p) s (fun t =>
        (t.ar p).admitting = some { aop := raw, src := src, ix := ix, asid := asid, func := s.srcFunc src,
                                    no := match src with | .queue _ => ix | _ => a.taken } ∧
        (t.ar p).taken = a.taken + 1 ∧ (t.ar p).rot = src.turn + 1 ∧ (t.ar p).ops = a.ops ∧
        (∀ q, src = .queue q → t.queues = (s.descRun q ix).queues) ∧ (∀ d, src = .cring d → (t.ar d).cringHead = ix))) ∧
    (∀ r, s.runs .array = true → a.admitting = some r →
      let de := if r.judged then 0 else s.aopDetail r.aop (s.srcPart r.src)
      (de ≠ 0 → exec (.aopAdmissionDone p) s =
        .next ((s.setAr p { a with admitting := none }).aopDone p r 1 (arrResult {} de false false 0))) ∧
      (de = 0 → (∀ x, x ∈ r.aop.ranges → x.1 + x.2.1 ≤ 2 ^ 56) → ∀ ps s1,
        State.admitRanges r p (s.srcPart r.src) (s.gang r.aop.die) r.aop.ranges {} s = ({ pages := ps }, s1) →
        let g := s1.gangMaster r.aop.die
        s1.candidate g r.aop = false → let v := s1.setAr p { s1.ar p with admitting := none }
        exec (.aopAdmissionDone p) s = .next (v.setAr g { v.ar g with nextId := (v.ar g).nextId + 1, ops := (v.ar g).ops ++
          [{ id := (v.ar g).nextId, reqs := [{ aopr := { r with pages := ps }, row0 := 0, rows := r.aop.m }], gathered := false }] }))) ∧
    (∀ i, s.runs .array = true → Next (.gatherBudgetExpire p i) s (fun t => arrOnly t { a with groups := a.groups.eraseIdx i.val })) ∧
    (s.isMaster p = true → Next (.arrGctlFlush p) s (fun t => arrOnly t { a with groups := [] })) ∧
    (s.isMaster p = false → exec (.arrGctlFlush p) s = .next s) ∧
    (∀ o, s.runs .array = true → s.isMaster p = true → (a.seq = .idle ∨ a.seq = .stream) →
      (∀ x, x ∈ a.ops → x.issued = true → x.fate ≠ .run ∨ ∃ i, x.pass = some i ∧ x.passes (s.gang p).length ≤ i + 1) →
      a.ops.find? (fun x => !x.issued) = some o → (∀ g, g ∈ a.groups → g.id ≠ o.id) → s.issueBlocked o = false →
      Next (.operationIssue p) s (fun t => arrOnly { t with regs := s.regs } { a with
          seq := .prep, ops := a.ops.map (fun x => if x.id = o.id then { x with issued := true } else x),
          nextLoad := SMap.set 0 a.nextLoad o.id 0 } ∧
        (∀ d, d ∈ s.gang p → (t.ar d).nextLoad = SMap.set 0 (s.ar d).nextLoad o.id 0) ∧ (o.gathered = false → t.regs = s.regs) ∧
        ∀ off, ¬ CounterAt off → SMap.get none t.regs off = SMap.get none s.regs off)) ∧
    (∀ m v, s.isMaster p = true → (a.seq = .prep ∨ a.seq = .stream) →
      (s.accCheck m.toNat .wr (linesOf (mmioBase + Reg.addr ⟨.arrAbort, p.val, 0, 0⟩) 4) = none → v.toNat % 2 = 1 →
        Next (.arrAbort p m v) s halted) ∧ Next (.arrayHalt p) s halted) ∧
    (s.runs .array = true → a.seq = .halting → (∀ d, d ∈ s.gang p → (s.ar d).pipe = [] ∧ (s.ar d).relay = []) →
      exec (.haltComplete p) s = .next (s.setAr p { a with seq := match s.curOp p with
        | some o => if o.pass.isSome then .stream else .prep
        | none => .idle })) ∧
    (∀ o r q, s.runs .array = true → a.ops.find? (fun o => s.opOver p o) = some o → o.reqs = [r] → r.removed = false → o.fate = .run → r.aopr.src = .queue q →
      Next (.operationComplete p) s (fun t => (t.ar p).ops = a.ops.filter (fun x => x.id != o.id) ∧
        t.queues = (s.descDone q r.aopr.ix 0 (arrResult r.flags 0 o.gathered o.reused r.epi) 0).queues ∧
        t = { s with arr := t.arr, queues := t.queues, regs := t.regs, ldg := t.ldg })) ∧
    (∀ v : BitVec 16, v.toNat < 2 ^ s.cringLog p → Next (.cringTailWrite p v) s (fun t => t = { s with regs := t.regs } ∧ t.cringTail p = v.toNat)) ∧
    (∀ next st w tag rest, s.runs .array = true → a.cringDone = (next, some (st, w, tag)) :: rest → s.ccmpFull p = false →
      let size := 2 ^ s.cringLog p
      let u := s.store (s.rf (arrReg .arrCcmp p) 51 12 * 4096 + 32 * (a.ccmpTail % size)) (leBytes 32
        (complRaw st (1 - (a.ccmpTail / size) % 2) next 4096 (tag / 2 ^ 16) w (tag % 2 ^ 16) 0 0))
      Next (.cringCompletionWrite p) s (fun t =>
        Reported (u.setAr p { a with cringDone := rest, ccmpTail := (a.ccmpTail + 1) % (2 * size) }) t))

/-- The array's data path (03 R77-R101; 04 R112, R113): staging reads fill the last load in hand, line by line, or skip a resident slice; a load
claims a free bank and makes it READY; a swap makes it ACTIVE; a vector enters under the ACTIVE bank and is relayed; its AC stage adds every
column's result to what the slot holds; biases and residual rows are held; a follower's reports reach the master. With its clock stopped the
array holds its state (18 R472).
Where no rule decides, the clauses follow the model's choices of log entries 51 and 53. -/
def Obligations.ArrayDataPath : Prop :=
  ∀ (s : State) (p : DieIx),
    let a := s.ar p
    let g := (s.gang p).length
    let rank := s.rank p
    let arrOnly := fun (t : State) => CacheOnly { s with arr := t.arr } t
    (s.runs .array = false → ∀ c, c ∈ [Instr.stagingReadArrive p, .loadFirstWrite p, .loadLastWrite p, .swap p, .vectorEntry p,
      .vectorAccumulate p, .biasHeld p, .residualRowHeld p, .readinessReport p] → exec c s = .next s) ∧
    (s.runs .array = true →
    (∀ ls l o, a.loads = ls ++ [l] → s.opOf p l.op = some o → l.arrived < l.rows →
      let x := o.passAt l.pass
      let lines := o.rowLines g x rank l.arrived
      let n := if l.bank = none then o.rowBytes g x rank l.arrived else 0
      let q := s.readLines (loaderM p) o.lead lines l.lines
      let row := o.bankRow (lineByte q.1) g x rank l.arrived
      a.staged + n ≤ 65536 → (∀ y, y ∈ lines → SMap.get none l.lines y = none → s.hotAt y = false) →
      Next (.stagingReadArrive p) s (fun t => arrOnly t ∧ (t.ar p).loads = ls ++ [{ l with
        arrived := l.arrived + 1, staged := l.staged + n, elems := mergeMap l.elems row.1, tags := mergeMap l.tags row.2,
        lines := q.1.filter (fun e => (if l.arrived + 1 < l.rows then o.rowLines g x rank (l.arrived + 1) else []).contains e.1) }])) ∧
    (∀ o i b, a.loads.length < 2 → (∀ l, l ∈ a.loads → l.bank ≠ none ∧ l.rows ≤ l.arrived) → s.loadNext p = some (o, i) →
      o.aop.reuse = true → a.resident (o.slice g (o.passAt i) rank) = some b →
      Next (.stagingReadArrive p) s (fun t => arrOnly t ∧ (t.ar p).bank b = { a.bank b with keep := (a.bank b).keep ++ [(o.id, i)] } ∧
        SMap.get 0 (t.ar p).nextLoad o.id = i + 1 ∧ (p.val, .shadow o.id i) ∈ (t.ar p).reports ∧ (t.ar p).loads = a.loads)) ∧
    (∀ l rest b, a.loads = l :: rest → l.bank = none → l.arrived ≠ 0 → [0, 1].find? (s.bankFree p) = some b →
      Next (.loadFirstWrite p) s (fun t => arrOnly t ∧ (t.ar p).bank b = { st := .loading, keep := [(l.op, l.pass)] } ∧
        (t.ar p).loads = { l with bank := some b, staged := 0 } :: rest)) ∧
    (∀ l rest b, a.loads = l :: rest → l.bank = some b → l.rows ≤ l.arrived → Next (.loadLastWrite p) s (fun t => arrOnly t ∧
      (t.ar p).bank b = { a.bank b with st := .ready, slice := some l.slice, elems := l.elems, tags := l.tags } ∧ (t.ar p).loads = rest ∧
      (p.val, .shadow l.op l.pass) ∈ (t.ar p).reports)) ∧
    (∀ o b l, s.isMaster p = true → (a.seq = .prep ∨ a.seq = .stream) → s.curOp p = some o → a.keptFor .active o.id o.nextPass = none →
      a.keptFor .ready o.id o.nextPass = some b →
      s.passReady p o = some l → Next (.swap p) s (fun t => arrOnly t ∧ (t.ar p).seq = .stream ∧ ((t.ar p).bank b).st = .active ∧
        (∀ c, a.activeBank = some c → ((t.ar p).bank c).st = .ready) ∧
        ∀ d, d ∈ s.partDies p o (o.passAt o.nextPass) → d ≠ p.val → (t.ar d).relay = (s.ar d).relay ++
          [.swap o.id o.nextPass (if (o.passAt o.nextPass).kp = 0 then l else o.slots)])) ∧
    (∀ o i b, s.isMaster p = true → (a.seq = .prep ∨ a.seq = .stream) → s.curOp p = some o → o.pass = some i → o.passDone = false →
      s.rowHeld p o (o.passAt i) (o.row0 (o.passAt i) + o.entered) = true →
      s.rowHot o (o.passAt i) (o.row0 (o.passAt i) + o.entered) = false → a.activeBank = some b →
      let x := o.passAt i
      let v : Vec := { op := o.id, pass := i, row := o.row0 x + o.entered, bank := 0, slot := nth 0 o.slots (o.entered / o.tm),
                       slotRow := o.entered % o.tm, elems := (o.vector s x (o.row0 x + o.entered)).1,
                       scales := (o.vector s x (o.row0 x + o.entered)).2 }
      Next (.vectorEntry p) s (fun t => arrOnly t ∧ (t.ar p).pipe = a.pipe ++ [{ v with bank := b }] ∧
        ((t.ar p).bank b).inFlight = (a.bank b).inFlight + 1 ∧ (t.ar p).ops = a.ops.map (fun y => if y.id = o.id then { y with
          entered := y.entered + 1, streamed := decide (o.passRows x ≤ o.entered + 1) && decide (o.passes g ≤ i + 1) } else y) ∧
        ∀ d, d ∈ s.partDies p o x → d ≠ p.val → (t.ar d).relay = (s.ar d).relay ++ [.vec v])) ∧
    (∀ v rest o, s.err.upsets = [] → a.pipe = v :: rest → s.opOf p v.op = some o →
      let sl := nth {} a.slots v.slot
      let x := o.passAt v.pass
      let left := sl.left - 1
      sl.st = .filling → sl.op = v.op → v.slot < a.slots.length → sl.cols ≤ 512 → Next (.vectorAccumulate p) s (fun t =>
        t = { s with arr := t.arr } ∧ (t.ar p).pipe = rest ∧ ((t.ar p).bank v.bank).inFlight = (a.bank v.bank).inFlight - 1 ∧
        (nth {} (t.ar p).slots v.slot).left = left ∧ ((nth {} (t.ar p).slots v.slot).st = if left = 0 then .complete else .filling) ∧
        (t.ar p).ftq = (if left = 0 then a.ftq ++ [v.slot] else a.ftq) ∧
        ∀ c, c < sl.cols →
          let loc := acbAddr v.slot v.slotRow c sl.f64
          let old := if sl.touched.contains v.slotRow then Mem.readLE a.acb loc (accBytes sl.f64) else a.preloadVal o x v.row c
          Mem.readLE (t.ar p).acb loc (accBytes sl.f64) =
            (accumulate o.cls.accFmt old (o.column s.ptr.image.id x v (a.bank v.bank) c).1).1 % 256 ^ accBytes sl.f64)) ∧
    (∀ o x, (s.preGroups p).find? (fun e => e.1.aop.preload == 1 && !a.bias.any (fun b => b.op == e.1.id && b.ix == e.1.biasIx e.2)) =
        some (o, x) →
      let n := o.cols g x rank
      let w := preBytes o.aop.preFmt
      let va := o.lead.aop.preAddr + o.n0 g x rank * w
      a.preRoom o n = true → s.runHot o.lead va (n * w) = false → Next (.biasHeld p) s (fun t => arrOnly t ∧
        (t.ar p).bias = a.bias ++ [⟨o.id, o.biasIx x, o.preVals o.lead s va n, o.cls == .f64⟩] ∧
        (p.val, .bias o.id (o.biasIx x)) ∈ (t.ar p).reports)) ∧
    (∀ o x row, (s.preGroups p).findSome? (fun e => if e.1.aop.preload == 2 then (s.residNext p e.1 e.2).map (fun r => (e.1, e.2, r)) else none) =
        some (o, x, row) →
      let n := o.cols g x rank
      let w := preBytes o.aop.preFmt
      let va := o.lead.aop.preAddr + row * o.lead.aop.preStride + o.n0 g x rank * w
      a.preRoom o n = true → s.runHot o.lead va (n * w) = false → Next (.residualRowHeld p) s (fun t => arrOnly t ∧
        (t.ar p).resid = a.resid ++ [⟨o.id, o.residIx x row, o.preVals o.lead s va n, o.cls == .f64⟩] ∧
        (p.val, .residual o.id (o.residIx x row)) ∈ (t.ar p).reports)) ∧
    (s.isMaster p = false → Next (.readinessReport p) s (fun t => t = { s with arr := t.arr } ∧ t.ar p = { a with reports := [] } ∧
      (t.ar (s.gangMaster p)).reports = (s.ar (s.gangMaster p)).reports ++ a.reports)) ∧
    (s.isMaster p = true → exec (.readinessReport p) s = .next s))

/-- Sage instructions that compute (05 R134-R138, R143, R144): each well-formed one writes register D from its sources, lane by lane, pair by
pair, or by the fixed tree, and the row goes on, or ends with E; NOP, PROG, JMP and BNZ set the program counter.
Where no rule decides, the clauses follow the model's choices of log entry 20. -/
def Obligations.SageInstructions : Prop :=
  ∀ (s : State) (p : DieIx) (x : Fin 4) (t : SageTile) (row : SageRow) (i : Nat) (r : Req) (w : Nat),
    SageAt s p x t row i r w →
    let e := s.sageEnv p t row.row i r
    let sg := s.sg p
    let src := sageSrc e sg row
    let writes := fun (c : Instr) (vs : List Nat) => SageTo c s p x t w sg.tb (fun r' => SageWrote row r' (siD w) vs)
    let goes := fun (c : Instr) (pc : Nat) => SageTo c s p x t w sg.tb (fun r' => r' = { row with pc := pc, steps := row.steps + 1 })
    let ty := siTY w
    let f := tyFmt ty
    let n := if ty = 2 then 256 else 512
    let el := fun (c j : Nat) => nth 0 (tyRead ty (src c)) j
    let ab := fun (y : Nat) => if siAbs w then fpAbs f y else y
    let lane := fun (c l : Nat) => nth 0 (src c) l
    let lanes := fun (g : Nat → Nat) => (List.range 512).map g
    let sum := fun (a b : Nat) => (fpAdd f .rne a b).1
    (∀ c o g, (c, o, g) ∈ [(Instr.sageFadd p x, 0x08, fun a b => (fpAdd f .rne a b).1), (.sageFsub p x, 0x09, fun a b => (fpSub f .rne a b).1),
        (.sageFmul p x, 0x0A, fun a b => (fpMul f .rne a b).1), (.sageFmax p x, 0x0C, fMaxMin true f), (.sageFmin p x, 0x0D, fMaxMin false f)] →
      siOpc w = o → sageForm { d := true, a := true, b := true, fm := 0b111 } w = true → ty ≠ 3 →
      writes c (tyPut ty ((List.range n).map (fun j => g (ab (el (siA w) j)) (el (siB w) j))))) ∧
    (siOpc w = 0x0B → sageForm { d := true, a := true, b := true, c := true, fm := 0b111 } w = true → ty ≠ 3 → writes (.sageFma p x)
      (tyPut ty ((List.range n).map (fun j => (fpFma f .rne (ab (el (siA w) j)) (el (siB w) j) (el (siC w) j)).1)))) ∧
    (siOpc w = 0x0E → sageForm { d := true, a := true, b := true, fm := 0b110011 } w = true → ty ≠ 3 →
      let cs := (List.range n).map (fun j => if fcmpRel f (natBits w 21 20) (el (siA w) j) (el (siB w) j) then 1 else 0)
      writes (.sageFcmp p x) (if ty = 2 then ofPairs cs else cs)) ∧
    (siOpc w = 0x0F → sageForm { d := true, a := true, b := true, c := true } w = true →
      writes (.sel p x) (lanes (fun l => if lane (siA w) l = 0 then lane (siC w) l else lane (siB w) l))) ∧
    (∀ o g, (o, g) ∈ [(0x10, fun a b => (a + b) % 2 ^ 32), (0x11, fun a b => (a + 2 ^ 32 - b) % 2 ^ 32), (0x12, fun a b => a * b % 2 ^ 32),
        (0x13, fun a b => a &&& b), (0x14, fun a b => a ||| b), (0x15, fun a b => a ^^^ b)] → siOpc w = o →
      sageForm { d := true, a := true, b := true } w = true → writes (.sageIadd p x) (lanes (fun l => g (lane (siA w) l) (lane (siB w) l)))) ∧
    (∀ o g, (o, g) ∈ [(0x16, fun a k => a <<< k % 2 ^ 32), (0x17, fun a k => a >>> k),
        (0x18, fun a k => ofSigned 32 (toSigned 32 a / ((2 ^ k : Nat) : Int)))] → siOpc w = o →
      sageForm { d := true, a := true, imm := true } w = true → writes (.sageShl p x) (lanes (fun l => g (lane (siA w) l) (siImm w % 32)))) ∧
    (siOpc w = 0x19 → sageForm { d := true, imm := true } w = true → writes (.movi p x) (List.replicate 512 (signExt 16 32 (siImm w)))) ∧
    (siOpc w = 0x1A → sageForm { d := true, imm := true } w = true →
      writes (.movf p x) (List.replicate 512 (if valIsNaN (fpDecode fp32 (siImm w * 2 ^ 16)) then fp32.nanBits else siImm w * 2 ^ 16))) ∧
    (siOpc w = 0x1C → natBits w 21 20 ≤ 1 →
      let rm : RMode := if natBits w 21 20 = 0 then .rne else .rz
      let k := natBits w 19 16
      (sageForm { d := true, a := true, fm := 0b111111 } w = true →
        (k = 0 → writes (.cvt p x) (lanes (fun l => (fpEncode fp32 rm (valOfInt (toSigned 32 (lane (siA w) l)))).1))) ∧
        (k = 1 → writes (.cvt p x) (lanes (fun l => fpToInt32 rm (lane (siA w) l)))) ∧
        (k = 2 ∨ k = 3 → writes (.cvt p x)
          (ofPairs ((List.range 256).map (fun l => (fpConvert fp32 fp64 .rne (lane (siA w) (if k = 2 then l else 256 + l))).1))))) ∧
      (sageForm { d := true, a := true, b := true, fm := 0b111111 } w = true → k = 4 → writes (.cvt p x)
        ((List.range 256).map (fun l => (fpConvert fp64 fp32 rm (nth 0 (toPairs (src (siA w))) l)).1) ++
          (List.range 256).map (fun l => (fpConvert fp64 fp32 rm (nth 0 (toPairs (src (siB w))) l)).1)))) ∧
    (∀ c o g, (c, o, g) ∈ [(Instr.rsum p x, 0x28, sum), (.rmax p x, 0x29, fMaxMin true f), (.rmin p x, 0x2A, fMaxMin false f)] →
      siOpc w = o → sageForm { d := true, a := true, fm := 0b10000011 } w = true →
      (ty = 0 → siHalf w = false → let v := (treeReduce g 9 ((src (siA w)).take e.w)).headD 0
        writes c (List.replicate 512 (if valIsNaN (fpDecode f v) then f.nanBits else v))) ∧
      (ty = 2 → (siHalf w = true → 256 < e.w) →
        let v := (treeReduce g 9 ((toPairs (src (siA w))).take (if siHalf w then e.w - 256 else min e.w 256))).headD 0
        writes c (ofPairs (List.replicate 256 (if valIsNaN (fpDecode f v) then f.nanBits else v))))) ∧
    (siOpc w = 0x2B → sageForm { d := true, a := true } w = true → 0 < e.w →
      let best := topOf (lane (siA w) 0, 0) ((List.range (min e.w 512 - 1)).map (fun l => (lane (siA w) (l + 1), l + 1)))
      writes (.rargmax p x) (List.replicate 512 (e.n0 + best.2))) ∧
    (siOpc w = 0x01 → sageForm {} w = true → goes (.sageNop p x) (row.pc + 1)) ∧
    (siOpc w = 0x02 → sageForm { fm := 1 } w = true → row.pc = t.entry → goes (.prog p x) (row.pc + 1)) ∧
    (siOpc w = 0x38 → sageForm { imm := true } w = true → siE w = false → siImm w ≤ 1023 → goes (.jmp p x) (siImm w)) ∧
    (siOpc w = 0x39 → sageForm { a := true, imm := true } w = true → siE w = false → siImm w ≤ 1023 →
      goes (.bnz p x) (if lane (siA w) 0 ≠ 0 then siImm w else row.pc + 1))

/-- Sage tiles, tables and stores (05 R125-R130, R136, R139-R152): a slot is taken, its rows start, and it is released; LUT, TOPK, TBR and TBW;
STO writes each converted element at its place; ROUTE hands a choice over; a word of no instruction ends its row with ILLEGAL; the windows are
written at once, or held while a slot is DRAINING; SGE_CTL.HOLD and SGE_ERRLOG (05 R155).
Where no rule decides, the clauses follow the model's choices of log entry 56. -/
def Obligations.SageTilesAndStores : Prop :=
  ∀ (s : State) (p : DieIx) (x : Fin 4),
    let a := s.ar p
    let sg := s.sg p
    let arrSage := fun (u : State) => CacheOnly { s with arr := u.arr, sage := u.sage } u
    let hold := fun (c : Instr) (h : SageHeld) => sg.tile.isSome = true → exec c s = .next (s.setSg p { sg with held := sg.held ++ [h] })
    (∀ j rest, s.runs .sage = true → sg.tile = none → a.ftq = j :: rest → s.rf ⟨.sgeCtl, p.val, 0, 0⟩ 0 0 = 0 →
      let sl := nth {} a.slots j
      let entry := match s.opOf p sl.op with | some o => o.aop.epi | none => 0
      exec (.sageTake p) s = .next ((s.setAr p { a with ftq := rest, slots := a.slots.set j { sl with st := .draining } }).setSg p { sg with
        tile := some { slot := j, rows := sl.rows, cols := sl.cols, f64 := sl.f64, n0 := sl.n0, row0 := sl.row0, entry := entry, op := sl.op,
                       ctxs := (List.range (sg.contexts entry)).map (fun c => { next := c }) } })) ∧
    (∀ t row i r, s.runs .sage = true → sg.tile = some t → t.ctxs[x.val]? = some { next := row } → row < t.rows → s.rowReq p t row = some (i, r) → r.removed = false →
      s.runHot r.aopr r.aopr.aop.argAddr 256 = false →
      Next (.sageRowStart p x) s (fun u => arrSage u ∧ ∃ t1, (u.sg p).tile = some t1 ∧
        t1 = { t with args := t1.args, argsRead := t1.argsRead,
                      ctxs := t.ctxs.set x.val { next := row + t.ctxs.length, cur := some { row := row, pc := t.entry } } } ∧
        (i ∈ t.argsRead ∨ r.aopr.aop.argAddr = 0 → t1.args = t.args) ∧
        (i ∉ t.argsRead → r.aopr.aop.argAddr ≠ 0 → ∀ k, k < 64 → SMap.get 0 t1.args (i * 64 + k) =
          leNat (((r.aopr.bytes s r.aopr.aop.argAddr 256).drop (4 * k)).take 4)))) ∧
    (∀ t, s.runs .sage = true → sg.tile = some t → t.rows ≤ t.ended → sg.held = [] → Next (.sageSlotRelease p) s (fun u => arrSage u ∧
      u.sg p = { sg with tile := none } ∧ (u.ar p).slots = a.slots.set t.slot {} ∧ (s.isMaster p = true →
        (u.ar p).ops = a.ops.map (fun o => if o.id = t.op then { o with tilesOut := o.tilesOut - 1 } else o)))) ∧
    (∀ t row i r w, SageAt s p x t row i r w →
      let e := s.sageEnv p t row.row i r
      let src := sageSrc e sg row
      let next := { row with pc := row.pc + 1, steps := row.steps + 1 }
      let err := fun (c : Instr) (code : Nat) => Next c s (fun u => ∃ v : State, Reported v u ∧
        CacheOnly { s with arr := v.arr, sage := v.sage, regs := v.regs } v ∧
        v.rget ⟨.sgeErrlog, p.val, 0, 0⟩ = code + row.pc % 1024 * 2 ^ 4 + row.row * 2 ^ 14 + r.aopr.aop.tag * 2 ^ 32 ∧
        v.sg p = { sg with tile := some { t with
          ctxs := t.ctxs.set x.val { nth { next := 0 } t.ctxs x.val with cur := none }, ended := t.ended + 1 } })
      (siOpc w = 0x20 → sageForm { d := true, a := true, fm := 0b1111 } w = true →
        (tblUsable sg (natBits w 19 16) = true → SageTo (.lut p x) s p x t w sg.tb (fun r' => SageWrote row r' (siD w)
          ((List.range 512).map (fun l => lutLane sg (natBits w 19 16) (nth 0 (src (siA w)) l))))) ∧
        (tblUsable sg (natBits w 19 16) = false → err (.lut p x) 6)) ∧
      (siOpc w = 0x2C → sageForm { d := true, a := true, fm := 0b11111 } w = true →
        let k := natBits w 20 16
        0 < k → k ≤ 16 → k ≤ e.w → siD w < 15 → SageTo (.topk p x) s p x t w sg.tb (fun r' =>
          let best := topList k ((src (siA w)).zipIdx.take e.w)
          (∀ j, j < best.length → nth 0 (regOf r' (siD w)) j = (let v := (nth (0, 0) best j).1
            if valIsNaN (fpDecode fp32 v) then fp32.nanBits else v) ∧
            nth 0 (regOf r' (siD w + 1)) j = e.n0 + (nth (0, 0) best j).2) ∧
          ∀ q, q ≠ siD w → q ≠ siD w + 1 → regOf r' q = regOf row q)) ∧
      (∀ b, tbRow row w = some b →
        (siOpc w = 0x30 → sageForm { d := true, fm := 0b11, imm := true } w = true → SageTo (.tbr p x) s p x t w sg.tb (fun r' =>
          SageWrote row r' (siD w) ((List.range 512).map (fun l => SMap.get 0 sg.tb (b * 512 + l))))) ∧
        (siOpc w = 0x31 → sageForm { a := true, fm := 0b11, imm := true } w = true → ∃ tb, SageTo (.tbw p x) s p x t w tb (fun r' => r' = next) ∧
          ∀ q l, l < 512 → SMap.get 0 tb (q * 512 + l) = if q = b then nth 0 (src (siA w)) l else SMap.get 0 sg.tb (q * 512 + l))) ∧
      (siOpc w = 0x3C → sageForm { a := true, fm := 0b11111111, imm := true } w = true → natBits w 22 21 ≠ 3 →
        let c := natBits w 20 16
        let sr := natBits w 22 21
        let half := siHalf w
        let n0 := e.n0 + (if half then 256 else 0)
        let place := siImm w * 64 + n0 * fmtBits c / 8
        let vals : List FpVal := if c = 0 then ((toPairs (src (siA w))).take (e.w - 256 * b2n half)).map (fpDecode fp64)
          else ((src (siA w)).take e.w).map (fpDecode fp32)
        let bytes := packBytes (fmtBits c) (vals.zipIdx.map (fun v => cvtElem c (stoRound e row sr (n0 + v.2)) v.1))
        c ≤ 0x0E → fmtIsMX c = false → (half = true → c = 0) →
        let va := e.outAddr + e.mrow * e.outStride + place
        (place + bytes.length ≤ e.outStride → s.runHot r.aopr va bytes.length = false → Next (.sto p x) s (fun u =>
          u.mem = (r.aopr.storeAll (sageM p) [(va, bytes)] s).mem ∧
          ∃ t1, (u.sg p).tile = some t1 ∧ t1 = { t with
            ended := if siE w then t.ended + 1 else t.ended,
            ctxs := t.ctxs.set x.val { nth { next := 0 } t.ctxs x.val with
              cur := if siE w then none else some { next with srCount := row.srCount + (if sr = 2 then 1 else 0) } } })) ∧
        (bytes ≠ [] → e.outStride < place + bytes.length → err (.sto p x) 3)) ∧
      (siOpc w = 0x3E → sageForm { a := true, b := true, fm := 0b111111111, imm := true } w = true → row.routed = false →
        t.lowerRows row.row = false →
        let k := natBits w 20 16
        let arg := fun n => nth 0 e.args n
        let rt : SageRoute := {
          ctx := natBits w 24 21, k := k, weights := (src (siA w)).take k, experts := (src (siB w)).take k,
          token := (arg (siImm w) + arg (siImm w + 1) * 2 ^ 32) % 2 ^ 56 + e.mrow * arg (siImm w + 2) }
        (∀ y, s.routeCheck p rt = .taken y → Next (.route p x) s (fun u => u.txu = (s.routeTake p rt).2.txu ∧
          u.sg p = { sg with tile := some { t with
            ctxs := t.ctxs.set x.val { nth { next := 0 } t.ctxs x.val with
              cur := if siE w then none else some { next with routed := true } },
            ended := if siE w then t.ended + 1 else t.ended } })) ∧
        (s.routeCheck p rt = .held → exec (.route p x) s = .next s)) ∧
      (sageOpcOk (siOpc w) = false → err (.sageNop p x) 1)) ∧
    (∀ h, exec (.sgeHold p h) s = .next (s.rput ⟨.sgeCtl, p.val, 0, 0⟩ 0 0 (if h then 1 else 0))) ∧
    exec (.sgeErrlogClr p) s = .next (s.rset ⟨.sgeErrlog, p.val, 0, 0⟩ 0) ∧
    (∀ wr, hold (.sgeTblData p wr) ⟨0x20, match wr with | some v => leBytes 4 v.toNat | none => []⟩) ∧
    (∀ v : BitVec 32, sg.tile = none →
      let sel := s.tblSel p
      let moved := fun (u : State) => u.tblSel p = (sel.1, if 783 ≤ sel.2 then 0 else sel.2 + 1)
      Next (.sgeTblData p (some v)) s (fun u => tblWord (u.sg p) sel.1 sel.2 = v.toNat ∧ moved u) ∧
      Next (.sgeTblData p none) s (fun u => u.sg p = sg ∧ moved u)) ∧
    (∀ v : BitVec 64,
      (∀ k, k < 1024 → sg.tile = none → Next (.sgeMemoryWrite p (BitVec.ofNat 17 (0x8000 + 8 * k)) true v) s (fun u =>
        SMap.get 0 (u.sg p).prog k % 2 ^ 64 = v.toNat ∧ (∀ i, i ≠ k → SMap.get 0 (u.sg p).prog i = SMap.get 0 sg.prog i) ∧
        u = { s with sage := u.sage })) ∧
      (∀ k, k < 6144 → sg.tile = none → Next (.sgeMemoryWrite p (BitVec.ofNat 17 (0xA000 + 4 * k)) false v) s (fun u =>
        SMap.get 0 (u.sg p).const k % 2 ^ 32 = v.toNat % 2 ^ 32 ∧ (∀ i, i ≠ k → SMap.get 0 (u.sg p).const i = SMap.get 0 sg.const i) ∧
        u = { s with sage := u.sage })) ∧
      hold (.sgeMemoryWrite p 0x8000 true v) ⟨0x8000, leBytes 8 v.toNat⟩)

/-- Near-memory banks and HBM stacks (09 R239, R241, R245-R250, R254-R256, R259): a bank's cycle serves the request R241 names; an MSC hit acts by
its hint; a miss allocates, a partial write combines; a HOT stack holds its requests; flushes retire, write back and invalidate the sets not yet
passed; a stack sleeps when its wake ends; a sample records its reading, moves the die's demand, and at 105 degrees makes the stack HOT.
Where no rule decides, the clauses follow the model's choices of log entries 39 and 92. -/
def Obligations.MemoryRows : Prop :=
  ∀ (s : State),
    (∀ (p : DieIx) (g : Fin 16) (off : BitVec 24) (m : BitVec 12) (array : Bool), s.runs .near = true → s.pwr.st ≠ .sleep →
      let key := (p.val * 16 + g.val) * 128 + natBits off.toNat 12 6
      let row := natBits off.toNat 23 13
      let l := SMap.get [] s.memsys.banks key
      let age := natBits (s.rget ⟨.nmcArb, p.val, 0, 0⟩) 7 0
      let late := fun (r : BankReq) => r.array = false ∧ age ≤ r.waited
      let there := l.any (fun r => r.master == m.toNat && r.row == row && r.array == array)
      (there = false → Next (.nearBankRequest p g off m array) s (fun t =>
        t = { s with memsys := { s.memsys with banks := t.memsys.banks } } ∧
        ∀ q, SMap.get [] t.memsys.banks q = if q = key then l ++ [⟨m.toNat, row, array, 0⟩] else SMap.get [] s.memsys.banks q)) ∧
      (there = true → ∃ front r back, l = front ++ r :: back ∧
        ((late r ∧ ∀ q, q ∈ front → ¬ late q) ∨ ((∀ q, q ∈ l → ¬ late q) ∧
          ((r.array = true ∧ ∀ q, q ∈ front → q.array = false) ∨ ((∀ q, q ∈ l → q.array = false) ∧ front = [])))) ∧
        Next (.nearBankRequest p g off m array) s (fun t => SMap.get 0 t.memsys.served key = r.master + 1 ∧
          SMap.get [] t.memsys.banks key = (front ++ back).map (fun q => { q with waited := q.waited + 1 })))) ∧
    (∀ (m : BitVec 12) (addr : BitVec 40) (len : Fin 129) (kind : MemKind) (hint pte : Fin 4), s.runs .msc = true →
      let k := addr.toNat / 0x1000000000
      let x := s.stack k
      let line := addr.toNat / 128
      let set := mscSet line
      let h := hintOf (effHint (s.hintAt m.toNat (line * 128)) (effHint 0 hint.val pte.val) 0)
      let n := max 1 (min len.val (128 - addr.toNat % 128))
      let c := Instr.mscRequest m addr len kind (hint, pte)
      let gets := fun (P : Stack → Prop) => Next c s (fun t => P (t.stack k) ∧
        t = { s with memsys := t.memsys, regs := t.regs } ∧ (∀ j, j ≠ k → t.stack j = s.stack j) ∧
        ∀ off, ¬ CounterAt off → SMap.get none t.regs off = SMap.get none s.regs off)
      let wr := kind != .read
      let fresh : CacheWay := { valid := true, line := line, age := 0, keep := false, dirty := wr }
      (x.st = .hot → exec c s = .next (s.setStack k { x with held := x.held ++ [⟨m.toNat, addr.toNat, len.val, kind, hint.val, pte.val⟩] })) ∧
      (∀ tg o, x.st = .ready → placeOf addr.toNat = .hbm k → targetOf addr.toNat = some (tg, o) →
        let ok := s.permits m.toNat (match kind with | .read => .rd | .write => .wr | .atomic => .at) tg o
        (ok = false → exec c s = .next (s.postDenied m.toNat addr.toNat)) ∧
        (ok = true → x.cmd = 0 → s.recall none addr.toNat n = s →
          (∀ w, x.msc.find 16 set line = some w → (∀ e, e ∈ x.wcb → e.line ≠ line) →
            let y := x.msc.way 16 set w
            (h = .normal → gets (fun z => z = { x with msc := z.msc } ∧ z.msc.way 16 set w = { y with age := 0, dirty := y.dirty || wr })) ∧
            (h = .stream → gets (fun z => z = { x with msc := z.msc } ∧ z.msc.way 16 set w = { y with dirty := y.dirty || wr })) ∧
            (h = .last → gets (fun z => z = { x with msc := z.msc } ∧ z.msc.way 16 set w = {})) ∧
            (h = .keep → s.keepWays k ≠ 0 → gets (fun z => z = { x with msc := z.msc } ∧
              z.msc.way 16 set w = { y with age := 0, keep := true, dirty := y.dirty || wr }))) ∧
          (x.msc.find 16 set line = none → h = .normal → (∃ w, w < 16 ∧ (x.msc.way 16 set w).keep = false) →
            (kind ≠ .write → (∀ e, e ∈ x.wcb → e.line ≠ line) →
              gets (fun z => z = { x with msc := z.msc } ∧ ∃ w, w < 16 ∧ z.msc.way 16 set w = fresh)) ∧
            (kind = .write → n = 128 →
              gets (fun z => z.wcb = x.wcb.filter (fun e => e.line != line) ∧ ∃ w, w < 16 ∧ z.msc.way 16 set w = fresh))) ∧
          (x.msc.find 16 set line = none → kind = .write → n ≠ 128 → x.wcb.length < 64 → (∀ e, e ∈ x.wcb → e.line ≠ line) →
            gets (fun z => z = { x with wcb := x.wcb ++ [⟨line, (2 ^ n - 1) <<< (addr.toNat % 128), h⟩] }))))) ∧
    (∀ k : StackIx, let x := s.stack k
      let is := fun (c : Instr) (y : Stack) => Next c s (fun t => t = { s with memsys := (s.setStack k y).memsys, regs := t.regs } ∧
        ∀ off, ¬ CounterAt off → SMap.get none t.regs off = SMap.get none s.regs off)
      let due := fun (e : Nat × CacheWay) => x.passed ≤ e.1 / 16 ∧ e.1 / 16 < 16384
      is (.hbmTempClr k) { x with peak := x.temp } ∧
      (x.st = .ready → x.woken = true → (s.stackOwner k = none ∨ s.pwr.st = .sleep) →
        is (.selfrefTimeout k) { x with st := .selfref, woken := false }) ∧
      (s.runs .msc = true →
        (x.wcb = [] → is (.wcbRetire k) x) ∧
        (∀ e rest, x.wcb = e :: rest → is (.wcbRetire k) { x with
          wcb := x.wcb.filter (fun y => y.line != e.line), msc := x.msc.alloc (s.keepWays k) e.hint e.line true }) ∧
        (x.cmd = 0 → is (.mscFlush k) { x.retireAll (s.keepWays k) with cmd := 1, passed := 0 } ∧
          is (.mscFlushInv k) { x.retireAll (s.keepWays k) with cmd := 2, passed := 0 } ∧ (x.retireAll (s.keepWays k)).wcb = []) ∧
        (x.cmd = 1 → is (.mscCmdComplete k) { x with
          cmd := 0, passed := 0, msc := x.msc.map (fun e => if due e then (e.1, { e.2 with dirty := false }) else e) }) ∧
        (x.cmd = 2 → is (.mscCmdComplete k) { x with cmd := 0, passed := 0, msc := x.msc.filter (fun e => ¬ due e) })) ∧
      ((∀ n : PortIx, (s.port n).inq = []) → ∀ t : Fin 1024,
        let other := s.stack (if k.val % 2 = 0 then k.val + 1 else k.val - 1)
        let dem := s.demand (k.val / 2)
        let y := { x with temp := t.val, peak := max x.peak t.val, warmEv := x.warmEv || decide (380 ≤ t.val),
                          refresh2 := if 380 ≤ t.val then true else if t.val < 368 then false else x.refresh2 }
        (t.val < 420 → x.held = [] → (∀ d, (s.tdie d).held = []) → Next (.hbmSample k t) s (fun u =>
          u = { s with memsys := u.memsys, pwr := u.pwr } ∧
          u.stack k = { y with st := if t.val < 380 ∧ x.st = .hot then (if (s.stackOwner k).isSome then .ready else .selfref) else x.st } ∧
          u.demand (k.val / 2) = if 380 ≤ t.val ∨ 380 ≤ other.temp then s.slower dem
            else if t.val < 368 ∧ other.temp < 368 then s.faster dem else dem)) ∧
        (420 ≤ t.val → (x.st = .ready ∨ x.st = .selfref) → s.stackOwner k = none → Next (.hbmSample k t) s (fun u =>
          u.stack k = { y with st := .hot, hotEv := true } ∧ u.demand (k.val / 2) = s.slowest (s.slower dem) ∧
          Reported { s with memsys := u.memsys, pwr := u.pwr } u))))

/-- Walks and fault batches (11 R287-R307, R316): a walk that finds a permitted leaf fills the requester's TLB; without an ASID table it faults
with cause 1 into an open batch; a batch closes; its record is written at the ring's TAIL; REPLAY and CANCEL answer a written batch, or say
why they cannot.
Where no rule decides, the clauses follow the model's choices of log entries 40 and 94. -/
def Obligations.TranslationFaults : Prop :=
  ∀ (s : State),
    (s.runs .mesh = true → ∀ (r : TlbSel) (asid : BitVec 12) (va : BitVec 56) (kind : Fin 4),
      let p := (walkFor r).1
      let x := s.xdie p
      (∀ c lv, (s.rget regAsidtab).testBit 0 = true → s.context asid.toNat = some c → s.dieOwner p = some c.part →
        s.accCheck (fnMaster c.port 0) .rd (linesOf (s.ctxAddr asid.toNat) 16) = none → s.hotAt (s.ctxAddr asid.toNat) = false →
        WalkFinds s c va.toNat (accOf kind.val) (some c.part) lv → Next (.translationWalk r asid va kind 0) s (fun t =>
          CacheOnly { s with xlt := t.xlt } t ∧ t.xlt = { s.xlt with tlbs := t.xlt.tlbs } ∧
          (⟨asid.toNat, va.toNat / 2 ^ levelSize lv * 2 ^ levelSize lv, levelSize lv,
            Mem.readLE s.mem (walkAt s.mem c.root va.toNat (3 - lv)) 8⟩ : TlbEnt) ∈ SMap.get [] t.xlt.tlbs (walkFor r).2.1)) ∧
      ((s.rget regAsidtab).testBit 0 = false → x.batches = [] → x.waiting = [] → 1 < s.maxrec → Next (.translationWalk r asid va kind 0) s (fun t =>
        ∃ b e, (t.xdie p).batches = [b] ∧ b.id = p * 2 ^ 13 + x.seqNext % 4096 ∧ b.port = 0 ∧ b.rsv = false ∧ b.st = .open ∧ b.ents = [e] ∧
          e.waiters = [(walkFor r).2.2.2.2] ∧ e.index = 0 ∧ e.req.cause = 1 ∧ e.req.va = va.toNat ∧ e.req.kind = accOf kind.val ∧
          e.req.asid = asid.toNat ∧ e.req.master = (walkFor r).2.2.1 ∧ (t.xdie p).seqNext = (x.seqNext + 1) % 4096 ∧ t.mem = s.mem))) ∧
    (s.runs .mesh = true → ∀ (p : DieIx) (n : PortIx) b, (s.xdie p).openOf n = some b → ((s.xdie p).batches.map Batch.id).Nodup → Next (.batchClose p n) s (fun t =>
      t = { s with xlt := t.xlt, regs := t.regs } ∧ t.xdie p = { s.xdie p with
        batches := (s.xdie p).batches.filter (fun y => y.id != b.id) ++ [{ b with st := .closed }] })) ∧
    (s.runs .mesh = true → ∀ (n : PortIx) p b e, s.nextBatch n = some (p, b) → b.ents = [e] → s.org.sess = [] → s.rf (fringReg .xltFringCtl n) 0 0 = 1 →
      (s.fn n 0).bme = true → (∀ j f, (s.fn j f).msixEn = false) →
      let size := s.fringSize n
      let tl := nth 0 s.xlt.ringTail n
      let wrap := nth false s.xlt.ringWrap n
      1 ≤ (s.rf (fringReg .xltFringPtr n) 30 16 + size - (tl + 1) % size) % size → s.xlt.ringTail.length = 2 → s.xlt.ringWrap.length = 2 →
      Next (.faultBatchWrite n) s (fun t => (∀ k, k < 64 → some (Mem.read t.host (n.val * 2 ^ 64 +
          s.rf (fringReg .xltFringBase n) 55 12 * 4096 + 64 * (tl % size) + k)) = (leBytes 64 (faultRaw b e (e.index == 0) wrap))[k]?) ∧
        nth 0 t.xlt.ringTail n = (tl + 1) % size ∧ nth false t.xlt.ringWrap n = (if (tl + 1) % size = 0 then !wrap else wrap) ∧
        (t.xdie p).batches = (s.xdie p).batches.map (fun y => if y.id = b.id then { y with st := .written } else y) ∧
        (SMap.get {} (t.fn n 0).msix (s.rf (fringReg .xltFringCtl n) 15 5)).pending = true)) ∧
    (∀ (q : QIx) d c opc a, (c, opc, a) ∈ [(Instr.replay q, 0x22, Answer.replay), (.cancel q, 0x23, .cancel)] →
      s.startOp q.val tyAdmin opc = some d → d.f 4 31 16 = 0 → d.zeroFrom 5 = true →
      let id := d.f 4 15 0
      let why := s.batchReason (s.qPort q.val) id
      (why ≠ 0 → exec c s = .next (s.descDone q.val d.ix 0x81 why 0)) ∧
      (why = 0 → exec c s = .next ((s.answerBatch (id / 2 ^ 13) id a).descDone q.val d.ix 0 0 0))) ∧
    (∀ p id b e k pk, (s.xdie p).batches.find? (fun b => b.id == id) = some b → b.ents = [e] → e.waiters = [.core k] → (s.core k).park = some pk →
      pk.batches.contains id = true → (s.tdie p).held = [] → (s.ar p).parked = [] → (s.xdie p).waiting = [] → ∀ a,
      let t := s.answerBatch p id a
      (t.xdie p).batches = (s.xdie p).batches.filter (fun y => y.id != id) ∧ id ∈ (t.xdie p).answered ∧
      t.core k = { s.core k with park := some { pk with
        batches := pk.batches.filter (fun b => b != id),
        cancelled := if a = .replay then pk.cancelled else pk.cancelled ++ [e.req.va / 65536] } })

/-- Withdrawing and moving translations (11 R310-R318): INVALIDATE and XLT_INV_CMD leave no TLB entry of the range; a fence ends when what
held the removed translations has ended; PREFETCH marks the first mapped page MOVING, and PREFETCH_PAGE_DONE copies it and writes its leaf;
ADVISE writes ADV and ARG; a malformed range completes with status 1.
Where no rule decides, the clauses follow the model's choices of log entry 72. -/
def Obligations.Withdrawal : Prop :=
  ∀ (s : State) (q : QIx) (d : QDesc),
    let starts := fun (opc : Nat) => s.startOp q.val tyAdmin opc = some d
    let m := fnMaster (s.qPort q.val) 0
    let n := d.vlen / 65536
    let gone := fun (t : State) (asid va len : Nat) (all : Bool) => ∀ tlb e, e ∈ SMap.get [] t.xlt.tlbs tlb → e.asid = asid →
      all = false ∧ (va + len ≤ e.base ∨ e.base + 2 ^ e.size ≤ va)
    let inPlace := fun (u : State) (va ty port a e : Nat) => ∃ u1, u.leafAt 0 d.asid va = (.entry ty port a e, u1) ∧ ty ≠ 2 ∧
      u1.accCheck m .wr (linesOf a 8) = none
    (∀ c opc, (c, opc) ∈ [(Instr.invalidate q, 0x20), (.prefetch q 0, 0x24), (.advise q 0, 0x25)] → starts opc → d.badRange = true →
      (opc = 0x20 → d.f 4 12 12 = 0) → (opc = 0x24 → s.runs .dma = true) → exec c s = .next (s.descDone q.val d.ix 1 0 0)) ∧
    (starts 0x20 → d.f 4 31 13 = 0 → d.zeroFrom 9 = true → s.otherPort q.val d.asid = false →
      let all := d.f 4 12 12 == 1
      (if all then d.va = 0 ∧ d.vlen = 0 else d.badRange = false) → Next (.invalidate q) s (fun t => gone t d.asid d.va d.vlen all ∧
        t.queues = (s.descDone q.val d.ix 0 0 0).queues ∧ t.mem = s.mem)) ∧
    (starts 0x21 → d.zeroFrom 4 = true → exec (.translationFence q) s = .next ({ s.descRun q.val d.ix with
      xlt := { s.xlt with fences := s.xlt.fences ++ [(q.val, d.ix, s.xlt.withdrawn.filter s.held)] } })) ∧
    (∀ ix hs, s.xlt.fences.find? (fun f => f.1 == q.val) = some (q.val, ix, hs) →
      (hs.any s.held = true → exec (.translationFenceDone q) s = .next s) ∧
      (hs.any s.held = false → (∀ k, (s.core k).mbuf = [] ∧ (s.core k).sbuf = []) → Next (.translationFenceDone q) s (fun t =>
        t.queues = (s.descDone q.val ix 0 0 0).queues ∧ t.xlt.fences = s.xlt.fences.filter (fun f => f.1 != q.val) ∧
        t.xlt.withdrawn = s.xlt.withdrawn.filter s.held ∧ t = { s with queues := t.queues, xlt := t.xlt }))) ∧
    (starts 0x24 → s.runs .dma = true → d.badRange = false → d.f 4 31 19 = 0 → d.zeroFrom 11 = true → prefTarget d ≤ 1 → d.f 4 15 14 = 0 → prefDest d % 65536 = 0 →
      destOk d = true → s.otherPort q.val d.asid = false → s.xlt.prefetch = [] → ∀ ty port a e,
      inPlace { s.descRun q.val d.ix with xlt := { s.xlt with prefetch := [{ q := q.val, ix := d.ix }] } } d.va ty port a e → movable e = true →
      Next (.prefetch q 0) s (fun t => Mem.readLE t.mem a 8 = (e ||| 2 ^ 12) % 2 ^ 64 ∧ gone t d.asid d.va 65536 false ∧
        t.queues = (s.descRun q.val d.ix).queues ∧ ∃ pf, t.xlt.prefetch = [pf] ∧ pf.q = q.val ∧ pf.ix = d.ix ∧ pf.page = 0 ∧ pf.moving = some a ∧
          pf.ty = ty ∧ pf.port = port ∧ pf.leaf = e)) ∧
    (s.runs .dma = true → ∀ pf a e, s.xlt.prefetch = [pf] → pf.q = q.val → s.desc q.val pf.ix = some d → pf.moving = some a → pf.holds.any s.held = false → pf.ty ≠ 2 →
      (∀ k, (s.core k).mbuf = [] ∧ (s.core k).sbuf = []) → (s.rget regErrInj).testBit 63 = false → s.err.upsets = [] →
      (∀ p, p < 8 → (s.tdie p).held = []) → e = Mem.readLE s.mem a 8 → leafType e < 2 →
      prefTarget d < 2 → pf.page + 1 = n →
      let src := natBits e 55 16 * 2 ^ 16
      let dst := prefDest d + pf.page * 65536
      (∀ l, l ∈ [(a, 8, Acc.rd), (a, 8, .wr), (src, 65536, .rd), (dst, 65536, .wr)] → s.accCheck m l.2.2 (linesOf l.1 l.2.1) = none ∧ s.hotAt l.1 = false) →
      (a + 8 ≤ dst ∨ dst + 65536 ≤ a) → Next (.prefetchPageDone q 0) s (fun t =>
        (∀ k, k < 65536 → Mem.read t.mem (dst + k) = Mem.read s.mem (src + k)) ∧
        Mem.readLE t.mem a 8 = movedLeaf e (prefTarget d) dst (d.f 4 14 14) (d.f 4 15 15) % 2 ^ 64 ∧ t.xlt.prefetch = [] ∧
        t.queues = (s.descDone q.val pf.ix 0 ((pf.moved + 1) % 65536 + pf.skipped % 65536 * 65536) 0).queues)) ∧
    (∀ ty port a e, starts 0x25 → d.badRange = false → d.f 4 15 14 = 0 → d.f 4 31 20 = 0 → d.zeroFrom 9 = true → s.otherPort q.val d.asid = false →
      n = 1 → inPlace s d.va ty port a e → (e.testBit 0 = false ∨ leafType e ≠ 3) → Next (.advise q 0) s (fun t =>
        Mem.readLE t.mem a 8 = natPut (natPut e 57 56 (d.f 4 13 12)) 61 58 (d.f 4 19 16) % 2 ^ 64 ∧ gone t d.asid d.va d.vlen false ∧
        t.queues = (s.descDone q.val d.ix 0 0 0).queues)) ∧
    (∀ (p : DieIx) (asid : BitVec 12) (all fence : Bool), s.invBusy p = false → Next (.xltInvCmd p asid all fence) s (fun t =>
      gone t asid.toNat (s.rf ⟨.xltInvVa, p.val, 0, 0⟩ 55 16 * 65536) (s.rf ⟨.xltInvLen, p.val, 0, 0⟩ 55 16 * 65536) all ∧
      (∃ c, SMap.get none t.xlt.inv p.val = some c ∧ c.fence = fence ∧ (fence = false → c.holds = [])) ∧ t.mem = s.mem)) ∧
    (∀ (p : DieIx) c, SMap.get none s.xlt.inv p.val = some c → c.holds.any s.held = false → (∀ k, (s.core k).mbuf = [] ∧ (s.core k).sbuf = []) →
      Next (.xltInvDone p) s (fun t => SMap.get none t.xlt.inv p.val = none ∧ t.rf ⟨.xltInvCmd, p.val, 0, 0⟩ 17 17 = 1 ∧
        t = { s with xlt := t.xlt, regs := t.regs }))

/-- The ports of Trellis (13 R350-R352, R375; 20 R519): each command moves a port between the states of R349 as the rules say; a port gone
DOWN or TRAINING has an empty link layer; the change is reported, and no other port changes.
Where no rule decides, the clauses follow the model's choices of log entry 77. -/
def Obligations.LinkTraining : Prop :=
  ∀ (s : State) (n : LinkIx) (bad : BitVec 18) (who : PartnerId),
    let p := s.tport n.val
    let img := s.ptr.image
    let ends := fun (c : Instr) (x : TrlPort) => Next c s (fun t => t.tport n.val = x ∧ (∀ j, j ≠ n.val → t.tport j = s.tport j) ∧
      t.trl = { s.trl with ports := t.trl.ports } ∧ Reported { s with trl := t.trl, regs := t.regs } t)
    let fresh := fun (x : TrlPort) => { x with
      txSeq := 0, rxSeq := 0, replay := [], bad := false, nakSent := none, used := [], owed := [], rx := [],
      tx := [], turn := 13, fwd := 0 }
    let lvl := min s.trl.max who.max.val
    let judged := fun (lanes : List (Option Nat)) (x : TrlPort) =>
      let y := { p with lanes := lanes, level := lvl, pmax := who.max.val, partner := who.dev.val, pport := who.port.val }
      if (who.xs.val, who.ys.val, who.zs.val) ≠ (img.xs, img.ys, img.zs) ∨ who.dev.val ≠ s.neighbour s.device n.val ∨
          who.port.val ≠ mirrorPort n.val then x = { y with st := .miswired, why := 3 }
      else if lvl < img.floor ∨ lvl < who.floor.val then x = { y with st := .refused, why := 1 }
      else if s.trl.max + 1 < who.max.val ∨ who.max.val + 1 < s.trl.max then x = { y with st := .refused, why := 2 }
      else x = { y with st := .up, why := 0 }
    let failing := maskBits 18 bad.toNat
    (p.st = .down → (s.setTport n.val { p with mated := true }).portAllowed n.val = true →
      ends (.partnerDetect n) (fresh { p with mated := true, st := .training, why := 0 })) ∧
    (p.st = .training → s.runs .trls = true →
      (2 < failing.length → ends (.linkTrainingDone n bad who) { p with st := .failed, why := 4 }) ∧
      (∀ lanes, (failing, lanes) ∈ [([], [none, none]), ([16], [none, none]), ([17], [none, none]), ([16, 17], [none, none])] ∨
        (∃ a, a < 16 ∧ (failing, lanes) ∈ [([a], [some a, none]), ([a, 16], [none, some a]), ([a, 17], [some a, none])]) ∨
        (∃ a b, b < 16 ∧ failing = [a, b] ∧ lanes = [some a, some b]) →
        ∃ x, judged lanes x ∧ ends (.linkTrainingDone n bad who) x)) ∧
    (p.st = .training → ends (.partnerTimeout n) { p with st := .failed, why := 5 }) ∧
    (p.st = .retrain → s.runs .trls = true →
      (2 < failing.length → ends (.retrainComplete n bad who) { p with st := .failed, why := 4 }.pump) ∧
      (∀ lanes, (failing = [] ∧ p.lanes.length = 2 ∧ lanes = p.lanes) ∨
        (∃ a, a < 16 ∧ (failing, p.lanes, lanes) ∈ [([16], [some a, none], [none, some a]), ([17], [none, some a], [some a, none])]) →
        ∃ x, judged lanes x ∧ ends (.retrainComplete n bad who) x.pump)) ∧
    (p.st = .retrain → ∃ w, w < 6 ∧ Next (.retrainTimeout n) s (fun t => t.tport n.val = { p with st := .failed, why := w } ∧
        (∀ j, j ≠ n.val → t.tport j = s.tport j) ∧ Reported { s with trl := t.trl, free := s.free + 1 } t)) ∧
    (p.st = .failed → p.why = 5 → s.portAllowed n.val = true → ends (.trainingRetry n) (fresh { p with st := .training, why := 0 })) ∧
    (p.st = .up → ends (.trlRetrain n) { p with st := .retrain, why := 0, retrains := min (p.retrains + 1) 0xFFFF,
                                                   replay := p.replay.map (fun f => { f with reps := 0 }) }) ∧
    (p.st ∈ [LinkSt.failed, .miswired, .refused] → s.portAllowed n.val = true →
      ends (.trlRetrain n) (fresh { p with st := .training, why := 0, retrains := min (p.retrains + 1) 0xFFFF })) ∧
    (∀ on : Bool, Next (.trlPortEn n on) s (fun t => t.rf (trlReg .trlPortcfg n.val) 0 0 = b2n on)) ∧
    ends (.trlPortEn n true) p ∧ ends (.trlPortEn n false) (fresh { p with st := .down, why := 0 }) ∧
    ends (.cableUnmated n) (fresh { p with mated := false, st := .down, why := 0 }) ∧
    ends (.trlLinkerrClr n) { p with replays := 0, retrains := 0, discards := 0 }

/-- The link layer (13 R351, R353-R356, R359): a flit with a wrong CRC, or out of sequence, is discarded and reported once with the last good
sequence number; ACK frees what it covers, and flits that wait go; a flit in order joins its receive buffer and owed credits go back; a NAK
replays what follows it, and a flit replayed too often in succession retrains the port; a malformed packet for this module is turned away, a
REQ answered NACK MALFORMED.
Where no rule decides, the clauses follow the model's choices of log entry 25. -/
def Obligations.FlitsAndReplay : Prop :=
  ∀ (s : State) (n : LinkIx) (w : BitVec 512) (sq : Fin 1024),
    let p := s.tport n.val
    let f := fun (hi lo : Nat) => natBits w.toNat hi lo
    let good := crc32 (leBytes 60 (w.toNat % 2 ^ 480)) = w.toNat / 2 ^ 480
    let left := fun (a : Nat) (l : List Flit) => ((∀ x, x ∈ p.replay → x.seq ≠ a) ∧ l = p.replay) ∨
      ∃ f c, p.replay = c ++ f :: l ∧ f.seq = a ∧ ∀ x, x ∈ c → x.seq ≠ a
    let is := fun (t : State) (x : TrlPort) => t.tport n.val = x ∧ (∀ j, j ≠ n.val → t.tport j = s.tport j) ∧
      t.trl = { s.trl with ports := t.trl.ports }
    let turned := fun (l : List Flit) => { p with replay := l }
    let refused := fun (x : TrlPort) => { x with bad := true, nakSent := if p.bad then p.nakSent else some ((p.rxSeq + 1023) % 1024) }
    p.st = .up →
    (s.runs .trls = true →
      (¬ good → Next (.flitReceive n w) s (fun t => is t (refused p) ∧ t = { s with trl := t.trl })) ∧
      (good → f 449 448 ∈ [1, 2] → f 465 456 ≠ p.rxSeq → ∃ l, left (f 475 466) l ∧
        Next (.flitReceive n w) s (fun t => is t (refused (turned l)).pump ∧ t = { s with trl := t.trl, regs := t.regs })) ∧
      (good → f 449 448 ∈ [0, 3] → ∃ l, left (f 475 466) l ∧
        Next (.flitReceive n w) s (fun t => is t (turned l).pump ∧ t = { s with trl := t.trl, regs := t.regs })) ∧
      (good → f 449 448 = 1 → ∀ sub : Fin 14, f 453 450 = sub.val → f 465 456 = p.rxSeq → ∃ l, left (f 475 466) l ∧
        let z : TrlPort := { turned l with rxSeq := (p.rxSeq + 1) % 1024, bad := false, nakSent := none }
        let y := (z.setRx sub.val 1 (SMap.get [] p.rx sub.val ++ [{ sop := w.toNat.testBit 454, data := w.toNat % 2 ^ 448 }])).credit.pump
        ((∀ k, y.headPacket sub.val = some k → (s.arrive k).target = s.device → (s.arrive k).wellFormed = true) →
          Next (.flitReceive n w) s (fun t => is t y ∧ t = { s with trl := t.trl, regs := t.regs })) ∧
        (∀ k, y.headPacket sub.val = some k → k.esc = false → k.dst = s.device → k.wellFormed = false →
          Next (.flitReceive n w) s (fun t => t.tport n.val = (y.popPacket sub.val).credit ∧
            (k.cls ≠ 0 → t.trl.out = s.trl.out) ∧
            (k.cls = 0 → s.device < 2 ^ 18 → ∃ r, t.trl.out = s.trl.out ++ [⟨r, none, none⟩] ∧ r.dst = k.src ∧
              r.opc = 0x13 ∧ r.cls = 1 ∧ r.status = 1 ∧ r.tag = k.tag))))) ∧
    ∃ l, left sq.val l ∧
      let y : TrlPort := { turned l with replays := min (p.replays + l.length) 0xFFFFFFFF, replay := l.map (fun f => { f with reps := f.reps + 1 }) }
      let lim := s.rf (trlReg .trlPortcfg n.val) 9 4
      ((∀ f, f ∈ l → f.reps + 1 < lim) → Next (.nak n sq) s (fun t => is t y.pump ∧ t = { s with trl := t.trl, regs := t.regs })) ∧
      ((∃ f, f ∈ l ∧ lim ≤ f.reps + 1) → Next (.nak n sq) s (fun t =>
        is t { y with st := .retrain, why := 0, retrains := min (p.retrains + 1) 0xFFFF, replay := l.map (fun f => { f with reps := 0 }) } ∧
        Reported { s with trl := t.trl, regs := t.regs } t))

/-- Forwarding and injection (13 R360-R365): a packet for another module leaves by the port of its dimension-ordered route with DL and HOPS
set, waits for room and its turn, and is discarded and counted where it cannot go; injection loops back, applies a detour, refuses what NOINT or
the torus forbids, and begins a new window when the share is spent; TRL_DETOUR_SEL names the active bank.
Where no rule decides, the clauses follow the model's choices of log entry 71. -/
def Obligations.RoutingAndInjection : Prop :=
  ∀ (s : State),
    let routed := fun (m : Nat) (p q : Packet) (turned : Bool) => q.data = p.data ∧ q.f 1 25 18 = p.hops + 1 ∧
      q.dl = (if s.dateline s.device m then 1 else if turned then 0 else p.dl) ∧
      ∀ b, b < 256 → b ≠ 13 → (b < 50 ∨ 57 < b) → q.hdr.testBit b = p.hdr.testBit b
    let fits := fun (p : Packet) => p.hops < 255 ∧ s.inTorus p.dst = true ∧ (p.esc = true → s.inTorus p.inter = true)
    (∀ (n : LinkIx) (sub : Fin 14) p0, (s.tport n.val).headPacket sub.val = some p0 →
      let p := if p0.esc = true ∧ p0.ph = 0 ∧ p0.inter = s.device then (p0.put 0 12 12 1).put 0 13 13 0 else p0
      let taken := fun (x : TrlPort) => (x.popPacket sub.val).credit
      s.runs .trls = true →
      (p.target = s.device → exec (.packetForward n sub) s = .next s) ∧
      ∀ m, s.hop s.device p.target = some m →
        let leaves := fun (t : State) (x : TrlPort) => (m ≠ n.val → t.tport m = x ∧ t.tport n.val = taken (s.tport n.val)) ∧
          (m = n.val → t.tport m = taken x) ∧ (∀ j, j ≠ m → j ≠ n.val → t.tport j = s.tport j) ∧ t.trl = { s.trl with ports := t.trl.ports }
        (fits p → (s.tport m).st = .up → ∃ q, routed m p q (n.val / 2 != m / 2) ∧
          (((s.tport m).canSend q && s.hasSlot m q.sub true) = false → exec (.packetForward n sub) s = .next s) ∧
          ((s.tport m).canSend q = true → s.hasSlot m q.sub true = true → Next (.packetForward n sub) s (fun t =>
            t = { s with trl := t.trl, regs := t.regs } ∧ leaves t ((s.tport m).sendPacket q true)))) ∧
        ((s.tport m).st = .retrain → exec (.packetForward n sub) s = .next s) ∧
        ((s.tport m).st ≠ .retrain → (¬ fits p ∨ (s.tport m).st ≠ .up) → Next (.packetForward n sub) s (fun t =>
          leaves t { s.tport m with discards := min ((s.tport m).discards + 1) 0x7FFF } ∧ Reported { s with trl := t.trl } t))) ∧
    (∀ b, Next (.trlDetourSel b) s (fun t => t.activeBank = b2n b ∧ t = { s with regs := t.regs })) ∧
    (∀ (i : Fin 65536) o, s.trl.out[i.val]? = some o →
      let p := o.pkt
      let left := s.trl.out.eraseIdx i.val
      let stopped := ∃ j, o.part = some j ∧ p.cls ≠ 1 ∧ s.injStopped j = true
      let det := s.findDetour (o.bank.getD s.activeBank) (s.path 96 s.device p.dst)
      (stopped → exec (.packetInject i) s = .next s) ∧
      (¬ stopped → s.inTorus p.dst = true → p.dst = s.device →
        exec (.packetInject i) s = .next (({ s with trl := { s.trl with out := left, loop := s.trl.loop ++ [p] } } : State).tokSent p)) ∧
      (¬ stopped → p.cls = 0 → ∀ e q ix off, s.tag p.tag = some e → e.req = .xfer q ix off → s.trl.waiting = [] →
        ∀ st, (s.inTorus p.dst = false ∧ st = 1) ∨
          (s.inTorus p.dst = true ∧ p.dst ≠ s.device ∧ (∃ d, det = some d ∧ d.testBit 50 = true) ∧ st = 0x80) →
        Next (.packetInject i) s (fun t => t.trl = { s.trl with out := left, tags := t.trl.tags, xfers := t.trl.xfers } ∧ t.tag p.tag = none ∧
          Reported { s with trl := t.trl } t ∧ t.trl.xfers = s.trl.xfers.map (fun x => if x.q == q && x.ix == ix then
            { x with left := x.left - 1, fail := if x.fail.isNone then some st else x.fail } else x))) ∧
      (¬ stopped → s.inTorus p.dst = true → p.dst ≠ s.device → ∀ p1,
        (det = none ∧ p1 = p) ∨ (∃ d, det = some d ∧ d.testBit 50 = false ∧ p1 = (p.put 0 11 11 1).put 3 17 0 (natBits d 49 32)) →
        fits p1 → ∀ n, s.hop s.device p1.target = some n → (s.tport n).st = .up → ∃ q, routed n p1 q true ∧
          let spent := ∃ j, o.part = some j ∧ s.shareOf j n ≤ SMap.get 0 (s.tport n).share j
          (spent → Next (.packetInject i) s (fun t =>
            t.tport n = { s.tport n with share := [] } ∧ t = { s with trl := { s.trl with ports := t.trl.ports } })) ∧
          (¬ spent → ((s.tport n).canSend q && s.hasSlot n q.sub false) = false → exec (.packetInject i) s = .next s) ∧
          (¬ spent → (s.tport n).canSend q = true → s.hasSlot n q.sub false = true → ∃ u : State, exec (.packetInject i) s = .next (u.tokSent p) ∧
            u = { s with trl := u.trl, regs := u.regs, ldg := u.ldg, err := { s.err with stamps := u.err.stamps } } ∧
            u.trl = { s.trl with out := left, ports := u.trl.ports } ∧ (∀ j, j ≠ n → u.tport j = s.tport j) ∧
            u.tport n = (match o.part with
              | some j => { (s.tport n).sendPacket q false with share := SMap.modify 0 (s.tport n).share j (· + p1.flits) }
              | none => (s.tport n).sendPacket q false))))

/-- Requests of other modules (13 R359, R367; 01 R27): one that is ill-formed is answered NACK MALFORMED, one to a HOT stack waits (09 R256),
one without a remote tag is answered NACK ACCESS, at a level not accepted NACK
FLOOR, to a CONTAINED or APPLYING partition NACK CONTAINED or RESET; a denied access NACK ACCESS; else RD, WR and ATOMIC are performed by the
tag's master and answered RDATA, WACK and ARSP.
Where no rule decides, the clauses follow the model's choices of log entry 71. -/
def Obligations.RequestsServed : Prop :=
  ∀ (s : State) (src : PktSrc) (p : Packet), s.device < 2 ^ 18 → s.peekPacket src = some p → p.cls = 0 →
    let u := s.dropPacket src
    let answer := fun (c : Instr) (opc st : Nat) (data : List Byte) (part : Option Nat) (P : State → Prop) => Next c s (fun t => P t ∧
      ∃ r, t.trl = { u.trl with out := u.trl.out ++ [⟨r, part, none⟩] } ∧ r.opc = opc ∧ r.cls = 1 ∧ r.dst = p.src ∧ r.src = s.device ∧
        r.tag = p.tag ∧ r.plvl = p.plvl ∧ r.status = st ∧ r.len = data.length ∧ r.data = data)
    let same := fun (t : State) => t = { s with trl := t.trl }
    let row := fun (c : Instr) => (c, p.opc) ∈ [(Instr.rd src, 1), (.wr src, 2), (.trellisAtomic src, 3)]
    let tags := s.ptr.image.tags.find? (fun e => e.2.testBit 22 && natBits e.2 17 0 == p.src && (e.2.testBit 21 || natBits e.2 20 18 == p.srcpart))
    ∀ c, row c →
    (p.wellFormed = false → answer c 0x13 1 [] none same) ∧
    (p.wellFormed = true → s.hotLoc (.dev p.addr) = true → exec c s = .next s) ∧
    (p.wellFormed = true → s.hotLoc (.dev p.addr) = false → p.reqOk = false → answer c 0x13 1 [] none same) ∧
    (p.wellFormed = true → s.hotLoc (.dev p.addr) = false → p.reqOk = true →
      (tags = none → answer c 0x13 2 [] none same) ∧
      ∀ t e, tags = some (t, e) →
        let i := natBits e 34 32
        let m := 0x400 + t
        let ok := fun (k : Acc) (n : Nat) => s.accCheck m k (linesOf p.addr n) = none ∧ (s.rget regErrInj).testBit 63 = false ∧
          s.err.upsets = [] ∧ InMemory s p.addr
        ((s.trl.max < p.plvl ∨ p.plvl < s.ptr.image.floor) → answer c 0x13 7 [] none same) ∧
        (p.plvl ≤ s.trl.max → s.ptr.image.floor ≤ p.plvl → i < s.ptr.parts.length →
          let part := s.ptr.parts[i]?
          (part = some .contained → answer c 0x13 6 [] none same) ∧
          (part = some .applying → answer c 0x13 5 [] none same) ∧
          (part ≠ some .contained → part ≠ some .applying →
            (c = .rd src → ok .rd p.aux → answer c 0x10 0 (Mem.readN s.mem p.addr p.aux) (some i) (fun t => t.mem = s.mem)) ∧
            (c = .wr src → ok .wr p.data.length → answer c 0x11 0 [] (some i) (fun t => t.mem = Mem.writeN s.mem p.addr p.data)) ∧
            (∀ k n f, s.accCheck m k (linesOf p.addr n) = some f → (∃ l, f = .denied l ∨ f = .absent l) →
              (c = .rd src ∧ k = .rd ∧ n = p.aux) ∨ (c = .wr src ∧ k = .wr ∧ n = p.data.length) ∨
                (c = .trellisAtomic src ∧ k = .at ∧ n = if p.asz = 1 then 8 else 4) →
              answer c 0x13 2 [] (some i) (fun t => Reported { s with trl := t.trl } t)) ∧
            (c = .trellisAtomic src → let w := if p.asz = 1 then 8 else 4
              let old := Mem.readLE s.mem p.addr w
              let x := leNat (p.data.take w)
              ok .at w → (p.aop ∈ [0, 1] ∨ p.aop = 9) →
                answer c 0x12 0 (leBytes w old) (some i) (fun t => t.mem =
                  if p.aop = 0 then Mem.writeN s.mem p.addr (leBytes w x)
                  else if p.aop = 1 then Mem.writeN s.mem p.addr (leBytes w (old + x))
                  else if old = x then Mem.writeN s.mem p.addr (leBytes w (leNat ((p.data.drop w).take w))) else s.mem)))))

/-- Responses and time-outs (13 R366, R368): a response of a tag in use frees it and brings its data, or its failure, to the transfer that
waits; any other is discarded and counted; a request without a response ends NO_RESPONSE, its tag free only after a further TIMEOUT.
Where no rule decides, the clauses follow the model's choices of log entry 76. -/
def Obligations.ResponsesTaken : Prop :=
  ∀ (s : State) (src : PktSrc),
    (∀ p, s.peekPacket src = some p → p.cls = 1 →
      let u := s.dropPacket src
      ∀ c, (c, p.opc) ∈ [(Instr.rdata src, 0x10), (.wack src, 0x11), (.arsp src, 0x12), (.nack src, 0x13)] →
      (p.wellFormed = false → Next c s (fun t => t.trl = u.trl ∧ Reported { s with trl := t.trl } t)) ∧ (p.wellFormed = true →
      let stray := ∀ e, s.tag p.tag = some e → e.timedOut = true ∨ (p.opc ≠ 0x13 ∧ p.data.length ≠ e.len)
      (stray → exec c s = .next { u with trl := { u.trl with stray := s.trl.stray + 1 } }) ∧
      (¬ stray → ∀ e, s.tag p.tag = some e → s.trl.waiting = [] →
        (∀ q ix off, e.req = .xfer q ix off → Next c s (fun t => t.tag p.tag = none ∧
          t.trl = { u.trl with tags := t.trl.tags, xfers := t.trl.xfers } ∧
          Reported { s with trl := t.trl } t ∧
          t.trl.xfers = s.trl.xfers.map (fun x => if x.q == q && x.ix == ix then { x with
            left := x.left - 1, got := if p.opc = 0x13 then x.got else x.got ++ [(off, p.data)],
            fail := if p.opc = 0x13 ∧ x.fail = none then some p.status else x.fail } else x))) ∧
        ∀ k id i, e.req = .core k id i → p.opc ≠ 0x13 → src = .loop →
          exec c s = .next ((u.setTag p.tag none).coreAnswer k id i (some p.data))))) ∧
    ∀ tag : Fin 8192,
      (∀ e, s.tag tag.val = some e → e.timedOut = false → (∀ o, o ∈ s.trl.out → ¬ (o.pkt.cls = 0 ∧ o.pkt.tag = tag.val)) →
        ∀ q ix off, e.req = .xfer q ix off → Next (.e2eTimeout tag) s (fun t => t.tag tag.val = some { e with timedOut := true } ∧
          Reported { s with trl := t.trl } t ∧ t.trl.xfers = s.trl.xfers.map (fun x => if x.q == q && x.ix == ix then { x with
            left := x.left - 1, fail := if x.fail = none then some 0x81 else x.fail } else x))) ∧
      (∀ e, s.tag tag.val = some e → e.timedOut = true → exec (.e2eTimeout tag) s = .next s ∧ (s.trl.waiting = [] →
        Next (.timedOutTagRelease tag) s (fun t => t.tag tag.val = none ∧ t = { s with trl := { s.trl with tags := t.trl.tags } })))

/-- PUT and GET (13 R366, R369): a malformed descriptor completes MALFORMED; else the first page of the destination is translated on both
sides, a page of the wrong kind completes ACCESS, and the page's pieces of at most 4,096 bytes go out as WR or RD requests.
Where no rule decides, the clauses follow the model's choices of log entries 26 and 31. -/
def Obligations.TransfersStart : Prop :=
  ∀ (s : State) (q : QIx) (d : QDesc) (h : HostErr) (put : Bool),
    let c : Instr := if put then .put q h else .get q h
    s.runs .dma = true → s.startOp q.val tyTrellis (if put then 1 else 2) = some d →
    let loc := d.addr 4
    let rem := d.addr 6
    let len := d.len40 8
    let die := d.f 10 2 0
    let bad := len = 0 ∨ 2 ^ 56 < loc + len ∨ 2 ^ 56 < rem + len ∨ d.f 10 31 3 ≠ 0 ∨ d.f 5 31 24 ≠ 0 ∨ d.f 7 31 24 ≠ 0 ∨ d.f 9 31 8 ≠ 0 ∨
      d.zeroFrom 11 = false ∨ s.queueOwner q.val = none ∨ s.dieOwner die ≠ s.queueOwner q.val
    let n := pageLen (if put then rem else loc) d.prog len
    let m := dmaMaster die q.val d.ix
    (bad → exec c s = .next (s.descDone q.val d.ix 1 0 0)) ∧
    (¬ bad → ∀ ls s1 rs s2,
      State.descPages q.val d.ix die (if put then .rd else .wr) h.val (pagesOf (loc + d.prog) n) (s.descRun q.val d.ix) = (some ls, s1) →
      State.descPages q.val d.ix die (if put then .wr else .rd) h.val (pagesOf (rem + d.prog) n) s1 = (some rs, s2) →
      ((∃ l, l ∈ rs ∧ ∀ dv a, l.loc ≠ .peer dv a) ∨ (∃ l dv a, ls.head? = some l ∧ l.loc = .peer dv a) →
        exec c s = .next (s2.dmaEnd q.val d.ix die 2 d.prog)) ∧
      (∀ dv a h, rs = [⟨.peer dv a, n, h⟩] → a % 4096 + n ≤ 4096 → 0 < n → ∀ x g, ls = [⟨.dev x, n, g⟩] →
        (put = true → s2.accCheck m .rd (linesOf x n) = none ∧ (s2.rget regErrInj).testBit 63 = false ∧ s2.err.upsets = []) →
        s2.trl.waiting = [] → s2.trl.tags = [] → dv < 2 ^ 18 → s2.device < 2 ^ 18 → (∀ i, i < 8 → s2.jobFloor i < 256) →
        Next c s (fun t => t.tag 0 = some { req := .xfer q.val d.ix 0, len := if put then 0 else n } ∧
          t.trl.xfers = s2.trl.xfers ++ [{ q := q.val, ix := d.ix, base := d.prog, len := n, left := 1, dst := if put then [] else ls }] ∧
          ∃ r, t.trl.out = s2.trl.out ++ [⟨r, s.queueOwner q.val, none⟩] ∧ r.cls = 0 ∧ r.opc = (if put then 2 else 1) ∧ r.dst = dv ∧
            r.addr = a % 2 ^ 52 ∧ r.aux = (if put then 0 else n) ∧ r.tag = 0 ∧
            r.data = if put then Mem.readN s2.mem x n else [])))

/-- The TXU's dispatch side (14 R378, R381, R387, R388, R399): PLACE writes its entries or completes MALFORMED or ACCESS; a dispatched token
takes its targets from the placement store and its row goes out once for each destination; a chunk of READY rows is submitted with its
stage's AOP; a completed stage gives way to the next, to the results, or to FAILs; TXU_PDATA reads an entry and SLOT
advances; a context's counters and the event log are cleared.
Where no rule decides, the clauses follow the model's choices of log entries 33 and 78. -/
def Obligations.DispatchAndChunks : Prop :=
  ∀ (s : State),
    (s.runs .txu = true → ∀ (q : QIx) d, s.opDesc q.val tyTrellis 0x10 = some d →
      let done := fun (t : State) (st : Nat) => exec (.place q 0) s = .next (t.descDone q.val d.ix st 0 0)
      let c := d.f 4 3 0
      let first := d.f 5 16 0
      let count := d.f 6 17 0
      let bad := d.f 4 31 4 ≠ 0 ∨ d.f 5 31 17 ≠ 0 ∨ d.f 6 31 18 ≠ 0 ∨ d.f 7 31 0 ≠ 0 ∨ d.f 9 31 24 ≠ 0 ∨ d.zeroFrom 10 = false ∨ count = 0 ∨ 65536 < count ∨ s.slotsOf c < first + count ∨
        2 ^ 56 < d.addr 8 + 4 * count
      (bad → done s 1) ∧ (¬ bad → some (s.ctxPart c) ≠ s.queueOwner q.val → done s 2) ∧
      (¬ bad → some (s.ctxPart c) = s.queueOwner q.val → ∀ ls s1,
        State.descPages q.val d.ix (s.homeDie q.val) .rd 0 (pagesOf (d.addr 8) (4 * count)) s = (some ls, s1) →
        (∀ s2, State.readLocs (dmaMaster (s.homeDie q.val) q.val d.ix) 0 0 ls s1 = (none, s2) → done s2 (s1.failStatus s2 q.val)) ∧
        ∀ bs s2, State.readLocs (dmaMaster (s.homeDie q.val) q.val d.ix) 0 0 ls s1 = (some bs, s2) →
          let words := (chunksOf 4 count bs).map leNat
          ((∃ w, w ∈ words ∧ natBits w 30 26 ≠ 0) → done s2 1) ∧
          ((∀ w, w ∈ words → natBits w 30 26 = 0) → Next (.place q 0) s (fun t => t.queues = (s2.descDone q.val d.ix 0 0 0).queues ∧
            ∀ j, SMap.get 0 t.txu.place j = if s2.slotBase c + first ≤ j ∧ j < s2.slotBase c + first + words.length
              then nth 0 words (j - s2.slotBase c - first) else SMap.get 0 s2.txu.place j)))) ∧
    (s.runs .txu = true → ∀ (p : DieIx) c cent rest e row b s1, (s.tdie p.val).dbuf = (c, cent) :: rest → (s.tdie p.val).going = false → s.ent p.val (entKey c cent) = some e → e.batches = [] →
      s.txuRead p.val (entKey c cent) c (txuDisp p.val) e.token (2 * s.ctxHidden c) = (.ok row, b, s1) →
      let ts := e.slots.map (fun x => placeTarget (s1.place c x))
      Next (.tokenDispatch p) s (fun t => t.ent p.val (entKey c cent) = some { e with targets := ts, sent := true } ∧
        ((t.tdie p.val).dbuf, (t.tdie p.val).going) = (if t.tokWaits (fun k => k.opc == 0x20 && k.tok.odie == p.val && k.tok.cent == cent &&
          k.tok.ctx == c) then ((c, cent) :: rest, true) else (rest, false)) ∧
        (∀ dv die, ts ≠ [] → (∀ x, x ∈ ts → x.dev = dv ∧ x.die = die) → dv < 2 ^ 18 → die < 8 → dv ≠ s1.device → s1.device < 2 ^ 18 →
          (∀ i, i < 8 → s1.jobFloor i < 256) → row ≠ [] → row.length ≤ 4096 → c < 16 → cent < 8192 →
          ∃ r, t.trl = { s1.trl with out := s1.trl.out ++ [⟨r, some (s1.ctxPart c), some s1.activeBank⟩] } ∧ r.opc = 0x20 ∧ r.cls = 2 ∧ r.dst = dv ∧
            r.plvl = s1.jobFloor (s1.ctxPart c) ∧ r.addr = die + p.val * 2 ^ 11 + cent * 2 ^ 14 + c * 2 ^ 27 ∧ r.data = row ∧
            (∀ k, k < 32 → (r.aux.testBit k = true ↔ ∃ x, x ∈ ts ∧ x.queue = k))))) ∧
    (s.runs .txu = true → ∀ (p : DieIx) (q : Fin 32) (force : Bool) run,
      let c : Instr := if force then .chunkWaitExpire p q else .expertChunkSubmit p q
      let e := s.eq32 p.val q.val
      let cap := s.eqF p.val q.val 22 10
      let first := e.order.headD 0
      let isReady := fun (i : Nat) => ∃ v, SMap.get none e.slots i = some v ∧ v.ready = true ∧ v.submitted = false
      let most := run = s.eqF p.val q.val 28 23 ∨ run = cap - first ∨ ¬ isReady (first + run)
      (∀ i, i < run → isReady (first + i)) → run ≤ s.eqF p.val q.val 28 23 → run ≤ cap - first → (e.order = [] → run = 0) → (e.order = [] ∨ most) →
      ((run = 0 ∨ (force = false ∧ run < s.eqF p.val q.val 28 23) ∨ (s.tdie p.val).stopped = true) → exec c s = .next s) ∧
      (0 < run → (force = true ∨ run = s.eqF p.val q.val 28 23) → (s.tdie p.val).stopped = false →
        let x : EqChunk := { id := e.nextChunk, first := first, rows := run }
        let u := s.setEq p.val q.val { e with
          slots := (upFrom first run).foldl (fun m i => SMap.modify none m i (fun v => v.map (fun x : EqSlot => { x with submitted := true }))) e.slots
          order := e.order.filter (fun i => !(upFrom first run).contains i), chunks := e.chunks ++ [x], nextChunk := e.nextChunk + 1 }
        ∀ tb b s1, u.txuRead p.val (eqWaiter q.val) (s.eqF p.val q.val 4 1) (txuDisp p.val) (s.tmplAddr p.val q.val 0) 128 = (.ok tb, b, s1) →
          ∃ a : Aop, a.m = run % 2 ^ 24 ∧ a.tag = first % 2 ^ 16 ∧
            a.aAddr = (Aop.aAddr (leNat tb) + first * Aop.aStride (leNat tb)) % 2 ^ 56 ∧
            a.outAddr = (Aop.outAddr (leNat tb) + first * Aop.outStride (leNat tb)) % 2 ^ 56 ∧
            (∀ b, (b < 64 ∨ 88 ≤ b) → (b < 160 ∨ 216 ≤ b) → (b < 256 ∨ 312 ≤ b) → (b < 672 ∨ 728 ≤ b) → (b < 832 ∨ 848 ≤ b) →
              Nat.testBit a b = Nat.testBit (leNat tb) b) ∧
            a.asAddr = (if Aop.asAddr (leNat tb) = 0 then 0 else (Aop.asAddr (leNat tb) + first * Aop.asStride (leNat tb)) % 2 ^ 56) ∧
            let s2 := s1.updChunk p.val q.val x.id (fun y => { y with todo := false, done := none, batches := [] })
            exec c s = .next (s2.setTdie p.val { s2.tdie p.val with
              aops := (s2.tdie p.val).aops ++ [{ queue := q.val, chunk := x.id, aop := a, ctx := s.eqF p.val q.val 4 1 }] }))) ∧
    (s.runs .txu = true → ∀ (p : DieIx) (q : Fin 32) c st, (s.eq32 p.val q.val).chunks.find? (fun c => c.batches == [] && (c.done.isSome || c.todo)) = some c → c.done = some st →
      let is := fun (t : State) => exec (.stageComplete p q) s = .next t
      (st ≠ 0 → is (s.failChunk p.val q.val c st) ∧ Next (.stageComplete p q) s (fun t =>
        (∀ i, c.out ≤ i → i < c.rows → SMap.get none (t.eq32 p.val q.val).slots (c.first + i) = none) ∧ ∀ x, x ∈ (t.eq32 p.val q.val).chunks → x.id ≠ c.id)) ∧
      (st = 0 → c.stage < s.eqF p.val q.val 30 29 → let c1 := { c with stage := c.stage + 1, done := none, todo := true }
        is ((s.updChunk p.val q.val c.id (fun _ => c1)).submitStage p.val q.val c1)) ∧
      (st = 0 → s.eqF p.val q.val 30 29 ≤ c.stage → ∀ tb b s1 s2,
        s.txuRead p.val (eqWaiter q.val) (s.eqF p.val q.val 4 1) (txuDisp p.val) (s.tmplAddr p.val q.val c.stage) 128 = (.ok tb, b, s1) →
        State.sendResults p.val q.val (stageAop (leNat tb) c.rows c.first) c c.left s1 = (.ok true, s2) →
        ∀ c2, (s2.eq32 p.val q.val).chunks.find? (fun x => x.id == c.id) = some c2 → is (s2.freeChunk p.val q.val c2))) ∧
    (∀ c : Fin 16, Next (.txuCtxCountClr c) s (fun t => t.rget ⟨.txuCtxCount, 0, c.val, 0⟩ = 0 ∧ t = { s with regs := t.regs })) ∧
    ∀ p : DieIx, Next (.txuEvlogClr p) s (fun t => t.rget ⟨.txuEvlog, p.val, 0, 0⟩ = 0 ∧ t = { s with regs := t.regs }) ∧ let r : Reg := ⟨.txuPsel, p.val, 0, 0⟩
      (s.pdataRead p.val).1 = (if s.rf r 31 16 < s.slotsOf (s.rf r 3 0) then s.place (s.rf r 3 0) (s.rf r 31 16) else 0) ∧
        Next (.txuPdata p) s (fun t => t = { s with regs := t.regs } ∧ t.rf r 31 16 = (s.rf r 31 16 + 1) % 65536 ∧ t.rf r 15 0 = s.rf r 15 0)

/-- Token packets (14 R384-R386, R389, R390, R392): a DISP is checked and answered FAIL, or takes a slot that its bytes are written to, or is
answered HOLD or PASSED; RESULT, PASSED, FAIL and a time-out settle a choice once; HOLD has the row sent again; a token whose choices have
settled is combined, counted and freed.
Where no rule decides, the clauses follow the model's choices of log entries 32 and 78. -/
def Obligations.TokensExchanged : Prop :=
  ∀ (s : State) (src : PktSrc), s.runs .txu = true →
    (∀ pk, s.peekPacket src = some pk → pk.cls = 2 → pk.wellFormed = false →
      ∀ c, (c, pk.opc) ∈ [(Instr.disp src, 0x20), (.result src, 0x21), (.hold src, 0x22), (.passed src, 0x23), (.fail src, 0x24)] →
        Next c s (fun v => v.trl = (s.dropPacket src).trl ∧ Reported { s with trl := v.trl } v)) ∧
    (∀ pk, s.peekPacket src = some pk → pk.cls = 2 → pk.wellFormed = true →
      let u := s.dropPacket src
      let t := pk.tok
      let key := entKey t.ctx t.cent
      let loc := src == .loop
      (pk.opc = 0x20 → pk.src ≠ s.device → s.device < 2 ^ 18 → (∀ i, i < 8 → s.jobFloor i < 256) →
        let p := t.tdie
        let own := s.dieOwner p
        let sends := fun (opc st aux addr : Nat) (P : State → Prop) => Next (.disp src) s (fun v => P v ∧ ∃ r,
          v.trl = { u.trl with out := u.trl.out ++ [⟨r, some (own.getD 0), none⟩] } ∧ r.opc = opc ∧ r.cls = 2 ∧ r.dst = pk.src ∧ r.status = st ∧
            r.aux = aux ∧ r.addr = addr)
        let fails := fun (st : Nat) => sends 0x24 st pk.aux (pk.addr % 2 ^ 31) (fun v => v = { s with trl := v.trl, regs := v.regs })
        let known := own = some (s.ctxPart t.ctx) ∧ (src = .loop ∨ ∃ x, s.remoteTag pk.src pk.srcpart = some (x, s.ctxPart t.ctx))
        let part := nth PartSt.unused s.ptr.parts (own.getD 0)
        (¬ known → fails 2) ∧
        (known → (s.trl.max < pk.plvl ∨ pk.plvl < s.ptr.image.floor) → fails 7) ∧
        (known → pk.plvl ≤ s.trl.max → s.ptr.image.floor ≤ pk.plvl →
          (part = .contained → fails 6) ∧ (part = .applying → fails 5) ∧
          (part ≠ .contained → part ≠ .applying → (s.tdie p).stopped = true → fails 6) ∧
          (part ≠ .contained → part ≠ .applying → (s.tdie p).stopped = false → s.rowWaits p pk = true →
            exec (.disp src) s = .next (u.holdPkt p ⟨pk, loc, [], none⟩)) ∧
          (part ≠ .contained → part ≠ .applying → (s.tdie p).stopped = false → s.rowWaits p pk = false → ∀ q, q < 32 → pk.aux = 2 ^ q →
            let e := s.eq32 p q
            let cap := s.eqF p q 22 10
            ((s.eqF p q 4 1 ≠ t.ctx ∨ (s.eqF p q 0 0 = 0 ∧ (t.chunk = 0 ∨ e.find pk.src t.odie t.cent = none))) → fails 4) ∧
            (s.eqF p q 0 0 = 1 → s.eqF p q 4 1 = t.ctx → t.chunk = 0 → (∀ i, i < cap → SMap.get none e.slots i ≠ none) →
              (s.ctx t.ctx 36 36 = 0 → sends 0x22 0 (2 ^ q) (pk.addr % 2 ^ 31 - t.last * 2 ^ 7) (fun v =>
                v.eq32 p q = { e with holds := min (e.holds + 1) 0xFFFF } ∧ v.mem = s.mem)) ∧
              (s.ctx t.ctx 36 36 = 1 → sends 0x23 0 (2 ^ q) (pk.addr % 2 ^ 31) (fun v =>
                v.eq32 p q = { e with passes := min (e.passes + 1) 0xFFFF } ∧ v.mem = s.mem))) ∧
            (s.eqF p q 0 0 = 1 → s.eqF p q 4 1 = t.ctx → s.eqF p q 9 5 = 4 → t.chunk = 0 → ∀ i sl, i < cap →
              sl = (e.next + i) % cap → (∀ j, j < i → SMap.get none e.slots ((e.next + j) % cap) ≠ none) → SMap.get none e.slots sl = none →
              ∀ tb b s1 la b2 s2 s3, u.txuRead p (eqWaiter q) t.ctx (txuDisp p) (s.tmplAddr p q 0) 128 = (.ok tb, b, s1) →
                State.txuPages p (eqWaiter q) t.ctx (txuDisp p) .wr
                  (pagesOf ((Aop.aAddr (leNat tb) + sl * Aop.aStride (leNat tb)) % 2 ^ 56) pk.data.length) s1 = (some la, b2, s2) →
                s2.writeLocs (txuDisp p) 0 la pk.data = (true, s3) → Next (.disp src) s (fun v => v.mem = s3.mem ∧ v.host = s3.host ∧
                  SMap.get none (v.eq32 p q).slots sl = some ⟨pk.src, t.odie, t.cent, t.ctx, loc, decide (t.last = 0), false, false⟩ ∧
                  (v.eq32 p q).next = (sl + 1) % cap ∧ (v.eq32 p q).order = e.order ++ [sl]))))) ∧
      (pk.opc = 0x21 → ∀ e j, s.ent t.odie key = some e → e.choice ⟨pk.src, t.tdie, pk.aux % 32⟩ = some j → j < e.st.length →
        (e.st[j]? ≠ some .wait → exec (.result src) s = .next u) ∧
        (e.st[j]? = some .wait → s.rowWaits t.odie pk = false → ∀ w, w = (if loc then u else u.meterRx (some (s.ctxPart t.ctx)) pk) → ∀ ls b s1 s2,
          State.txuPages t.odie key t.ctx (txuComb t.odie) .wr
            (pagesOf ((s.stageRow t.odie t.ctx t.cent j + 4096 * t.chunk) % 2 ^ 56) pk.len) w = (some ls, b, s1) →
          (s1.writeLocs (txuComb t.odie) 0 ls pk.data = (true, s2) → exec (.result src) s = .next (if t.chunk = t.last
            then s2.setEnt t.odie key (some { e with st := e.st.set j .result }) else s2)) ∧
          (s1.writeLocs (txuComb t.odie) 0 ls pk.data = (false, s2) →
            exec (.result src) s = .next (s2.setEnt t.odie key (some { e with st := e.st.set j (.failed 2) }))))) ∧
      (∀ e j q, q < 32 → pk.aux = 2 ^ q → s.ent t.odie key = some e → e.choice ⟨pk.src, t.tdie, q⟩ = some j → e.st[j]? = some .wait →
        let gets := fun (c : Instr) (e' : CombEnt) => Next c s (fun v => v.ent t.odie key = some e' ∧ v.trl = u.trl ∧
          v = { s with trl := v.trl, txu := v.txu, ldg := v.ldg, err := { s.err with stamps := v.err.stamps } })
        (pk.opc = 0x22 → j ∉ e.retry → gets (.hold src) { e with retry := e.retry ++ [j] }) ∧
        (pk.opc = 0x23 → gets (.passed src) { e with st := e.st.set j .passed }) ∧
        (pk.opc = 0x24 → gets (.fail src) { e with st := e.st.set j (.failed pk.status) })) ∧
      (s.ent t.odie key = none → (∀ c, (c, pk.opc) ∈ [(Instr.hold src, 0x22), (.passed src, 0x23), (.fail src, 0x24)] → Next c s (fun v =>
        v = { u with ldg := v.ldg, err := { s.err with stamps := v.err.stamps } })) ∧ (pk.opc = 0x21 → exec (.result src) s = .next u))) ∧
    ∀ (p : DieIx) (c : Fin 16) (cent : Fin 8192) e, let key := entKey c.val cent.val
      s.ent p.val key = some e →
      (∀ j : Fin 16, e.sent = true → e.st[j.val]? = some .wait →
        exec (.choiceTimeout p c cent j) s = .next (s.setEnt p.val key (some { e with st := e.st.set j.val (.failed 0x81) }))) ∧
      (∀ j : Fin 16, e.sent = true → j.val < e.st.length → e.st[j.val]? ≠ some .wait → exec (.choiceTimeout p c cent j) s = .next s) ∧
      (e.retry ≠ [] → e.batches = [] → ∀ js, js = e.retry.filter (fun j => nth .passed e.st j == .wait) →
        (s.ctxEn c.val = false → Next (.holdRetry p c cent) s (fun t => ∃ e', t = s.setEnt p.val key (some e') ∧ e'.retry = [] ∧
          ∀ j, e'.st[j]? = if j ∈ js then (if j < e.st.length then some (.failed 4) else none) else e.st[j]?)) ∧
        (s.ctxEn c.val = true → ∀ row b s1, s.txuRead p.val key c.val (txuDisp p.val) e.token (2 * s.ctxHidden c.val) = (.ok row, b, s1) →
          let ts := js.map (fun j => nth ⟨0, 0, 0⟩ e.targets j)
          exec (.holdRetry p c cent) s = .next ((s1.setEnt p.val key (some { e with retry := [] })).sendRow p.val c.val cent.val row
            ((destsOf ts).map (fun d => (d, qmaskOf ts d)))))) ∧
      (e.batches = [] → (s.tdie p.val).stopped = false →
        let rn := s.ctxHidden c.val * (if s.ctx c.val 39 39 = 1 then 4 else 2)
        let dn := s.ctxHidden c.val * (if s.ctx c.val 38 38 = 1 then 2 else 4)
        let js := (List.range e.st.length).filter (fun j => nth .wait e.st j == .result)
        let failed := ∃ x, ChSt.failed x ∈ e.st
        let cnt : Reg := ⟨.txuCtxCount, 0, c.val, 0⟩
        (.wait ∈ e.st → exec (.combine p c cent) s = .next s) ∧
        (.wait ∉ e.st → ∀ rows s1 dest b s2 ls b3 s3 s4, State.readRows p.val c.val cent.val key rn js s = (.ok (some rows), s1) →
          (if s.ctx c.val 37 37 = 1 then s1.txuRead p.val key c.val (txuComb p.val) e.dest dn else (.ok [], [], s1)) = (.ok dest, b, s2) →
          State.txuPages p.val key c.val (txuComb p.val) .wr (pagesOf e.dest dn) s2 = (some ls, b3, s3) → ls.all locIsNear = true →
          s3.writeLocs (txuComb p.val) 0 ls (s3.combineRow c.val e dest rows) = (true, s4) → Next (.combine p c cent) s (fun t =>
            t.ent p.val key = none ∧ t.rf cnt 31 0 = (s4.rf cnt 31 0 + 1) % 2 ^ 32 ∧
            t.rf cnt 47 32 = (if ChSt.passed ∈ e.st then min (s4.rf cnt 47 32 + 1) 0xFFFF else s4.rf cnt 47 32) ∧
            (failed → t.rf cnt 62 48 = min (s4.rf cnt 62 48 + 1) 0x7FFF) ∧ (¬ failed → t.rf cnt 62 48 = s4.rf cnt 62 48 ∧ t.mem = s4.mem))))

/-- Collectives (14 R393-R398): a malformed descriptor completes MALFORMED; else the member reads its source, sends its first block and
follows the plan of R395; a CDATA is folded in and passed on, one with another digest ends the collective MALFORMED, one of a collective not yet
begun waits; CFAIL and a time-out end it and pass CFAIL on, once, to the next member of each ring.
Where no rule decides, the clauses follow the model's choices of log entries 33 and 34. -/
def Obligations.Collectives : Prop :=
  ∀ (s : State), s.runs .txu = true →
    let ends := fun (c : Instr) (u : State) (r : CollRun) (st : Nat) => Next c s (fun t => t.queues = (u.descDone r.q r.ix st 0 0).queues ∧
      t.txu = { u.txu with
        colls := u.txu.colls.filter (fun x => !(x.q == r.q && x.ix == r.ix))
        ended := SMap.set 0 u.txu.ended r.cid (if st = 0 then 1 else 2) } ∧
      t = { u with queues := t.queues, txu := t.txu, trl := t.trl } ∧
      (∀ d, st ≠ 0 → r.dims = [d] → r.len d ≠ 1 → u.device < 2 ^ 18 → u.collNext r d < 2 ^ 18 → (∀ i, i < 8 → u.jobFloor i < 256) → st < 256 →
        ∃ k, t.trl = { u.trl with out := u.trl.out ++ [⟨k, some ((u.queueOwner r.q).getD 0), none⟩] } ∧ k.opc = 0x31 ∧ k.cls = 3 ∧
          k.dst = u.collNext r d ∧ k.status = st ∧ k.len = 32 ∧ k.collSub = r.sub d 0 0 0 0 % 2 ^ 256))
    (∀ (q : QIx) r, s.txu.colls.find? (fun r => r.q == q.val) = some r → ends (.collTimeout q) s r 0x81) ∧
    (∀ (q : QIx) (h : HostErr) d, s.opDesc q.val tyTrellis 0x11 = some d → s.txu.colls.find? (fun x => x.q == q.val && x.ix == d.ix) = none →
      let r : CollRun := { q := q.val, ix := d.ix, raw := d.raw }
      (s.txu.colls.any (fun x => x.q == q.val) = true → exec (.coll q h) s = .next s) ∧
      (s.txu.colls.any (fun x => x.q == q.val) = false →
        (s.collBad r q.val = true → exec (.coll q h) s = .next (s.descDone q.val d.ix 1 0 0)) ∧
        ((r.dims = [] ∨ r.count = 0 ∨ r.rop = 3 ∨ r.members ≤ r.root ∨ (r.dtype = 3 ∧ r.op < 2) ∨ (∃ d, d ∈ r.dims ∧ (r.len d = 0 ∨ s.size d < r.len d)) ∨
          s.queueOwner q.val = none ∨ s.dieOwner r.die ≠ s.queueOwner q.val) → s.collBad r q.val = true) ∧
        (s.collBad r q.val = false → ∀ ls s1 bs s2,
          State.descPages q.val d.ix r.die .rd h.val (pagesOf r.src (if r.op ≠ 3 ∨ s.collRank r = r.root then r.esize * r.count else 0)) s =
            (some ls, s1) →
          State.readLocs (dmaMaster r.die q.val d.ix) h.val 0 ls s1 = (some bs, s2) →
          ∃ r1, r1 = { r with lo := r1.lo, hi := r1.hi, vec := r1.vec, out := r1.out } ∧
            (r.op < 2 → r1.lo = 0 ∧ r1.hi = r.count ∧ r1.out = [] ∧
              ∀ i, SMap.get 0 r1.vec i = nth 0 (((chunksOf r.esize r.count bs).map leNat).map r.widen) i) ∧
            (2 ≤ r.op → r1.lo = 0 ∧ r1.hi = 0 ∧ r1.vec = [] ∧ ∀ i, SMap.get 0 r1.out ((if r.op = 2 then s2.collRank r * r.count else 0) + i) =
              nth 0 ((chunksOf r.esize r.count bs).map leNat) i) ∧
            let s3 := ({ s2 with txu := { s2.txu with colls := s2.txu.colls ++ [r1], ended := SMap.set 0 s2.txu.ended r.cid 0 } } : State).descRun q.val d.ix
            let a := State.collAdvance (r1.plan.length + 1) (s3.collOpen r1) r1
            exec (.coll q h) s = .next (a.1.collFinish a.2 h.val)))) ∧
    ∀ (src : PktSrc) (p : Packet), s.peekPacket src = some p → p.cls = 3 →
      let u := s.dropPacket src
      let h := p.collSub
      let die := natBits h 28 26
      let c : Instr := if p.opc = 0x30 then .cdata src else .cfail src
      let check := s.collCheck p (src == .loop) die
      let run := s.txu.colls.find? (fun r => r.cid == natBits h 15 0 && s.queueOwner r.q == s.dieOwner die)
      let past := SMap.get 0 s.txu.ended (natBits h 15 0)
      (p.opc = 0x30 ∨ p.opc = 0x31) →
      (p.wellFormed = false → Next c s (fun t => t.trl = u.trl ∧ Reported { s with trl := t.trl } t)) ∧
      (p.wellFormed = true → ∀ st, check = some st → (p.opc = 0x31 → exec c s = .next u) ∧
        (p.opc = 0x30 → s.device < 2 ^ 18 → (∀ i, i < 8 → s.jobFloor i < 256) → Next c s (fun t => ∃ k,
          t = { u with trl := { u.trl with out := u.trl.out ++ [⟨k, some ((s.dieOwner die).getD 0), none⟩] } } ∧ k.opc = 0x31 ∧ k.cls = 3 ∧
            k.dst = p.src ∧ k.status = st ∧ k.collSub = h))) ∧
      (p.wellFormed = true → check = none → run = none →
        ((past = 2 ∨ (past = 1 ∧ p.opc = 0x31)) → exec c s = .next u) ∧
        (past ≠ 2 → (past ≠ 1 ∨ p.opc = 0x30) → (s.collMeant p die = none → exec c s = .next s) ∧
          ∀ r, s.collMeant p die = some r → ends c u r 1)) ∧
      (p.wellFormed = true → check = none → ∀ r, run = some r →
        (p.opc = 0x31 → ends c u r p.status) ∧
        (p.opc = 0x30 → natBits h 63 32 ≠ r.digest → ends c u r 1) ∧
        (p.opc = 0x30 → natBits h 63 32 = r.digest → s.collTake r p = none → exec c s = .next s) ∧
        (p.opc = 0x30 → natBits h 63 32 = r.digest → ∀ d n, r.plan[r.stage]? = some (0, d) → r.len d = n →
          natBits h 19 18 = 0 → natBits h 17 16 = d → natBits h 25 20 + 1 = n → r.ready = false →
          let els := (chunksOf r.rsize p.data.length (p.data.drop 32)).map leNat
          let b := (blockOf r.lo r.hi n (natBits h 81 64)).1 + natBits h 151 96
          r.got + els.length < s.collExpect r → ∃ r1, r1 = { r with got := r.got + els.length, vec := r1.vec } ∧
            (∀ i, SMap.get 0 r1.vec i = if b ≤ i ∧ i < b + els.length then r.fold (nth 0 els (i - b)) (SMap.get 0 r.vec i) else SMap.get 0 r.vec i) ∧
            exec c s = .next (u.setColl r1)))

/-- Membership of a Lodge (15 R402-R406, R421): a message acts once, a repeated one is answered again, and its stamp is heeded
as a cause (10 R283); ANNOUNCE is answered with JOIN, JOIN
with WELCOME, HEARTBEAT in kind; missed periods fail a member or drop a parent; drained members leave; SLEEP_REQ is refused or sets the
member DRAINING with its detour; MEMBERS writes the 64 entries.
Where no rule decides, the clauses follow the model's choices of log entries 30 and 79. -/
def Obligations.Membership : Prop :=
  ∀ (s : State) (dev : DevIx) (seq : BitVec 32) (st : BitVec 64),
    let l := s.ldg
    let d := dev.val
    let h := s.heed st.toNat
    let put := fun (f : Ldg) => { h with ldg := f }
    let here := fun (f : Ldg) => { s with ldg := f }
    let fresh := l.seen.find? (fun x => x.1 == d && x.2.1 == seq.toNat) = none
    let once := fun (c : Instr) (u : State) => fresh → exec c s = .next { u with ldg := { u.ldg with
      seen := u.ldg.seen ++ [(d, seq.toNat, (u.ldg.out.drop l.out.length).filter (fun m => m.dst == d && isAnswer m.opc))] } }
    let lodge := s.ptr.image.lodge = true ∧ l.held = true
    let memb := fun (m : Member) => l.members.find? (fun m => m.dev == d) = some m
    let with' := fun (f : Member → Member) => l.members.map (fun m => if m.dev = d then f m else m)
    let settled := fun (opc : Nat) => dropFirst (fun (m : Msg) => m.dst == d && m.opc == opc) l.await
    (∀ c x, l.seen.find? (fun x => x.1 == d && x.2.1 == seq.toNat) = some x → (∃ a b a1 a2 a3 a4 a5 ok free ev fl act e1 e2 e3 sub j pt tn ch data en bk byt,
      c ∈ [Instr.announce dev ⟨seq, st⟩ a b, .join dev seq a1 a2 a3 a4 st, .welcome dev ⟨seq, st⟩ a5 ok, .heartbeat dev seq ok free st, .notice dev seq ev st,
        .admitJob dev ⟨seq, st⟩ j tn pt fl act e1 e2 e3 sub, .admitAck dev ⟨seq, st⟩ j ok free, .endJob dev ⟨seq, st⟩ j, .endAck dev ⟨seq, st⟩ j,
        .ckptStep dev ⟨seq, st⟩ j ch, .ckptAck dev ⟨seq, st⟩ j ch ok byt, .detourWrite dev ⟨seq, st⟩ en, .detourSwitch dev ⟨seq, st⟩ bk, .detourAck dev ⟨seq, st⟩,
        .meter dev ⟨seq, st⟩ ch data, .drain dev ⟨seq, st⟩, .undrain dev ⟨seq, st⟩, .sleepReq dev ⟨seq, st⟩, .sleepGrant dev ⟨seq, st⟩ ok]) → exec c s = .next (put { l with out := l.out ++ x.2.2 })) ∧
    (∀ (lvl : Fin 4) (b : Box), (s.boxHas (boxNat b) s.device = false → once (.announce dev ⟨seq, st⟩ lvl b) h) ∧
      (s.boxHas (boxNat b) s.device = true →
        (lvl.val = 1 → l.pparent = none → ¬ (lodge ∧ s.ptr.image.level = 1) →
          once (.announce dev ⟨seq, st⟩ lvl b) ((put { l with pparent := some d, pmiss := 0 }).sendJoin d 0)) ∧
        (lodge → lvl.val = s.ptr.image.level + 1 → (lvl.val ≠ 1 ∨ l.pparent ≠ none) → l.lparent = none →
          once (.announce dev ⟨seq, st⟩ lvl b) ((put { l with lparent := some d, lmiss := 0 }).sendJoin d s.ptr.image.level)))) ∧
    (∀ (lvl : Fin 3) (mx fl : Fin 256) parts, let c := Instr.join dev seq lvl mx fl parts st
      (¬ lodge → once c h) ∧
      (lodge → (∀ m, ¬ memb m) → 64 ≤ l.members.length → once c (h.mgmt 0x42 d [0] st.toNat)) ∧
      (lodge → d ∉ l.away → let m : Member := { dev := d, st := .healthy, level := lvl.val, max := mx.val, floor := fl.val, stamp := st.toNat, parts := parts }
        ((∀ m, ¬ memb m) → l.members.length < 64 → once c ((put { l with members := l.members ++ [m], away := l.away.filter (· != d) }).mgmt 0x42 d [1] st.toNat)) ∧
        ((∃ m, memb m) → once c ((put { l with members := with' (fun _ => m), away := l.away.filter (· != d) }).mgmt 0x42 d [1] st.toNat)))) ∧
    (∀ side : Bool, let c := fun ok => Instr.welcome dev ⟨seq, st⟩ side ok
      once (c true) (put { l with await := settled 0x41 }) ∧
      (side = true → l.lparent = some d → once (c false) (put { l with await := settled 0x41, lparent := none })) ∧
      (side = false → l.pparent = some d → once (c false) (put { l with await := settled 0x41, pparent := none }))) ∧
    (∀ (free : BitVec 8), l.pparent = some d → l.lparent ≠ some d →
      once (.heartbeat dev seq true free st) (put { l with await := settled 0x43, pmiss := 0 })) ∧
    (∀ (free : BitVec 8), lodge → (∃ m, memb m) → once (.heartbeat dev seq false free st) (put { l with
        seq := l.seq + 1, out := l.out ++ [{ opc := 0x43, dst := d, seq := l.seq % 2 ^ 32, args := [1], stamp := st.toNat }],
        members := with' (fun m => { m with missed := 0, stamp := st.toNat, parts := m.parts.zipIdx.map (fun p => { p.1 with free := free.toNat.testBit p.2 }) }) })) ∧
    (∀ ev, let u := (h.stamp 8 st.toNat).2
      (¬ lodge → once (.notice dev seq ev st) u) ∧
      (∀ n x, lodge → (∃ m, memb m) → ev = .port n x → 4 ≤ x.val → (d, n.val) ∉ l.links →
        once (.notice dev seq ev st) (({ u with ldg := { l with links := l.links ++ [(d, n.val)] } } : State).recompute))) ∧
    (∀ m, memb m → lodge →
      (m.st = .healthy → once (.drain dev ⟨seq, st⟩) (((put { l with members := with' (fun m => { m with st := .draining }) }).mgmt 0x4F d [] 0).leaveCheck)) ∧
      (m.st = .draining → once (.undrain dev ⟨seq, st⟩) ((put { l with members := with' (fun m => { m with st := .healthy }) }).mgmt 0x50 d [] 0)) ∧
      (((∃ p, p ∈ m.parts ∧ p.dies ≠ 0 ∧ p.free = false) ∨ m.level ≠ 0 ∨ d = s.device) → once (.sleepReq dev ⟨seq, st⟩) (h.mgmt 0x52 d [0] 0)) ∧
      ((∀ p, p ∈ m.parts → p.dies = 0 ∨ p.free = true) → m.level = 0 → d ≠ s.device → d ∉ l.away → d ∉ l.sleepers →
        once (.sleepReq dev ⟨seq, st⟩) ((put { l with
          members := with' (fun m => { m with st := .draining }), away := l.away ++ [d], sleepers := l.sleepers ++ [d] }).recompute)) ∧
      (m.st = .leaving → 16 ≤ m.missed → exec (.memberRemoval dev) s = .next (here { l with members := l.members.filter (fun m => m.dev != d) })) ∧
      (s.rf ⟨.ldgTimers, 0, 0, 0⟩ 19 16 ≤ m.missed → d ≠ s.device → m.st ≠ .leaving → m.st ≠ .failed → l.jobs = [] →
        Next (.heartbeatMiss dev) s (fun t => (∀ x, x ∈ t.ldg.members → x.dev = d → x.st = .failed) ∧ d ∈ t.ldg.away ∧ t = { s with ldg := t.ldg }))) ∧
    ((∃ m, m ∈ l.await ∧ m.dst = d ∧ m.opc = 0x51) → let u := put { l with await := settled 0x51 }
      once (.sleepGrant dev ⟨seq, st⟩ true) { u with pwr := { s.pwr with grant := true } } ∧ (s.pwr.req = none → once (.sleepGrant dev ⟨seq, st⟩ false) u)) ∧
    (¬ lodge → l.pparent = some d → d ≠ s.device → l.lparent = none → s.rf ⟨.ldgTimers, 0, 0, 0⟩ 19 16 ≤ l.pmiss →
      exec (.heartbeatMiss dev) s = .next (here { l with pparent := none })) ∧
    (∀ m, l.await.find? (fun m => m.seq == seq.toNat) = some m → m.sends < 8 → let m1 := { m with sends := m.sends + 1 }
      exec (.mgmtResend seq) s = .next (here { l with await := l.await.map (fun x => if x.seq = seq.toNat then m1 else x), out := l.out ++ [m1] })) ∧
    (∀ m, l.await.find? (fun m => m.seq == seq.toNat) = some m → 8 ≤ m.sends → ¬ lodge → l.pparent = some m.dst → m.dst ≠ s.device → l.lparent = none →
      exec (.mgmtResend seq) s = .next (here { l with await := l.await.filter (fun x => x.seq != seq.toNat), pparent := none })) ∧
    (l.pparent = some d → d ≠ s.device → l.lparent = none → exec .heartbeatPeriod s = .next (let u := s.mgmt 0x43 d ([0, s.freeMask] ++ (List.range 6).map (fun n => (s.tport n).st.code)) 0
      { u with ldg := { u.ldg with
        pmiss := l.pmiss + 1, lmiss := l.lmiss + 1, annPeriods := l.annPeriods + 1, members := l.members.map (fun m => { m with missed := m.missed + 1 }) } })) ∧
    ((¬ lodge ∨ l.annPeriods < 16) → exec .announcePeriod s = .next s) ∧
    (lodge → 16 ≤ l.annPeriods → s.ptr.image.level ≠ 1 → exec .announcePeriod s = .next
      (((s.boxDevs s.ldgBox).filter (fun x => x != s.device && (l.members.find? (fun m => m.dev == x)).isNone)).foldl
        (fun t x => t.mgmt 0x40 x [s.ptr.image.level, s.rget ⟨.ldgBox, 0, 0, 0⟩] 0) (here { l with annPeriods := 0 }))) ∧
    ∀ (q : QIx) x, s.opDesc q.val tyService 0x43 = some x → natBits x.raw 255 128 = 0 → x.f 9 31 24 = 0 → x.zeroFrom 10 = true → x.addr 8 + 1024 ≤ 2 ^ 56 →
      (¬ lodge → exec (.members q 0) s = .next (s.descDone q.val x.ix 0x81 0 0)) ∧
      (lodge → ∀ ls s1 s2, State.descPages q.val x.ix (s.homeDie q.val) .wr 0 (pagesOf (x.addr 8) 1024) s = (some ls, s1) →
        s1.descWrite q.val x.ix (dmaMaster (s.homeDie q.val) q.val x.ix) 0 ls s1.membersBytes = (true, s2) →
        exec (.members q 0) s = .next (s2.descDone q.val x.ix 0 0 0) ∧ ∀ i m, i < 64 → s1.ldg.members[i]? = some m →
          m.dev < 2 ^ 18 → m.level < 4 → m.max < 256 → m.floor < 256 → m.stamp < 2 ^ 64 →
          let w := leNat ((s1.membersBytes.drop (16 * i)).take 16)
          natBits w 17 0 = m.dev ∧ natBits w 22 20 = m.st.code ∧ natBits w 24 23 = m.level ∧ natBits w 39 32 = m.max ∧ natBits w 47 40 = m.floor ∧
            natBits w 127 64 = m.stamp)

/-- Jobs (15 R407-R411, R422): JOB_SUBMIT is refused with its reason, or the plots of its box are admitted; an ADMIT at a plot sets the
partition RUNNING under the job; acknowledgements complete the admission; END stops the partition, zeroises it and frees it, and JOB_END
completes when all have answered; RELINQUISH gives up the role unless a job runs.
Where no rule decides, the clauses follow the model's choices of log entry 79. -/
def Obligations.Jobs : Prop :=
  ∀ (s : State) (dev : DevIx) (seq : BitVec 32) (job : BitVec 64) (q : QIx) (i : PartIx) (st : BitVec 64),
    let l := s.ldg
    let d := dev.val
    let id := job.toNat
    let lodge := s.ptr.image.lodge = true ∧ l.held = true
    let u0 := s.heed st.toNat
    let put := fun (f : Ldg) => { u0 with ldg := f }
    let fresh := l.seen.find? (fun x => x.1 == d && x.2.1 == seq.toNat) = none
    let seen := fun (u : State) => { u with ldg := { u.ldg with
      seen := u.ldg.seen ++ [(d, seq.toNat, (u.ldg.out.drop l.out.length).filter (fun m => m.dst == d && isAnswer m.opc))] } }
    let settled := fun (opc : Nat) => put { l with await := dropFirst (fun m => m.dst == d && (m.opc == opc && (m.args.head? == some id))) l.await }
    let p := s.ldgPart i.val
    let jobOf := fun (t : State) (n : Nat) => t.ldg.jobs.find? (fun j => j.id == n)
    (∀ x, s.startOp q.val tyService 0x40 = some x → (∀ j, j ∈ l.jobs → j.phase ≠ .admitting) →
      let fails := fun (tsf : Nat) => Next (.jobSubmit q) s (fun t => ∀ n, t.queue n = (s.descDone q.val x.ix 0x80 tsf 0).queue n)
      let jd := x.job
      (¬ lodge → exec (.jobSubmit q) s = .next (s.descDone q.val x.ix 0x81 0 0)) ∧
      (lodge → (x.jobBad = true ∨ jd.dies ∉ [1, 2, 4, 8] ∨ jd.dies < 2 ^ jd.gang ∨ jd.tenant = 0 ∨ (∃ b, b ∈ jd.box ∧ (b.2 = 0 ∨ 64 < b.2))) → fails 1) ∧
      (lodge → x.jobBad = false → s.ptr.image.level = 1 →
        (jd.any = false → s.boxIn jd.box s.ldgBox = false → fails 2) ∧
        (∀ v rest, jd.any = false → s.boxIn jd.box s.ldgBox = true → s.boxDevs jd.box = v :: rest →
          ((∀ m, s.memb v = some m → m.st ≠ .healthy) → fails 3) ∧
          (∀ m, s.memb v = some m → m.st = .healthy → (m.max < jd.floor ∨ jd.floor < m.floor) → fails 5) ∧
          (∀ m, s.memb v = some m → m.st = .healthy → jd.floor ≤ m.max → m.floor ≤ jd.floor → (∀ pp, pp ∈ m.parts →
            ¬ (pp.free = true ∧ pp.running = true ∧ (maskBits 8 pp.dies).length = jd.dies ∧ pp.gang = jd.gang)) → fails 4)) ∧
        (∀ plots, s.choosePlots jd = .ok plots → let n := s.device * 2 ^ 46 + l.jobCount % 2 ^ 46
          Next (.jobSubmit q) s (fun t => t.queues = (s.descRun q.val x.ix).queues ∧ t.ldg.jobCount = l.jobCount + 1 ∧
            t.ldg.jobs = l.jobs ++ [{ id := n, plots := plots, phase := .admitting, q := some (q.val, x.ix), floor := jd.floor, action := jd.action }] ∧
            t.ldg.out = l.out ++ plots.zipIdx.map (fun w => ⟨0x45, w.1.1, (l.seq + w.2) % 2 ^ 32,
              [n, jd.tenant, w.1.2, jd.floor, b2n jd.action] ++ jd.budgets.map (fun b => ceilDiv b plots.length), s.gwStamp, 1⟩))))) ∧
    (∀ (tn : BitVec 32) (fl : Fin 256) (act : Bool) (a h e : BitVec 64), let c := Instr.admitJob dev ⟨seq, st⟩ job tn i fl act a h e none
      fresh → l.parts.length = 8 →
      ((p.st ≠ .free ∨ (s.entry i.val).dies = 0) → exec c s = .next (seen (u0.mgmt 0x46 d [id, 0] 0))) ∧
      (p.st = .free → (s.entry i.val).dies ≠ 0 → Next c s (fun t => t.ldgPart i.val = { t.ldgPart i.val with
          st := .running, isOver := 0, action := act, tenant := tn.toNat, job := id, budget := [a.toNat, h.toNat, e.toNat], total := [] } ∧
        t.rf ⟨.trlJobfloor, i.val, 0, 0⟩ 7 0 = fl.val ∧ t.ldg.out = l.out ++ [{ opc := 0x46, dst := d, seq := l.seq % 2 ^ 32, args := [id, 1], stamp := t.gwStamp }] ∧
        (∀ k, k ≠ i.val → t.ldgPart k = s.ldgPart k) ∧
        ∃ r, t.ldg.closed = l.closed ++ [r] ∧ r.part = i.val ∧ natBits r.raw 15 8 = 1)) ∧
      ∀ x : SubJob, let c := Instr.admitJob dev ⟨seq, st⟩ job tn i fl act a h e (some x)
        (¬ lodge → exec c s = .next (seen (u0.mgmt 0x46 d [id, 0, 7] 0))) ∧
        (lodge → (∃ j, j ∈ l.jobs ∧ j.phase = .admitting) → exec c s = .next u0)) ∧
    (∀ j, fresh → jobOf s id = some j → j.phase = .admitting → ∀ r : BitVec 8,
      let acks := if j.acked.contains d then j.acked else d :: j.acked
      ((∀ w, w ∈ j.plots → w.1 ∈ acks) → ∀ q0 ix, j.q = some (q0, ix) → j.parent = none → Next (.admitAck dev ⟨seq, st⟩ job true r) s (fun t =>
        t.queues = (s.descDone q0 ix 0 0 id).queues ∧ jobOf t id = some { j with acked := [], phase := .running, q := none })) ∧
      ((∃ w, w ∈ j.plots ∧ w.1 ∉ acks) → Next (.admitAck dev ⟨seq, st⟩ job true r) s (fun t =>
        t.queues = s.queues ∧ jobOf t id = some { j with acked := acks })) ∧
      (s.ptr.image.level = 1 → exec (.admitAck dev ⟨seq, st⟩ job false r) s = .next (seen ((settled 0x45).admitFail j 7 0))) ∧
      (s.ptr.image.level ≠ 1 → exec (.admitAck dev ⟨seq, st⟩ job false r) s = .next (seen ((settled 0x45).admitFail j 6 r.toNat)))) ∧
    (fresh → jobOf s id = none →
      ((∀ k, k < 8 → (s.ldgPart k).job ≠ id ∨ (s.ldgPart k).st = .free) → exec (.endJob dev ⟨seq, st⟩ job) s = .next (seen (u0.mgmt 0x48 d [id] 0))) ∧
      (p.job = id → p.st ∈ [JobSt.running, .ckpt] → l.parts.length = 8 → (∀ k, k < 8 → k ≠ i.val → (s.ldgPart k).job ≠ id) →
        Next (.endJob dev ⟨seq, st⟩ job) s (fun t => t.ldgPart i.val = { p with st := .ending, endFrom := some d, held := false, step := 0, ckptFrom := none } ∧
          (∀ c, c < 16 → t.ctxEn c = (s.ctxEn c && decide (s.ctxPart c ≠ i.val))) ∧ t.ldg.seen = l.seen ∧
          ∀ x, s.queueOwner x = some i.val → (s.queue x).st = .enabled → (s.queue x).resetting = false → (t.queue x).st ∈ [QSt.draining, .disabled]))) ∧
    (p.st = .ending → l.parts.length = 8 → p.endFrom = some d → l.store.length + l.closed.length < 16 →
      (∀ x, s.queueOwner x = some i.val → (s.queue x).st ∈ [QSt.disabled, .contained] ∧ (s.queue x).flight = [] ∧ (s.queue x).ready = 0) → Next (.endDrained i) s (fun t =>
        (t.ldgPart i.val).st = .free ∧ (t.ldgPart i.val).job = 0 ∧ (t.ldgPart i.val).tenant = 0 ∧
        (∀ k a, k < 8 → (s.entry i.val).dies.testBit k = true → a < nearSize → Mem.read t.mem (nearOf k + a) = 0) ∧
        (∀ k a, k < 16 → (s.entry i.val).hbms.testBit k = true → a < 2 ^ 36 → Mem.read t.mem (k * 2 ^ 36 + a) = 0) ∧
        (∃ m, t.ldg.out = l.out ++ [m] ∧ m.opc = 0x48 ∧ m.dst = d ∧ m.args = [p.job]) ∧
        ∃ r, t.ldg.closed = l.closed ++ [r] ∧ r.part = i.val ∧ natBits r.raw 15 8 = 2)) ∧
    (∀ j, fresh → jobOf s id = some j → j.phase = .ending → (∀ w, w ∈ j.plots → w.1 = d ∨ w.1 ∈ j.acked) → ∀ q0 ix, j.q = some (q0, ix) →
      j.parent = none → Next (.endAck dev ⟨seq, st⟩ job) s (fun t => t.queues = (s.descDone q0 ix 0 0 0).queues ∧ jobOf t id = none)) ∧
    (∀ x, s.startOp q.val tyService 0x41 = some x → x.zeroFrom 6 = true → let n := natBits x.raw 191 128
      (¬ lodge → exec (.jobEnd q) s = .next (s.descDone q.val x.ix 0x81 0 0)) ∧
      (lodge → jobOf s n = none → (∀ m pp, m ∈ l.members → pp ∈ m.parts → pp.job ≠ n) → exec (.jobEnd q) s = .next (s.descDone q.val x.ix 0x83 0 0)) ∧
      (∀ j, lodge → jobOf s n = some j → j.phase = .running → j.plots ≠ [] → Next (.jobEnd q) s (fun t =>
        jobOf t n = some { j with q := some (q.val, x.ix), phase := .ending, acked := [], endAfter := false } ∧ t.queues = (s.descRun q.val x.ix).queues ∧
        t.ldg.out = l.out ++ j.plots.zipIdx.map (fun w => { opc := 0x47, dst := w.1.1, seq := (l.seq + w.2) % 2 ^ 32, args := [n], stamp := s.gwStamp })))) ∧
    ∀ x, s.startOp q.val tyAdmin 0x40 = some x →
      (x.zeroFrom 4 = false → exec (.relinquish q) s = .next (s.descDone q.val x.ix 1 0 0)) ∧
      (x.zeroFrom 4 = true → lodge → l.jobs ≠ [] → exec (.relinquish q) s = .next (s.descDone q.val x.ix 0x82 0 0)) ∧
      (x.zeroFrom 4 = true → l.jobs = [] → Next (.relinquish q) s (fun t => t.ldg.held = false ∧ t.ldg.members = [] ∧ t.ldg.lparent = none ∧
        t.ldg.parts = l.parts ∧ t.ldg.out = l.out ∧ t = { s.descDone q.val x.ix 0 0 0 with ldg := t.ldg }))

/-- Checkpoints and detours (15 R419, R420): JOB_CHECKPOINT sends PREPARE to the job's plots; a plot raises source 260, quiesces, copies and
resumes as it is told, and answers each step; READY, the time-outs and the acknowledgements move the steps on, and a failed step goes to step
4; DETOUR_WRITE fills the inactive bank, and the banks switch when every member has acknowledged.
Where no rule decides, the clauses follow the model's choices of log entries 42 and 79. -/
def Obligations.CheckpointsAndDetours : Prop :=
  ∀ (s : State) (dev : DevIx) (seq : BitVec 32) (job : BitVec 64) (i : PartIx) (st : BitVec 64),
    let l := s.ldg
    let d := dev.val
    let id := job.toNat
    let lodge := s.ptr.image.lodge = true ∧ l.held = true
    let u0 := s.heed st.toNat
    let fresh := l.seen.find? (fun x => x.1 == d && x.2.1 == seq.toNat) = none
    let seen := fun (u : State) => { u with ldg := { u.ldg with
      seen := u.ldg.seen ++ [(d, seq.toNat, (u.ldg.out.drop l.out.length).filter (fun m => m.dst == d && isAnswer m.opc))] } }
    let jobOf := fun (t : State) (n : Nat) => t.ldg.jobs.find? (fun j => j.id == n)
    let p := s.ldgPart i.val
    let msg := fun (n opc dst : Nat) (args : List Nat) => (⟨opc, dst, (l.seq + n) % 2 ^ 32, args, s.gwStamp, 1⟩ : Msg)
    let steps := fun (c : Instr) (j : Job) (step : Nat) => Next c s (fun t => jobOf t j.id = some { j with phase := .ckpt step, acked := [] } ∧
      t.ldg.out = l.out ++ j.plots.zipIdx.map (fun w => msg w.2 0x49 w.1.1 [j.id, step]))
    (∀ (q : QIx) x, s.startOp q.val tyService 0x42 = some x → let n := natBits x.raw 191 128
      ((x.zeroFrom 7 = false ∨ x.f 6 31 0 = 0) → exec (.jobCheckpoint q) s = .next (s.descDone q.val x.ix 1 0 0)) ∧
      (x.zeroFrom 7 = true → x.f 6 31 0 ≠ 0 →
        (¬ lodge → exec (.jobCheckpoint q) s = .next (s.descDone q.val x.ix 0x81 0 0)) ∧
        (∀ j, lodge → jobOf s n = some j → j.phase = .running → steps (.jobCheckpoint q) { j with q := some (q.val, x.ix), fail := 0, bytes := 0 } 1))) ∧
    (p.job = id → fresh → jobOf s id = none → l.parts.length = 8 → (∀ k, k < 8 → k ≠ i.val → (s.ldgPart k).job ≠ id) →
      let stop := (s.rf (regCkpt i.val) 1 1 = 0 ∧ (s.fn (s.rf (regCkpt i.val) 2 2) 0).bme = false) ∨ s.snapHot i.val = true
      (p.st = .running → Next (.ckptStep dev ⟨seq, st⟩ job 1) s (fun t => (t.ldgPart i.val) = { p with st := .ckpt, step := 1, ckptFrom := some d, prepared := false } ∧
        Reported { s with ldg := t.ldg } t ∧ t.ldg.out = l.out ∧ (∀ k, (s.entry i.val).dies = 2 ^ k → k < 8 →
          ∀ e, e < 8 → (s.rget (intTarget e 260)).testBit 7 = false → (t.intc e).pend.testBit 260 = true))) ∧
      (p.st = .ckpt → s.ckptQuiet i.val = true → Next (.ckptStep dev ⟨seq, st⟩ job 2) s (fun t => t.ldgPart i.val = { p with step := 2, held := true, ckptFrom := none } ∧
        t.ldg.out = l.out ++ [msg 0 0x4A d [id, 2, 1, 0]] ∧ t = { u0 with ldg := t.ldg })) ∧
      (p.st = .ckpt → s.ckptQuiet i.val = false → Next (.ckptStep dev ⟨seq, st⟩ job 2) s (fun t =>
        t.ldgPart i.val = { p with step := 2, held := true, ckptFrom := some d } ∧ t.ldg.out = l.out ∧ t = { u0 with ldg := t.ldg })) ∧
      (p.st = .ckpt → stop → exec (.ckptStep dev ⟨seq, st⟩ job 3) s = .next u0) ∧
      (p.st = .ckpt → ¬ stop → ∀ r s2, (u0.setLdgPart i.val { p with step := 3, ckptFrom := some d }).snap i.val = (r, s2) →
        exec (.ckptStep dev ⟨seq, st⟩ job 3) s = .next (seen (s2.ckptAns i.val r.isSome (r.getD 0)))) ∧
      (p.st = .ckpt → MemOk s → s.snapHot i.val = false → s.rf (regCkpt i.val) 9 3 = 0 → (∀ k, (s.entry i.val).dies = 2 ^ k → k < 8 → s.rf (regCkpt i.val) 1 1 = 0 →
        (s.fn (s.rf (regCkpt i.val) 2 2) 0).bme = true → nearSize ≤ s.rf ⟨.ldgCkptLen, i.val, 0, 0⟩ 55 16 * 65536 →
        let host := s.rf (regCkpt i.val) 2 2 * 2 ^ 64 + s.rf ⟨.ldgCkptDst, i.val, 0, 0⟩ 55 16 * 65536
        s.rangeFail (fnMaster (s.rf (regCkpt i.val) 2 2) 0) .rd (nearOf k) nearSize = none → Next (.ckptStep dev ⟨seq, st⟩ job 3) s (fun t =>
          (∀ a, a < nearSize → Mem.read t.host (host + a) = Mem.read s.mem (nearOf k + a)) ∧ t.mem = s.mem))) ∧
      (p.st = .ckpt → Next (.ckptStep dev ⟨seq, st⟩ job 4) s (fun t => t.ldgPart i.val = { p with st := .running, step := 0, held := false, prepared := false, ckptFrom := none } ∧
        t.rf (regCkpt i.val) 0 0 = 0 ∧ t.ldg.out = l.out ++ [{ msg 0 0x4A d [id, 4, 1, 0] with stamp := t.gwStamp }]))) ∧
    (l.parts.length = 8 → ∀ f, p.ckptFrom = some f → p.st = .ckpt →
      (p.step = 1 → p.prepared = false → Next (.ckptReady i) s (fun t => t.rf (regCkpt i.val) 0 0 = 1 ∧
          t.ldgPart i.val = { p with prepared := true, ckptFrom := none } ∧ t.ldg.out = l.out ++ [msg 0 0x4A f [p.job, 1, 1, 0]]) ∧
        Next (.ckptWaitExpire i) s (fun t => t = { s with ldg := t.ldg } ∧ t.ldgPart i.val = { p with ckptFrom := none } ∧
          t.ldg.out = l.out ++ [msg 0 0x4A f [p.job, 1, 0, 0]])) ∧
      (p.step = 2 → Next (.ckptQuiesceTimeout i) s (fun t => t = { s with ldg := t.ldg } ∧ t.ldgPart i.val = { p with ckptFrom := none } ∧
          t.ldg.out = l.out ++ [msg 0 0x4A f [p.job, 2, 0, 0]]))) ∧
    (∀ (step : Fin 5) (ok : Bool) (n : BitVec 64) j, fresh → jobOf s id = some j → j.phase = .ckpt step.val → d ∉ j.acked → j.parent = none → l.await = [] →
      let c := Instr.ckptAck dev ⟨seq, st⟩ job step ok n
      let all := ∀ w, w ∈ j.plots → w.1 = d ∨ w.1 ∈ j.acked
      let j1 := { j with acked := d :: j.acked, bytes := j.bytes + n.toNat, fail := if ok = false ∧ j.fail = 0 then step.val else j.fail }
      (step.val < 4 → ok = true → j.fail = 0 → (¬ all → Next c s (fun t => jobOf t id = some j1 ∧ t.queues = s.queues ∧ t.ldg.out = l.out)) ∧
        (all → steps c j1 (step.val + 1))) ∧
      (0 < step.val → step.val < 4 → ok = false → steps c j1 4) ∧
      (step.val = 4 → all → j.endAfter = false → ok = true → ∀ q0 ix, j.q = some (q0, ix) → Next c s (fun t =>
        jobOf t id = some { j with phase := .running, q := none, fail := 0, bytes := 0, acked := [] } ∧ t.queues = (if j.fail = 0
          then s.descDone q0 ix 0 0 (j.bytes + n.toNat) else s.descDone q0 ix 0x82 j.fail 0).queues))) ∧
    (∀ ents : List (BitVec 64), fresh → ¬ lodge → ents.length ≤ 64 → Next (.detourWrite dev ⟨seq, st⟩ ents) s (fun t =>
      (∀ b k, b < 2 → k < 64 → t.rget ⟨.trlDetour, b, k, 0⟩ = if b ≠ s.activeBank ∧ k < ents.length
        then ((ents[k]?).getD 0).toNat else s.rget ⟨.trlDetour, b, k, 0⟩) ∧ t.ldg.out = l.out ++ [msg 0 0x4D d []])) ∧
    (fresh → ∀ b : Bool, Next (.detourSwitch dev ⟨seq, st⟩ b) s (fun t => t.activeBank = b2n b ∧ t.ldg.out = l.out ++ [msg 0 0x4D d []])) ∧
    (fresh → ∀ m, l.await.find? (fun m => m.dst == d && (m.opc == 0x4B || m.opc == 0x4C)) = some m → m.opc = 0x4B → d ∈ l.detourWait → let w := l.detourWait.filter (· != d)
      (w ≠ [] → Next (.detourAck dev ⟨seq, st⟩) s (fun t => t.ldg.detourWait = w ∧ t.ldg.out = l.out ∧ t.ldg.bank = l.bank)) ∧
      (w = [] → l.sleepers = [] → Next (.detourAck dev ⟨seq, st⟩) s (fun t => t.ldg.detourWait = [] ∧ t.ldg.bank = !l.bank ∧ t.ldg.out = l.out ++
        (l.members.filter (fun m => m.st != .failed)).zipIdx.map (fun w => msg w.2 0x4C w.1.dev [b2n (!l.bank)]))))

/-- Meter records (15 R416-R418, R422): the interval and the two CLOSE commands close every partition's record, which names its reason, its
number, its job and its counts; the oldest closed record is sealed into the store and sent to the parent; a Lodge takes the records of its
members; a record is written to entry TAIL of the ring.
Where no rule decides, the clauses follow the model's choices of log entries 80 and 94. -/
def Obligations.MeterRecords : Prop :=
  ∀ (s : State),
    let l := s.ldg
    let used := (List.range 8).filter (fun i => (s.entry i).dies != 0)
    let closes := fun (c : Instr) (u : State) (reason : Nat) => Next c s (fun t => t = { u with free := s.free + used.length, ldg := t.ldg, err := t.err } ∧
      ∃ rs, t.ldg.closed = l.closed ++ rs ∧ rs.map MeterRec.part = used ∧ ∀ r, r ∈ rs → let p := s.ldgPart r.part
        let f := fun (w hi lo : Nat) => natBits r.raw (64 * w + hi) (64 * w + lo)
        f 0 7 0 = 1 ∧ f 0 15 8 = reason ∧ f 0 18 16 = r.part ∧ f 1 63 0 = p.seq % 2 ^ 64 ∧ f 3 17 0 = s.device % 2 ^ 18 ∧ f 4 31 0 = p.tenant % 2 ^ 32 ∧
        f 5 63 0 = s.ptr.image.id % 2 ^ 64 ∧ f 6 63 0 = p.openAt % 2 ^ 64 ∧ natBits r.raw 831 576 = p.prev % 2 ^ 256 ∧ f 13 63 0 = p.job % 2 ^ 64 ∧
        (∀ m, m < 15 → f (16 + 2 * m) 127 0 = SMap.get 0 p.count m % 2 ^ 128) ∧
        (t.ldgPart r.part).seq = p.seq + 1 ∧ (t.ldgPart r.part).count = [] ∧ (t.ldgPart r.part).prev = sha256 (leBytes 512 r.raw) ∧
        (t.ldgPart r.part).total = p.total)
    (l.parts.length = 8 → closes .ldgMeterClose s 3 ∧ (l.store.length + l.closed.length + used.length ≤ 16 → closes .meterInterval s 0)) ∧
    (16 ≤ l.store.length + l.closed.length → used ≠ [] → exec .meterInterval s = .next { s with ldg := { l with deferred := true } }) ∧
    (∀ (q : QIx) x, s.startOp q.val tyAdmin 0x41 = some x → (x.zeroFrom 4 = false → exec (.meterClose q) s = .next (s.descDone q.val x.ix 1 0 0)) ∧
      (x.zeroFrom 4 = true → l.parts.length = 8 → closes (.meterClose q) (s.descDone q.val x.ix 0 0 0) 3)) ∧
    ((l.closed = [] ∨ 16 ≤ l.store.length) → exec .recordSeal s = .next s) ∧
    (∀ r rest, l.closed = r :: rest → l.store.length < 16 → s.org.level ≠ 3 →
      let body := leBytes 512 r.raw
      let bs := body ++ leBytes 4 3 ++ leBytes 4 17088 ++ leBytes 17088 (Config.slhSign s.org.fuses.idSeed body)
      (l.pparent = none → Next .recordSeal s (fun t => t = { s with ldg := { l with closed := rest, store := l.store ++ [⟨bs, true, false⟩] } })) ∧
      (∀ d, l.pparent = some d → d ≠ s.device → Next .recordSeal s (fun t => t = { s with ldg := t.ldg } ∧ t.ldg.closed = rest ∧
        t.ldg.store = l.store ++ (if s.mringEn then [⟨bs, true, true⟩] else []) ∧
        ∃ ms, t.ldg.out = l.out ++ ms ∧ ms.length = 5 ∧ (∀ m, m ∈ ms → m.opc = 0x4E ∧ m.dst = d) ∧
          ms.flatMap (fun m => m.args) = (chunksOf 4096 5 bs).map leNat))) ∧
    (let size := 2 ^ s.rf regMring 5 2
     let at' := s.rf regMring 55 15 * 32768 + 32768 * (l.ringTail % size)
     let loc := s.rf regMring 0 0
     let port := s.rf regMring 1 1
     let hot := loc ≠ 0 ∧ s.hotAt (s.rf regMring 55 15 * 32768) = true
     let full := (l.ringTail + 1) % size = s.rf ⟨.ldgMringPtr, 0, 0, 0⟩ 28 16
     ((s.rf regMring 63 63 = 0 ∨ full ∨ (loc = 0 ∧ (s.fn port 0).bme = false) ∨ hot) → exec .meterRingWrite s = .next s) ∧
     (s.rf regMring 63 63 = 1 → ¬ full → ¬ hot → (loc = 0 → (s.fn port 0).bme = true) →
       let tail := fun (t : State) => t.ldg.ringTail = (l.ringTail + 1) % size
       (∀ r rest s1, l.store = r :: rest → r.toRing = true → s.writeRaw 0x501 loc port at' r.bytes = (true, s1) →
         Next .meterRingWrite s (fun t => tail t ∧ t.ldg.store = rest ∧ t.mem = s1.mem ∧ t.host = s1.host)) ∧
       (∀ bs rest s1, (∀ r, r ∈ l.store → r.toRing = false) → l.rxRecords = bs :: rest → s.writeRaw 0x501 loc port at' bs = (true, s1) →
         Next .meterRingWrite s (fun t => tail t ∧ t.ldg.rxRecords = rest ∧ t.mem = s1.mem ∧ t.host = s1.host)))) ∧
    ∀ (dev : DevIx) (seq : BitVec 32) (chunk : Fin 5) (data : List Byte) (st : BitVec 64), l.seen.find? (fun x => x.1 == dev.val && x.2.1 == seq.toNat) = none →
      let c := Instr.meter dev ⟨seq, st⟩ chunk data
      let u0 := s.heed st.toNat
      let got := (SMap.get [] l.rxMeter dev.val).filter (fun x => x.1 != chunk.val) ++ [(chunk.val, data)]
      (¬ (s.ptr.image.lodge = true ∧ l.held = true) → Next c s (fun t => t.ldg.rxRecords = l.rxRecords ∧ t.ldg.rxMeter = l.rxMeter ∧ t = { u0 with ldg := t.ldg })) ∧
      (s.ptr.image.lodge = true → l.held = true →
        ((∃ k, k < 5 ∧ ∀ x, x ∈ got → x.1 ≠ k) → Next c s (fun t => SMap.get [] t.ldg.rxMeter dev.val = got ∧ t.ldg.rxRecords = l.rxRecords ∧
          t = { u0 with ldg := t.ldg })) ∧
        ((∀ k, k < 5 → ∃ x, x ∈ got ∧ x.1 = k) → Next c s (fun t => SMap.get [] t.ldg.rxMeter dev.val = [] ∧ t = { u0 with ldg := t.ldg } ∧
          t.ldg.rxRecords = l.rxRecords ++ [(List.range 5).flatMap (fun c => ((got.find? (fun x => x.1 == c)).map Prod.snd).getD [])])))

/-- The Orangery (16 R428-R441): a channel's oldest command is answered in its mailbox, or its ADMIN descriptor completes; IDENTITY, QUOTE,
CHALLENGE, EXTEND and ENROLL_SITE answer as R434-R436 say; a token that passes its checks opens a session, raises a floor or makes a
lifecycle transition; closing a session releases what it held; SCRAPPED and SLEEP refuse what R436 says.
Where no rule decides, the clauses follow the model's choices of log entry 81. -/
def Obligations.OrangeryCommands : Prop :=
  ∀ (s : State) (ch : OrgSrc) (c : Nat), (ch = .smb ∧ c = 2) ∨ (∃ n : PortIx, ch = .mbx n ∧ c = n.val) → Mem.wf s.org.buf = true →
    let o := s.org
    let f := o.fuses
    let life := f.lifecycle
    let req := Mem.readN o.buf (c * 65536) (s.mbx c).len
    let waits := fun (code : Nat) => o.cmds.head? = some c ∧ (s.mbx c).code = code
    let runs := fun (code : Nat) => waits code ∧ life ≠ .scrapped ∧ (s.pwr.st ≠ .sleep ∨ code ∉ [0x33, 0x37, 0x38])
    let ends := fun (i : Instr) (st reason : Nat) (resp : List Byte) (P : State → Prop) => Next i s (fun t => P t ∧
      t.mbx c = { s.mbx c with busy := false, done := true, status := st, reason := reason, len := resp.length } ∧
      Mem.readN t.org.buf (c * 65536) resp.length = resp ∧ t.org.cmds = o.cmds.tail)
    let refused := fun (i : Instr) (reason : Nat) => ends i 0x83 reason [] (fun t => t.org.fuses = f ∧ t.org.meas = o.meas ∧ ∀ j, t.org.open j = o.open j)
    let bad := fun (i : Instr) => ends i 1 0 [] (fun t => t.org.fuses = f ∧ t.org.meas = o.meas ∧ ∀ j, t.org.open j = o.open j)
    let measured := fun (t : State) (r dig : Nat) => ∀ k, SMap.get 0 t.org.meas k = if k = r then sha256 (leBytes 32 (SMap.get 0 o.meas r) ++ leBytes 32 dig)
      else SMap.get 0 o.meas k
    (∀ i code, (i, code) ∈ [(Instr.quote ch 0, 0x31), (.challenge ch 0, 0x32), (.unlock ch 0, 0x33), (.close ch 0, 0x34),
        (.enrollSite ch 0, 0x35), (.extend ch 0, 0x36)] → waits code → (life = .scrapped → refused i 4) ∧
        (life ≠ .scrapped → s.pwr.st = .sleep → code = 0x33 → refused i 5)) ∧
    (waits 0x30 → (life ≠ .scrapped ∨ c = 2) → (req ≠ [] → bad (.identity ch 0)) ∧ (req = [] → ends (.identity ch 0) 0 0
      (leBytes 8 Config.serial ++ leBytes 8 life.code ++ leBytes 32 (if life = .scrapped then 0 else o.idKey)) (fun t => t.org.fuses = f))) ∧
    (runs 0x31 → (req.length ≠ 32 → bad (.quote ch 0)) ∧ (req.length = 32 → o.open 9 = true → refused (.quote ch 0) 0x0A) ∧
      (req.length = 32 → o.open 9 = false → Next (.quote ch 0) s (fun t => ∃ st body, let r := Mem.readN t.org.buf (c * 65536) 17736
        (t.mbx c).status = 0 ∧ (t.mbx c).len = 17736 ∧ body = (s.stamp 0x0A 0).2.quoteBody (leNat req) st ∧ st / 2 ^ 56 = 0x0A ∧
        r = body ++ leBytes 4 3 ++ leBytes 4 17088 ++ leBytes 17088 (Config.slhSign f.idSeed body)))) ∧
    (runs 0x32 → (req ≠ [] → bad (.challenge ch 0)) ∧ (req = [] → ∃ n, n < 2 ^ 256 ∧ ends (.challenge ch 0) 0 0 (leBytes 32 n) (fun t =>
      SMap.get none t.org.chal c = some n ∧ ∀ k, k ≠ c → SMap.get none t.org.chal k = SMap.get none o.chal k))) ∧
    (runs 0x36 → let r := leNat (req.take 8)
      ((req.length ≠ 40 ∨ r < 10 ∨ 15 < r) → bad (.extend ch 0)) ∧
      (req.length = 40 → 10 ≤ r → r ≤ 15 → ends (.extend ch 0) 0 0 [] (fun t => measured t r (leNat (req.drop 8)) ∧ t.org.fuses = f))) ∧
    (runs 0x35 → let i := Instr.enrollSite ch 0
      (req.length ≠ 48 → bad i) ∧ (req.length = 48 → life ≠ .deployed → refused i 4) ∧ (req.length = 48 → life = .deployed → f.slot ≠ 0 → refused i 7) ∧
      (req.length = 48 → life = .deployed → f.slot = 0 → f.deployment < f.site.length → ends i 0 0 [] (fun t => measured t 6 (sha256 req) ∧
        t.org.site = true ∧ t.org.siteKey = some (leNat req) ∧ nth 0 t.org.fuses.site f.deployment = sha256 req % 2 ^ 256))) ∧
    (let t0 : Tok := leNat (req.take 128)
     let used := fun (t : State) => SMap.get none o.chal c = some t0.nonce → 128 ≤ req.length → SMap.get none t.org.chal c = none
     (∀ i u code, (i, u, code) ∈ [(Instr.unlock ch 0, true, 0x33), (.authorise ch 0, false, 0x37)] → runs code → s.ptr.phase ≠ .applying →
       let refusedTok := fun (r : Nat) => ends i 0x83 r [] (fun t => used t ∧ t.org.fuses = f ∧ t.org.meas = o.meas)
       let form := (req.length = 136 + sigLen 1 ∨ req.length = 136 + sigLen 2) ∧ tokFormOk t0 u = true
       let k := word32 req 128
       let signed := k ∈ tokKeys t0.type life ∧ word32 req 132 = sigLen k ∧ req.length = 136 + sigLen k ∧ (k = 2 → o.site = true) ∧
         Config.slhVerify k (if k = 2 then leBytes 48 (o.siteKey.getD 0) else Config.rootKey) (req.take 128) (req.drop 136) = true
       (¬ form → ends i 1 0 [] (fun t => used t ∧ t.org.fuses = f)) ∧
       (form → ¬ signed → (tokKeys t0.type life ≠ [2] ∨ o.site = true) → (k = 2 → o.site = true) → refusedTok 1) ∧
       (form → tokKeys t0.type life = [2] → o.site = false → refusedTok 8) ∧
       (form → signed → t0.serial ≠ Config.serial % 2 ^ 64 → refusedTok 2) ∧
       (form → signed → t0.serial = Config.serial % 2 ^ 64 → SMap.get none o.chal c ≠ some t0.nonce → refusedTok 3)) ∧
     (runs 0x33 → s.tokenCheck c true req = .ok t0 →
       let part := t0.f 12 2 0
       let j := if t0.type = 1 then part else if t0.type = 2 then 8 else 9
       let perms := t0.f 12 15 8
       let scope := (perms &&& (0xFF - (if t0.type = 1 then 0x0F else 0x3F))) = 0 ∧ (t0.type = 1 → (s.entry part).dies ≠ 0 ∧
         (s.ldgPart part).tenant = t0.f 13 31 0 ∧ (s.ldgPart part).st ∈ [JobSt.running, .ckpt])
       (¬ scope → ends (.unlock ch 0) 0x83 6 [] (fun t => used t ∧ ∀ j, t.org.open j = o.open j)) ∧
       (scope → (o.open j = true ∨ (j = 9 ∧ ∃ i, i < 9 ∧ o.open i = true) ∨ (j ≠ 9 ∧ o.open 9 = true)) →
         ends (.unlock ch 0) 0x83 0x0B [] (fun t => used t ∧ ∀ j, t.org.open j = o.open j)) ∧
       (scope → o.open j = false → (j = 9 → ∀ i, i < 9 → o.open i = false) → o.open 9 = false → ends (.unlock ch 0) 0 0 (leBytes 8 j) (fun t =>
         used t ∧ (∀ i, i ≠ j → t.org.open i = o.open i) ∧ t.sess j = some ⟨c, perms, if t0.type = 1 then part else 0,
           if t0.type = 1 then t0.f 13 31 0 else 0, t0.f 14 15 0, none, none⟩))) ∧
     (s.ptr.phase = .applying → exec (.authorise ch 0) s = .next s) ∧
     (runs 0x37 → s.ptr.phase ≠ .applying → s.tokenCheck c false req = .ok t0 →
       let v := t0.f 15 6 0
       (t0.type = 0x20 → (v ≤ f.imgFloor → ends (.authorise ch 0) 0x83 9 [] used) ∧ (f.imgFloor < v → v ≤ 64 → ends (.authorise ch 0) 0 0 []
         (fun t => t.org.fuses = { f with imgFloor := v } ∧ measured t 8 (sha256 req)))) ∧
       (t0.type = 0x21 → (v ≤ f.fwFloor → ends (.authorise ch 0) 0x83 9 [] used) ∧ (f.fwFloor < v → v ≤ 64 → ends (.authorise ch 0) 0 0 []
         (fun t => t.org.fuses = { f with fwFloor := v } ∧ measured t 8 (sha256 req)))) ∧
       (s.pwr.input = true → let dead := fun (x : List Nat) => if life = .deployed then modNth 0 x f.deployment (fun y => y ||| ones256) else x
         let cold := fun (g : Fuses) => Next (.authorise ch 0) s (fun t => t.org = { fuses := g, siteKey := o.siteKey } ∧ t.boot.phase = 2 ∧ t.mem = [] ∧
           t.cores = coresAtReset ∧ t.queues = [])
         (t0.type = 0x10 → f.lcCount < 8 → cold { f with lcCount := f.lcCount + 1 }) ∧
         (t0.type = 0x11 → f.lcCount < 8 → cold { f with site := dead f.site, lcCount := f.lcCount + 1 }) ∧
         (t0.type = 0x12 → cold { f with site := dead f.site, idSeed := f.idSeed ||| ones384, scrap := true })))) ∧
    (let closed := fun (t : State) (j : Nat) => t.sess j = none ∧ (∀ k, SMap.get 0 t.org.haltBy k ≠ j + 1) ∧
       (∀ k, SMap.get 0 o.haltBy k = j + 1 → (t.core k).halted = false) ∧ (∀ k b, b ∈ SMap.get [] t.org.brk k → b.1 ≠ j) ∧
       (∀ i, i ≠ j → t.org.open i = o.open i)
     (runs 0x34 → let j := leNat req
       (req.length ≠ 8 → bad (.close ch 0)) ∧ (req.length = 8 → (9 < j ∨ o.open j = false) → refused (.close ch 0) 0x0C) ∧
       (req.length = 8 → j ≤ 9 → o.open j = true → ends (.close ch 0) 0 0 [] (fun t => closed t j))) ∧
     ∀ (j : Fin 10) x, s.sess j.val = some x → (x.life = 0 → exec (.sessionExpire j) s = .next s) ∧
       (x.life ≠ 0 → Next (.sessionExpire j) s (fun t => closed t j.val))) ∧
    ∀ (q : QIx) d, o.cmds = [] → s.startOp q.val tyAdmin 0x30 = some d → life ≠ .scrapped →
      (d.f 4 31 1 ≠ 0 → exec (.identity (.admin q) 0) s = .next (s.descDone q.val d.ix 1 0 0)) ∧
      (d.f 4 31 1 = 0 → d.f 6 31 24 = 0 → d.f 7 31 0 = 0 → d.f 9 31 24 = 0 → d.f 10 31 17 = 0 → d.zeroFrom 11 = true → s.rawWaits q.val (d.f 4 0 0) (d.addr 8) = false →
        (d.f 10 16 0 < 48 → exec (.identity (.admin q) 0) s = .next (s.descDone q.val d.ix 1 0 0)) ∧
        (48 ≤ d.f 10 16 0 → ∀ s1, s.writeRaw (s.qMaster q.val) (d.f 4 0 0) (s.qPort q.val) (d.addr 8)
            (leBytes 8 Config.serial ++ leBytes 8 life.code ++ leBytes 32 o.idKey) = (true, s1) →
          exec (.identity (.admin q) 0) s = .next (s1.descDone q.val d.ix 0 48 0)))

/-- Debug (16 R440, R442): an operation of an open session that has its right, on a core of its scope that is powered, halts, resumes, steps,
sets or clears a breakpoint, reads or writes a register of the core it halted, reads or writes memory, or traces; a session not open, a right
missing, and a target out of scope are refused; an access of memory waits while its stack is HOT (09 R256).
Where no rule decides, the clauses follow the model's choices of log entries 44 and 46. -/
def Obligations.DebugOperations : Prop :=
  ∀ (s : State) (ch : OrgSrc) (c : Nat), (ch = .smb ∧ c = 2) ∨ (∃ n : PortIx, ch = .mbx n ∧ c = n.val) → Mem.wf s.org.buf = true →
    s.org.cmds.head? = some c → (s.mbx c).code = 0x38 → s.org.fuses.lifecycle ≠ .scrapped → s.pwr.st ≠ .sleep →
    let o := s.org
    let req := Mem.readN o.buf (c * 65536) (s.mbx c).len
    let op := word32 req 0 % 256
    let j := natBits (word32 req 0) 11 8
    let tgt := word32 req 4
    let adr := leNat ((req.drop 8).take 8)
    let n := word32 req 16
    let data := req.drop 20
    let ends := fun (i : Instr) (st reason : Nat) (resp : List Byte) (P : State → Prop) => Next i s (fun t => P t ∧
      t.mbx c = { s.mbx c with busy := false, done := true, status := st, reason := reason, len := resp.length } ∧
      Mem.readN t.org.buf (c * 65536) resp.length = resp ∧ t.org.cmds = o.cmds.tail)
    let still := fun (t : State) => (∀ k, CoreIs t k (s.core k)) ∧ t.org.brk = o.brk ∧ t.org.haltBy = o.haltBy
    let ok := fun (i : Instr) (P : State → Prop) => ends i 0 0 [] P
    let row := fun (i : Instr) => (i, op) ∈ [(Instr.debugStatus ch 0, 0), (.debugHalt ch 0, 1), (.resumeCore ch 0, 2), (.debugStep ch 0, 3),
      (.brkset ch 0, 4), (.brkclr ch 0, 5), (.rdreg ch 0, 6), (.wrreg ch 0, 7), (.rdmem ch 0, 8), (.wrmem ch 0, 9),
      (.traceOn ch 0, 10), (.traceOff ch 0, 11)]
    let right := if op ≤ 7 then 0 else if op ≤ 9 then 3 else 1
    let extra := if op = 7 then (if tgt < 0x200 then 8 else 2048) else if op = 9 then n else 0
    ∀ i, row i → word32 req 0 / 2 ^ 12 = 0 → req.length = 20 + extra →
    (op = 7 → regBytes tgt = some extra) →
    (op ∈ [8, 9] → s.hotAt adr = true → exec i s = .next s) ∧
    ((op ∈ [8, 9] → s.hotAt adr = false) →
    (s.sess j = none → ends i 0x83 0x0C [] still) ∧
    ∀ x, s.sess j = some x →
      (op ≠ 0 → x.perms.testBit right = false → ends i 0x83 0x0D [] still) ∧
      ((op = 0 ∨ x.perms.testBit right = true) →
        (op ∈ [1, 2, 3, 4, 5] →
          (coreOf tgt = none → ends i 0x83 6 [] still) ∧
          ∀ k, coreOf tgt = some k →
            (s.coreScope j x k = false → ends i 0x83 6 [] still) ∧
            (s.coreScope j x k = true → s.coreGated k = true → ends i 0x83 5 [] still) ∧
            (s.coreScope j x k = true → s.coreGated k = false →
              let brk := SMap.get [] o.brk k
              let others := fun (t : State) => ∀ h, h ≠ k → CoreIs t h (s.core h)
              (op = 1 → (s.core k).halted = false → ok i (fun t => others t ∧ CoreIs t k { s.core k with halted := true } ∧
                SMap.get 0 t.org.haltBy k = j + 1 ∧ (∃ y, t.sess j = some y ∧ y.core = some k) ∧
                ((s.rget (intTarget 0 261)).testBit 7 = false → (t.intc 0).pend.testBit 261 = true))) ∧
              (op = 1 → (s.core k).halted = true → ok i (fun t => still t ∧ ∃ y, t.sess j = some y ∧ y.core = some k)) ∧
              (op = 2 → ok i (fun t => others t ∧ CoreIs t k { s.core k with halted := false } ∧
                SMap.get 0 t.org.haltBy k = 0)) ∧
              (op = 3 → (s.core k).halted = false → ends i 0x83 0x0D [] still) ∧
              (op = 3 → ch = .smb → (s.core k).halted = true → (s.stepCore k).org = o → ok i (fun t =>
                t = { s.stepCore k with org := t.org })) ∧
              (op = 4 → (j, adr) ∉ brk → brk.length < 4 → ok i (fun t => SMap.get [] t.org.brk k = brk ++ [(j, adr)] ∧
                ∀ h, h ≠ k → SMap.get [] t.org.brk h = SMap.get [] o.brk h)) ∧
              (op = 4 → (j, adr) ∉ brk → 4 ≤ brk.length → ends i 1 0 [] still) ∧
              (op = 5 → ok i (fun t => SMap.get [] t.org.brk k = brk.filter (· != (j, adr)) ∧ ∀ h, h ≠ k → SMap.get [] t.org.brk h = SMap.get [] o.brk h)))) ∧
        (op = 0 → ∃ resp, ends i 0 0 resp still ∧ resp.length = 72 ∧ ∀ k, k < 521 → (k / 8 < 72) →
          ((nth 0 resp (k / 8)).toNat.testBit (k % 8) = true ↔ ((s.core k).halted = true ∧ s.coreScope j x k = true))) ∧
        (op ∈ [6, 7] → (∀ k, x.core = some k → (s.core k).halted = false) → ends i 0x83 0x0D [] still) ∧
        (∀ k, op ∈ [6, 7] → x.core = some k → (s.core k).halted = true → s.coreGated k = false → k < 512 →
          let cr := tgt - 0x100
          (op = 6 → (tgt < 32 → ends i 0 0 (leBytes 8 ((s.core k).rg ⟨tgt % 32, Nat.mod_lt _ (by decide)⟩).toNat) still) ∧
            (0x100 ≤ tgt → tgt < 0x200 → (crRule cr).isSome = true → tgt ≠ 0x130 → ends i 0 0 (leBytes 8 ((s.core k).rc cr).toNat) still) ∧
            (0x200 ≤ tgt → tgt < 0x220 → ends i 0 0 (Mem.readN (s.core k).v ((tgt - 0x200) * 2048) 2048) still) ∧
            (regBytes tgt = none → ends i 1 0 [] still)) ∧
          (op = 7 → (tgt < 32 → ok i (fun t => CoreIs t k ((s.core k).wg ⟨tgt % 32, Nat.mod_lt _ (by decide)⟩ (BitVec.ofNat 64 (leNat data))))) ∧
            (0x100 ≤ tgt → tgt < 0x200 → tgt ≠ 0x130 → ok i (fun t => CoreIs t k ((s.core k).mtcWrite cr (leNat data)))) ∧
            (0x200 ≤ tgt → ok i (fun t => Mem.readN (t.core k).v ((tgt - 0x200) * 2048) 2048 = Mem.readN (Mem.writeN (s.core k).v ((tgt - 0x200) * 2048) data)
              ((tgt - 0x200) * 2048) 2048)))) ∧
        (op ∈ [8, 9, 10] → (n = 0 ∨ 4096 < n) → ends i 1 0 [] still) ∧
        (op ∈ [8, 9, 10] → 0 < n → n ≤ 4096 → s.memScope j x adr n = false → ends i 0x83 6 [] still) ∧
        (0 < n → n ≤ 4096 → s.memScope j x adr n = true →
          (op = 8 → s.accCheck 0x501 .rd (linesOf adr n) = none → (s.rget regErrInj).testBit 63 = false → s.err.upsets = [] → ends i 0 0 (Mem.readN s.mem adr n) still) ∧
          (op = 9 → ch = .smb → s.accCheck 0x501 .wr (linesOf adr n) = none → ok i (fun t => t.mem = Mem.writeN s.mem adr data)) ∧
          (op = 10 → ch = .smb → ok i (fun t => t.sess j = some { x with trace := some (adr, n, 0) } ∧ still t))) ∧
        (op = 11 → ok i (fun t => t.sess j = some { x with trace := none } ∧ still t))))

/-- Starting and resetting (17 R449-R467; 16 R428, R430; 18 R469, R470; 20 R514-R516): each step of a start does its work and is followed by
the next, and a step that exceeds its maximum fails the start; step 4 counts the start or enters Shed mode; step 5 chooses a slot; step 6 an
image; start-complete writes the record. A cold reset leaves the fuses and the non-volatile store; a warm reset leaves memory and the image. A
slot command verifies its source, and only then erases and writes.
Where no rule decides, the clauses follow the model's choices of log entries 83 to 86. -/
def Obligations.StartAndResets : Prop :=
  ∀ (s : State),
    let b := s.boot
    let on := s.pwr.input = true
    let cold := fun (u : State) (input : Bool) (ph : Nat) (st : PState) (t : State) =>
      t = { free := u.free, host := u.host, pending := u.pending, cores := coresAtReset,
            org := { fuses := u.org.fuses, siteKey := u.org.siteKey },
            boot := { record := u.boot.record, nor := u.boot.nor, last := u.boot.last, phase := ph },
            pwr := { input := input, st := st }, smb := { u.smb with alert := false },
            ports := t.ports, trl := { ports := t.trl.ports } } ∧
      (∀ n, n < 2 → t.port n = { perst := (u.port n).perst }) ∧ ∀ n, n < 6 → t.tport n = { mated := (u.tport n).mated }
    -- FORCE and PREFERRED as written reach the record
    let u1 := s.recordDone
    let others := fun (u t : State) (dev off size : Nat) => ∀ k x, k < 2 → x < 2 ^ 26 → (k ≠ dev ∨ x < off ∨ off + size ≤ x) →
      t.norRead k x 1 = u.norRead k x 1
    let stackTrains := fun (t : State) => t.memsys = { s.memsys with hbms := t.memsys.hbms } ∧
      ∀ k, k < 16 → t.stack k = if (s.stack k).st = .degraded then s.stack k else { s.stack k with st := .training }
    let services := fun (t : State) => s.ptr.image.lodge = true → (∀ i, s.dieOwner 0 = some i → s.partState i = .running) →
      ∀ k, k < 8 → (t.core k).run = true
    let same := fun (c : Instr) => exec c s = .next s
    -- the record: the other copy is written, with its hash
    (∀ (u : State) (r : BootRec), let x := { r with gen := (r.gen + 1) % 2 ^ 32 }
      let v := u.recordSave r
      let bs := leBytes 96 x.raw
      v = { u with boot := { u.boot with record := some x, nor := v.boot.nor } } ∧
      (Mem.wf u.boot.nor = true → Mem.wf v.boot.nor = true ∧ v.norRead (x.gen % 2) 0x3E00000 128 = bs ++ leBytes 32 (sha256 bs) ∧
        others u v (x.gen % 2) 0x3E00000 65536) ∧
      ∀ k st, (u.boot.record = none → u.setSlot k st = u) ∧
        (u.boot.record = some r → u.setSlot k st = u.recordSave { r with slotSt := r.slotSt.set k st })) ∧
    ((∀ f p r, b.pend = some (f, p) → b.record = some r →
        let v := s.recordSave { r with force := f, preferred := p }
        u1 = { v with boot := { v.boot with pend := none } }) ∧
      ((b.pend = none ∨ b.record = none) → u1 = s) ∧ exec .bootRecordUpdateDone s = .next u1) ∧
    -- resets and the input
    ((¬ on → Next .inputInRange s (cold s true 1 .active) ∧ same .inputOutOfRange ∧ same .overcurrentTrip ∧ same .coldReset ∧ same .warmReset ∧
        same .restart ∧ (∀ n e l, same (.start n e l)) ∧ ∀ x, same (.startStepTimeout x)) ∧
      (on → same .inputInRange ∧ Next .inputOutOfRange s (cold s false 0 .off) ∧ Next .overcurrentTrip s (cold s false 0 .off) ∧
        Next .coldReset s (cold u1 true 2 .active) ∧ (b.failed = true → Next .startRestart s (cold u1 true 2 .active)) ∧
        (u1.boot.record = none → Next .restart s (cold u1 true 2 .active)) ∧
        ∀ r, u1.boot.record = some r → Next .restart s (cold (u1.recordSave { r with attempts := 0, force := false }) true 2 .active)) ∧
      (b.failed = false → same .startRestart)) ∧
    (on → (b.phase < 12 ∨ s.ptr.phase = .applying → exec .warmReset s = .next { s with boot := { b with warmHeld := true } }) ∧
      (12 ≤ b.phase → s.ptr.phase ≠ .applying →
        (s.pwr.st = .nap ∨ (s.pwr.st = .sleep ∧ s.pwr.exiting = true) →
          exec .warmReset s = .next { s with pwr := { s.pwr with warmAfter := true, exiting := true } }) ∧
        (s.pwr.st = .sleep → s.pwr.exiting = false → Next .warmReset s (fun t =>
          t = { s with pwr := { s.pwr with warmAfter := true, exiting := true }, memsys := t.memsys } ∧ stackTrains t)) ∧
        (s.pwr.st ≠ .nap → s.pwr.st ≠ .sleep → Next .warmReset s (fun t => t.ptr.image = s.ptr.image ∧ t.ptr.source = s.ptr.source ∧
          t.ptr.phase = .idle ∧ t.ptr.staged = none ∧ t.ptr.taken = none ∧ t.ptr.next = none ∧
          t.ptr.parts = (if b.phase = 13 then s.ptr.parts else (List.range 8).map s.partState) ∧ t.boot = { b with warmHeld := false } ∧ t.org.fuses = s.org.fuses ∧ t.trl.ports = s.trl.ports ∧
          (∀ r, r ≠ 7 → SMap.get 0 t.org.meas r = SMap.get 0 s.org.meas r) ∧ (∀ j, j < 8 → t.sess j = none) ∧ t.org.cmds = [] ∧ t.org.chal = [] ∧
          (∀ k, k < 512 → (t.core k).run = true → s.ptr.image.lodge = true ∧ k < 8) ∧
          (b.phase ≠ 13 → services t) ∧ (∀ q, (t.queue q).flight = []) ∧ t.err.contained = 0 ∧ t.err.orders = [] ∧
          (s.queues = [] → s.org.sess = [] → t.mem = s.mem ∧ ∀ p, p < 8 → t.ar p = { acb := (s.ar p).acb, nextId := (s.ar p).nextId }))))) ∧
    -- the start, step by step
    (∀ (recErr : Bool) (lanes : List (StackIx × Fin 2080)),
      let go := fun (n : Fin 12) => Instr.start n recErr lanes
      let reach := fun (n : Nat) => on ∧ b.failed = false ∧ b.phase = n
      let f := s.org.fuses
      (on → (b.failed = true ∨ 12 ≤ b.phase) → b.phase ≠ 0 → ∀ n, same (go n)) ∧
      (on → b.phase = 0 → exec (go 0) s = .next { s with boot := { b with phase := 1 } }) ∧
      (reach 1 → exec (go 1) s = .next { s with boot := { b with phase := 2 } }) ∧
      (reach 2 → f.lifecycle = .scrapped → same (go 2)) ∧
      (reach 2 → f.lifecycle ≠ .scrapped → Next (go 2) s (fun t => t = { s with
          free := t.free, ports := t.ports, org := { s.org with meas := t.org.meas },
          boot := { b with phase := 3 }, pwr := { s.pwr with lock := s.pwr.lock ||| 8 } } ∧
        (∀ r, SMap.get 0 t.org.meas r = if r = 0 then sha256 (leBytes 32 (SMap.get 0 s.org.meas 0) ++ leBytes 32 Config.romDigest) else SMap.get 0 s.org.meas r) ∧
        ∀ n, n < 2 → ((s.port n).perst = true → t.port n = s.port n) ∧ ((s.port n).perst = false → ∃ w fl rv, w ∈ [1, 2, 4, 8, 16] ∧
          t.port n = { s.port n with cfgUp := true, link := 3, rate := 1, width := w, flit := fl, reversed := rv }))) ∧
      (reach 3 → exec (go 3) s = .next (if s.pwr.judged then { s with boot := { b with phase := 4 } } else s)) ∧
      (reach 4 →
        let r := s.currentRec
        let n := (r.startCount + 1) % 2 ^ 64
        let shed := r.force = true ∨ 3 ≤ r.attempts
        let down := fun (t : State) => nth .unused t.ptr.parts 0 = .heldDegraded ∧ (t.port 1).link = 0 ∧ (t.port 1).cfgUp = false ∧
          ((s.port 0).link ≠ 0 → 1 ≤ (t.port 0).rate ∧ (t.port 0).rate ≤ 4 ∧ (t.port 0).link = if (t.port 0).rate < 3 then 3 else 2)
        let save := s.recordSave { r with
          attempts := if shed then r.attempts else min (r.attempts + 1) 255, startCount := n, next := (r.next + 1) % 8,
          log := r.log.set (r.next % 8) { start := n % 2 ^ 32, step := 4, reason := if shed then 0x0D else 0x0C } };
        (∀ x, b.record = some x → r = x) ∧
        (b.record = none → r = { slotSt := [0, 1].map (fun k => if fwForm (s.norRead k 0 256) 0x800000 then 1 else 0) }) ∧
        Next (go 4) s (fun t => t.boot.count = n ∧ (f.idSeed ≠ 0 → t.org.fuses = f) ∧
          (f.idSeed ≠ 0 ∨ f.lifecycle = .manufacture → t.org.idKey = Config.slhPublic t.org.fuses.idSeed) ∧
          (recErr = true → t.boot.phase = 13 ∧ t.boot.shed = 4 ∧ t.boot.record = b.record ∧ t.boot.nor = b.nor ∧ (0 < s.ptr.parts.length → down t)) ∧
          (recErr = false → (shed → t.boot.phase = 13 ∧ t.boot.shed = r.shedReason ∧ (0 < s.ptr.parts.length → down t)) ∧ (¬ shed → t.boot.phase = 5) ∧
            t.boot.record = save.boot.record ∧ t.boot.nor = save.boot.nor))) ∧
      (∀ r, reach 5 → b.record = some r → r.preferred < 2 → Mem.wf b.nor = true →
        let first := if r.attempts % 2 = 1 then r.preferred else 1 - r.preferred
        let tried := fun (k : Nat) => nth 0 r.slotSt k = 1 ∨ nth 0 r.slotSt k = 2
        let good := fun (k : Nat) => tried k ∧ s.fwCheck (s.norRead k) 0x800000 = 0
        let infos := fun (t : State) => t.boot.info = [0, 1].map (fun k => let h := s.norRead k 0 256
          if fwForm h 0x800000 then (word32 h 12, word32 h 8) else (0, 0))
        let takes := fun (k : Nat) (t : State) => t.boot.slot = k ∧ t.boot.phase = 6 ∧ infos t ∧ t.trl.max = word32 (s.norRead k 0 256) 12 ∧
          ∀ m, SMap.get 0 t.org.meas m = if 1 ≤ m ∧ m ≤ 4 then sha256 (leBytes 32 (SMap.get 0 s.org.meas m) ++ leBytes 32 (fwHash (s.norRead k 0 256) (m - 1)))
            else SMap.get 0 s.org.meas m
        let bad := fun (k : Nat) => (s.recordSave { r with slotSt := r.slotSt.set k 3 }).boot
        (∀ k, k < 2 → nth 0 r.slotSt k < 4) →
        (good first → Next (go 5) s (fun t => takes first t ∧ t.boot.record = some r ∧ t.boot.nor = b.nor)) ∧
        (¬ good first → good (1 - first) → Next (go 5) s (fun t => takes (1 - first) t ∧ (tried first → t.boot.record = (bad first).record ∧
          t.boot.nor = (bad first).nor) ∧ (¬ tried first → t.boot.record = some r ∧ t.boot.nor = b.nor))) ∧
        (¬ good first → ¬ good (1 - first) → Next (go 5) s (fun t => t.boot.phase = 5 ∧ t.boot.failed = true ∧ infos t ∧ (t.port 0).link = 0 ∧ (t.port 1).link = 0 ∧
          ∃ x, t.boot.record = some x ∧ (r.log.length = 8 → (x.ent 0).step = 5 ∧ (x.ent 0).reason = 5) ∧
            ∀ k, k < 2 → k < r.slotSt.length → nth 0 x.slotSt k = if tried k then 3 else nth 0 r.slotSt k))) ∧
      (reach 6 →
        let u := s.siteStep
        let h := fun (k : Nat) => sha256 (leBytes 48 k)
        let m := fun (t : State) (r : Nat) => SMap.get 0 t.org.meas r
        (s.org.siteKey = none → f.slot = 0 → u = s) ∧
        (∀ k, s.org.siteKey = some k → f.slot ≠ 0 → h k = f.slot → u.org.site = true ∧ m u 6 = sha256 (leBytes 32 (m s 6) ++ leBytes 32 (h k))) ∧
        Next (go 6) s (fun t => t.boot.phase = 7 ∧ (∀ r, r ≠ 5 → m t r = m u r) ∧
          (∀ i, u.slotImage b.slot = .ok i → t.ptr.image = i ∧ t.ptr.source = b.slot + 1 ∧ m t 5 = sha256 (leBytes 32 (m u 5) ++ leBytes 32 i.digest)) ∧
          (∀ e i, u.slotImage b.slot = .error e → u.slotImage (1 - b.slot) = .ok i → t.ptr.image = i ∧ t.ptr.source = 2 - b.slot ∧
            m t 5 = sha256 (leBytes 32 (m u 5) ++ leBytes 32 i.digest)) ∧
          (∀ e e', u.slotImage b.slot = .error e → u.slotImage (1 - b.slot) = .error e' → t.ptr.image = Image.factory ∧ t.ptr.source = 0 ∧ m t 5 = m u 5))) ∧
      (reach 7 → Next (go 7) s (fun t => t = { s with boot := { b with phase := 8 }, pwr := { s.pwr with lock := 0xF }, memsys := t.memsys } ∧
        stackTrains t)) ∧
      (reach 8 →
        let hd := s.norRead b.slot 0 256
        let code := s.norRead b.slot (fwOff hd 2) (fwLen hd 2)
        Next (go 8) s (fun t => t.boot.phase = 9 ∧ Mem.wf t.mem = true ∧
          (code.length ≤ nearSize → (∀ p, p < 8 → Mem.readN t.mem (nearOf p) code.length = code) ∧
            ∀ x, (∀ p, p < 8 → x < nearOf p ∨ nearOf p + code.length ≤ x) → Mem.read t.mem x = 0) ∧
          ∀ k, k < 16 →
            let x := s.stack k
            let y := t.stack k
            let isBad := fun (j : Nat) => ∃ e, e ∈ lanes ∧ e.1.val = k ∧ e.2.val = j
            let kept := fun (p : Nat × Nat) => p ∈ x.repair ∧ ¬ isBad (2048 + p.1)
            let free := fun (j : Nat) => j < 32 ∧ ¬ isBad (2048 + j) ∧ ∀ p, p ∈ x.repair → p.1 ≠ j
            let need := fun (l : Nat) => l < 2048 ∧ (isBad l ∨ ∃ p, p ∈ x.repair ∧ p.2 = l) ∧ ∀ p, kept p → p.2 ≠ l
            let lacks := ∃ l, need l ∧ ∀ p, p ∈ y.repair → p.2 ≠ l
            y.msc = [] ∧ y.wcb = [] ∧ (∀ l, l ∈ y.failing ↔ (l < 2080 ∧ isBad l)) ∧ (∀ p, kept p → p ∈ y.repair) ∧
              (∀ p, p ∈ y.repair → ¬ kept p → free p.1 ∧ need p.2 ∧ ∀ q, q ∈ y.repair → ¬ kept q → p.2 < q.2 → p.1 < q.1) ∧
              (∀ j, free j → (∀ p, p ∈ y.repair → p.1 ≠ j) → ¬ lacks ∧ ∀ p, p ∈ y.repair → ¬ kept p → p.1 < j) ∧
              (x.st = .degraded ∨ lacks → y.st = .degraded) ∧
              (x.st ≠ .degraded → ¬ lacks → y.st = if s.stackOwner k = none then .selfref else .ready))) ∧
      (reach 9 → Next (go 9) s (fun t => t = { s with boot := { b with phase := 10 }, trl := { s.trl with on := true }, ports := t.ports } ∧
        ∀ n, n < 2 → t.port n = if (s.port n).link = 0 then s.port n else { s.port n with link := 1 })) ∧
      (reach 10 → Next (go 10) s (fun t => t = { s with free := t.free, boot := { b with phase := 11 }, ports := t.ports } ∧ ∀ n, n < 2 →
        ((s.port n).link ≠ 1 → t.port n = s.port n) ∧ ((s.port n).link = 1 → ∃ rate w fl rv, 1 ≤ rate ∧ rate ≤ 6 ∧ w ∈ [1, 2, 4, 8, 16] ∧
          (rate = 6 → fl = true) ∧
          t.port n = { s.port n with link := if rate < 3 then 3 else 2, rate := rate, width := w, flit := fl, reversed := rv }))) ∧
      (∀ r, reach 11 → b.record = some r → b.warmHeld = false → Next (go 11) s (fun t =>
        let c := (r.next + 7) % 8
        (∃ v, v < 2 ^ 16 ∧
          let w := s.recordSave { r with
            slotSt := r.slotSt.set b.slot 2, attempts := 0, log := r.log.set c ⟨(nth {} r.log c).start, 11, b.slot, s.ptr.source, 0, v⟩ }
          t.boot = { w.boot with phase := 12, last := b.slot }) ∧
        t.ptr = { s.ptr with parts := (List.range 8).map s.partState } ∧ t.ldg.held = s.ptr.image.lodge ∧ services t ∧
        ∀ d, d < 8 → (s.rget (intTarget d 262)).testBit 7 = false → (t.intc d).pend.testBit 262 = true)) ∧
      (∀ e : BitVec 16, let c := Instr.startStepTimeout e
        (on → (b.phase = 0 ∨ 11 < b.phase ∨ b.failed = true) → same c) ∧ (reach 9 → exec c s = exec (go 9) s) ∧
        (∀ n, reach n → 1 ≤ n → n ≤ 11 → n ≠ 9 → Next c s (fun t => t.boot = { b with failed := true, record := t.boot.record, nor := t.boot.nor } ∧
          t = { s with boot := t.boot, ports := t.ports, trl := { s.trl with on := false, ports := t.trl.ports } } ∧
          (∀ j, t.tport j = { s.tport j with st := .down, why := 0 }) ∧
          (∀ j, j < 2 → t.port j = { s.port j with link := 0, rate := 0, width := 0, flit := false, cfgUp := false }) ∧
          ((n < 4 ∨ b.record = none) → t.boot.record = b.record ∧ t.boot.nor = b.nor) ∧
          ∀ r, 4 ≤ n → b.record = some r →
            let w := s.recordSave { r with log := r.log.set ((r.next + 7) % 8) ⟨(r.ent 0).start, n, b.slot, s.ptr.source, n, e.toNat⟩ }
            t.boot.record = w.boot.record ∧ t.boot.nor = w.boot.nor)))) ∧
    -- the reference clock
    (∀ (a' b' r' : BitVec 17),
      let c := Instr.refxoWindow a' b' r'
      let p := s.pwr
      let near := fun (n : Nat) => 32768 ≤ n ∧ ((65471 ≤ n ∧ n ≤ 65601) ∨ (65307 ≤ n ∧ n ≤ 65437))
      let ssc := fun (n : Nat) => n < 65454
      let ring := 12288 ≤ r'.toNat ∧ r'.toNat ≤ 20480
      let runA := if near a'.toNat then p.runA + 1 else 0
      let runB := if near b'.toNat then p.runB + 1 else 0
      let absent := if 32768 ≤ a'.toNat ∨ 32768 ≤ b'.toNat then 0 else p.absent + 1
      let runR := if 16 ≤ absent then (if ring then p.runR + 1 else 0) else p.runR
      (b.phase ≠ 12 → ¬ (b.phase = 3 ∧ p.judged = false) → same c) ∧
      (b.phase = 3 → p.judged = false →
        (runA = 8 → exec c s = .next { s with pwr := { p with runA := 8, judged := true, refSource := 0, refSsc := decide (ssc a'.toNat) } }) ∧
        (runA ≠ 8 → runB = 8 → exec c s = .next { s with
          pwr := { p with runA := runA, runB := 8, judged := true, refSource := 1, refSsc := decide (ssc b'.toNat) } }) ∧
        (runA ≠ 8 → runB ≠ 8 → (16 ≤ absent ∧ runR = 8) → exec c s = .next { s with
          pwr := { p with runA := runA, runB := runB, absent := absent, runR := 8, judged := true, refSource := 2 }, boot := { b with unverified := true } }) ∧
        (runA ≠ 8 → runB ≠ 8 → ¬ (16 ≤ absent ∧ runR = 8) → exec c s = .next { s with
          pwr := { p with runA := runA, runB := runB, absent := absent, runR := runR } })) ∧
      (b.phase = 12 →
        let ok := if p.refSource = 0 then near a'.toNat else if p.refSource = 1 then near b'.toNat else ring
        (ok → exec c s = .next { s with pwr := { p with failing := 0 } }) ∧
        (¬ ok → p.failing ≠ 7 → exec c s = .next { s with pwr := { p with failing := p.failing + 1 } }) ∧
        (¬ ok → p.failing = 7 → Next c s (fun t => Reported { s with pwr := { p with failing := 8, refFault := true } } t ∧ t.pwr.refFault = true)))) ∧
    -- slot commands
    (∀ (slot loc : Fin 2) (hostErr : HostErr) (norErr : Bool),
      let n := s.rf ⟨.bootSlotlen, 0, 0, 0⟩ 23 0
      let src := s.rf ⟨.bootSlotsrc, 0, 0, 0⟩ 55 0
      let fw := Instr.writeFw slot loc hostErr
      let im := Instr.writeImage slot loc hostErr
      let ends := fun (u t : State) (r : Nat) => Reported { u with boot := { u.boot with cmd := none, done := true, result := r } } t
      let off := fun (op : Nat) => if op = 2 then 0x800000 else 0
      let size := fun (op : Nat) => if op = 1 then 0x800000 else if op = 2 then 0x3600000 else 0x3E00000
      let begins := fun (op : Nat) (u t : State) (bs : List Byte) =>
        let v := u.setSlot slot.val 0
        t = { u with boot := { v.boot with nor := t.boot.nor, cmd := some ⟨op, slot.val, bs, none⟩ } } ∧
        (∀ x, off op ≤ x → x < off op + size op → t.norRead slot.val x 1 = [0xFF]) ∧ others v t slot.val (off op) (size op)
      let waits := fun (l : Nat) => if l = 1 then s.hotAt src = true else (s.fn 0 0).bme = false
      let held := fun (op : Nat) => (.next { s with boot := { b with cmd := some ⟨op, slot.val, [], some loc.val⟩ } } : Host.Outcome State Fault Refusal)
      ((b.phase < 12 ∨ b.cmd.isSome = true) → same fw ∧ same im ∧ same (.erase slot)) ∧
      -- the source, read as master 0x501
      (s.slotSource 1 n hostErr.val = s.devRead 0x501 src n ∧ s.slotSource 0 n 0 = (some (s.hostRead 0 src n), s) ∧
        (hostErr.val ≠ 0 → s.slotSource 0 n hostErr.val = (none, s.outErr 0 hostErr.val 0x501 src))) ∧
      (12 ≤ b.phase → b.cmd = none →
        (Mem.wf b.nor = true → Next (.erase slot) s (fun t => begins 3 s t [])) ∧
        (2 ^ 21 < n → Next im s (fun t => ends s t 2)) ∧
        (waits loc.val → exec fw s = held 1 ∧ (n ≤ 2 ^ 21 → exec im s = held 2)) ∧
        (¬ waits loc.val →
          (∀ u, s.slotSource loc.val n hostErr.val = (none, u) → Next fw s (fun t => ends u t 0x46) ∧ (n ≤ 2 ^ 21 → Next im s (fun t => ends u t 0x46))) ∧
          ∀ bs u, s.slotSource loc.val n hostErr.val = (some bs, u) →
            (let r := u.fwCheck (fun o m => (bs.drop o).take m) bs.length
             (r ≠ 0 → Next fw s (fun t => ends u t (0x3F + r))) ∧ (r = 0 → Mem.wf u.boot.nor = true → Next fw s (fun t => begins 1 u t bs))) ∧
            (n ≤ 2 ^ 21 → (∀ r, u.imageCheck bs = .error r → Next im s (fun t => ends u t r)) ∧
              ∀ i, u.imageCheck bs = .ok i → Mem.wf u.boot.nor = true → Next im s (fun t => begins 2 u t bs)))) ∧
      -- its end; a command that was held begins
      (b.cmd = none → same (.slotcmdComplete norErr)) ∧
      (∀ op, op = 1 ∨ op = 2 → b.cmd = some ⟨op, slot.val, [], some loc.val⟩ →
        let c := Instr.slotcmdComplete norErr
        (waits loc.val → same c) ∧
        (¬ waits loc.val → ∃ (e : HostErr) (f : Nat),
          exec c s = exec (if op = 1 then .writeFw slot loc e else .writeImage slot loc e) { s with free := f, boot := { b with cmd := none } })) ∧
      (∀ c, b.cmd = some c → c.held = none → Next (.slotcmdComplete true) s (fun t => ends s t 0x45) ∧
        (c.op = 3 → Next (.slotcmdComplete false) s (fun t => ends s t 0)) ∧
        (c.op ≠ 3 → Mem.wf b.nor = true → c.bytes.length ≤ size c.op → Next (.slotcmdComplete false) s (fun t => ∃ u, ends u t 0 ∧
          u = { s with boot := { b with record := u.boot.record, nor := u.boot.nor } } ∧
          (∀ r, b.record = some r → u.boot.record = some { r with slotSt := r.slotSt.set c.slot 1, gen := (r.gen + 1) % 2 ^ 32 }) ∧
          (b.record = none → u.boot.record = none) ∧ u.norRead c.slot (off c.op) c.bytes.length = c.bytes))))

/-- Clocks and power (18 R471-R491; 15 R414; 16 R444, R446): a PLL that loses lock contains every partition, or resets the ports; a period of
the power-cap loop computes acc and u and sets every die's step; a die sensor at 125 degrees contains everything and enters NAP; a request for a
power state supersedes the one before and ends at once, is refused, or waits for quiet; entering a state loses what R481 says; wake events and
exits return the module to ACTIVE.
Where no rule decides, the clauses follow the model's choices of log entries 77, 80 and 87. -/
def Obligations.ClocksAndPower : Prop :=
  ∀ (s : State),
    let p := s.pwr
    let same := fun (c : Instr) => exec c s = .next s
    let used := fun (i : Nat) => i < 8 ∧ (s.entry i).dies ≠ 0
    let raised := fun (t : State) (d n : Nat) => (s.rget (intTarget d n)).testBit 7 = false → (t.intc d).pend.testBit n = true
    let stackTrains := fun (t : State) => t.memsys = { s.memsys with hbms := t.memsys.hbms } ∧
      ∀ k, k < 16 → t.stack k = if (s.stack k).st = .degraded then s.stack k else { s.stack k with st := .training }
    let ordered := fun (t : State) => ∀ i, used i → t.err.contained.testBit i = true ∨ ∃ o, o ∈ t.err.orders ∧ o.part = i
    -- PLLs
    (∀ i : Fin 4,
      let lost : State := { s with pwr := { p with lock := p.lock - 2 ^ i.val, lost := p.lost ||| 2 ^ i.val } }
      (p.lock.testBit i.val = false → same (.pllLockLoss i)) ∧
      (p.lock.testBit i.val = true → i ≠ 3 → Next (.pllLockLoss i) s (fun t => Reported lost t ∧ ordered t)) ∧
      (p.lock.testBit 3 = true → i = 3 → exec (.pllLockLoss i) s = .next ((lost.portReset 0 1).portReset 1 1)) ∧
      ((i ≠ 2 ∨ p.lock.testBit 2 = true) → exec (.pllRelock i) s = .next { s with pwr := { p with lock := p.lock ||| 2 ^ i.val } }) ∧
      (i = 2 → p.lock.testBit 2 = false → Next (.pllRelock i) s (fun t => t.pwr = { p with lock := p.lock ||| 4 } ∧ ∀ n, n < 6 →
        ((s.tport n).st = .up → (t.tport n).st = .retrain) ∧ ((s.tport n).st ≠ .up → t.tport n = s.tport n)))) ∧
    -- the power-cap loop and energy
    (∀ (mw : BitVec 32) (rails hbms : List (BitVec 32)) (other : BitVec 32),
      let c := Instr.powerCapPeriod mw rails hbms other
      let e0 : Int := (mw.toNat : Int) - (s.rf regPwrCap 12 0 * 1000 : Nat)
      let band : Int := (s.rf regPwrCap 41 32 * 1000 : Nat)
      let e := if -band ≤ e0 ∧ e0 ≤ band then 0 else e0
      let acc := (min (max ((p.acc : Int) + e * (s.rf regPwrCap 23 16 : Nat)) 0) (2 ^ 24 - 1)).toNat
      let u := acc / 2 ^ 20
      let enabled := (List.range 4).filter (fun n => s.ptr.image.stepEn.testBit n)
      let capD := if enabled = [] then 0 else ((enabled.filter (fun n => decide (min u 3 ≤ n))).head?).getD ((enabled.getLast?).getD 0)
      let stepOf := fun (d : Nat) => (s.gang d).foldl (fun a g => max a (max (SMap.get 0 s.memsys.demand g) capD)) s.ptr.image.clockStep
      let rail := fun (d : Nat) => (nth 0 rails d).toNat
      let stk := fun (k : Nat) => (nth 0 hbms k).toNat
      let share := fun (ds ks : List Nat) => (ds.map rail).sum + (ks.map stk).sum + other.toNat * ds.length / 8
      let own := fun (i : Nat) => if (s.entry i).dies = 0 then 0 else
        share ((List.range 8).filter (fun d => (s.entry i).dies.testBit d)) ((List.range 16).filter (fun k => (s.entry i).hbms.testBit k))
      let free := share ((List.range 8).filter (fun d => s.dieOwner d == none)) ((List.range 16).filter (fun k => s.stackOwner k == none))
      let charged := fun (t : State) => ∀ i, i < 8 →
        SMap.get 0 (t.ldgPart i).total 14 = SMap.get 0 (s.ldgPart i).total 14 + own i + if i = 0 then free else 0
      ((s.boot.phase < 12 ∨ p.st = .off) → same c) ∧
      (12 ≤ s.boot.phase → p.st = .sleep → s.ldg.parts.length = 8 → Next c s (fun t => charged t ∧ Reported { s with ldg := t.ldg } t)) ∧
      (12 ≤ s.boot.phase → p.st ≠ .sleep → p.st ≠ .off → s.ldg.parts.length = 8 → (∀ d, d < 8 → ∀ g, g ∈ s.gang d → g < 8) → Next c s (fun t =>
        t.pwr = { p with acc := acc, u := u, power := mw.toNat, cap := t.pwr.cap, eff := t.pwr.eff, switches := t.pwr.switches } ∧
        (∀ d, d < 8 → SMap.get 0 t.pwr.cap d = capD ∧ SMap.get 0 t.pwr.eff d = stepOf d ∧
          SMap.get 0 t.pwr.switches d = if SMap.get 0 p.eff d = stepOf d then SMap.get 0 p.switches d else min (SMap.get 0 p.switches d + 1) 0xFFFF) ∧
        charged t ∧ (u ≠ p.u → ∀ d, d < 8 → raised t d 258) ∧
        Reported { s with pwr := t.pwr, ldg := t.ldg } t))) ∧
    (∀ (m : BitVec 12) (v : BitVec 64), s.accCheck m.toNat .wr (linesOf (mmioBase + 0x1801018) 4) = none →
      Next (.registerWrite m 0x1801018 false v) s (fun t => t = { s with regs := t.regs } ∧
        t.rf regPwrCap 12 0 = min 6500 (max 1000 (natBits v.toNat 12 0)) ∧ t.rf regPwrCap 23 16 = max 1 (natBits v.toNat 23 16) ∧
        t.rf regPwrCap 41 32 = s.rf regPwrCap 41 32)) ∧
    -- heat
    (∀ (d : Fin 10) (v : Fin 1024),
      let q := { p with temp := SMap.set 0 p.temp d.val v.val, peak := SMap.modify 0 p.peak d.val (fun x => max x v.val) }
      (v.val < 500 → exec (.dieThermalSample d v) s = .next { s with pwr := q }) ∧
      (500 ≤ v.val → Next (.dieThermalSample d v) s (fun t =>
        let naps := p.st = .active ∨ p.st = .idle
        ordered t ∧ (∀ j, j < 8 → raised t j 258) ∧ (d.val < 8 → raised t d.val 230) ∧
        t.pwr = { q with crit := true, exiting := false, st := if naps then .nap else p.st, req := t.pwr.req, result := t.pwr.result } ∧
        ((¬ naps ∨ p.req = none) → t.pwr.req = p.req ∧ t.pwr.result = p.result) ∧
        ∀ r, naps → p.req = some r → if r.target = .nap then t.pwr.req = none ∧ t.pwr.result = 0
          else t.pwr.req = some { r with begun := false } ∧ t.pwr.result = p.result))) ∧
    (∀ d : Fin 10, Next (.thmDieClr d) s (fun t => t = { s with pwr := { p with peak := t.pwr.peak } } ∧
      ∀ j, SMap.get 0 t.pwr.peak j = if j = d.val then SMap.get 0 p.temp j else SMap.get 0 p.peak j)) ∧
    -- requests
    (let ended := fun (u : State) (r : PReq) (reason : Nat) =>
       let tsf := if reason ≠ 0 then reason else if r.asked = .sleep ∧ r.target = .nap then 2 else 0
       let v : State := { u with pwr := { u.pwr with req := none, result := reason },
                                 smb := if r.smb then { u.smb with status := 0, data := leBytes 1 tsf } else u.smb }
       match r.q with
       | none => v
       | some (q, ix) => v.descDone q ix (if reason ≠ 0 then 0x84 else 0) tsf 0
     let asks := fun (c : Instr) (u0 : State) (asked : PState) (q : Option (Nat × Nat)) =>
       let u : State := match u0.pwr.req with | some r => (ended u0 r 4).giveUp r | none => u0
       let target := if asked = .sleep ∧ u.org.open 9 = true then PState.nap else asked
       let r : PReq := ⟨target, asked, q, false, false⟩
       let st := u.pwr.st
       let acc : State := { u with pwr := { u.pwr with req := some r, wakeAfter := false } }
       let lodge := target = .sleep ∧ u.ldg.held = true ∧ st ≠ .sleep
       let noop := target = st ∨ (target ≠ .active ∧ target.depth < st.depth)
       (lodge → exec c s = .next (ended u r 1)) ∧ (¬ lodge → noop → exec c s = .next (ended u r 0)) ∧
       (¬ lodge → ¬ noop →
         (target = .active → exec c s = .next (if st = .sleep ∨ u.pwr.crit = true then acc else { acc with pwr := { acc.pwr with exiting := true } })) ∧
         ((target = .idle ∨ target = .nap ∨ (target = .sleep ∧ (u.ldg.pparent = none ∨ u.pwr.grant = true))) → exec c s = .next acc) ∧
         (∀ d, target = .sleep → u.ldg.pparent = some d → u.pwr.grant = false → exec c s = .next (acc.mgmt 0x51 d [] 0)))
     (∀ x : Fin 4, asks (.pwrCtlGo x) (s.rput ⟨.pwrCtl, 0, 0, 0⟩ 1 0 x.val) (pstateOf x.val) none) ∧
     (∀ (q : QIx) d, s.startOp q.val tyAdmin 0x60 = some d →
       ((d.f 4 31 2 ≠ 0 ∨ d.zeroFrom 5 = false) → exec (.powerState q) s = .next (s.descDone q.val d.ix 1 0 0)) ∧
       (d.f 4 31 2 = 0 → d.zeroFrom 5 = true → asks (.powerState q) (s.descRun q.val d.ix) (pstateOf (d.f 4 1 0)) (some (q.val, d.ix)))) ∧
     (∀ (q : QIx) d, s.startOp q.val tyAdmin 0x61 = some d →
       ((d.f 4 31 13 ≠ 0 ∨ d.zeroFrom 5 = false) → exec (.powerCap q) s = .next (s.descDone q.val d.ix 1 0 0)) ∧
       (d.f 4 31 13 = 0 → d.zeroFrom 5 = true → exec (.powerCap q) s =
         .next ((s.rput regPwrCap 12 0 (min 6500 (max 1000 (d.f 4 12 0)))).descDone q.val d.ix 0 0 0))) ∧
     (let due := s.rf ⟨.pwrCtl, 0, 0, 0⟩ 3 3 = 1 ∧ p.st = .active ∧ p.req = none ∧ s.moduleQuiet = true
      (due → asks .idleDelayExpire s .idle none) ∧ (¬ due → same .idleDelayExpire)) ∧
     -- quiet, and entry
     (s.moduleQuiet = true → (∀ q d, d ∈ (s.queue q).flight → p.req.bind PReq.q = some (q, d.ix)) ∧ s.commitBusy = false ∧
       (∀ k, k < 512 → (s.core k).wfi = true ∨ (s.core k).run = false) ∧
       ∀ d, (s.ar d).seq = .idle ∧ (s.ar d).ops = [] ∧ (s.ar d).admitting = none ∧ (s.ar d).parked = [] ∧ (s.sg d).tile = none ∧
         (s.tdie d).dbuf = [] ∧ ∀ x, SMap.get none (s.tdie d).ents x = none) ∧
     (∀ r, p.req = some r →
       let r1 := if r.target = .sleep ∧ s.org.open 9 = true then { r with target := PState.nap } else r
       let ready := r.begun = false ∧ s.moduleQuiet = true ∧ p.exiting = false ∧ p.st.depth < r1.target.depth ∧ r1.target ≠ .off ∧
         ¬ (p.crit = true ∧ p.st = .nap) ∧ (r1.target = .sleep → (s.ldg.pparent = none ∨ p.grant = true) ∧ s.org.cmds = [])
       let begun : State := { s with pwr := { p with req := some { r1 with begun := true } } }
       (¬ ready → same .powerEntryBegin) ∧ (ready → r1.target ≠ .sleep → exec .powerEntryBegin s = .next begun) ∧
       (ready → r1.target = .sleep → Next .powerEntryBegin s (fun t => t.pwr = begun.pwr ∧ (∀ j, j < 8 → t.sess j = none) ∧
         ∀ n, n < 6 → (t.tport n).st = .down))) ∧
     (p.req = none → (s.autoSleep = false ∨ p.st = .sleep) → same .powerEntryBegin) ∧
     (p.req = none → p.st ≠ .sleep → p.st ≠ .off → s.rf ⟨.pwrCtl, 0, 0, 0⟩ 4 4 = 1 → (∃ n, n < 2 ∧ 2 ≤ (s.port n).link) →
       (∀ n, n < 2 → 2 ≤ (s.port n).link → (s.fn n 0).d3 = true) → s.org.open 9 = false → s.ldg.held = false → s.ldg.pparent = none →
       s.moduleQuiet = true → p.exiting = false → ¬ (p.crit = true ∧ p.st = .nap) → s.org.cmds = [] →
       Next .powerEntryBegin s (fun t => t.pwr.req = some ⟨.sleep, .sleep, none, false, true⟩ ∧ ∀ n, n < 6 → (t.tport n).st = .down)) ∧
     ((∀ r, p.req = some r → r.begun = false) → same .powerEntryComplete) ∧
     (∀ r, p.req = some r → r.begun = true → r.q = none →
       let after := { p with st := r.target, req := none, result := 0, exiting := p.exiting || (r.target == .sleep && p.wakeAfter),
                             wakeAfter := if r.target = .sleep then false else p.wakeAfter }
       let light := (p.st = .active ∨ p.st = .idle) ∧ (r.target = .active ∨ r.target = .idle)
       Next .powerEntryComplete s (fun t => t.pwr = after ∧ (light → t.org.chal = s.org.chal) ∧ (¬ light → t.org.chal = []) ∧
         t.ptr = s.ptr ∧ (∀ d, d < 8 → raised t d 259) ∧
         (r.target = .idle → Reported { s with pwr := t.pwr, smb := t.smb, org := { s.org with chal := t.org.chal } } t) ∧
         ((r.target = .nap ∨ r.target = .sleep) → ∀ d, d < 8 →
           (t.ar d).bankA = {} ∧ (t.ar d).bankB = {} ∧ (t.ar d).acb = [] ∧ (t.ar d).pipe = [] ∧ (t.sg d).tb = [] ∧ (t.sg d).tile = none ∧
           (t.sg d).prog = (s.sg d).prog ∧ (t.sg d).tbl = (s.sg d).tbl ∧ (t.sg d).const = (s.sg d).const) ∧
         (r.target = .nap → ∀ k, k < 512 → (t.core k).l1d = [] ∧ (t.core k).l1i = [] ∧ (t.core k).mbuf = [] ∧ (t.core k).sbuf = [] ∧ (t.core k).g = (s.core k).g ∧
           (t.core k).pc = (s.core k).pc ∧ (t.core k).v = (s.core k).v ∧ (t.core k).k = (s.core k).k ∧ (t.core k).cr = (s.core k).cr) ∧
         (r.target = .sleep → (∀ k, k < 512 → (t.core k).run = (s.core k).run ∧ (t.core k).g = [] ∧ (t.core k).pc = s.startPc k) ∧
           ∀ k, k < 16 → (t.stack k).msc = [] ∧ (t.stack k).wcb = [] ∧ (t.stack k).repair = (s.stack k).repair ∧
             let rests := (s.stack k).st = .ready ∨ (s.stack k).st = .hot
             (t.stack k).st = if p.wakeAfter = true ∧ p.exiting = false ∧ (s.stack k).st ≠ .degraded then .training
               else if rests then .selfref else (s.stack k).st))) ∧
     -- wake events, and exit
     (∀ ev : WakeEv,
       let c := Instr.wakeEvent ev
       let deep := (∃ n, ev = .d0 n) ∨ (∃ n, ev = .perst n) ∨ ev = .smbus
       let going := ∃ r, p.req = some r ∧ r.begun = true
       let exit : State := { s with pwr := { p with exiting := true } }
       let leaves := (p.exiting = true → exec c s = .next exit) ∧
         (p.exiting = false → Next c s (fun t => t = { exit with memsys := t.memsys } ∧ stackTrains t))
       (∀ r, p.req = some r → r.begun = true → let u := ended s r 3
         (¬ deep → r.target ≠ .sleep → exec c s = .next u) ∧
         (¬ deep → r.target = .sleep → Next c s (fun t => t.pwr = u.pwr ∧ ∀ n, n < 6 →
           (t.tport n).st = if (u.tport n).st = .down ∧ u.portAllowed n = true then .training else (u.tport n).st)) ∧
         (deep → r.target = .sleep → exec c s = .next { s with pwr := { p with wakeAfter := true } }) ∧ (deep → r.target ≠ .sleep → same c)) ∧
       (¬ going → p.st = .sleep → (deep → leaves) ∧ (¬ deep → same c)) ∧
       (¬ going → (p.st = .idle ∨ p.st = .nap) → ((¬ deep ∧ p.crit = false) → exec c s = .next exit) ∧ (¬ (¬ deep ∧ p.crit = false) → same c)) ∧
       (¬ going → (p.st = .active ∨ p.st = .off) → same c)) ∧
     (∀ lanes, let c := Instr.powerExitComplete lanes
       (p.exiting = false → same c) ∧
       (p.exiting = true → p.warmAfter = false → Next c s (fun t => t.pwr.st = .active ∧ t.pwr.exiting = false ∧
         (∀ r, p.req = some r → r.target = .active → t.pwr.req = none ∧ t.pwr.result = 0) ∧
         ((∀ r, p.req = some r → r.target ≠ .active) → t.pwr.req = p.req) ∧
         t.pwr.grant = (if p.st = .sleep then false else p.grant) ∧
         (p.st = .nap ∨ p.st = .sleep → t.org.chal = []) ∧ t.ptr = s.ptr ∧
         (∀ d, d < 8 → raised t d 259) ∧
         (p.st ≠ .sleep → ∀ k, (t.stack k).repair = (s.stack k).repair) ∧
         (p.st = .sleep → lanes = [] → ∀ k, k < 16 → (t.stack k).repair = (s.stack k).repair ∧ (t.stack k).held = [] ∧
           ((s.stack k).st ≠ .degraded → (t.stack k).st = .ready ∨ ((t.stack k).st = .selfref ∧ s.stackOwner k = none))) ∧
         (∀ d, p.st = .sleep → s.ldg.pparent = some d → d ≠ s.device → ∃ m, m ∈ t.ldg.out ∧ m.opc = 0x41 ∧ m.dst = d)))))

/-- Errors and counters (19 R494-R508, R526): an order contains its partition, once; release resets its dies and makes it RUNNING; records go to
a port's ring while it has room; a scrub read steps to the next line and reports what it finds; ERR_INJ takes what an injecting session writes;
counters overflow, samples are captured, and collectors write their snapshots.
Where no rule decides, the clauses follow the model's choices of log entries 88, 89 and 94. -/
def Obligations.ErrorsAndCounters : Prop :=
  ∀ (s : State),
    let er := s.err
    let same := fun (c : Instr) => exec c s = .next s
    let last := fun (t : State) (hi lo : Nat) => natBits t.err.last hi lo
    -- containment and release
    (er.orders = [] → same .containmentOrder) ∧
    (∀ o rest, er.orders = o :: rest → s.ptr.parts.length = 8 →
      let i := o.part
      let e := s.entry i
      let s1 : State := { s with err := { er with orders := rest } }
      ((e.dies = 0 ∨ nth .unused s.ptr.parts i = .contained) → exec .containmentOrder s = .next s1) ∧
      (i < 8 → e.dies ≠ 0 → nth .unused s.ptr.parts i ≠ .contained → Next .containmentOrder s (fun t =>
        (∀ j, nth .unused t.ptr.parts j = if j = i then .contained else nth .unused s.ptr.parts j) ∧ t.err.contained.testBit i = true ∧
        (s.xlt.prefetch = [] → t.err.orders = rest) ∧ t.smb.alert = true ∧ (∀ q, s.queueOwner q = some i → t.qst q = .contained) ∧
        (∀ q d, s.queueOwner q = some i → (s.queue q).flight = [d] → d.st = .waiting → d.batches = [] →
          ∃ x tsf res, (t.queue q).flight = [x] ∧ x.st = .done 6 tsf res) ∧
        (∀ d, d < 8 → e.dies.testBit d = true → (t.sg d).tile = none ∧ (t.tdie d).stopped = true ∧ (t.ar d).ops = []) ∧
        (∀ k r, k < 16 → e.hbms.testBit k = true → r ∈ (t.stack k).held → s.partOf r.master ≠ some i) ∧
        (∀ n r, n < 2 → r ∈ (t.port n).inq → s.partOf (fnMaster n r.f) ≠ some i) ∧
        (∀ c, c < 16 → s.rf (ctxReg c) 3 1 = i → t.rf (ctxReg c) 0 0 = 0) ∧
        (∃ r, r ∈ t.ldg.closed ∧ r.part = i ∧ natBits r.raw 15 8 = 5) ∧
        last t 10 8 = 3 ∧ last t 15 12 = 1 + 2 * i ∧ last t 23 16 = 0x0D ∧ last t 28 24 = e.lowDie % 32 ∧ last t 319 256 = o.stamp % 2 ^ 64 ∧
        last t 191 128 = (e.dies + e.hbms * 2 ^ 16) % 2 ^ 64))) ∧
    (∀ mask : BitVec 8, s.ptr.parts.length = 8 → Next (.errRelease mask) s (fun t => t.mem = s.mem ∧ t.err.bad = er.bad ∧ ∀ i, i < 8 →
      let gone := mask.getLsbD i = true ∧ nth .unused s.ptr.parts i = .contained
      (gone → nth .unused t.ptr.parts i = .running ∧ t.err.contained.testBit i = false ∧
        (∀ d k, d < 8 → (s.entry i).dies.testBit d = true → 64 * d ≤ k → k < 64 * d + 64 → (t.core k).run = true → s.ptr.image.lodge = true ∧ k < 8) ∧
        ∀ q, s.queueOwner q = some i → (s.queue q).st = .contained → (s.queue q).resetting = false →
          ((s.queue q).flight = [] → (t.queue q).st = .disabled ∧ (t.queue q).flight = [] ∧ (t.queue q).sqTail = 0 ∧ (t.queue q).sqHead = 0 ∧
            (t.queue q).cqTail = 0 ∧ (t.queue q).cqHead = 0) ∧
          ((s.queue q).flight ≠ [] → (t.queue q).st = .contained ∧ (t.queue q).sqTail = (s.queue q).sqTail ∧ (t.queue q).sqHead = (s.queue q).sqHead)) ∧
      (¬ gone → nth .unused t.ptr.parts i = nth .unused s.ptr.parts i ∧ t.err.contained.testBit i = er.contained.testBit i))) ∧
    -- error rings
    (∀ n : PortIx,
      let ring : Reg := ⟨.errRing, n.val, 0, 0⟩
      let ptr : Reg := ⟨.errRingPtr, n.val, 0, 0⟩
      let size := 2 ^ s.rf ring 4 1
      let tail := nth 0 er.ringTail n.val % size
      let room := 1 ≤ (s.rf ptr 30 16 % size + 2 * size - tail - 1) % size
      let takes := fun (k : Nat) (r : ErrRec) => s.ringTakes k r = true
      let bme := (s.fn n.val 0).bme = true
      let left := (er.buf.filter (fun r => s.ringTakes 0 r || s.ringTakes 1 r)).dropWhile (fun r => !s.recWaits r)
      (¬ bme → same (.errorRingWrite n)) ∧
      (bme → ((∀ r, r ∈ er.buf → takes n.val r → r.wrote.testBit n.val = true) ∨ ¬ room) → exec (.errorRingWrite n) s =
        .next { s with err := { er with buf := left ++ er.late.take (256 - left.length), late := er.late.drop (256 - left.length) } }) ∧
      (∀ r, bme → er.buf = [r] → takes n.val r → ¬ takes (1 - n.val) r → r.wrote.testBit n.val = false → room →
        let u := s.hostWrite n.val (s.rf ring 55 12 * 4096 + 64 * tail) (leBytes 64 r.raw)
        exec (.errorRingWrite n) s = .next (State.msix { u with
          err := { u.err with
            buf := u.err.late.take 256, late := u.err.late.drop 256, ringTail := u.err.ringTail.set n.val ((tail + 1) % size),
            ringWrap := if (tail + 1) % size = 0 then modNth false u.err.ringWrap n.val (fun b => !b) else u.err.ringWrap } }
          n.val 0 (s.rf ptr 42 32)))) ∧
    -- scrubbing
    (∀ (key : ScrubKey) (out : Fin 3),
      let c := Instr.scrubRead key out
      let b := (scrubRange key).1
      let w := (scrubRange key).2.1
      let n := (scrubRange key).2.2
      let i := SMap.get 0 er.scrub (scrubIx key)
      let a := b + i * w
      let s1 : State := { s with err := { er with scrub := SMap.set 0 er.scrub (scrubIx key) ((i + 1) % n) } }
      let owner := match key with | .stack k => s.stackOwner k.val | .near p _ => s.dieOwner p.val
      let scr : Reg := ⟨.errScrub, 0, 0, 0⟩
      let may := s.pwr.st ≠ .sleep ∧ (match key with
        | .stack k => s.rf scr 48 48 = 1 ∧ (s.stack k.val).st = .ready
        | .near _ _ => s.rf scr 16 16 = 1)
      (¬ may → same c) ∧
      (may → i < n → s.isBad a = false → (s.rget regErrInj).testBit 63 = false →
        let meets := fun (u : Upset) => u.hits false 0x500 (linesOf a w) = true ∧ u.code ≠ 3
        (∀ u, er.upsets = [u] → meets u → Next c s (fun t => t.err.upsets = [] ∧ SMap.get 0 t.err.scrub (scrubIx key) = (i + 1) % n ∧
          (u.unc = false → t.err.ce = min (er.ce + 1) 0xFFFF) ∧
          (u.unc = true → last t 23 16 = 2 ∧ last t 127 64 = a ∧ last t 135 128 = u.code % 256 ∧ last t 160 160 = 1))) ∧
        ((∀ u, u ∈ er.upsets → ¬ meets u) →
        (out = 0 → exec c s = .next s1) ∧
        (out = 1 → Next c s (fun t => t.err.ce = min (er.ce + 1) 0xFFFF ∧ (s.org.sess = [] → t.mem = s.mem))) ∧
        (out = 2 → Next c s (fun t => last t 10 8 = (if owner = none then 2 else 3) ∧ last t 23 16 = 2 ∧ last t 127 64 = a ∧
          last t 135 128 = structOf a ∧ last t 160 160 = 1 ∧ SMap.get 0 t.err.scrub (scrubIx key) = (i + 1) % n ∧
          (∀ j, owner = some j → t.err.contained.testBit j = true ∨ ∃ o, o ∈ t.err.orders ∧ o.part = j) ∧
          ∀ k l, badKey a = some (k, l) → (SMap.get [] er.bad k).length < 64 → SMap.get [] t.err.bad k = SMap.get [] er.bad k ++ [l]))))) ∧
    -- injection
    (∀ (m : BitVec 12) (v : BitVec 64),
      let c := Instr.errInj m v
      let grants := ∃ j x, (j = 8 ∨ j = 9) ∧ s.sess j = some x ∧ x.perms.testBit 4 = true
      let legal := natBits v.toNat 54 52 ∈ [1, 2, 3, 4] ∧ natBits v.toNat 57 56 ∈ [1, 2]
      (¬ grants → Next c s (fun t => Reported s t)) ∧
      (grants → legal → Next c s (fun t => t = { s with regs := t.regs } ∧
        (∀ f, f ∈ [(51, 0), (54, 52), (57, 56), (63, 63)] → t.rf regErrInj f.1 f.2 = natBits v.toNat f.1 f.2) ∧
        ∀ off, off ≠ regErrInj.addr → SMap.get none t.regs off = SMap.get none s.regs off))) ∧
    -- counters
    (∀ (b : PmcBlock) (x : Fin 8),
      let c := Instr.cycleCountOverflow b x
      let ctr := fun (t : State) (j : Nat) => t.rget (pmcCtrReg b j)
      let evt := fun (t : State) (j hi lo : Nat) => t.rf (pmcEvtReg b j) hi lo
      let counts := s.runs (pmcDom b) = true ∧ evt s x.val 8 8 = 1 ∧ evt s x.val 7 0 = 1 ∧ ¬ (x.val % 2 = 1 ∧ evt s (x.val - 1) 9 9 = 1)
      (¬ counts → same c) ∧
      (counts → ctr s x.val < 2 ^ 48 → Next c s (fun t => t = { s with regs := t.regs } ∧ ctr t x.val = 0 ∧ evt t x.val 11 11 = 1 ∧
        (x.val % 2 = 0 → evt s x.val 9 9 = 1 → evt s (x.val + 1) 8 8 = 1 → ctr t (x.val + 1) = (ctr s (x.val + 1) + 1) % 2 ^ 48) ∧
        (x.val % 2 = 1 ∨ evt s x.val 9 9 = 0 → ctr t (x.val + 1) = ctr s (x.val + 1)) ∧
        ∀ off, ¬ CounterAt off → SMap.get none t.regs off = SMap.get none s.regs off))) ∧
    (∀ (k : Fin 512) (x : Fin 8) (skid : Fin 13),
      let c := Instr.sampleCapture k x skid
      let die := k.val / 64
      let r : Reg := ⟨.pmcSample, die, k.val % 64, 0⟩
      let e : Reg := ⟨.pmcEvt, die, k.val % 64, x.val⟩
      let on := s.rf e 10 10 = 1 ∧ s.rf e 8 8 = 1
      (¬ on → same c) ∧ (on → s.rf r 0 0 = 1 → exec c s = .next (s.rput r 8 8 1)) ∧
      (on → s.rf r 0 0 = 0 → Next c s (fun t => Reported (s.rset r (1 + x.val * 2 + (if (s.core k.val).det then 0 else skid.val * 2 ^ 4) +
          s.rf r 8 8 * 2 ^ 8 + (s.core k.val).pc.toNat * 2 ^ 64)) t ∧
        ((s.rget (intTarget die (64 + k.val % 64))).testBit 7 = false → (t.intc die).pend.testBit (64 + k.val % 64) = true)))) ∧
    (∀ x : Fin 9,
      let dst : Reg := if x.val < 8 then ⟨.pmcDst, x.val, 0, 0⟩ else ⟨.pmcDstM, 0, 0, 0⟩
      let nb := if x.val < 8 then 70 else 24
      let q := s.coll x.val
      let at' := s.rf dst 51 13 * 8192 + 8192 * (q.seq % 2 ^ s.rf dst 55 52)
      let takes := fun (c : Instr) (why : Nat) => s.runs .mesh = true → Mem.wf s.mem = true → Next c s (fun t =>
        t.coll x.val = { q with seq := (q.seq + 1) % 2 ^ 32, done := true } ∧
        Mem.readLE t.mem at' 8 = 1 + (if x.val < 8 then x.val else 0x10) * 2 ^ 8 + nb * 2 ^ 16 + why * 2 ^ 24 ∧
        Mem.readLE t.mem (at' + 8) 8 = q.seq % 2 ^ 64 ∧ (∀ j, 32 ≤ j → j < 64 → Mem.read t.mem (at' + j) = 0) ∧
        (∀ b y, b < nb → y < 8 → Mem.readLE t.mem (at' + 64 + 64 * b + 8 * y) 8 =
          (if x.val < 8 then s.rget ⟨.pmcCtr, x.val, b, y⟩ else s.rget ⟨.pmcCtrM, b, y, 0⟩) % 2 ^ 64) ∧
        ∀ a, (a < at' ∨ at' + 64 + 64 * nb ≤ a) → Mem.read t.mem a = Mem.read s.mem a)
      takes (.pmcCollGo x) 1 ∧ (s.rf (collReg x.val) 3 3 = 1 → takes (.pmcInterval x) 0) ∧ (s.rf (collReg x.val) 3 3 = 0 → same (.pmcInterval x)) ∧
      (s.runs .mesh = false → same (.pmcCollGo x) ∧ same (.pmcInterval x))) ∧
    (∀ (q : QIx) (h : HostErr) d, s.opDesc q.val tyService 0x60 = some d →
      let c := Instr.snapshot q h
      let mask := d.f 4 7 0
      let to' := d.addr 8
      let owned := fun (k : Nat) => ∃ i, s.queueOwner q.val = some i ∧ (s.entry i).dies.testBit k = true
      let form := d.f 4 31 8 = 0 ∧ natBits d.raw 255 160 = 0 ∧ d.f 9 31 24 = 0 ∧ d.zeroFrom 10 = true ∧ to' % 64 = 0 ∧ mask ≠ 0 ∧
        ∀ k, k < 8 → mask.testBit k = true → owned k
      let asid := s.qAsid q.val
      let allowed := (s.rget ⟨.pmcCtxen, asid / 64, 0, 0⟩).testBit (asid % 64) = true ∨
        ∃ j x, j < 10 ∧ s.sess j = some x ∧ x.perms.testBit 2 = true ∧ (8 ≤ j ∨ s.queueOwner q.val = some x.part)
      (¬ form → exec c s = .next (s.descDone q.val d.ix 1 0 0)) ∧ (form → ¬ allowed → exec c s = .next (s.descDone q.val d.ix 2 0 0)) ∧
      (form → allowed → ∀ k, k < 8 → mask = 2 ^ k →
        let m := dmaMaster (s.homeDie q.val) q.val d.ix
        let pages := State.descPages q.val d.ix (s.homeDie q.val) .wr h (pagesOf to' 4544) s
        (∀ ls s1 ok s3, pages = (some ls, s1) → (s1.capture k 2).2.descWrite q.val d.ix m 0 ls (s1.capture k 2).1 = (ok, s3) →
          exec c s = .next (s3.descDone q.val d.ix (if ok = true then 0 else 2) 0 0)) ∧
        ∀ s1, pages = (none, s1) → exec c s = .next (s1.descRun q.val d.ix)))

/-- The SMBus (20 R522, R523; 16 R433; 18 R484, R486): a command is discarded while the module does not answer or another runs, refused in
SCRAPPED but for IDENTITY's, MALFORMED for data of another length; otherwise it ends with its status and data, which a Block Read of 0xF0
returns; an alert is answered with the module's address and released.
Where no rule decides, the clauses follow the model's choices of log entry 90. -/
def Obligations.SMBusCommands : Prop :=
  ∀ (s : State) (data : List Byte),
    let e := fun (u : State) (st : Nat) (bs : List Byte) => ({ u with smb := { u.smb with status := st, data := bs } } : State)
    let ends := fun (c : Instr) (st : Nat) (bs : List Byte) => exec c s = .next (e s st bs)
    let scrapped := s.org.fuses.lifecycle = .scrapped
    let answers := s.pwr.input = true ∧ s.pwr.st ≠ .off ∧ (6 ≤ s.boot.phase ∨ scrapped)
    let running := ∃ r, s.pwr.req = some r ∧ r.smb = true
    let ready := answers ∧ ¬ running ∧ ¬ scrapped
    let shed := s.boot.phase = 13
    let byte := fun (i : Nat) => leNat ((data.drop i).take 1)
    let w4 := leNat (data.take 4)
    let all : List Instr := [.inventory data, .sensors data, .regRead data, .regWrite data, .smbPowerState data, .smbPowerCap data, .wake data,
      .smbReset data, .orgBufWrite data, .orgRun data, .orgStatus data, .orgBufRead data, .memWrite data, .memRead data]
    (∀ c, c ∈ all → (¬ answers → exec c s = .next s) ∧ (answers → running → exec c s = .next s) ∧
      (answers → ¬ running → scrapped → c ∉ [Instr.orgStatus data, .orgBufRead data] → (c = .orgRun data → byte 0 ≠ 0x30 ∨ data = []) → ends c 2 []) ∧ (ready → 240 < data.length → ends c 1 [])) ∧
    (∀ c n, (c, n) ∈ [(Instr.inventory data, 0), (.sensors data, 0), (.regRead data, 5), (.smbPowerState data, 1), (.smbPowerCap data, 2), (.wake data, 0),
      (.smbReset data, 1), (.orgRun data, 3), (.orgStatus data, 0), (.orgBufRead data, 3)] → ready → data.length ≠ n → ends c 1 []) ∧
    (ready → data = [] → ends (.inventory data) 0 (leBytes 8 (s.regWord ⟨.glbId, 0, 0, 0⟩) ++ leBytes 8 Config.serial ++ leBytes 4 s.orgWord ++
      leBytes 2 s.bootWord ++ leBytes 1 s.pwrWord)) ∧
    (ready → data = [] → Next (.sensors data) s (fun t => t = { s with free := t.free, smb := t.smb } ∧ ∃ bs, t = e { s with free := t.free } 0 bs ∧
      bs.length = 64 ∧ (bs.drop 4).take 4 = leBytes 4 s.pwr.power ∧
      (∀ d, d < 10 → (bs.drop (8 + 2 * d)).take 2 = leBytes 2 (SMap.get 0 s.pwr.temp d)) ∧
      ∀ k, k < 16 → (bs.drop (28 + 2 * k)).take 2 = leBytes 2 (s.stack k).temp)) ∧
    (ready → data.length = 5 → let n := byte 4
      let c := Instr.regRead data
      (((n ≠ 4 ∧ n ≠ 8) ∨ w4 % n ≠ 0) → ends c 1 []) ∧
      ((n = 4 ∨ n = 8) → w4 % n = 0 → (smbReads w4 = false → ends c 2 []) ∧ (smbReads w4 = true →
        (∀ v u, s.busRead 0x502 w4 n = (.ok v, u) → exec c s = .next (e u 0 (leBytes n v))) ∧
        ∀ x u, s.busRead 0x502 w4 n = (.error x, u) → exec c s = .next (e u 2 [])))) ∧
    (ready → let n := byte 4
      let c := Instr.regWrite data
      let form := 5 ≤ data.length ∧ (n = 4 ∨ n = 8) ∧ w4 % n = 0 ∧ data.length = 5 + n
      let reach := ∃ r o, regAt w4 = some (r, o) ∧ r.k ∈ [RegK.pwrCap, .pwrCtl, .bootCtl, .bootSlotcmd, .bootSlotsrc, .bootSlotlen]
      (¬ form → ends c 1 []) ∧ (form → ¬ reach → ends c 2 []) ∧
      (form → reach → ∀ u, (e s 0 []).busWrite 0x502 2 w4 n (leNat (data.drop 5)) = (none, u) → exec c s = .next u)) ∧
    (ready → data.length = 1 → let c := Instr.smbPowerState data
      (3 < byte 0 → ends c 1 []) ∧ (byte 0 ≤ 3 → shed → ends c 9 []) ∧
      (byte 0 ≤ 3 → ¬ shed → exec c s = .next ((e s 0 []).powerReq (pstateOf (byte 0)) none true))) ∧
    (ready → data.length = 2 → (shed → ends (.smbPowerCap data) 9 []) ∧
      (¬ shed → exec (.smbPowerCap data) s = .next (e (s.rput regPwrCap 12 0 (min 6500 (max 1000 (leNat data)))) 0 []))) ∧
    (ready → data = [] → exec (.wake data) s = exec (.wakeEvent .smbus) (e s 0 [])) ∧
    (ready → data.length = 1 → let c := Instr.smbReset data
      (byte 0 = 0 → exec c s = exec .warmReset (e s 0 [])) ∧ (byte 0 = 1 → exec c s = exec .coldReset (e s 0 [])) ∧
      (byte 0 = 2 → exec c s = exec .restart (e s 0 [])) ∧ (3 ≤ byte 0 → ends c 1 [])) ∧
    -- the Orangery's channel 2
    (let o := s.org
     let off := leNat (data.take 2)
     (ready → let c := Instr.orgBufWrite data
       ((data.length < 2 ∨ 65536 < off + (data.length - 2)) → ends c 1 []) ∧
       (2 ≤ data.length → data.length ≤ 240 → off + (data.length - 2) ≤ 65536 →
         exec c s = .next (e { s with org := { o with buf := Mem.writeN o.buf (0x20000 + off) (data.drop 2) } } 0 []))) ∧
     ((ready ∨ (answers ∧ ¬ running ∧ byte 0 = 0x30)) → data.length = 3 → let c := Instr.orgRun data
       ((s.mbx 2).busy = true → ends c 0x80 []) ∧
       ((s.mbx 2).busy = false → exec c s = .next (e { s with
         org := { o with cmds := o.cmds ++ [2],
                         mbx := SMap.set {} o.mbx 2 { s.mbx 2 with code := byte 0, len := leNat ((data.drop 1).take 2), busy := true, done := false } } }
         0 []))) ∧
     (answers → ¬ running → data = [] → ends (.orgStatus data) 0 (leBytes 8 (s.mbx 2).word)) ∧
     (answers → ¬ running → data.length = 3 → let n := byte 2
       ((240 < n ∨ 65536 < off + n) → ends (.orgBufRead data) 1 []) ∧
       (n ≤ 240 → off + n ≤ 65536 → ends (.orgBufRead data) 0 (Mem.readN o.buf (0x20000 + off) n)))) ∧
    -- near memory in Shed mode
    (ready → data.length ≤ 240 → (¬ shed → ends (.memWrite data) 9 [] ∧ ends (.memRead data) 9 []) ∧
      (shed → let bs := data.drop 4
        ((data.length < 4 ∨ 0x4000000 < w4 + bs.length) → ends (.memWrite data) 1 []) ∧
        (4 ≤ data.length → w4 + bs.length ≤ 0x4000000 → s.accCheck 0x502 .wr (linesOf (nearBase + w4) bs.length) = none →
          Next (.memWrite data) s (fun t => t.mem = Mem.writeN s.mem (nearBase + w4) bs ∧ t.smb = { s.smb with status := 0, data := [] } ∧
            t = { s with
              mem := t.mem, smb := t.smb, cores := t.cores, regs := t.regs, ldg := t.ldg, memsys := t.memsys,
              err := { s.err with bad := t.err.bad, stamps := t.err.stamps } } ∧ ∀ j, ∃ d i, t.core j = { s.core j with l1d := d, l1i := i })) ∧
        (let n := byte 4
         ((data.length ≠ 5 ∨ 240 < n ∨ 0x4000000 < w4 + n) → ends (.memRead data) 1 []) ∧
         (data.length = 5 → n ≤ 240 → w4 + n ≤ 0x4000000 → s.accCheck 0x502 .rd (linesOf (nearBase + w4) n) = none →
           (s.rget regErrInj).testBit 63 = false → (∀ u, u ∈ s.err.upsets → u.hits false 0x502 (linesOf (nearBase + w4) n) = false) →
           Next (.memRead data) s (fun t => t.smb = { s.smb with status := 0, data := Mem.readN s.mem (nearBase + w4) n } ∧
             t = { s with
               smb := t.smb, regs := t.regs, ldg := t.ldg, memsys := t.memsys, err := { s.err with stamps := t.err.stamps } }))))) ∧
    -- reading the answer
    (exec .smbResponseRead s = .next { s with
      smb := { s.smb with reply := if s.smbAnswers then some (if s.smbRuns then leBytes 1 0x80 else leBytes 1 s.smb.status ++ s.smb.data) else none } }) ∧
    (s.smbAnswers = true ↔ answers) ∧ (s.smbRuns = true ↔ running) ∧
    -- the alert
    (∀ r : ErrRec, (s.post r).smb.alert = (s.smb.alert || decide (2 ≤ r.sev))) ∧
    (∀ d (v : Fin 1024), 500 ≤ v.val → Next (.dieThermalSample d v) s (fun t => t.pwr.crit = true ∧ t.smb.alert = true)) ∧
    (s.smb.alert = true → exec .alertResponse s = .next { s with smb := { s.smb with alert := false, reply := some (leBytes 1 0x58) } }) ∧
    (s.smb.alert = false → exec .alertResponse s = .next { s with smb := { s.smb with reply := none } })

/-- Whatever the command, a step keeps device memory and host memory in canonical form (equal memories are equal data), and the eight entries of the
partition tables. -/
def Obligations.StepKeepsMemory : Prop :=
  ∀ s t : State, MemOk s → s.ptr.parts.length = 8 → s.ldg.parts.length = 8 → step s = .next t →
    MemOk t ∧ t.ptr.parts.length = 8 ∧ t.ldg.parts.length = 8
end

