-- ==== Sys2Proof/Laws/Maps.lean ====
section
/-! SUPPORT. Laws of the sparse map and of byte memories: a read after a write, and the canonical form, which every operation
keeps. -/

namespace Sys2Proof.Laws

open Sys2Proof

variable {α : Type}

@[simp] theorem get_nil (d : α) (k : Nat) : SMap.get d [] k = d := rfl

theorem get_insert (d : α) (m : SMap α) (k j : Nat) (v : α) :
    SMap.get d (SMap.insert m k v) j = if k = j then v else SMap.get d m j := by
  induction m with
  | nil => simp [SMap.insert, SMap.get]
  | cons e m ih =>
    obtain ⟨i, w⟩ := e
    by_cases h1 : k < i
    · simp [SMap.insert, h1, SMap.get]
    · by_cases h2 : k = i
      · subst h2
        simp only [SMap.insert, lt_irrefl, if_false, if_true, SMap.get]
        by_cases h : k = j <;> simp [h]
      · simp only [SMap.insert, if_neg h1, if_neg h2, SMap.get, ih]
        by_cases h : i = j
        · subst h; simp [h2]
        · simp [h]

theorem get_drop (d : α) (m : SMap α) (p : Nat → Bool) (j : Nat) :
    SMap.get d (SMap.drop m p) j = if p j then d else SMap.get d m j := by
  induction m with
  | nil => simp [SMap.drop, SMap.get]
  | cons e m ih =>
    obtain ⟨i, w⟩ := e
    unfold SMap.drop at ih ⊢
    by_cases h : p i
    · simp only [List.filter_cons, h, Bool.not_true, Bool.false_eq_true, if_false, ih, SMap.get]
      by_cases hij : i = j
      · subst hij; simp [h]
      · simp [hij]
    · have h' : (!p i) = true := by simp [h]
      simp only [List.filter_cons, h', if_true, SMap.get, ih]
      by_cases hij : i = j
      · subst hij; simp [h]
      · simp [hij]

theorem get_erase (d : α) (m : SMap α) (k j : Nat) :
    SMap.get d (SMap.erase m k) j = if k = j then d else SMap.get d m j := by
  rw [SMap.erase, get_drop]
  by_cases h : j = k
  · simp [h]
  · simp [h, Ne.symm h]

variable [DecidableEq α]

/-- A read after a write. -/
theorem get_set (d : α) (m : SMap α) (k j : Nat) (v : α) :
    SMap.get d (SMap.set d m k v) j = if k = j then v else SMap.get d m j := by
  unfold SMap.set
  split
  · rename_i h; subst h; exact get_erase _ _ _ _
  · exact get_insert _ _ _ _ _

@[simp] theorem get_set_self (d : α) (m : SMap α) (k : Nat) (v : α) : SMap.get d (SMap.set d m k v) k = v := by
  simp [get_set]
theorem get_set_ne (d : α) (m : SMap α) {k j : Nat} (v : α) (h : k ≠ j) :
    SMap.get d (SMap.set d m k v) j = SMap.get d m j := by simp [get_set, h]

/-! ### The canonical form -/

/-- Every listed key is above a bound. -/
def above (b : Nat) (m : SMap α) : Prop := ∀ e ∈ m, b < e.1

omit [DecidableEq α] in
theorem above_mono {a b : Nat} {m : SMap α} (h : a < b) (hm : above b m) : above a m :=
  fun e he => lt_trans h (hm e he)

theorem wf_cons (d : α) (k : Nat) (v : α) (m : SMap α) :
    SMap.wf d ((k, v) :: m) = true ↔ v ≠ d ∧ above k m ∧ SMap.wf d m = true := by
  induction m generalizing k v with
  | nil => simp [SMap.wf, above]
  | cons e m ih =>
    obtain ⟨i, w⟩ := e
    constructor
    · intro h
      have h' : (v ≠ d ∧ k < i) ∧ SMap.wf d ((i, w) :: m) = true := by
        simpa [SMap.wf] using h
      obtain ⟨⟨hv, hk⟩, hm⟩ := h'
      have hi := (ih i w).1 hm
      exact ⟨hv, fun e he => by
        rcases List.mem_cons.1 he with rfl | he
        · exact hk
        · exact lt_trans hk (hi.2.1 e he), hm⟩
    · rintro ⟨hv, ha, hm⟩
      have hk := ha (i, w) (by simp)
      unfold SMap.wf
      simp [hv, hm]
      exact hk

theorem wf_drop (d : α) (m : SMap α) (p : Nat → Bool) (h : SMap.wf d m = true) : SMap.wf d (SMap.drop m p) = true := by
  induction m with
  | nil => exact h
  | cons e m ih =>
    obtain ⟨k, v⟩ := e
    obtain ⟨hv, ha, hm⟩ := (wf_cons d k v m).1 h
    have hd := ih hm
    unfold SMap.drop at hd ⊢
    rw [List.filter_cons]
    split
    · exact (wf_cons d k v _).2 ⟨hv, fun e he => ha e (List.mem_of_mem_filter he), hd⟩
    · exact hd

omit [DecidableEq α] in
theorem above_insert {b : Nat} {m : SMap α} {k : Nat} {v : α} (hk : b < k) (hm : above b m) : above b (SMap.insert m k v) := by
  induction m with
  | nil => intro e he; simp [SMap.insert] at he; subst he; exact hk
  | cons e m ih =>
    obtain ⟨i, w⟩ := e
    have ht : above b m := fun e he => hm e (List.mem_cons_of_mem _ he)
    have hi : b < i := hm (i, w) (by simp)
    unfold SMap.insert
    split
    · intro e he; simp at he; rcases he with rfl | rfl | he
      · exact hk
      · exact hi
      · exact ht e he
    · split
      · intro e he; simp at he; rcases he with rfl | he
        · exact hk
        · exact ht e he
      · intro e he; simp at he; rcases he with rfl | he
        · exact hi
        · exact ih ht e he

theorem wf_insert (d : α) (m : SMap α) (k : Nat) (v : α) (hv : v ≠ d) (h : SMap.wf d m = true) :
    SMap.wf d (SMap.insert m k v) = true := by
  induction m with
  | nil => simp [SMap.insert, SMap.wf, hv]
  | cons e m ih =>
    obtain ⟨i, w⟩ := e
    obtain ⟨hw, ha, hm⟩ := (wf_cons d i w m).1 h
    unfold SMap.insert
    split
    · rename_i hk
      exact (wf_cons d k v _).2 ⟨hv, fun e he => by
        rcases List.mem_cons.1 he with rfl | he
        · exact hk
        · exact lt_trans hk (ha e he), h⟩
    · split
      · rename_i hk; subst hk
        exact (wf_cons d k v m).2 ⟨hv, ha, hm⟩
      · rename_i h1 h2
        exact (wf_cons d i w _).2 ⟨hw, above_insert (by omega) ha, ih hm⟩

theorem wf_set (d : α) (m : SMap α) (k : Nat) (v : α) (h : SMap.wf d m = true) : SMap.wf d (SMap.set d m k v) = true := by
  unfold SMap.set
  split
  · exact wf_drop d m _ h
  · rename_i hv; exact wf_insert d m k v hv h

/-! ### Byte memories -/

@[simp] theorem read_write (m : Mem) (a b : Nat) (v : Byte) :
    Mem.read (Mem.write m a v) b = if a = b then v else Mem.read m b := get_set _ _ _ _ _

theorem mem_wf_write (m : Mem) (a : Nat) (b : Byte) (h : Mem.wf m = true) : Mem.wf (Mem.write m a b) = true :=
  wf_set _ _ _ _ h

theorem mem_wf_writeN (m : Mem) (a : Nat) (bs : List Byte) (h : Mem.wf m = true) : Mem.wf (Mem.writeN m a bs) = true := by
  induction bs generalizing m a with
  | nil => exact h
  | cons b bs ih => exact ih _ _ (mem_wf_write m a b h)

theorem mem_wf_zero (m : Mem) (a n : Nat) (h : Mem.wf m = true) : Mem.wf (Mem.zero m a n) = true := wf_drop _ _ _ h

/-- A byte after a string of bytes is stored: the string's where it lies, else as before. -/
theorem read_writeN (m : Mem) (a j : Nat) (bs : List Byte) :
    Mem.read (Mem.writeN m a bs) j = if a ≤ j ∧ j < a + bs.length then bs.getD (j - a) 0 else Mem.read m j := by
  induction bs generalizing m a with
  | nil => simp only [Mem.writeN, List.length_nil]; rw [if_neg (by omega)]
  | cons b bs ih =>
    rw [Mem.writeN, ih, read_write]
    by_cases h : a = j
    · subst h; simp
    · by_cases h2 : a + 1 ≤ j ∧ j < a + 1 + bs.length
      · have h3 : a ≤ j ∧ j < a + (b :: bs).length := by simp only [List.length_cons]; omega
        rw [if_pos h2, if_pos h3]
        have : j - a = (j - (a + 1)) + 1 := by omega
        rw [this]; simp
      · have h3 : ¬(a ≤ j ∧ j < a + (b :: bs).length) := by simp only [List.length_cons]; omega
        rw [if_neg h2, if_neg h3, if_neg h]

theorem readN_length (m : Mem) (a n : Nat) : (Mem.readN m a n).length = n := by
  induction n generalizing a with
  | zero => rfl
  | succ n ih => simp [Mem.readN, ih]

/-- A string of bytes read back where it was stored. -/
theorem readN_writeN (m : Mem) (a : Nat) (bs : List Byte) : Mem.readN (Mem.writeN m a bs) a bs.length = bs := by
  apply List.ext_getElem
  · exact readN_length _ _ _
  · intro i h1 h2
    have key : ∀ (m : Mem) (a n i : Nat) (h : i < (Mem.readN m a n).length), (Mem.readN m a n)[i] = Mem.read m (a + i) := by
      intro m a n
      induction n generalizing a with
      | zero => intro i h; simp [Mem.readN] at h
      | succ n ih =>
        intro i h
        cases i with
        | zero => simp [Mem.readN]
        | succ i => simp only [Mem.readN, List.getElem_cons_succ]; rw [ih]; congr 1; omega
    rw [key, read_writeN]
    have : a ≤ a + i ∧ a + i < a + bs.length := by omega
    rw [if_pos this]
    have : a + i - a = i := by omega
    rw [this, List.getD_eq_getElem _ _ h2]

end Sys2Proof.Laws
end

