-- ==== Sys2Proof/Laws/State.lean ====
section
/-! SUPPORT. Laws of the state: what each small update leaves of each field, and what is read back of what was written. -/

namespace Sys2Proof.Laws

open Sys2Proof Sys2Proof.Machine

@[simp] theorem setCore_free (s : State) (k : Nat) (c : Core) : (s.setCore k c).free = s.free := rfl
@[simp] theorem setCore_regs (s : State) (k : Nat) (c : Core) : (s.setCore k c).regs = s.regs := rfl
@[simp] theorem setCore_mem (s : State) (k : Nat) (c : Core) : (s.setCore k c).mem = s.mem := rfl
@[simp] theorem setCore_host (s : State) (k : Nat) (c : Core) : (s.setCore k c).host = s.host := rfl
@[simp] theorem setCore_arr (s : State) (k : Nat) (c : Core) : (s.setCore k c).arr = s.arr := rfl
@[simp] theorem setCore_sage (s : State) (k : Nat) (c : Core) : (s.setCore k c).sage = s.sage := rfl
@[simp] theorem setCore_memsys (s : State) (k : Nat) (c : Core) : (s.setCore k c).memsys = s.memsys := rfl
@[simp] theorem setCore_ptr (s : State) (k : Nat) (c : Core) : (s.setCore k c).ptr = s.ptr := rfl
@[simp] theorem setCore_ints (s : State) (k : Nat) (c : Core) : (s.setCore k c).ints = s.ints := rfl
@[simp] theorem setCore_queues (s : State) (k : Nat) (c : Core) : (s.setCore k c).queues = s.queues := rfl
@[simp] theorem setCore_ports (s : State) (k : Nat) (c : Core) : (s.setCore k c).ports = s.ports := rfl
@[simp] theorem setCore_xlt (s : State) (k : Nat) (c : Core) : (s.setCore k c).xlt = s.xlt := rfl
@[simp] theorem setCore_err (s : State) (k : Nat) (c : Core) : (s.setCore k c).err = s.err := rfl
@[simp] theorem setCore_colls (s : State) (k : Nat) (c : Core) : (s.setCore k c).colls = s.colls := rfl
@[simp] theorem setCore_trl (s : State) (k : Nat) (c : Core) : (s.setCore k c).trl = s.trl := rfl
@[simp] theorem setCore_txu (s : State) (k : Nat) (c : Core) : (s.setCore k c).txu = s.txu := rfl
@[simp] theorem setCore_ldg (s : State) (k : Nat) (c : Core) : (s.setCore k c).ldg = s.ldg := rfl
@[simp] theorem setCore_org (s : State) (k : Nat) (c : Core) : (s.setCore k c).org = s.org := rfl
@[simp] theorem setCore_boot (s : State) (k : Nat) (c : Core) : (s.setCore k c).boot = s.boot := rfl
@[simp] theorem setCore_pwr (s : State) (k : Nat) (c : Core) : (s.setCore k c).pwr = s.pwr := rfl
@[simp] theorem setCore_smb (s : State) (k : Nat) (c : Core) : (s.setCore k c).smb = s.smb := rfl
@[simp] theorem setCore_pending (s : State) (k : Nat) (c : Core) : (s.setCore k c).pending = s.pending := rfl

@[simp] theorem onCore_free (s : State) (k : Nat) (f : Core → Core) : (s.onCore k f).free = s.free := rfl
@[simp] theorem onCore_regs (s : State) (k : Nat) (f : Core → Core) : (s.onCore k f).regs = s.regs := rfl
@[simp] theorem onCore_mem (s : State) (k : Nat) (f : Core → Core) : (s.onCore k f).mem = s.mem := rfl
@[simp] theorem onCore_host (s : State) (k : Nat) (f : Core → Core) : (s.onCore k f).host = s.host := rfl
@[simp] theorem onCore_arr (s : State) (k : Nat) (f : Core → Core) : (s.onCore k f).arr = s.arr := rfl
@[simp] theorem onCore_sage (s : State) (k : Nat) (f : Core → Core) : (s.onCore k f).sage = s.sage := rfl
@[simp] theorem onCore_memsys (s : State) (k : Nat) (f : Core → Core) : (s.onCore k f).memsys = s.memsys := rfl
@[simp] theorem onCore_ptr (s : State) (k : Nat) (f : Core → Core) : (s.onCore k f).ptr = s.ptr := rfl
@[simp] theorem onCore_ints (s : State) (k : Nat) (f : Core → Core) : (s.onCore k f).ints = s.ints := rfl
@[simp] theorem onCore_queues (s : State) (k : Nat) (f : Core → Core) : (s.onCore k f).queues = s.queues := rfl
@[simp] theorem onCore_ports (s : State) (k : Nat) (f : Core → Core) : (s.onCore k f).ports = s.ports := rfl
@[simp] theorem onCore_xlt (s : State) (k : Nat) (f : Core → Core) : (s.onCore k f).xlt = s.xlt := rfl
@[simp] theorem onCore_err (s : State) (k : Nat) (f : Core → Core) : (s.onCore k f).err = s.err := rfl
@[simp] theorem onCore_colls (s : State) (k : Nat) (f : Core → Core) : (s.onCore k f).colls = s.colls := rfl
@[simp] theorem onCore_trl (s : State) (k : Nat) (f : Core → Core) : (s.onCore k f).trl = s.trl := rfl
@[simp] theorem onCore_txu (s : State) (k : Nat) (f : Core → Core) : (s.onCore k f).txu = s.txu := rfl
@[simp] theorem onCore_ldg (s : State) (k : Nat) (f : Core → Core) : (s.onCore k f).ldg = s.ldg := rfl
@[simp] theorem onCore_org (s : State) (k : Nat) (f : Core → Core) : (s.onCore k f).org = s.org := rfl
@[simp] theorem onCore_boot (s : State) (k : Nat) (f : Core → Core) : (s.onCore k f).boot = s.boot := rfl
@[simp] theorem onCore_pwr (s : State) (k : Nat) (f : Core → Core) : (s.onCore k f).pwr = s.pwr := rfl
@[simp] theorem onCore_smb (s : State) (k : Nat) (f : Core → Core) : (s.onCore k f).smb = s.smb := rfl
@[simp] theorem onCore_pending (s : State) (k : Nat) (f : Core → Core) : (s.onCore k f).pending = s.pending := rfl

@[simp] theorem setAr_free (s : State) (p : Nat) (a : Arr) : (s.setAr p a).free = s.free := rfl
@[simp] theorem setAr_regs (s : State) (p : Nat) (a : Arr) : (s.setAr p a).regs = s.regs := rfl
@[simp] theorem setAr_mem (s : State) (p : Nat) (a : Arr) : (s.setAr p a).mem = s.mem := rfl
@[simp] theorem setAr_host (s : State) (p : Nat) (a : Arr) : (s.setAr p a).host = s.host := rfl
@[simp] theorem setAr_cores (s : State) (p : Nat) (a : Arr) : (s.setAr p a).cores = s.cores := rfl
@[simp] theorem setAr_sage (s : State) (p : Nat) (a : Arr) : (s.setAr p a).sage = s.sage := rfl
@[simp] theorem setAr_memsys (s : State) (p : Nat) (a : Arr) : (s.setAr p a).memsys = s.memsys := rfl
@[simp] theorem setAr_ptr (s : State) (p : Nat) (a : Arr) : (s.setAr p a).ptr = s.ptr := rfl
@[simp] theorem setAr_ints (s : State) (p : Nat) (a : Arr) : (s.setAr p a).ints = s.ints := rfl
@[simp] theorem setAr_queues (s : State) (p : Nat) (a : Arr) : (s.setAr p a).queues = s.queues := rfl
@[simp] theorem setAr_ports (s : State) (p : Nat) (a : Arr) : (s.setAr p a).ports = s.ports := rfl
@[simp] theorem setAr_xlt (s : State) (p : Nat) (a : Arr) : (s.setAr p a).xlt = s.xlt := rfl
@[simp] theorem setAr_err (s : State) (p : Nat) (a : Arr) : (s.setAr p a).err = s.err := rfl
@[simp] theorem setAr_colls (s : State) (p : Nat) (a : Arr) : (s.setAr p a).colls = s.colls := rfl
@[simp] theorem setAr_trl (s : State) (p : Nat) (a : Arr) : (s.setAr p a).trl = s.trl := rfl
@[simp] theorem setAr_txu (s : State) (p : Nat) (a : Arr) : (s.setAr p a).txu = s.txu := rfl
@[simp] theorem setAr_ldg (s : State) (p : Nat) (a : Arr) : (s.setAr p a).ldg = s.ldg := rfl
@[simp] theorem setAr_org (s : State) (p : Nat) (a : Arr) : (s.setAr p a).org = s.org := rfl
@[simp] theorem setAr_boot (s : State) (p : Nat) (a : Arr) : (s.setAr p a).boot = s.boot := rfl
@[simp] theorem setAr_pwr (s : State) (p : Nat) (a : Arr) : (s.setAr p a).pwr = s.pwr := rfl
@[simp] theorem setAr_smb (s : State) (p : Nat) (a : Arr) : (s.setAr p a).smb = s.smb := rfl
@[simp] theorem setAr_pending (s : State) (p : Nat) (a : Arr) : (s.setAr p a).pending = s.pending := rfl

@[simp] theorem setSg_free (s : State) (p : Nat) (a : Sage) : (s.setSg p a).free = s.free := rfl
@[simp] theorem setSg_regs (s : State) (p : Nat) (a : Sage) : (s.setSg p a).regs = s.regs := rfl
@[simp] theorem setSg_mem (s : State) (p : Nat) (a : Sage) : (s.setSg p a).mem = s.mem := rfl
@[simp] theorem setSg_host (s : State) (p : Nat) (a : Sage) : (s.setSg p a).host = s.host := rfl
@[simp] theorem setSg_cores (s : State) (p : Nat) (a : Sage) : (s.setSg p a).cores = s.cores := rfl
@[simp] theorem setSg_arr (s : State) (p : Nat) (a : Sage) : (s.setSg p a).arr = s.arr := rfl
@[simp] theorem setSg_memsys (s : State) (p : Nat) (a : Sage) : (s.setSg p a).memsys = s.memsys := rfl
@[simp] theorem setSg_ptr (s : State) (p : Nat) (a : Sage) : (s.setSg p a).ptr = s.ptr := rfl
@[simp] theorem setSg_ints (s : State) (p : Nat) (a : Sage) : (s.setSg p a).ints = s.ints := rfl
@[simp] theorem setSg_queues (s : State) (p : Nat) (a : Sage) : (s.setSg p a).queues = s.queues := rfl
@[simp] theorem setSg_ports (s : State) (p : Nat) (a : Sage) : (s.setSg p a).ports = s.ports := rfl
@[simp] theorem setSg_xlt (s : State) (p : Nat) (a : Sage) : (s.setSg p a).xlt = s.xlt := rfl
@[simp] theorem setSg_err (s : State) (p : Nat) (a : Sage) : (s.setSg p a).err = s.err := rfl
@[simp] theorem setSg_colls (s : State) (p : Nat) (a : Sage) : (s.setSg p a).colls = s.colls := rfl
@[simp] theorem setSg_trl (s : State) (p : Nat) (a : Sage) : (s.setSg p a).trl = s.trl := rfl
@[simp] theorem setSg_txu (s : State) (p : Nat) (a : Sage) : (s.setSg p a).txu = s.txu := rfl
@[simp] theorem setSg_ldg (s : State) (p : Nat) (a : Sage) : (s.setSg p a).ldg = s.ldg := rfl
@[simp] theorem setSg_org (s : State) (p : Nat) (a : Sage) : (s.setSg p a).org = s.org := rfl
@[simp] theorem setSg_boot (s : State) (p : Nat) (a : Sage) : (s.setSg p a).boot = s.boot := rfl
@[simp] theorem setSg_pwr (s : State) (p : Nat) (a : Sage) : (s.setSg p a).pwr = s.pwr := rfl
@[simp] theorem setSg_smb (s : State) (p : Nat) (a : Sage) : (s.setSg p a).smb = s.smb := rfl
@[simp] theorem setSg_pending (s : State) (p : Nat) (a : Sage) : (s.setSg p a).pending = s.pending := rfl

@[simp] theorem setQueue_free (s : State) (q : Nat) (x : Queue) : (s.setQueue q x).free = s.free := rfl
@[simp] theorem setQueue_regs (s : State) (q : Nat) (x : Queue) : (s.setQueue q x).regs = s.regs := rfl
@[simp] theorem setQueue_mem (s : State) (q : Nat) (x : Queue) : (s.setQueue q x).mem = s.mem := rfl
@[simp] theorem setQueue_host (s : State) (q : Nat) (x : Queue) : (s.setQueue q x).host = s.host := rfl
@[simp] theorem setQueue_cores (s : State) (q : Nat) (x : Queue) : (s.setQueue q x).cores = s.cores := rfl
@[simp] theorem setQueue_arr (s : State) (q : Nat) (x : Queue) : (s.setQueue q x).arr = s.arr := rfl
@[simp] theorem setQueue_sage (s : State) (q : Nat) (x : Queue) : (s.setQueue q x).sage = s.sage := rfl
@[simp] theorem setQueue_memsys (s : State) (q : Nat) (x : Queue) : (s.setQueue q x).memsys = s.memsys := rfl
@[simp] theorem setQueue_ptr (s : State) (q : Nat) (x : Queue) : (s.setQueue q x).ptr = s.ptr := rfl
@[simp] theorem setQueue_ints (s : State) (q : Nat) (x : Queue) : (s.setQueue q x).ints = s.ints := rfl
@[simp] theorem setQueue_ports (s : State) (q : Nat) (x : Queue) : (s.setQueue q x).ports = s.ports := rfl
@[simp] theorem setQueue_xlt (s : State) (q : Nat) (x : Queue) : (s.setQueue q x).xlt = s.xlt := rfl
@[simp] theorem setQueue_err (s : State) (q : Nat) (x : Queue) : (s.setQueue q x).err = s.err := rfl
@[simp] theorem setQueue_colls (s : State) (q : Nat) (x : Queue) : (s.setQueue q x).colls = s.colls := rfl
@[simp] theorem setQueue_trl (s : State) (q : Nat) (x : Queue) : (s.setQueue q x).trl = s.trl := rfl
@[simp] theorem setQueue_txu (s : State) (q : Nat) (x : Queue) : (s.setQueue q x).txu = s.txu := rfl
@[simp] theorem setQueue_ldg (s : State) (q : Nat) (x : Queue) : (s.setQueue q x).ldg = s.ldg := rfl
@[simp] theorem setQueue_org (s : State) (q : Nat) (x : Queue) : (s.setQueue q x).org = s.org := rfl
@[simp] theorem setQueue_boot (s : State) (q : Nat) (x : Queue) : (s.setQueue q x).boot = s.boot := rfl
@[simp] theorem setQueue_pwr (s : State) (q : Nat) (x : Queue) : (s.setQueue q x).pwr = s.pwr := rfl
@[simp] theorem setQueue_smb (s : State) (q : Nat) (x : Queue) : (s.setQueue q x).smb = s.smb := rfl
@[simp] theorem setQueue_pending (s : State) (q : Nat) (x : Queue) : (s.setQueue q x).pending = s.pending := rfl

@[simp] theorem setPort_free (s : State) (n : Nat) (x : PciPort) : (s.setPort n x).free = s.free := rfl
@[simp] theorem setPort_regs (s : State) (n : Nat) (x : PciPort) : (s.setPort n x).regs = s.regs := rfl
@[simp] theorem setPort_mem (s : State) (n : Nat) (x : PciPort) : (s.setPort n x).mem = s.mem := rfl
@[simp] theorem setPort_host (s : State) (n : Nat) (x : PciPort) : (s.setPort n x).host = s.host := rfl
@[simp] theorem setPort_cores (s : State) (n : Nat) (x : PciPort) : (s.setPort n x).cores = s.cores := rfl
@[simp] theorem setPort_arr (s : State) (n : Nat) (x : PciPort) : (s.setPort n x).arr = s.arr := rfl
@[simp] theorem setPort_sage (s : State) (n : Nat) (x : PciPort) : (s.setPort n x).sage = s.sage := rfl
@[simp] theorem setPort_memsys (s : State) (n : Nat) (x : PciPort) : (s.setPort n x).memsys = s.memsys := rfl
@[simp] theorem setPort_ptr (s : State) (n : Nat) (x : PciPort) : (s.setPort n x).ptr = s.ptr := rfl
@[simp] theorem setPort_ints (s : State) (n : Nat) (x : PciPort) : (s.setPort n x).ints = s.ints := rfl
@[simp] theorem setPort_queues (s : State) (n : Nat) (x : PciPort) : (s.setPort n x).queues = s.queues := rfl
@[simp] theorem setPort_xlt (s : State) (n : Nat) (x : PciPort) : (s.setPort n x).xlt = s.xlt := rfl
@[simp] theorem setPort_err (s : State) (n : Nat) (x : PciPort) : (s.setPort n x).err = s.err := rfl
@[simp] theorem setPort_colls (s : State) (n : Nat) (x : PciPort) : (s.setPort n x).colls = s.colls := rfl
@[simp] theorem setPort_trl (s : State) (n : Nat) (x : PciPort) : (s.setPort n x).trl = s.trl := rfl
@[simp] theorem setPort_txu (s : State) (n : Nat) (x : PciPort) : (s.setPort n x).txu = s.txu := rfl
@[simp] theorem setPort_ldg (s : State) (n : Nat) (x : PciPort) : (s.setPort n x).ldg = s.ldg := rfl
@[simp] theorem setPort_org (s : State) (n : Nat) (x : PciPort) : (s.setPort n x).org = s.org := rfl
@[simp] theorem setPort_boot (s : State) (n : Nat) (x : PciPort) : (s.setPort n x).boot = s.boot := rfl
@[simp] theorem setPort_pwr (s : State) (n : Nat) (x : PciPort) : (s.setPort n x).pwr = s.pwr := rfl
@[simp] theorem setPort_smb (s : State) (n : Nat) (x : PciPort) : (s.setPort n x).smb = s.smb := rfl
@[simp] theorem setPort_pending (s : State) (n : Nat) (x : PciPort) : (s.setPort n x).pending = s.pending := rfl

@[simp] theorem setFn_free (s : State) (n f : Nat) (x : PciFn) : (s.setFn n f x).free = s.free := rfl
@[simp] theorem setFn_regs (s : State) (n f : Nat) (x : PciFn) : (s.setFn n f x).regs = s.regs := rfl
@[simp] theorem setFn_mem (s : State) (n f : Nat) (x : PciFn) : (s.setFn n f x).mem = s.mem := rfl
@[simp] theorem setFn_host (s : State) (n f : Nat) (x : PciFn) : (s.setFn n f x).host = s.host := rfl
@[simp] theorem setFn_cores (s : State) (n f : Nat) (x : PciFn) : (s.setFn n f x).cores = s.cores := rfl
@[simp] theorem setFn_arr (s : State) (n f : Nat) (x : PciFn) : (s.setFn n f x).arr = s.arr := rfl
@[simp] theorem setFn_sage (s : State) (n f : Nat) (x : PciFn) : (s.setFn n f x).sage = s.sage := rfl
@[simp] theorem setFn_memsys (s : State) (n f : Nat) (x : PciFn) : (s.setFn n f x).memsys = s.memsys := rfl
@[simp] theorem setFn_ptr (s : State) (n f : Nat) (x : PciFn) : (s.setFn n f x).ptr = s.ptr := rfl
@[simp] theorem setFn_ints (s : State) (n f : Nat) (x : PciFn) : (s.setFn n f x).ints = s.ints := rfl
@[simp] theorem setFn_queues (s : State) (n f : Nat) (x : PciFn) : (s.setFn n f x).queues = s.queues := rfl
@[simp] theorem setFn_xlt (s : State) (n f : Nat) (x : PciFn) : (s.setFn n f x).xlt = s.xlt := rfl
@[simp] theorem setFn_err (s : State) (n f : Nat) (x : PciFn) : (s.setFn n f x).err = s.err := rfl
@[simp] theorem setFn_colls (s : State) (n f : Nat) (x : PciFn) : (s.setFn n f x).colls = s.colls := rfl
@[simp] theorem setFn_trl (s : State) (n f : Nat) (x : PciFn) : (s.setFn n f x).trl = s.trl := rfl
@[simp] theorem setFn_txu (s : State) (n f : Nat) (x : PciFn) : (s.setFn n f x).txu = s.txu := rfl
@[simp] theorem setFn_ldg (s : State) (n f : Nat) (x : PciFn) : (s.setFn n f x).ldg = s.ldg := rfl
@[simp] theorem setFn_org (s : State) (n f : Nat) (x : PciFn) : (s.setFn n f x).org = s.org := rfl
@[simp] theorem setFn_boot (s : State) (n f : Nat) (x : PciFn) : (s.setFn n f x).boot = s.boot := rfl
@[simp] theorem setFn_pwr (s : State) (n f : Nat) (x : PciFn) : (s.setFn n f x).pwr = s.pwr := rfl
@[simp] theorem setFn_smb (s : State) (n f : Nat) (x : PciFn) : (s.setFn n f x).smb = s.smb := rfl
@[simp] theorem setFn_pending (s : State) (n f : Nat) (x : PciFn) : (s.setFn n f x).pending = s.pending := rfl

@[simp] theorem setStack_free (s : State) (k : Nat) (x : Stack) : (s.setStack k x).free = s.free := rfl
@[simp] theorem setStack_regs (s : State) (k : Nat) (x : Stack) : (s.setStack k x).regs = s.regs := rfl
@[simp] theorem setStack_mem (s : State) (k : Nat) (x : Stack) : (s.setStack k x).mem = s.mem := rfl
@[simp] theorem setStack_host (s : State) (k : Nat) (x : Stack) : (s.setStack k x).host = s.host := rfl
@[simp] theorem setStack_cores (s : State) (k : Nat) (x : Stack) : (s.setStack k x).cores = s.cores := rfl
@[simp] theorem setStack_arr (s : State) (k : Nat) (x : Stack) : (s.setStack k x).arr = s.arr := rfl
@[simp] theorem setStack_sage (s : State) (k : Nat) (x : Stack) : (s.setStack k x).sage = s.sage := rfl
@[simp] theorem setStack_ptr (s : State) (k : Nat) (x : Stack) : (s.setStack k x).ptr = s.ptr := rfl
@[simp] theorem setStack_ints (s : State) (k : Nat) (x : Stack) : (s.setStack k x).ints = s.ints := rfl
@[simp] theorem setStack_queues (s : State) (k : Nat) (x : Stack) : (s.setStack k x).queues = s.queues := rfl
@[simp] theorem setStack_ports (s : State) (k : Nat) (x : Stack) : (s.setStack k x).ports = s.ports := rfl
@[simp] theorem setStack_xlt (s : State) (k : Nat) (x : Stack) : (s.setStack k x).xlt = s.xlt := rfl
@[simp] theorem setStack_err (s : State) (k : Nat) (x : Stack) : (s.setStack k x).err = s.err := rfl
@[simp] theorem setStack_colls (s : State) (k : Nat) (x : Stack) : (s.setStack k x).colls = s.colls := rfl
@[simp] theorem setStack_trl (s : State) (k : Nat) (x : Stack) : (s.setStack k x).trl = s.trl := rfl
@[simp] theorem setStack_txu (s : State) (k : Nat) (x : Stack) : (s.setStack k x).txu = s.txu := rfl
@[simp] theorem setStack_ldg (s : State) (k : Nat) (x : Stack) : (s.setStack k x).ldg = s.ldg := rfl
@[simp] theorem setStack_org (s : State) (k : Nat) (x : Stack) : (s.setStack k x).org = s.org := rfl
@[simp] theorem setStack_boot (s : State) (k : Nat) (x : Stack) : (s.setStack k x).boot = s.boot := rfl
@[simp] theorem setStack_pwr (s : State) (k : Nat) (x : Stack) : (s.setStack k x).pwr = s.pwr := rfl
@[simp] theorem setStack_smb (s : State) (k : Nat) (x : Stack) : (s.setStack k x).smb = s.smb := rfl
@[simp] theorem setStack_pending (s : State) (k : Nat) (x : Stack) : (s.setStack k x).pending = s.pending := rfl

@[simp] theorem setXdie_free (s : State) (p : Nat) (x : XltDie) : (s.setXdie p x).free = s.free := rfl
@[simp] theorem setXdie_regs (s : State) (p : Nat) (x : XltDie) : (s.setXdie p x).regs = s.regs := rfl
@[simp] theorem setXdie_mem (s : State) (p : Nat) (x : XltDie) : (s.setXdie p x).mem = s.mem := rfl
@[simp] theorem setXdie_host (s : State) (p : Nat) (x : XltDie) : (s.setXdie p x).host = s.host := rfl
@[simp] theorem setXdie_cores (s : State) (p : Nat) (x : XltDie) : (s.setXdie p x).cores = s.cores := rfl
@[simp] theorem setXdie_arr (s : State) (p : Nat) (x : XltDie) : (s.setXdie p x).arr = s.arr := rfl
@[simp] theorem setXdie_sage (s : State) (p : Nat) (x : XltDie) : (s.setXdie p x).sage = s.sage := rfl
@[simp] theorem setXdie_memsys (s : State) (p : Nat) (x : XltDie) : (s.setXdie p x).memsys = s.memsys := rfl
@[simp] theorem setXdie_ptr (s : State) (p : Nat) (x : XltDie) : (s.setXdie p x).ptr = s.ptr := rfl
@[simp] theorem setXdie_ints (s : State) (p : Nat) (x : XltDie) : (s.setXdie p x).ints = s.ints := rfl
@[simp] theorem setXdie_queues (s : State) (p : Nat) (x : XltDie) : (s.setXdie p x).queues = s.queues := rfl
@[simp] theorem setXdie_ports (s : State) (p : Nat) (x : XltDie) : (s.setXdie p x).ports = s.ports := rfl
@[simp] theorem setXdie_err (s : State) (p : Nat) (x : XltDie) : (s.setXdie p x).err = s.err := rfl
@[simp] theorem setXdie_colls (s : State) (p : Nat) (x : XltDie) : (s.setXdie p x).colls = s.colls := rfl
@[simp] theorem setXdie_trl (s : State) (p : Nat) (x : XltDie) : (s.setXdie p x).trl = s.trl := rfl
@[simp] theorem setXdie_txu (s : State) (p : Nat) (x : XltDie) : (s.setXdie p x).txu = s.txu := rfl
@[simp] theorem setXdie_ldg (s : State) (p : Nat) (x : XltDie) : (s.setXdie p x).ldg = s.ldg := rfl
@[simp] theorem setXdie_org (s : State) (p : Nat) (x : XltDie) : (s.setXdie p x).org = s.org := rfl
@[simp] theorem setXdie_boot (s : State) (p : Nat) (x : XltDie) : (s.setXdie p x).boot = s.boot := rfl
@[simp] theorem setXdie_pwr (s : State) (p : Nat) (x : XltDie) : (s.setXdie p x).pwr = s.pwr := rfl
@[simp] theorem setXdie_smb (s : State) (p : Nat) (x : XltDie) : (s.setXdie p x).smb = s.smb := rfl
@[simp] theorem setXdie_pending (s : State) (p : Nat) (x : XltDie) : (s.setXdie p x).pending = s.pending := rfl

@[simp] theorem setIntc_free (s : State) (p : Nat) (x : IntCtl) : (s.setIntc p x).free = s.free := rfl
@[simp] theorem setIntc_regs (s : State) (p : Nat) (x : IntCtl) : (s.setIntc p x).regs = s.regs := rfl
@[simp] theorem setIntc_mem (s : State) (p : Nat) (x : IntCtl) : (s.setIntc p x).mem = s.mem := rfl
@[simp] theorem setIntc_host (s : State) (p : Nat) (x : IntCtl) : (s.setIntc p x).host = s.host := rfl
@[simp] theorem setIntc_cores (s : State) (p : Nat) (x : IntCtl) : (s.setIntc p x).cores = s.cores := rfl
@[simp] theorem setIntc_arr (s : State) (p : Nat) (x : IntCtl) : (s.setIntc p x).arr = s.arr := rfl
@[simp] theorem setIntc_sage (s : State) (p : Nat) (x : IntCtl) : (s.setIntc p x).sage = s.sage := rfl
@[simp] theorem setIntc_memsys (s : State) (p : Nat) (x : IntCtl) : (s.setIntc p x).memsys = s.memsys := rfl
@[simp] theorem setIntc_ptr (s : State) (p : Nat) (x : IntCtl) : (s.setIntc p x).ptr = s.ptr := rfl
@[simp] theorem setIntc_queues (s : State) (p : Nat) (x : IntCtl) : (s.setIntc p x).queues = s.queues := rfl
@[simp] theorem setIntc_ports (s : State) (p : Nat) (x : IntCtl) : (s.setIntc p x).ports = s.ports := rfl
@[simp] theorem setIntc_xlt (s : State) (p : Nat) (x : IntCtl) : (s.setIntc p x).xlt = s.xlt := rfl
@[simp] theorem setIntc_err (s : State) (p : Nat) (x : IntCtl) : (s.setIntc p x).err = s.err := rfl
@[simp] theorem setIntc_colls (s : State) (p : Nat) (x : IntCtl) : (s.setIntc p x).colls = s.colls := rfl
@[simp] theorem setIntc_trl (s : State) (p : Nat) (x : IntCtl) : (s.setIntc p x).trl = s.trl := rfl
@[simp] theorem setIntc_txu (s : State) (p : Nat) (x : IntCtl) : (s.setIntc p x).txu = s.txu := rfl
@[simp] theorem setIntc_ldg (s : State) (p : Nat) (x : IntCtl) : (s.setIntc p x).ldg = s.ldg := rfl
@[simp] theorem setIntc_org (s : State) (p : Nat) (x : IntCtl) : (s.setIntc p x).org = s.org := rfl
@[simp] theorem setIntc_boot (s : State) (p : Nat) (x : IntCtl) : (s.setIntc p x).boot = s.boot := rfl
@[simp] theorem setIntc_pwr (s : State) (p : Nat) (x : IntCtl) : (s.setIntc p x).pwr = s.pwr := rfl
@[simp] theorem setIntc_smb (s : State) (p : Nat) (x : IntCtl) : (s.setIntc p x).smb = s.smb := rfl
@[simp] theorem setIntc_pending (s : State) (p : Nat) (x : IntCtl) : (s.setIntc p x).pending = s.pending := rfl

@[simp] theorem rset_free (s : State) (r : Reg) (v : Nat) : (s.rset r v).free = s.free := rfl
@[simp] theorem rset_mem (s : State) (r : Reg) (v : Nat) : (s.rset r v).mem = s.mem := rfl
@[simp] theorem rset_host (s : State) (r : Reg) (v : Nat) : (s.rset r v).host = s.host := rfl
@[simp] theorem rset_cores (s : State) (r : Reg) (v : Nat) : (s.rset r v).cores = s.cores := rfl
@[simp] theorem rset_arr (s : State) (r : Reg) (v : Nat) : (s.rset r v).arr = s.arr := rfl
@[simp] theorem rset_sage (s : State) (r : Reg) (v : Nat) : (s.rset r v).sage = s.sage := rfl
@[simp] theorem rset_memsys (s : State) (r : Reg) (v : Nat) : (s.rset r v).memsys = s.memsys := rfl
@[simp] theorem rset_ptr (s : State) (r : Reg) (v : Nat) : (s.rset r v).ptr = s.ptr := rfl
@[simp] theorem rset_ints (s : State) (r : Reg) (v : Nat) : (s.rset r v).ints = s.ints := rfl
@[simp] theorem rset_queues (s : State) (r : Reg) (v : Nat) : (s.rset r v).queues = s.queues := rfl
@[simp] theorem rset_ports (s : State) (r : Reg) (v : Nat) : (s.rset r v).ports = s.ports := rfl
@[simp] theorem rset_xlt (s : State) (r : Reg) (v : Nat) : (s.rset r v).xlt = s.xlt := rfl
@[simp] theorem rset_err (s : State) (r : Reg) (v : Nat) : (s.rset r v).err = s.err := rfl
@[simp] theorem rset_colls (s : State) (r : Reg) (v : Nat) : (s.rset r v).colls = s.colls := rfl
@[simp] theorem rset_trl (s : State) (r : Reg) (v : Nat) : (s.rset r v).trl = s.trl := rfl
@[simp] theorem rset_txu (s : State) (r : Reg) (v : Nat) : (s.rset r v).txu = s.txu := rfl
@[simp] theorem rset_ldg (s : State) (r : Reg) (v : Nat) : (s.rset r v).ldg = s.ldg := rfl
@[simp] theorem rset_org (s : State) (r : Reg) (v : Nat) : (s.rset r v).org = s.org := rfl
@[simp] theorem rset_boot (s : State) (r : Reg) (v : Nat) : (s.rset r v).boot = s.boot := rfl
@[simp] theorem rset_pwr (s : State) (r : Reg) (v : Nat) : (s.rset r v).pwr = s.pwr := rfl
@[simp] theorem rset_smb (s : State) (r : Reg) (v : Nat) : (s.rset r v).smb = s.smb := rfl
@[simp] theorem rset_pending (s : State) (r : Reg) (v : Nat) : (s.rset r v).pending = s.pending := rfl

@[simp] theorem rput_free (s : State) (r : Reg) (hi lo v : Nat) : (s.rput r hi lo v).free = s.free := rfl
@[simp] theorem rput_mem (s : State) (r : Reg) (hi lo v : Nat) : (s.rput r hi lo v).mem = s.mem := rfl
@[simp] theorem rput_host (s : State) (r : Reg) (hi lo v : Nat) : (s.rput r hi lo v).host = s.host := rfl
@[simp] theorem rput_cores (s : State) (r : Reg) (hi lo v : Nat) : (s.rput r hi lo v).cores = s.cores := rfl
@[simp] theorem rput_arr (s : State) (r : Reg) (hi lo v : Nat) : (s.rput r hi lo v).arr = s.arr := rfl
@[simp] theorem rput_sage (s : State) (r : Reg) (hi lo v : Nat) : (s.rput r hi lo v).sage = s.sage := rfl
@[simp] theorem rput_memsys (s : State) (r : Reg) (hi lo v : Nat) : (s.rput r hi lo v).memsys = s.memsys := rfl
@[simp] theorem rput_ptr (s : State) (r : Reg) (hi lo v : Nat) : (s.rput r hi lo v).ptr = s.ptr := rfl
@[simp] theorem rput_ints (s : State) (r : Reg) (hi lo v : Nat) : (s.rput r hi lo v).ints = s.ints := rfl
@[simp] theorem rput_queues (s : State) (r : Reg) (hi lo v : Nat) : (s.rput r hi lo v).queues = s.queues := rfl
@[simp] theorem rput_ports (s : State) (r : Reg) (hi lo v : Nat) : (s.rput r hi lo v).ports = s.ports := rfl
@[simp] theorem rput_xlt (s : State) (r : Reg) (hi lo v : Nat) : (s.rput r hi lo v).xlt = s.xlt := rfl
@[simp] theorem rput_err (s : State) (r : Reg) (hi lo v : Nat) : (s.rput r hi lo v).err = s.err := rfl
@[simp] theorem rput_colls (s : State) (r : Reg) (hi lo v : Nat) : (s.rput r hi lo v).colls = s.colls := rfl
@[simp] theorem rput_trl (s : State) (r : Reg) (hi lo v : Nat) : (s.rput r hi lo v).trl = s.trl := rfl
@[simp] theorem rput_txu (s : State) (r : Reg) (hi lo v : Nat) : (s.rput r hi lo v).txu = s.txu := rfl
@[simp] theorem rput_ldg (s : State) (r : Reg) (hi lo v : Nat) : (s.rput r hi lo v).ldg = s.ldg := rfl
@[simp] theorem rput_org (s : State) (r : Reg) (hi lo v : Nat) : (s.rput r hi lo v).org = s.org := rfl
@[simp] theorem rput_boot (s : State) (r : Reg) (hi lo v : Nat) : (s.rput r hi lo v).boot = s.boot := rfl
@[simp] theorem rput_pwr (s : State) (r : Reg) (hi lo v : Nat) : (s.rput r hi lo v).pwr = s.pwr := rfl
@[simp] theorem rput_smb (s : State) (r : Reg) (hi lo v : Nat) : (s.rput r hi lo v).smb = s.smb := rfl
@[simp] theorem rput_pending (s : State) (r : Reg) (hi lo v : Nat) : (s.rput r hi lo v).pending = s.pending := rfl

@[simp] theorem rclear_free (s : State) (f : Nat → Bool) : (s.rclear f).free = s.free := rfl
@[simp] theorem rclear_mem (s : State) (f : Nat → Bool) : (s.rclear f).mem = s.mem := rfl
@[simp] theorem rclear_host (s : State) (f : Nat → Bool) : (s.rclear f).host = s.host := rfl
@[simp] theorem rclear_cores (s : State) (f : Nat → Bool) : (s.rclear f).cores = s.cores := rfl
@[simp] theorem rclear_arr (s : State) (f : Nat → Bool) : (s.rclear f).arr = s.arr := rfl
@[simp] theorem rclear_sage (s : State) (f : Nat → Bool) : (s.rclear f).sage = s.sage := rfl
@[simp] theorem rclear_memsys (s : State) (f : Nat → Bool) : (s.rclear f).memsys = s.memsys := rfl
@[simp] theorem rclear_ptr (s : State) (f : Nat → Bool) : (s.rclear f).ptr = s.ptr := rfl
@[simp] theorem rclear_ints (s : State) (f : Nat → Bool) : (s.rclear f).ints = s.ints := rfl
@[simp] theorem rclear_queues (s : State) (f : Nat → Bool) : (s.rclear f).queues = s.queues := rfl
@[simp] theorem rclear_ports (s : State) (f : Nat → Bool) : (s.rclear f).ports = s.ports := rfl
@[simp] theorem rclear_xlt (s : State) (f : Nat → Bool) : (s.rclear f).xlt = s.xlt := rfl
@[simp] theorem rclear_err (s : State) (f : Nat → Bool) : (s.rclear f).err = s.err := rfl
@[simp] theorem rclear_colls (s : State) (f : Nat → Bool) : (s.rclear f).colls = s.colls := rfl
@[simp] theorem rclear_trl (s : State) (f : Nat → Bool) : (s.rclear f).trl = s.trl := rfl
@[simp] theorem rclear_txu (s : State) (f : Nat → Bool) : (s.rclear f).txu = s.txu := rfl
@[simp] theorem rclear_ldg (s : State) (f : Nat → Bool) : (s.rclear f).ldg = s.ldg := rfl
@[simp] theorem rclear_org (s : State) (f : Nat → Bool) : (s.rclear f).org = s.org := rfl
@[simp] theorem rclear_boot (s : State) (f : Nat → Bool) : (s.rclear f).boot = s.boot := rfl
@[simp] theorem rclear_pwr (s : State) (f : Nat → Bool) : (s.rclear f).pwr = s.pwr := rfl
@[simp] theorem rclear_smb (s : State) (f : Nat → Bool) : (s.rclear f).smb = s.smb := rfl
@[simp] theorem rclear_pending (s : State) (f : Nat → Bool) : (s.rclear f).pending = s.pending := rfl

@[simp] theorem draw_regs (s : State) : s.draw.2.regs = s.regs := rfl
@[simp] theorem draw_mem (s : State) : s.draw.2.mem = s.mem := rfl
@[simp] theorem draw_host (s : State) : s.draw.2.host = s.host := rfl
@[simp] theorem draw_cores (s : State) : s.draw.2.cores = s.cores := rfl
@[simp] theorem draw_arr (s : State) : s.draw.2.arr = s.arr := rfl
@[simp] theorem draw_sage (s : State) : s.draw.2.sage = s.sage := rfl
@[simp] theorem draw_memsys (s : State) : s.draw.2.memsys = s.memsys := rfl
@[simp] theorem draw_ptr (s : State) : s.draw.2.ptr = s.ptr := rfl
@[simp] theorem draw_ints (s : State) : s.draw.2.ints = s.ints := rfl
@[simp] theorem draw_queues (s : State) : s.draw.2.queues = s.queues := rfl
@[simp] theorem draw_ports (s : State) : s.draw.2.ports = s.ports := rfl
@[simp] theorem draw_xlt (s : State) : s.draw.2.xlt = s.xlt := rfl
@[simp] theorem draw_err (s : State) : s.draw.2.err = s.err := rfl
@[simp] theorem draw_colls (s : State) : s.draw.2.colls = s.colls := rfl
@[simp] theorem draw_trl (s : State) : s.draw.2.trl = s.trl := rfl
@[simp] theorem draw_txu (s : State) : s.draw.2.txu = s.txu := rfl
@[simp] theorem draw_ldg (s : State) : s.draw.2.ldg = s.ldg := rfl
@[simp] theorem draw_org (s : State) : s.draw.2.org = s.org := rfl
@[simp] theorem draw_boot (s : State) : s.draw.2.boot = s.boot := rfl
@[simp] theorem draw_pwr (s : State) : s.draw.2.pwr = s.pwr := rfl
@[simp] theorem draw_smb (s : State) : s.draw.2.smb = s.smb := rfl
@[simp] theorem draw_pending (s : State) : s.draw.2.pending = s.pending := rfl
@[simp] theorem draw_free (s : State) : s.draw.2.free = s.free + 1 := rfl

/-! ### Read back -/

@[simp] theorem core_setCore (s : State) (k j : Nat) (c : Core) : (s.setCore k c).core j = if k = j then c else s.core j :=
  get_set _ _ _ _ _
@[simp] theorem core_onCore (s : State) (k j : Nat) (f : Core → Core) :
    (s.onCore k f).core j = if k = j then f (s.core k) else s.core j := get_set _ _ _ _ _
@[simp] theorem ar_setAr (s : State) (k j : Nat) (c : Arr) : (s.setAr k c).ar j = if k = j then c else s.ar j := get_set _ _ _ _ _
@[simp] theorem sg_setSg (s : State) (k j : Nat) (c : Sage) : (s.setSg k c).sg j = if k = j then c else s.sg j := get_set _ _ _ _ _
@[simp] theorem queue_setQueue (s : State) (k j : Nat) (c : Queue) :
    (s.setQueue k c).queue j = if k = j then c else s.queue j := get_set _ _ _ _ _
@[simp] theorem port_setPort (s : State) (k j : Nat) (c : PciPort) :
    (s.setPort k c).port j = if k = j then c else s.port j := get_set _ _ _ _ _
@[simp] theorem stack_setStack (s : State) (k j : Nat) (c : Stack) :
    (s.setStack k c).stack j = if k = j then c else s.stack j := get_set _ _ _ _ _
@[simp] theorem xdie_setXdie (s : State) (k j : Nat) (c : XltDie) :
    (s.setXdie k c).xdie j = if k = j then c else s.xdie j := get_set _ _ _ _ _
@[simp] theorem intc_setIntc (s : State) (k j : Nat) (c : IntCtl) :
    (s.setIntc k c).intc j = if k = j then c else s.intc j := get_set _ _ _ _ _
@[simp] theorem fn_setFn (s : State) (n f : Nat) (x : PciFn) : (s.setFn n f x).fn n f = x := by
  simp [State.fn, State.setFn]

/-- A register reads back what was stored in it. -/
@[simp] theorem rget_rset (s : State) (r : Reg) (v : Nat) : (s.rset r v).rget r = v := by
  simp [State.rget, State.rset]
/-- A store to one register leaves every register at another address. -/
theorem rget_rset_ne (s : State) (r q : Reg) (v : Nat) (h : r.addr ≠ q.addr) : (s.rset r v).rget q = s.rget q := by
  simp [State.rget, State.rset, get_set_ne _ _ _ h]
theorem regs_rset_ne (s : State) (r : Reg) (v off : Nat) (h : r.addr ≠ off) :
    SMap.get none (s.rset r v).regs off = SMap.get none s.regs off :=
  get_set_ne (none : Option Nat) s.regs (some v) h
theorem regs_rput_ne (s : State) (r : Reg) (hi lo v off : Nat) (h : r.addr ≠ off) :
    SMap.get none (s.rput r hi lo v).regs off = SMap.get none s.regs off := regs_rset_ne s r _ off h
@[simp] theorem rget_setCore (s : State) (k : Nat) (c : Core) (r : Reg) : (s.setCore k c).rget r = s.rget r := rfl
@[simp] theorem rget_onCore (s : State) (k : Nat) (f : Core → Core) (r : Reg) : (s.onCore k f).rget r = s.rget r := rfl

/-- Parts kept elsewhere do not move when a core or a register changes. -/
@[simp] theorem core_rset (s : State) (r : Reg) (v k : Nat) : (s.rset r v).core k = s.core k := rfl
@[simp] theorem ar_setCore (s : State) (k p : Nat) (c : Core) : (s.setCore k c).ar p = s.ar p := rfl
@[simp] theorem queue_setCore (s : State) (k q : Nat) (c : Core) : (s.setCore k c).queue q = s.queue q := rfl
@[simp] theorem stack_setCore (s : State) (k j : Nat) (c : Core) : (s.setCore k c).stack j = s.stack j := rfl

/-! ### Counting events changes registers alone -/

theorem pmcBump_eq (s : State) (b : PmcBlock) (c n : Nat) : ∃ r, s.pmcBump b c n = { s with regs := r } := by
  unfold State.pmcBump
  dsimp only
  split
  · exact ⟨_, rfl⟩
  · split
    · exact ⟨_, rfl⟩
    · split <;> exact ⟨_, rfl⟩

theorem countList_eq (b : PmcBlock) (ev n : Nat) (l : List Nat) (s : State) :
    ∃ r, l.foldl (fun s c => if s.pmcOwn b c ev then s.pmcBump b c n else s) s = { s with regs := r } := by
  induction l generalizing s with
  | nil => exact ⟨s.regs, rfl⟩
  | cons c l ih =>
    rw [List.foldl_cons]
    split
    · obtain ⟨r, hr⟩ := pmcBump_eq s b c n
      obtain ⟨r', hr'⟩ := ih (s.pmcBump b c n)
      exact ⟨r', by rw [hr', hr]⟩
    · exact ih s

/-- An event that is counted changes registers and nothing else. -/
theorem count_eq (s : State) (b : PmcBlock) (ev n : Nat) : ∃ r, s.count b ev n = { s with regs := r } := by
  unfold State.count
  split
  · exact ⟨s.regs, rfl⟩
  · exact countList_eq b ev n _ s

theorem countCore_eq (s : State) (k ev n : Nat) : ∃ r, s.countCore k ev n = { s with regs := r } := by
  unfold State.countCore
  split
  · exact count_eq _ _ _ _
  · exact ⟨s.regs, rfl⟩

@[simp] theorem count_free (s : State) (b : PmcBlock) (ev n : Nat) : (s.count b ev n).free = s.free := by
  obtain ⟨r, h⟩ := count_eq s b ev n; rw [h]
@[simp] theorem count_mem (s : State) (b : PmcBlock) (ev n : Nat) : (s.count b ev n).mem = s.mem := by
  obtain ⟨r, h⟩ := count_eq s b ev n; rw [h]
@[simp] theorem count_host (s : State) (b : PmcBlock) (ev n : Nat) : (s.count b ev n).host = s.host := by
  obtain ⟨r, h⟩ := count_eq s b ev n; rw [h]
@[simp] theorem count_cores (s : State) (b : PmcBlock) (ev n : Nat) : (s.count b ev n).cores = s.cores := by
  obtain ⟨r, h⟩ := count_eq s b ev n; rw [h]
@[simp] theorem count_arr (s : State) (b : PmcBlock) (ev n : Nat) : (s.count b ev n).arr = s.arr := by
  obtain ⟨r, h⟩ := count_eq s b ev n; rw [h]
@[simp] theorem count_sage (s : State) (b : PmcBlock) (ev n : Nat) : (s.count b ev n).sage = s.sage := by
  obtain ⟨r, h⟩ := count_eq s b ev n; rw [h]
@[simp] theorem count_memsys (s : State) (b : PmcBlock) (ev n : Nat) : (s.count b ev n).memsys = s.memsys := by
  obtain ⟨r, h⟩ := count_eq s b ev n; rw [h]
@[simp] theorem count_ptr (s : State) (b : PmcBlock) (ev n : Nat) : (s.count b ev n).ptr = s.ptr := by
  obtain ⟨r, h⟩ := count_eq s b ev n; rw [h]
@[simp] theorem count_ints (s : State) (b : PmcBlock) (ev n : Nat) : (s.count b ev n).ints = s.ints := by
  obtain ⟨r, h⟩ := count_eq s b ev n; rw [h]
@[simp] theorem count_queues (s : State) (b : PmcBlock) (ev n : Nat) : (s.count b ev n).queues = s.queues := by
  obtain ⟨r, h⟩ := count_eq s b ev n; rw [h]
@[simp] theorem count_ports (s : State) (b : PmcBlock) (ev n : Nat) : (s.count b ev n).ports = s.ports := by
  obtain ⟨r, h⟩ := count_eq s b ev n; rw [h]
@[simp] theorem count_xlt (s : State) (b : PmcBlock) (ev n : Nat) : (s.count b ev n).xlt = s.xlt := by
  obtain ⟨r, h⟩ := count_eq s b ev n; rw [h]
@[simp] theorem count_err (s : State) (b : PmcBlock) (ev n : Nat) : (s.count b ev n).err = s.err := by
  obtain ⟨r, h⟩ := count_eq s b ev n; rw [h]
@[simp] theorem count_colls (s : State) (b : PmcBlock) (ev n : Nat) : (s.count b ev n).colls = s.colls := by
  obtain ⟨r, h⟩ := count_eq s b ev n; rw [h]
@[simp] theorem count_trl (s : State) (b : PmcBlock) (ev n : Nat) : (s.count b ev n).trl = s.trl := by
  obtain ⟨r, h⟩ := count_eq s b ev n; rw [h]
@[simp] theorem count_txu (s : State) (b : PmcBlock) (ev n : Nat) : (s.count b ev n).txu = s.txu := by
  obtain ⟨r, h⟩ := count_eq s b ev n; rw [h]
@[simp] theorem count_ldg (s : State) (b : PmcBlock) (ev n : Nat) : (s.count b ev n).ldg = s.ldg := by
  obtain ⟨r, h⟩ := count_eq s b ev n; rw [h]
@[simp] theorem count_org (s : State) (b : PmcBlock) (ev n : Nat) : (s.count b ev n).org = s.org := by
  obtain ⟨r, h⟩ := count_eq s b ev n; rw [h]
@[simp] theorem count_boot (s : State) (b : PmcBlock) (ev n : Nat) : (s.count b ev n).boot = s.boot := by
  obtain ⟨r, h⟩ := count_eq s b ev n; rw [h]
@[simp] theorem count_pwr (s : State) (b : PmcBlock) (ev n : Nat) : (s.count b ev n).pwr = s.pwr := by
  obtain ⟨r, h⟩ := count_eq s b ev n; rw [h]
@[simp] theorem count_smb (s : State) (b : PmcBlock) (ev n : Nat) : (s.count b ev n).smb = s.smb := by
  obtain ⟨r, h⟩ := count_eq s b ev n; rw [h]
@[simp] theorem count_pending (s : State) (b : PmcBlock) (ev n : Nat) : (s.count b ev n).pending = s.pending := by
  obtain ⟨r, h⟩ := count_eq s b ev n; rw [h]
@[simp] theorem count_core (s : State) (b : PmcBlock) (ev n : Nat) (j : Nat) : (s.count b ev n).core j = s.core j := by
  obtain ⟨r, h⟩ := count_eq s b ev n; rw [h]; rfl
@[simp] theorem count_ar (s : State) (b : PmcBlock) (ev n : Nat) (j : Nat) : (s.count b ev n).ar j = s.ar j := by
  obtain ⟨r, h⟩ := count_eq s b ev n; rw [h]; rfl
@[simp] theorem count_sg (s : State) (b : PmcBlock) (ev n : Nat) (j : Nat) : (s.count b ev n).sg j = s.sg j := by
  obtain ⟨r, h⟩ := count_eq s b ev n; rw [h]; rfl
@[simp] theorem count_queue (s : State) (b : PmcBlock) (ev n : Nat) (j : Nat) : (s.count b ev n).queue j = s.queue j := by
  obtain ⟨r, h⟩ := count_eq s b ev n; rw [h]; rfl
@[simp] theorem count_stack (s : State) (b : PmcBlock) (ev n : Nat) (j : Nat) : (s.count b ev n).stack j = s.stack j := by
  obtain ⟨r, h⟩ := count_eq s b ev n; rw [h]; rfl
@[simp] theorem count_xdie (s : State) (b : PmcBlock) (ev n : Nat) (j : Nat) : (s.count b ev n).xdie j = s.xdie j := by
  obtain ⟨r, h⟩ := count_eq s b ev n; rw [h]; rfl
@[simp] theorem count_intc (s : State) (b : PmcBlock) (ev n : Nat) (j : Nat) : (s.count b ev n).intc j = s.intc j := by
  obtain ⟨r, h⟩ := count_eq s b ev n; rw [h]; rfl
@[simp] theorem count_port (s : State) (b : PmcBlock) (ev n : Nat) (j : Nat) : (s.count b ev n).port j = s.port j := by
  obtain ⟨r, h⟩ := count_eq s b ev n; rw [h]; rfl
@[simp] theorem countCore_free (s : State) (k ev n : Nat) : (s.countCore k ev n).free = s.free := by
  obtain ⟨r, h⟩ := countCore_eq s k ev n; rw [h]
@[simp] theorem countCore_mem (s : State) (k ev n : Nat) : (s.countCore k ev n).mem = s.mem := by
  obtain ⟨r, h⟩ := countCore_eq s k ev n; rw [h]
@[simp] theorem countCore_host (s : State) (k ev n : Nat) : (s.countCore k ev n).host = s.host := by
  obtain ⟨r, h⟩ := countCore_eq s k ev n; rw [h]
@[simp] theorem countCore_cores (s : State) (k ev n : Nat) : (s.countCore k ev n).cores = s.cores := by
  obtain ⟨r, h⟩ := countCore_eq s k ev n; rw [h]
@[simp] theorem countCore_arr (s : State) (k ev n : Nat) : (s.countCore k ev n).arr = s.arr := by
  obtain ⟨r, h⟩ := countCore_eq s k ev n; rw [h]
@[simp] theorem countCore_sage (s : State) (k ev n : Nat) : (s.countCore k ev n).sage = s.sage := by
  obtain ⟨r, h⟩ := countCore_eq s k ev n; rw [h]
@[simp] theorem countCore_memsys (s : State) (k ev n : Nat) : (s.countCore k ev n).memsys = s.memsys := by
  obtain ⟨r, h⟩ := countCore_eq s k ev n; rw [h]
@[simp] theorem countCore_ptr (s : State) (k ev n : Nat) : (s.countCore k ev n).ptr = s.ptr := by
  obtain ⟨r, h⟩ := countCore_eq s k ev n; rw [h]
@[simp] theorem countCore_ints (s : State) (k ev n : Nat) : (s.countCore k ev n).ints = s.ints := by
  obtain ⟨r, h⟩ := countCore_eq s k ev n; rw [h]
@[simp] theorem countCore_queues (s : State) (k ev n : Nat) : (s.countCore k ev n).queues = s.queues := by
  obtain ⟨r, h⟩ := countCore_eq s k ev n; rw [h]
@[simp] theorem countCore_ports (s : State) (k ev n : Nat) : (s.countCore k ev n).ports = s.ports := by
  obtain ⟨r, h⟩ := countCore_eq s k ev n; rw [h]
@[simp] theorem countCore_xlt (s : State) (k ev n : Nat) : (s.countCore k ev n).xlt = s.xlt := by
  obtain ⟨r, h⟩ := countCore_eq s k ev n; rw [h]
@[simp] theorem countCore_err (s : State) (k ev n : Nat) : (s.countCore k ev n).err = s.err := by
  obtain ⟨r, h⟩ := countCore_eq s k ev n; rw [h]
@[simp] theorem countCore_colls (s : State) (k ev n : Nat) : (s.countCore k ev n).colls = s.colls := by
  obtain ⟨r, h⟩ := countCore_eq s k ev n; rw [h]
@[simp] theorem countCore_trl (s : State) (k ev n : Nat) : (s.countCore k ev n).trl = s.trl := by
  obtain ⟨r, h⟩ := countCore_eq s k ev n; rw [h]
@[simp] theorem countCore_txu (s : State) (k ev n : Nat) : (s.countCore k ev n).txu = s.txu := by
  obtain ⟨r, h⟩ := countCore_eq s k ev n; rw [h]
@[simp] theorem countCore_ldg (s : State) (k ev n : Nat) : (s.countCore k ev n).ldg = s.ldg := by
  obtain ⟨r, h⟩ := countCore_eq s k ev n; rw [h]
@[simp] theorem countCore_org (s : State) (k ev n : Nat) : (s.countCore k ev n).org = s.org := by
  obtain ⟨r, h⟩ := countCore_eq s k ev n; rw [h]
@[simp] theorem countCore_boot (s : State) (k ev n : Nat) : (s.countCore k ev n).boot = s.boot := by
  obtain ⟨r, h⟩ := countCore_eq s k ev n; rw [h]
@[simp] theorem countCore_pwr (s : State) (k ev n : Nat) : (s.countCore k ev n).pwr = s.pwr := by
  obtain ⟨r, h⟩ := countCore_eq s k ev n; rw [h]
@[simp] theorem countCore_smb (s : State) (k ev n : Nat) : (s.countCore k ev n).smb = s.smb := by
  obtain ⟨r, h⟩ := countCore_eq s k ev n; rw [h]
@[simp] theorem countCore_pending (s : State) (k ev n : Nat) : (s.countCore k ev n).pending = s.pending := by
  obtain ⟨r, h⟩ := countCore_eq s k ev n; rw [h]
@[simp] theorem countCore_core (s : State) (k ev n : Nat) (j : Nat) : (s.countCore k ev n).core j = s.core j := by
  obtain ⟨r, h⟩ := countCore_eq s k ev n; rw [h]; rfl
@[simp] theorem countCore_ar (s : State) (k ev n : Nat) (j : Nat) : (s.countCore k ev n).ar j = s.ar j := by
  obtain ⟨r, h⟩ := countCore_eq s k ev n; rw [h]; rfl
@[simp] theorem countCore_sg (s : State) (k ev n : Nat) (j : Nat) : (s.countCore k ev n).sg j = s.sg j := by
  obtain ⟨r, h⟩ := countCore_eq s k ev n; rw [h]; rfl
@[simp] theorem countCore_queue (s : State) (k ev n : Nat) (j : Nat) : (s.countCore k ev n).queue j = s.queue j := by
  obtain ⟨r, h⟩ := countCore_eq s k ev n; rw [h]; rfl
@[simp] theorem countCore_stack (s : State) (k ev n : Nat) (j : Nat) : (s.countCore k ev n).stack j = s.stack j := by
  obtain ⟨r, h⟩ := countCore_eq s k ev n; rw [h]; rfl
@[simp] theorem countCore_xdie (s : State) (k ev n : Nat) (j : Nat) : (s.countCore k ev n).xdie j = s.xdie j := by
  obtain ⟨r, h⟩ := countCore_eq s k ev n; rw [h]; rfl
@[simp] theorem countCore_intc (s : State) (k ev n : Nat) (j : Nat) : (s.countCore k ev n).intc j = s.intc j := by
  obtain ⟨r, h⟩ := countCore_eq s k ev n; rw [h]; rfl
@[simp] theorem countCore_port (s : State) (k ev n : Nat) (j : Nat) : (s.countCore k ev n).port j = s.port j := by
  obtain ⟨r, h⟩ := countCore_eq s k ev n; rw [h]; rfl

end Sys2Proof.Laws
end

