-- ==== Sys2Proof/Laws/Cores.lean ====
section
/-! SUPPORT. Laws of a core's instructions: what an instruction that can issue does, and what counting and metering leave alone. -/

namespace Sys2Proof.Laws

open Sys2Proof Sys2Proof.Machine

/-! ### Counters and meters -/

theorem pmcBump_counters (s : State) (b : PmcBlock) (c n off : Nat) (h8 : c < 8) (h : ¬ CounterAt off) :
    SMap.get none (s.pmcBump b c n).regs off = SMap.get none s.regs off := by
  have hc : ∀ (b : PmcBlock) (c : Nat), c < 8 → (pmcCtrReg b c).addr ≠ off := fun b c hc e => h ⟨b, c, hc, Or.inl e.symm⟩
  have he : ∀ (b : PmcBlock) (c : Nat), c < 8 → (pmcEvtReg b c).addr ≠ off := fun b c hc e => h ⟨b, c, hc, Or.inr e.symm⟩
  have hs := fun (s : State) (r : Reg) (v : Nat) (hr : r.addr ≠ off) => regs_rset_ne s r v off hr
  have hp := fun (s : State) (r : Reg) (a b v : Nat) (hr : r.addr ≠ off) => regs_rput_ne s r a b v off hr
  unfold State.pmcBump
  dsimp only
  split
  · exact hs _ _ _ (hc b c h8)
  · split
    · rw [hp _ _ _ _ _ (he b c h8), hs _ _ _ (hc b c h8)]
    · rename_i hch
      have h9 : c + 1 < 8 := by omega
      split
      · rw [hs _ _ _ (hc b (c + 1) h9), hp _ _ _ _ _ (he b c h8), hs _ _ _ (hc b c h8)]
      · rw [hp _ _ _ _ _ (he b (c + 1) h9), hs _ _ _ (hc b (c + 1) h9), hp _ _ _ _ _ (he b c h8), hs _ _ _ (hc b c h8)]

theorem count_counters (s : State) (b : PmcBlock) (ev n off : Nat) (h : ¬ CounterAt off) :
    SMap.get none (s.count b ev n).regs off = SMap.get none s.regs off := by
  have hl : ∀ (l : List Nat) (s : State), (∀ c ∈ l, c < 8) →
      SMap.get none (l.foldl (fun s c => if s.pmcOwn b c ev then s.pmcBump b c n else s) s).regs off = SMap.get none s.regs off := by
    intro l
    induction l with
    | nil => intro s _; rfl
    | cons c l ih =>
      intro s hl
      rw [List.foldl_cons, ih _ (fun x hx => hl x (by simp [hx]))]
      split
      · exact pmcBump_counters s b c n off (hl c (by simp)) h
      · rfl
  unfold State.count
  split
  · rfl
  · exact hl _ s (fun c hc => by simpa using hc)

theorem countCore_counters (s : State) (k ev n off : Nat) (h : ¬ CounterAt off) :
    SMap.get none (s.countCore k ev n).regs off = SMap.get none s.regs off := by
  unfold State.countCore
  split
  · exact count_counters _ _ _ _ _ h
  · rfl

theorem notice_eq (s : State) (kind : Nat) (args : List Nat) (cause : Nat) :
    ∃ l st, s.notice kind args cause = { s with ldg := l, err := { s.err with stamps := st } } := by
  unfold State.notice
  split
  · exact ⟨_, _, rfl⟩
  · exact ⟨s.ldg, s.err.stamps, rfl⟩

theorem notices_eq (i : Nat) (l : List Nat) (s : State) :
    ∃ l' st, l.foldl (fun s b => s.notice 3 [i, b] 0) s = { s with ldg := l', err := { s.err with stamps := st } } := by
  induction l generalizing s with
  | nil => exact ⟨s.ldg, s.err.stamps, rfl⟩
  | cons b l ih =>
    rw [List.foldl_cons]
    obtain ⟨l1, t1, h1⟩ := notice_eq s 3 [i, b] 0
    obtain ⟨l2, t2, h2⟩ := ih (s.notice 3 [i, b] 0)
    exact ⟨l2, t2, by rw [h2, h1]⟩

/-- A meter changes the Lodge's state, and the stamps of the notices it sends. -/
theorem meterRaw_eq (s : State) (p : Option Nat) (m v : Nat) :
    ∃ l st, s.meterRaw p m v = { s with ldg := l, err := { s.err with stamps := st } } := by
  unfold State.meterRaw
  split
  · exact ⟨s.ldg, s.err.stamps, rfl⟩
  · split
    · exact ⟨s.ldg, s.err.stamps, rfl⟩
    · dsimp only
      obtain ⟨l, t, h⟩ := notices_eq _ _ _
      exact ⟨l, t, by rw [h]; rfl⟩

theorem meter_eq (s : State) (p : Option Nat) (m v : Nat) :
    ∃ l st, s.meter p m v = { s with ldg := l, err := { s.err with stamps := st } } := meterRaw_eq _ _ _ _

theorem meterV_eq (s : State) (k : Nat) (c : Core) (i : GInstr) :
    ∃ l st, s.meterV k c i = { s with ldg := l, err := { s.err with stamps := st } } := by
  unfold State.meterV
  dsimp only
  split
  · exact ⟨s.ldg, s.err.stamps, rfl⟩
  · exact meter_eq _ _ _ _

/-! ### An instruction that can issue -/

/-- A core that is ready runs the instruction on the state the fetch leaves. -/
theorem runG_ready {s s1 : State} {k len : Nat} (i : GInstr) (h : Ready s k len s1) :
    s.runG k i len = s1.perform k i len := by
  obtain ⟨ha, hh, hp, hr, ht, hb, hf, _⟩ := h
  unfold State.runG State.issue State.unpark
  simp [ha, hh, hp, hr, ht, hb, hf]

/-- An instruction that touches no V or K register meets no error in one. -/
theorem vUpset_scalar (s : State) (k : Nat) (i : GInstr) (h : (s.core k).vCount i = 0) : s.vUpset k i = (false, s) := by
  simp [State.vUpset, h]

/-- With no error standing in the core's V and K registers an instruction meets none. -/
theorem vUpset_on {s : State} {k : Nat} (i : GInstr) (h : ∀ u ∈ s.err.upsets, ¬ (u.code = 6 ∧ u.unit = k)) : s.vUpset k i = (false, s) := by
  have hf : s.err.upsets.find? (fun u => u.code == 6 && u.unit == k) = none := by
    rw [List.find?_eq_none]
    intro u hu
    simpa using fun a b => h u hu ⟨a, b⟩
  unfold State.vUpset State.upset
  rw [hf]
  split <;> rfl

/-- An instruction with its effect: its registers, then its pc. -/
theorem perform_ok {s1 s2 : State} {k len : Nat} {i : GInstr} {next : Option Word} (hi : i ≠ .brk) (hu : s1.vUpset k i = (false, s1))
    (hb : s1.body k i = .ok s2 next) :
    s1.perform k i len = (s2.meterV k (s1.core k) i).retire k (next.getD ((s1.core k).pc + w64 len)) := by
  unfold State.perform
  simp [hi, hu, hb]

/-- An instruction that has its effect: the state after it, then its pc, a count and a meter. -/
theorem runG_then {s s1 s2 : State} {k len : Nat} {i : GInstr} {next : Option Word} (h : Ready s k len s1) (hi : i ≠ .brk)
    (hu : s1.vUpset k i = (false, s1)) (hb : s1.body k i = .ok s2 next) (hrun : (s2.core k).run = true) :
    (s.runG k i len).core k = { s2.core k with pc := next.getD ((s1.core k).pc + w64 len), arrived := [], tran := [] } ∧
      CoreOnly s2 (s.runG k i len) k := by
  rw [runG_ready i h, perform_ok hi hu hb]
  obtain ⟨l, st, hl⟩ := meterV_eq s2 k (s1.core k) i
  rw [hl]
  generalize next.getD ((s1.core k).pc + w64 len) = pc
  have hrun' : (({ s2 with ldg := l, err := { s2.err with stamps := st } } : State).core k).run = true := hrun
  unfold State.retire
  rw [if_pos hrun']
  obtain ⟨r, hr2⟩ := countCore_eq ({ s2 with ldg := l, err := { s2.err with stamps := st } } : State) k 2 1
  have hreg := countCore_counters ({ s2 with ldg := l, err := { s2.err with stamps := st } } : State) k 2 1
  rw [hr2] at hreg ⊢
  refine ⟨?_, ?_, ?_, ?_⟩
  · rw [core_onCore, if_pos rfl]
    rfl
  · rfl
  · intro j hj
    rw [core_onCore, if_neg (Ne.symm hj)]
    rfl
  · intro off ho
    exact hreg off ho

theorem coreOnly_refl (s : State) (k : Nat) : CoreOnly s s k := ⟨rfl, fun _ _ => rfl, fun _ _ => rfl⟩

theorem coreOnly_trans {s t u : State} {k : Nat} (h : CoreOnly s t k) (h' : CoreOnly t u k) : CoreOnly s u k := by
  obtain ⟨h1, h2, h3⟩ := h
  obtain ⟨g1, g2, g3⟩ := h'
  refine ⟨?_, fun j hj => (g2 j hj).trans (h2 j hj), fun off ho => (g3 off ho).trans (h3 off ho)⟩
  rw [g1, h1]

theorem coreOnly_setCore (s : State) (k : Nat) (c : Core) : CoreOnly s (s.setCore k c) k :=
  ⟨rfl, fun j hj => by rw [core_setCore, if_neg (Ne.symm hj)], fun _ _ => rfl⟩

/-- An instruction that touches its core alone: the core after it, and nothing else but counters and the Lodge's meters. -/
theorem runG_core {s s1 : State} {k len : Nat} {i : GInstr} {c : Core} {next : Option Word} (h : Ready s k len s1) (hi : i ≠ .brk)
    (hu : s1.vUpset k i = (false, s1)) (hb : s1.body k i = .ok (s1.setCore k c) next) (hr : c.run = (s1.core k).run) :
    (s.runG k i len).core k = { c with pc := next.getD ((s1.core k).pc + w64 len), arrived := [], tran := [] } ∧
      CoreOnly s1 (s.runG k i len) k := by
  have hc : (s1.setCore k c).core k = c := by simp
  obtain ⟨h1, h2⟩ := runG_then h hi hu hb (by rw [hc, hr]; exact h.2.2.2.2.2.2.2)
  rw [hc] at h1
  exact ⟨h1, coreOnly_trans (coreOnly_setCore s1 k c) h2⟩

/-- What `Gives` says of an instruction that touches its core alone. -/
theorem gives {i : Instr} {g : GInstr} {s s1 : State} {k : CoreIx} {len : Nat} {c : Core} {next : Option Word} {pc : Word}
    (he : exec i s = .next (s.runG k.val g len)) (h : Ready s k len s1) (hi : g ≠ .brk) (hu : s1.vUpset k g = (false, s1))
    (hb : s1.body k g = .ok (s1.setCore k c) next) (hr : c.run = (s1.core k).run)
    (hp : next.getD ((s1.core k).pc + w64 len) = pc) : Gives i s s1 k c pc := by
  subst hp
  exact ⟨_, he, runG_core h hi hu hb hr⟩

@[simp] theorem wg_run (c : Core) (r : GReg) (v : Word) : (c.wg r v).run = c.run := by
  unfold Core.wg
  split
  · rfl
  · split <;> rfl

end Sys2Proof.Laws
end

