-- ==== Sys2Proof/Laws/Tags.lean ====
section
/-! SUPPORT. What requests, caches and meters change beside the bytes they move: one lemma for each operation, that it is `CacheOnly`. -/

namespace Sys2Proof.Laws

open Sys2Proof Sys2Proof.Machine

/-! ### The relation -/

theorem stackTags_refl (x : Stack) : StackTags x x := ⟨rfl, Or.inl ⟨rfl, rfl⟩⟩

theorem stackTags_trans {x y z : Stack} (h : StackTags x y) (g : StackTags y z) : StackTags x z := by
  obtain ⟨h1, h2⟩ := h
  obtain ⟨g1, g2⟩ := g
  refine ⟨by rw [g1, h1], ?_⟩
  rcases h2 with ⟨a, b⟩ | ⟨a, b, c⟩ <;> rcases g2 with ⟨d, e⟩ | ⟨d, e, f⟩
  · exact Or.inl ⟨d.trans a, e.trans b⟩
  · exact Or.inr ⟨a ▸ d, e, f⟩
  · exact Or.inr ⟨a, d.trans b, e.trans c⟩
  · rw [b] at d; exact absurd d (by decide)

theorem cacheOnly_refl (s : State) : CacheOnly s s :=
  ⟨rfl, rfl, fun _ => stackTags_refl _, fun j => ⟨(s.core j).l1d, (s.core j).l1i, rfl⟩, fun _ _ => rfl⟩

theorem cacheOnly_trans {s t u : State} (h : CacheOnly s t) (g : CacheOnly t u) : CacheOnly s u := by
  obtain ⟨h1, h2, h3, h4, h5⟩ := h
  obtain ⟨g1, g2, g3, g4, g5⟩ := g
  refine ⟨by rw [g1, h1], by rw [g2, h2], fun j => stackTags_trans (h3 j) (g3 j), fun j => ?_, fun off ho => (g5 off ho).trans (h5 off ho)⟩
  obtain ⟨d, i, hx⟩ := h4 j
  obtain ⟨d', i', hy⟩ := g4 j
  exact ⟨d', i', by rw [hy, hx]⟩

/-- Folding an operation over a list. -/
theorem cacheOnly_foldl {α : Type} (f : State → α → State) (h : ∀ s a, CacheOnly s (f s a)) (l : List α) (s : State) :
    CacheOnly s (l.foldl f s) := by
  induction l generalizing s with
  | nil => exact cacheOnly_refl s
  | cons a l ih => exact cacheOnly_trans (h s a) (ih _)

/-! ### What it keeps -/

theorem cacheOnly_mem {s t : State} (h : CacheOnly s t) : t.mem = s.mem := by rw [h.1]
theorem cacheOnly_host {s t : State} (h : CacheOnly s t) : t.host = s.host := by rw [h.1]
theorem cacheOnly_ptr {s t : State} (h : CacheOnly s t) : t.ptr = s.ptr := by rw [h.1]
theorem cacheOnly_boot {s t : State} (h : CacheOnly s t) : t.boot = s.boot := by rw [h.1]
theorem cacheOnly_pwr {s t : State} (h : CacheOnly s t) : t.pwr = s.pwr := by rw [h.1]
theorem cacheOnly_org {s t : State} (h : CacheOnly s t) : t.org = s.org := by rw [h.1]
theorem cacheOnly_upsets {s t : State} (h : CacheOnly s t) : t.err.upsets = s.err.upsets := by rw [h.1]
theorem cacheOnly_bad {s t : State} (h : CacheOnly s t) : t.err.bad = s.err.bad := by rw [h.1]

/-! ### Counts and meters -/

theorem cacheOnly_regs (s : State) (r : SMap (Option Nat)) (h : ∀ off, ¬ CounterAt off → SMap.get none r off = SMap.get none s.regs off) :
    CacheOnly s { s with regs := r } :=
  ⟨rfl, rfl, fun _ => stackTags_refl _, fun j => ⟨(s.core j).l1d, (s.core j).l1i, rfl⟩, h⟩

theorem count_tags (s : State) (b : PmcBlock) (ev n : Nat) : CacheOnly s (s.count b ev n) := by
  have hc := count_counters s b ev n
  obtain ⟨r, hr⟩ := count_eq s b ev n
  rw [hr] at hc ⊢
  exact cacheOnly_regs s r hc

theorem countCore_tags (s : State) (k ev n : Nat) : CacheOnly s (s.countCore k ev n) := by
  unfold State.countCore
  split
  · exact count_tags _ _ _ _
  · exact cacheOnly_refl s

theorem draw_tags (s : State) : CacheOnly s s.draw.2 :=
  ⟨rfl, rfl, fun _ => stackTags_refl _, fun j => ⟨(s.core j).l1d, (s.core j).l1i, rfl⟩, fun _ _ => rfl⟩

theorem meter_tags (s : State) (p : Option Nat) (m v : Nat) : CacheOnly s (s.meter p m v) := by
  obtain ⟨l, st, h⟩ := meter_eq s p m v
  rw [h]
  exact ⟨rfl, rfl, fun _ => stackTags_refl _, fun j => ⟨(s.core j).l1d, (s.core j).l1i, rfl⟩, fun _ _ => rfl⟩

theorem meterMem_tags (s : State) (m : Nat) (w : Bool) (a n : Nat) : CacheOnly s (s.meterMem m w a n) := by
  unfold State.meterMem
  split
  · exact cacheOnly_trans (meter_tags _ _ _ _) (count_tags _ _ _ _)
  · exact cacheOnly_trans (meter_tags _ _ _ _) (count_tags _ _ _ _)
  · exact cacheOnly_refl s

/-! ### A stack's tags -/

/-- Only a stack's MSC and write-combining tags differ. -/
def TagsOf (x y : Stack) : Prop := y = { x with msc := y.msc, wcb := y.wcb }

theorem tagsOf_refl (x : Stack) : TagsOf x x := rfl
theorem tagsOf_trans {x y z : Stack} (h : TagsOf x y) (g : TagsOf y z) : TagsOf x z := by
  unfold TagsOf at *
  rw [g, h]
theorem retire_tags (x : Stack) (kw : Nat) (e : WcbEnt) : TagsOf x (x.retire kw e) := rfl
theorem retireOldest_tags (x : Stack) (kw : Nat) : TagsOf x (x.retireOldest kw) := by
  unfold Stack.retireOldest
  split
  · exact tagsOf_refl x
  · exact retire_tags _ _ _

theorem combine_tags (x : Stack) (kw line mask : Nat) (h : Hint) : TagsOf x (x.combine kw line mask h) := by
  have h1 : TagsOf x (match x.wcb.find? (fun e => e.line == line) with
    | some _ => { x with wcb := x.wcb.map (fun e => if e.line = line then { e with mask := e.mask ||| mask, hint := h } else e) }
    | none =>
      let y : Stack := if 64 ≤ x.wcb.length then x.retireOldest kw else x
      { y with wcb := y.wcb ++ [⟨line, mask, h⟩] }) := by
    split
    · rfl
    · dsimp only
      split
      · exact tagsOf_trans (retireOldest_tags x kw) rfl
      · rfl
  unfold Stack.combine
  dsimp only
  split
  · split
    · exact tagsOf_trans h1 (retire_tags _ _ _)
    · exact h1
  · exact h1

theorem request_tags (x : Stack) (kw line off n : Nat) (kind : MemKind) (h : Hint) : TagsOf x (x.request kw line off n kind h) := by
  have h1 : TagsOf x (if kind = .write then x else match x.wcb.find? (fun e => e.line == line) with | some e => x.retire kw e | none => x) := by
    split
    · exact tagsOf_refl x
    · split
      · exact retire_tags _ _ _
      · exact tagsOf_refl x
  unfold Stack.request
  generalize (if kind = .write then x else match x.wcb.find? (fun e => e.line == line) with | some e => x.retire kw e | none => x) = y at h1
  refine tagsOf_trans h1 ?_
  dsimp only
  split
  · rfl
  · cases kind
    · rfl
    · dsimp only
      split
      · rfl
      · exact combine_tags _ _ _ _ _
    · dsimp only
      split
      · rfl
      · exact tagsOf_trans (y := { y with msc := y.msc.alloc kw h line true }) rfl (combine_tags _ _ _ _ _)

theorem stackTags_of {x y : Stack} (h : TagsOf x y) : StackTags x y := by
  unfold TagsOf at h
  refine ⟨by rw [h], Or.inl ?_⟩
  rw [h]
  exact ⟨rfl, rfl⟩

theorem pass_tags (x : Stack) (n : Nat) : StackTags x (x.pass n) := ⟨rfl, Or.inl ⟨rfl, rfl⟩⟩

theorem setStack_tags (s : State) (k : Nat) (y : Stack) (h : StackTags (s.stack k) y) : CacheOnly s (s.setStack k y) := by
  refine ⟨rfl, rfl, fun j => ?_, fun j => ⟨(s.core j).l1d, (s.core j).l1i, rfl⟩, fun _ _ => rfl⟩
  rw [stack_setStack]
  split
  · rename_i hj; subst hj; exact h
  · exact stackTags_refl _

theorem putStack_tags (s : State) (k reads : Nat) (y : Stack) (h : StackTags (s.stack k) y) : CacheOnly s (s.putStack k reads y) := by
  unfold State.putStack
  refine cacheOnly_trans (cacheOnly_trans (count_tags _ _ _ _) (count_tags _ _ _ _)) (setStack_tags _ _ _ ?_)
  simpa using h

theorem mscPass_tags (s : State) (k : Nat) : CacheOnly s (s.mscPass k) := by
  unfold State.mscPass
  split
  · exact cacheOnly_refl s
  · exact cacheOnly_trans (draw_tags s) (putStack_tags _ _ _ _ (pass_tags _ _))

theorem mscLine_tags (s : State) (k line off n : Nat) (kind : MemKind) (h : Nat) : CacheOnly s (s.mscLine k line off n kind h) := by
  unfold State.mscLine
  refine cacheOnly_trans (mscPass_tags s k) ?_
  generalize s.mscPass k = s
  dsimp only
  refine cacheOnly_trans (count_tags _ _ _ _) (putStack_tags _ _ _ _ ?_)
  rw [count_stack]
  refine stackTags_trans (y := if (s.stack k).st = .selfref then { s.stack k with st := .ready, woken := true } else s.stack k) ?_
    (stackTags_of (request_tags _ _ _ _ _ _ _))
  split
  · rename_i hs; exact ⟨rfl, Or.inr ⟨hs, rfl, rfl⟩⟩
  · exact stackTags_refl _

theorem mscAcc_tags (s : State) (m : Nat) (kind : MemKind) (h a n : Nat) : CacheOnly s (s.mscAcc m kind h a n) := by
  unfold State.mscAcc
  split
  · exact cacheOnly_foldl _ (fun s l => mscLine_tags _ _ _ _ _ _ _) _ _
  · exact cacheOnly_refl s

theorem memPort_tags (s : State) (m : Nat) (kind : MemKind) (h a n : Nat) : CacheOnly s (s.memPort m kind h a n) :=
  cacheOnly_trans (meterMem_tags _ _ _ _ _) (mscAcc_tags _ _ _ _ _ _)

/-! ### The L2s and L1s -/

theorem l2Back_tags (s : State) (x : L2Line) : CacheOnly s (s.l2Back x) := by
  unfold State.l2Back
  split
  · exact memPort_tags _ _ _ _ _ _
  · exact cacheOnly_refl s

theorem l2_tags (s : State) (l : SMap (List L2Line)) : CacheOnly s { s with memsys := { s.memsys with l2 := l } } :=
  ⟨rfl, rfl, fun _ => stackTags_refl _, fun j => ⟨(s.core j).l1d, (s.core j).l1i, rfl⟩, fun _ _ => rfl⟩

theorem recall_tags (s : State) (own : Option Nat) (a n : Nat) : CacheOnly s (s.recall own a n) := by
  unfold State.recall
  split
  · exact cacheOnly_refl s
  · dsimp only
    split
    · exact cacheOnly_refl s
    · exact cacheOnly_trans (cacheOnly_foldl _ l2Back_tags _ _) (l2_tags _ _)

theorem traffic_tags (s : State) (m : Nat) (kind : MemKind) (h a n : Nat) : CacheOnly s (s.traffic m kind h a n) :=
  cacheOnly_trans (recall_tags _ _ _ _) (memPort_tags _ _ _ _ _ _)

theorem onCore_tags (s : State) (k : Nat) (f : Core → Core) (h : ∃ d i, f (s.core k) = { s.core k with l1d := d, l1i := i }) :
    CacheOnly s (s.onCore k f) := by
  refine ⟨rfl, rfl, fun _ => stackTags_refl _, fun j => ?_, fun _ _ => rfl⟩
  rw [core_onCore]
  split
  · rename_i hj; subst hj; exact h
  · exact ⟨(s.core j).l1d, (s.core j).l1i, rfl⟩

theorem l2Evict_tags (s : State) (c : Nat) (x : L2Line) : CacheOnly s (s.l2Evict c x) := by
  unfold State.l2Evict
  dsimp only
  refine cacheOnly_trans (cacheOnly_trans (l2_tags _ _) (l2Back_tags _ _)) (cacheOnly_foldl _ (fun s k => ?_) _ _)
  split
  · exact onCore_tags _ _ _ ⟨_, _, rfl⟩
  · exact cacheOnly_refl s

theorem l2Fill_tags (s : State) (k line h : Nat) (dirty : Bool) : CacheOnly s (s.l2Fill k line h dirty) := by
  unfold State.l2Fill
  dsimp only
  refine cacheOnly_trans ?_ (l2_tags _ _)
  split
  · exact cacheOnly_refl s
  · split
    · exact cacheOnly_trans (draw_tags s) (l2Evict_tags _ _ _)
    · exact draw_tags s

theorem l2Acc_tags (s : State) (k line h : Nat) (wr whole : Bool) : CacheOnly s (s.l2Acc k line h wr whole) := by
  unfold State.l2Acc
  dsimp only
  split
  · exact l2_tags _ _
  · refine cacheOnly_trans ?_ (l2Fill_tags _ _ _ _ _)
    split
    · exact cacheOnly_trans (cacheOnly_trans (countCore_tags _ _ _ _) (recall_tags _ _ _ _)) (memPort_tags _ _ _ _ _ _)
    · exact countCore_tags _ _ _ _

theorem l2Read_tags (s : State) (k u n h : Nat) : CacheOnly s (s.l2Read k u n h) := by
  unfold State.l2Read
  split
  · exact cacheOnly_foldl _ (fun s l => l2Acc_tags _ _ _ _ _ _) _ _
  · split
    · exact traffic_tags _ _ _ _ _ _
    · exact cacheOnly_refl s

theorem dropCopies_tags (s : State) (own : Option Nat) (a n : Nat) : CacheOnly s (s.dropCopies own a n) := by
  have key : ∀ (p : Nat × Core → Prop) [DecidablePred p] (f : Nat × Core → Core → Core) (_ : ∀ e c, ∃ d i, f e c = { c with l1d := d, l1i := i })
      (l : List (Nat × Core)) (s : State), CacheOnly s (l.foldl (fun s e => if p e then s.onCore e.1 (f e) else s) s) := by
    intro p _ f hf l s
    refine cacheOnly_foldl _ (fun s e => ?_) l s
    split
    · exact onCore_tags _ _ _ (hf e _)
    · exact cacheOnly_refl s
  unfold State.dropCopies
  split
  · exact cacheOnly_refl s
  · dsimp only
    split
    · exact key _ _ (fun e c => ⟨_, _, rfl⟩) _ _
    · exact cacheOnly_trans (key _ _ (fun e c => ⟨_, _, rfl⟩) _ _) (l2_tags _ _)

theorem snoop_tags (s : State) (own : Option Nat) (a n : Nat) : CacheOnly s (s.snoop own a n) :=
  cacheOnly_trans (recall_tags _ _ _ _) (dropCopies_tags _ _ _ _)

/-! ### With no error standing in a protected structure -/

theorem l1Parity_none (s : State) (k code line : Nat) (h : s.err.upsets = []) : s.l1Parity k code line = s := by
  unfold State.l1Parity; rw [if_pos h]

theorem mbufParity_none (s : State) (k : Nat) (e : MergeEnt) (h : s.err.upsets = []) : s.mbufParity k e = s := by
  unfold State.mbufParity; rw [if_pos h]

theorem l1dLook_tags (s : State) (k line hint : Nat) (h : s.err.upsets = []) : CacheOnly s (s.l1dLook k line hint) := by
  unfold State.l1dLook
  rw [l1Parity_none s k 8 line h]
  simp only [ite_self]
  refine cacheOnly_trans ?_ (onCore_tags _ _ _ ⟨_, _, rfl⟩)
  split
  · exact cacheOnly_refl s
  · exact cacheOnly_trans (countCore_tags _ _ _ _) (l2Read_tags _ _ _ _ _)

theorem l1iLook_tags (s : State) (k line hint : Nat) (h : s.err.upsets = []) : CacheOnly s (s.l1iLook k line hint) := by
  unfold State.l1iLook
  simp only [l1Parity_none s k 7 line h, ite_self]
  generalize hs1 : (if ((s.core k).l1i.find 4 (line % 256) line).isNone = true then (s.countCore k 3 1).l2Read k (line * 64) 64 hint else s) = s1
  have h1 : CacheOnly s s1 := by
    subst hs1
    split
    · exact cacheOnly_trans (countCore_tags _ _ _ _) (l2Read_tags _ _ _ _ _)
    · exact cacheOnly_refl s
  have h2 : CacheOnly s (s1.onCore k (fun c => { c with l1i := c.l1i.l1 line hint })) :=
    cacheOnly_trans h1 (onCore_tags _ _ _ ⟨_, _, rfl⟩)
  split
  · refine cacheOnly_trans h2 (onCore_tags _ _ _ ?_)
    dsimp only
    split
    · exact ⟨_, _, rfl⟩
    · exact ⟨_, _, rfl⟩
  · exact h2

end Sys2Proof.Laws
end

