-- ==== Sys2Proof/Laws/CoreAccess.lean ====
section
/-! SUPPORT. Laws of a core's scalar accesses in plain memory: where they land, what they read and where a store goes. -/

namespace Sys2Proof.Laws

open Sys2Proof Sys2Proof.Machine

theorem upFrom_one (a : Nat) : upFrom a 1 = [a] := rfl

theorem oneLine {a n : Nat} (hn : n ≠ 0) (h : a % 64 + n ≤ 64) : (a + n - 1) / 64 + 1 - a / 64 = 1 := by omega

theorem linesOf_one {a n : Nat} (hn : n ≠ 0) (h : a % 64 + n ≤ 64) : linesOf a n = [a / 64 * 64] := by
  unfold linesOf; rw [oneLine hn h]; rfl

theorem lineParts_one {a n : Nat} (hn : n ≠ 0) (h : a % 64 + n ≤ 64) : lineParts a n = [(a, n)] := by
  unfold lineParts
  rw [if_neg hn, oneLine hn h]
  simp only [upFrom_one, List.map_cons, List.map_nil]
  have h1 : max a (a / 64 * 64) = a := by omega
  have h2 : min (a + n) (a / 64 * 64 + 64) - a = n := by omega
  rw [h1, h2]

/-- A Machine-level scalar access inside one line is one access. -/
theorem scalar_one {c : Core} {a : Word} {n : Nat} (kd : Acc) (d : Nat) (hp : c.priv = 3) (hn : n ≠ 0) (h : a.toNat % 64 + n ≤ 64) :
    c.scalar kd a n d = [⟨kd, a.toNat, n, a, d⟩] := by
  unfold Core.scalar Core.trim
  simp only [hp, if_true, lineParts_one hn h, List.map_cons, List.map_nil, Nat.sub_self, Nat.add_zero]
  have : a + w64 0 = a := by simp [w64]
  rw [this]

theorem inMemory_cacheable {s : State} {a : Nat} (h : InMemory s a) :
    Loc.cacheable (.dev a) = true ∧ Loc.mmio (.dev a) = none ∧ s.hotLoc (.dev a) = false := by
  rcases h with ⟨d, h⟩ | ⟨j, h, hs⟩
  · simp [Loc.cacheable, Loc.mmio, State.hotLoc, State.hotAt, h]
  · simp [Loc.cacheable, Loc.mmio, State.hotLoc, State.hotAt, h, hs]

theorem inMemory_not_hot {s : State} {a : Nat} (k : Nat) (h : InMemory s a) : s.coreHot k (.dev a) = false := by
  simp [State.coreHot, (inMemory_cacheable h).2.2]

theorem misal_plain {s : State} {k : Nat} {kd : Acc} {a : Word} {n : Nat} (h : PlainAccess s k kd a n) :
    (s.core k).misal a n = false := by
  obtain ⟨_, _, hm, _⟩ := h
  unfold Core.misal
  cases hc : (s.core k).mce
  · rfl
  · simp [hm hc]

/-- The part of a plain access: its place is its own address. -/
def plainPart (s : State) (k : Nat) (kd : Acc) (a : Word) (n d : Nat) : CPart :=
  ⟨kd, a.toNat, n, a, d, .dev a.toNat, effHint (s.locHint k (.dev a.toNat)) 0 0⟩

theorem corePlaces_one {s : State} {k : Nat} {kd : Acc} {a : Word} {n : Nat} (d : Nat) (r : CPlaces) (as : List CAcc)
    (h : PlainPlace s k kd a n) :
    State.corePlaces k (s.core k) 0 (⟨kd, a.toNat, n, a, d⟩ :: as) r s =
      State.corePlaces k (s.core k) 0 as { r with parts := r.parts ++ [plainPart s k kd a n d] } s := by
  obtain ⟨hp, _, _, hm, _⟩ := h
  rw [State.corePlaces]
  unfold State.corePlace
  simp [hp, inMemory_not_hot k hm, plainPart]

theorem partFail_plain {s : State} {k : Nat} {kd : Acc} {a : Word} {n : Nat} (d : Nat) (h : PlainPlace s k kd a n) :
    s.partFail (coreMaster k) none (plainPart s k kd a n d) = none := by
  obtain ⟨_, hn, hl, hm, ha⟩ := h
  rw [linesOf_one hn hl] at ha
  unfold State.partFail plainPart
  simp only [linesOf_one hn hl, List.findSome?_cons, List.findSome?_nil, ha, (inMemory_cacheable hm).2.1]

/-- A plain access of one part goes on at its place, with nothing changed. -/
theorem access_one {s : State} {k : Nat} {kd : Acc} {a : Word} {n : Nat} (d : Nat) (f : State → List CPart → GRes)
    (h : PlainPlace s k kd a n) :
    s.access k 0 none ((s.core k).scalar kd a n d) f = f s [plainPart s k kd a n d] := by
  unfold State.access
  rw [scalar_one kd d h.1 h.2.1 h.2.2.1]
  dsimp only
  rw [corePlaces_one d _ _ h, State.corePlaces]
  simp [State.firstFail, partFail_plain d h]

/-- Two plain accesses. -/
theorem access_two {s : State} {k : Nat} {kd ke : Acc} {a b : Word} {n m : Nat} (d e : Nat) (f : State → List CPart → GRes)
    (h : PlainPlace s k kd a n) (h' : PlainPlace s k ke b m) :
    s.access k 0 none ((s.core k).scalar kd a n d ++ (s.core k).scalar ke b m e) f =
      f s [plainPart s k kd a n d, plainPart s k ke b m e] := by
  unfold State.access
  rw [scalar_one kd d h.1 h.2.1 h.2.2.1, scalar_one ke e h'.1 h'.2.1 h'.2.2.1]
  dsimp only
  rw [List.cons_append, List.nil_append, corePlaces_one d _ _ h, corePlaces_one e _ _ h', State.corePlaces]
  simp [State.firstFail, partFail_plain d h, partFail_plain e h']

theorem remote_plain (s : State) (k : Nat) (kd : Acc) (a : Word) (n d : Nat) : (plainPart s k kd a n d).remote = false := rfl

/-- A load that the youngest overlapping store holds whole, or that none overlaps, lets no store out. -/
theorem letOut_whole {s : State} {k u n : Nat} (h : Whole (s.core k) u n) (f : Nat) : State.letOut k u n f s = s := by
  cases f with
  | zero => rfl
  | succ f =>
    rw [State.letOut]
    split
    · rfl
    · rename_i e he
      rw [if_pos (h e he)]

/-- A plain access is permitted, and meets no error. -/
theorem tryAcc_plain {s : State} {k : Nat} {kd : Acc} {a : Word} {n : Nat} (b : Bool) (h : PlainAccess s k kd a n) :
    s.tryAcc (coreMaster k) kd b a.toNat n = (none, s) := by
  obtain ⟨⟨_, _, _, _, ha⟩, _, _, hi, hu⟩ := h
  unfold State.tryAcc
  have : s.injHit b (linesOf a.toNat n) = false := by simp [State.injHit, hi]
  simp [ha, this, hu]

/-- A plain read brings what the core sees, and changes the tags of caches at most. -/
theorem readAt_plain {s : State} {k : Nat} {a : Word} {n : Nat} (d : Nat) (h : PlainAccess s k .rd a n) (hw : Whole (s.core k) a.toNat n) :
    ∃ s2, s.readAt k false (plainPart s k .rd a n d) = (some (Seen s k a.toNat n), s2) ∧ CacheOnly s s2 := by
  have hm := h.1.2.2.2.1
  have hc := (inMemory_cacheable hm).1
  have hu := h.2.2.2.2
  unfold State.readAt
  simp only [plainPart, Loc.uni, hc, Bool.true_and, Bool.false_or, Bool.not_true, Bool.false_eq_true, if_false, letOut_whole hw]
  have look : ∀ h', CacheOnly s (if (!!(s.core k).det) = true then (if a.toNat < 2 ^ 64 then s.traffic (coreMaster k) .read h' a.toNat n else s)
      else s.l1dLook k (a.toNat / 64) h') := by
    intro h'
    split
    · split
      · exact traffic_tags _ _ _ _ _ _
      · exact cacheOnly_refl s
    · exact l1dLook_tags s k _ _ hu
  rcases hm with ⟨q, hq⟩ | ⟨q, hq, _⟩ <;> simp only [hq, tryAcc_plain _ h] <;> exact ⟨_, rfl, look _⟩

/-- A plain load: `done` gets the number its bytes spell. -/
theorem loadOp_plain {s : State} {k : Nat} {a : Word} {n : Nat} (done : State → Nat → GRes) (h : PlainAccess s k .rd a n)
    (hw : Whole (s.core k) a.toNat n) :
    ∃ s2, s.loadOp k a n done = done s2 (leNat (Seen s k a.toNat n)) ∧ CacheOnly s s2 := by
  obtain ⟨s2, hr, hs⟩ := readAt_plain 0 h hw
  refine ⟨s2, ?_, hs⟩
  unfold State.loadOp
  simp only [misal_plain h, Bool.false_eq_true, if_false]
  unfold State.memOp
  rw [access_one 0 _ h.1]
  have harr := h.2.1
  simp only [plainPart, List.filter_cons, List.filter_nil, missing, CPart.remote, harr, arrivedFor, List.find?_nil] at hr ⊢
  simp [State.readAll, arrivedFor, hr, State.writeAll, scalarNat, Nat.pos_of_ne_zero h.1.2.1]

/-! ### Stores -/

/-- A list of bad lines that holds none that the state's does not. -/
def BadLess (s : State) (b : SMap (List Nat)) : Prop := ∀ l, ({ s with err := { s.err with bad := b } } : State).isBad l = true → s.isBad l = true

theorem clearBad_eq (s : State) (a n : Nat) : ∃ b, s.clearBad a n = { s with err := { s.err with bad := b } } ∧ BadLess s b := by
  unfold State.clearBad
  split
  · exact ⟨s.err.bad, rfl, fun _ h => h⟩
  · refine ⟨_, rfl, ?_⟩
    have key : ∀ (f : SMap (List Nat) → Nat → SMap (List Nat)) (_ : ∀ m l k x, (SMap.get [] (f m l) k).contains x = true → (SMap.get [] m k).contains x = true)
        (ls : List Nat) (m : SMap (List Nat)) (k x : Nat), (SMap.get [] (ls.foldl f m) k).contains x = true → (SMap.get [] m k).contains x = true := by
      intro f hf ls
      induction ls with
      | nil => exact fun _ _ _ h => h
      | cons l ls ih => exact fun m k x h => hf _ _ _ _ (ih _ _ _ h)
    intro l h
    unfold State.isBad at h ⊢
    cases hb : badKey l with
    | none => simp [hb] at h
    | some y =>
      obtain ⟨j, x⟩ := y
      simp only [hb] at h ⊢
      refine key _ (fun m l k x hx => ?_) _ _ _ _ h
      have put : ∀ (p : Prop) [Decidable p] (k' b' : Nat), (SMap.get [] (if p then SMap.set [] m k' ((SMap.get [] m k').filter (· != b')) else m) k).contains x = true →
          (SMap.get [] m k).contains x = true := by
        intro p _ k' b' hy
        split at hy
        · rw [get_set] at hy
          split at hy
          · rename_i he
            rw [← he]
            simp only [List.contains_eq_mem, List.mem_filter, decide_eq_true_eq] at hy ⊢
            exact hy.1
          · exact hy
        · exact hy
      split at hx
      · exact put _ _ _ hx
      · exact hx

/-! ### What holds of a change of one core beside tags -/

theorem coreTags_of {s t : State} {k : Nat} (h : CacheOnly s t) : CoreTags s t k := by
  obtain ⟨h1, h2, h3, h4, h5⟩ := h
  refine ⟨by rw [h1]; rfl, h2, h3, fun j => ?_, h5⟩
  rw [core_setCore]
  split
  · rename_i hj; subst hj; exact ⟨(t.core k).l1d, (t.core k).l1i, rfl⟩
  · exact h4 j

theorem coreIs_of {s t : State} {k : Nat} (h : CacheOnly s t) : CoreIs t k (s.core k) := h.2.2.2.1 k

/-- A change of tags, then of one core. -/
theorem coreTags_core {s t u : State} {k : Nat} (h : CoreTags s t k) (g : CoreOnly t u k) : CoreTags s u k := by
  obtain ⟨h1, h2, h3, h4, h5⟩ := h
  obtain ⟨g1, g2, g3⟩ := g
  refine ⟨by rw [g1, h1]; rfl, by rw [g1]; exact h2, fun j => by rw [g1]; exact h3 j, fun j => ?_, fun off ho => (g3 off ho).trans (h5 off ho)⟩
  rw [core_setCore]
  split
  · rename_i hj; subst hj; exact ⟨(u.core k).l1d, (u.core k).l1i, rfl⟩
  · rename_i hj
    have := h4 j
    rw [core_setCore, if_neg hj] at this
    rw [g2 j (Ne.symm hj)]; exact this

theorem coreTags_tags {s t u : State} {k : Nat} (h : CoreTags s t k) (g : CacheOnly t u) : CoreTags s u k := by
  obtain ⟨h1, h2, h3, h4, h5⟩ := h
  obtain ⟨g1, g2, g3, g4, g5⟩ := g
  refine ⟨by rw [g1, h1]; rfl, by rw [g2, h2]; rfl, fun j => stackTags_trans (h3 j) (g3 j), fun j => ?_, fun off ho => (g5 off ho).trans (h5 off ho)⟩
  rw [core_setCore]
  split
  · rename_i hj; subst hj; exact ⟨(u.core k).l1d, (u.core k).l1i, rfl⟩
  · rename_i hj
    obtain ⟨d, i, e⟩ := h4 j
    rw [core_setCore, if_neg hj] at e
    obtain ⟨d', i', e'⟩ := g4 j
    exact ⟨d', i', by rw [e', e]⟩

/-! ### Writes -/

/-- A store's own part of the change: memory and the list of bad lines, over a change of tags. -/
theorem storeOnly_of {s t : State} {k a : Nat} {bs : List Byte}
    (h : CacheOnly { s with mem := Mem.writeN s.mem a bs, err := { s.err with bad := t.err.bad } } t) : StoreOnly s t k a bs := coreTags_of h

/-- Bytes stored in memory: what the copies elsewhere lose is tags. -/
theorem storeBy_tags (s : State) (own : Option Nat) (a : Nat) (bs : List Byte) :
    ∃ b, CacheOnly { s with mem := Mem.writeN s.mem a bs, err := { s.err with bad := b } } (s.storeBy own a bs) ∧ BadLess s b := by
  unfold State.storeBy
  dsimp only
  obtain ⟨h1, h2, h3, h4, h5⟩ := snoop_tags s own a bs.length
  generalize s.snoop own a bs.length = x at *
  obtain ⟨b, hb, hl⟩ := clearBad_eq ({ x with mem := Mem.writeN x.mem a bs } : State) a bs.length
  rw [hb]
  refine ⟨b, ⟨?_, h2, h3, h4, h5⟩, fun l h => ?_⟩
  · rw [h1]
  · have := hl l h
    unfold State.isBad at this ⊢
    rw [h1] at this
    exact this

/-- A change of tags before a store. -/
theorem store_after {s t u : State} {a : Nat} {bs : List Byte} {b : SMap (List Nat)} (h : CacheOnly s t)
    (g : CacheOnly { t with mem := Mem.writeN t.mem a bs, err := { t.err with bad := b } } u) :
    CacheOnly { s with mem := Mem.writeN s.mem a bs, err := { s.err with bad := b } } u := by
  refine cacheOnly_trans ?_ g
  obtain ⟨h1, h2, h3, h4, h5⟩ := h
  exact ⟨by rw [h1], h2, h3, h4, h5⟩

/-- A core's write of device memory, performed. -/
theorem coreWrite_plain (s : State) (k : Nat) (a : Nat) (bs : List Byte) (h : Nat) (ha : a < 2 ^ 64) :
    ∃ b, CacheOnly { s with mem := Mem.writeN s.mem a bs, err := { s.err with bad := b } } (s.coreWrite k a bs h) ∧ BadLess s b := by
  unfold State.coreWrite
  dsimp only
  rw [if_pos ha]
  split
  · have ht : CacheOnly s ((linesOf a bs.length).foldl
      (fun s l => s.l2Acc k (l / 64) h true (decide (a ≤ l) && decide (l + 64 ≤ a + bs.length))) s) :=
      cacheOnly_foldl _ (fun s l => l2Acc_tags _ _ _ _ _ _) _ _
    obtain ⟨b, hb, hl⟩ := storeBy_tags ((linesOf a bs.length).foldl
      (fun s l => s.l2Acc k (l / 64) h true (decide (a ≤ l) && decide (l + 64 ≤ a + bs.length))) s) (some k) a bs
    refine ⟨b, store_after ht hb, fun l hx => ?_⟩
    have := hl l hx
    unfold State.isBad at this ⊢
    rw [cacheOnly_bad ht] at this
    exact this
  · obtain ⟨b, hb, hl⟩ := storeBy_tags s none a bs
    exact ⟨b, cacheOnly_trans hb (memPort_tags _ _ _ _ _ _), hl⟩

theorem atomWrite_plain (s : State) (k : Nat) (a : Nat) (bs : List Byte) (ha : a < 2 ^ 64) :
    ∃ b, CacheOnly { s with mem := Mem.writeN s.mem a bs, err := { s.err with bad := b } } (s.atomWrite k a bs) := by
  unfold State.atomWrite
  rw [if_pos ha]
  obtain ⟨b, hb, _⟩ := storeBy_tags s none a bs
  exact ⟨b, cacheOnly_trans hb (meterMem_tags _ _ _ _ _)⟩

/-- A plain store enters the store buffer, where it has room. -/
theorem storeOp_buffer {s : State} {k : Nat} {a : Word} {bs : List Byte} (done : State → GRes) (h : PlainAccess s k .wr a bs.length)
    (hb : (s.core k).sbuf.length < 8) :
    ∃ s2, s.storeOp k a bs done = done s2 ∧ CoreOnly s s2 k ∧ s2.core k = { s.core k with
      sbuf := (s.core k).sbuf ++ [⟨a.toNat, bs, effHint (s.locHint k (.dev a.toNat)) 0 0⟩],
      l1d := (s.core k).l1d.l1Store (a.toNat / 64) } := by
  have hc : ∀ (f g : Core → Core), CoreOnly s ((s.onCore k f).onCore k g) k ∧ ((s.onCore k f).onCore k g).core k = g (f (s.core k)) := by
    intro f g
    refine ⟨⟨rfl, fun j hj => ?_, fun _ _ => rfl⟩, ?_⟩
    · rw [core_onCore, if_neg (Ne.symm hj), core_onCore, if_neg (Ne.symm hj)]
    · rw [core_onCore, if_pos rfl, core_onCore, if_pos rfl]
  refine ⟨(s.onCore k (fun c => { c with sbuf := c.sbuf ++ [⟨a.toNat, bs, effHint (s.locHint k (.dev a.toNat)) 0 0⟩] })).onCore k
    (fun c => { c with l1d := c.l1d.l1Store (a.toNat / 64) }), ?_, (hc _ _).1, (hc _ _).2⟩
  unfold State.storeOp
  simp only [misal_plain h, Bool.false_eq_true, if_false]
  unfold State.memOp
  rw [access_one 0 _ h.1]
  have hm := inMemory_cacheable h.1.2.2.2.1
  simp only [plainPart, List.filter_cons, List.filter_nil, missing, CPart.remote, h.2.1, arrivedFor, List.find?_nil]
  simp [State.readAll, State.writeAll, State.writeAt, hm.1, hm.2.1, scalarData, Loc.uni, State.pushStore, hb, h.2.1]

/-! ### Atomics -/

theorem drainOver_none {s : State} {k : Nat} (ls : List Nat) (h1 : (s.core k).sbuf = []) (h2 : (s.core k).mbuf = []) :
    s.drainOver k ls = s := by
  unfold State.drainOver
  simp [h1, h2]

/-- A plain atomic with no store buffered: the old number, and the new one where there is one. -/
theorem atomicOn_plain {s : State} {k : Nat} {a : Word} {n : Nat} (f : Nat → Option Nat) (aop : Nat) (payload : List Byte)
    (done : State → Nat → GRes) (h : PlainAccess s k .at a n) (hn : a.toNat % n = 0) (h1 : (s.core k).sbuf = []) (h2 : (s.core k).mbuf = []) :
    ∃ s2, s.atomicOn k a n f aop payload done = done s2 (Mem.readLE s.mem a.toNat n) ∧ CoreIs s2 k (s.core k) ∧
      (match f (Mem.readLE s.mem a.toNat n) with
       | some v => StoreOnly s s2 k a.toNat (leBytes n v)
       | none => CoreTags s s2 k) := by
  have hm := inMemory_cacheable h.1.2.2.2.1
  let h' := effHint (s.locHint k (.dev a.toNat)) 0 0
  let s3 := ((s.recall none a.toNat n).dropCopies none a.toNat n).memPort (coreMaster k) .atomic h' a.toNat n
  have hs : CacheOnly s s3 := cacheOnly_trans (cacheOnly_trans (recall_tags _ _ _ _) (dropCopies_tags _ _ _ _)) (memPort_tags _ _ _ _ _ _)
  have hrun : s.atomicOn k a n f aop payload done =
      (match f (Mem.readLE s.mem a.toNat n) with
       | some v => done (s3.atomWrite k a.toNat (leBytes n v)) (Mem.readLE s.mem a.toNat n)
       | none => done s3 (Mem.readLE s.mem a.toNat n)) := by
    unfold State.atomicOn
    simp only [hn, ne_eq, not_true_eq_false, if_false]
    rw [access_one 0 _ h.1]
    simp only [plainPart, missing, CPart.remote, h.2.1, arrivedFor, List.find?_nil, List.filter_cons, List.filter_nil, Loc.uni, Loc.cacheable,
      drainOver_none _ h1 h2]
    simp only [Bool.false_and, Bool.false_eq_true, if_false, List.foldl_nil]
    rcases h.1.2.2.2.1 with ⟨q, hq⟩ | ⟨q, hq, _⟩ <;> simp only [hq, tryAcc_plain _ h] <;>
      cases f (Mem.readLE s.mem a.toNat n) <;> rfl
  rw [hrun]
  cases hf : f (Mem.readLE s.mem a.toNat n) with
  | none => exact ⟨_, rfl, coreIs_of hs, coreTags_of hs⟩
  | some v =>
    obtain ⟨b, hb⟩ := atomWrite_plain s3 k a.toNat (leBytes n v) a.isLt
    have := store_after hs hb
    refine ⟨_, rfl, this.2.2.2.1 k, storeOnly_of ?_⟩
    have e : (s3.atomWrite k a.toNat (leBytes n v)).err.bad = b := cacheOnly_bad this
    rw [e]
    exact this

/-- A store followed by a change of the storing core alone. -/
theorem storeOnly_core {s t u : State} {k a : Nat} {bs : List Byte} (h : StoreOnly s t k a bs) (h' : CoreOnly t u k) :
    StoreOnly s u k a bs := by
  have e : u.err.bad = t.err.bad := by rw [h'.1]
  unfold StoreOnly
  rw [e]
  exact coreTags_core h h'

theorem coreOnly_store {s t u : State} {k a : Nat} {bs : List Byte} (h : CoreOnly s t k) (h' : StoreOnly t u k a bs) :
    StoreOnly s u k a bs := by
  obtain ⟨h1, h2, h3⟩ := h
  obtain ⟨g1, g2, g3, g4, g5⟩ := h'
  refine ⟨by rw [g1, h1]; rfl, by rw [g2, h1]; rfl, fun j => ?_, fun j => ?_, fun off ho => (g5 off ho).trans (h3 off ho)⟩
  · have := g3 j
    rw [h1] at this; exact this
  · have := g4 j
    simp only [core_setCore] at this ⊢
    split
    · rename_i hj; rw [if_pos hj] at this; exact this
    · rename_i hj; rw [if_neg hj] at this
      obtain ⟨d, i, e⟩ := this
      exact ⟨d, i, e.trans (by show { t.core j with l1d := d, l1i := i } = _; rw [h2 j (Ne.symm hj)]; rfl)⟩

end Sys2Proof.Laws
end

