-- ==== Sys2Proof/Laws/CoreEntry.lean ====
section
/-! SUPPORT. What taking an exception or interrupt leaves (spec/08_exceptions_interrupts R219, R221). -/

namespace Sys2Proof.Laws

open Sys2Proof Sys2Proof.Machine

theorem testBit_natPut (n hi lo v b : Nat) (h : lo ≤ hi) :
    (natPut n hi lo v).testBit b = if b < lo then n.testBit b else if b ≤ hi then v.testBit (b - lo) else n.testBit b := by
  unfold natPut
  simp only [Nat.testBit_or, Nat.testBit_shiftLeft, Nat.testBit_shiftRight, Nat.testBit_mod_two_pow]
  by_cases h1 : b < lo
  · simp [h1, show ¬ hi + 1 ≤ b by omega, show ¬ lo ≤ b by omega]
  · by_cases h2 : b ≤ hi
    · simp [h1, h2, show ¬ hi + 1 ≤ b by omega, show lo ≤ b by omega, show b - lo < hi + 1 - lo by omega]
    · simp only [h1, h2, if_false, show hi + 1 ≤ b by omega, decide_true, Bool.true_and, show ¬ b - lo < hi + 1 - lo by omega, decide_false, Bool.false_and, Bool.and_false,
        Bool.or_false]
      congr 1; omega

theorem w64_bit (n b : Nat) (h : b < 64) : (w64 n).getLsbD b = n.testBit b := by
  unfold w64
  rw [BitVec.getLsbD_ofNat]
  simp only [h, decide_true, Bool.true_and]

/-- STATUS after an entry, bit by bit. -/
theorem statusEntry_bit (c : Word) (super fast : Bool) : ∀ b, b < 64 →
    (w64 (statusEntry c.toNat (if super then 1 else 3) fast)).getLsbD b = match b with
      | 0 => true
      | 1 => !super
      | 2 => false
      | 3 => if fast then false else c.getLsbD 3
      | 5 => if fast then true else c.getLsbD 5
      | 6 => false
      | b => c.getLsbD b := by
  intro b h
  rw [w64_bit _ _ h]
  unfold statusEntry
  match b with
  | 0 => cases fast <;> cases super <;> simp [testBit_natPut, -Nat.testBit_zero] <;> rfl
  | 1 => cases fast <;> cases super <;> simp [testBit_natPut] <;> rfl
  | 2 => cases fast <;> simp [testBit_natPut]
  | 3 => cases fast <;> simp [testBit_natPut, BitVec.getLsbD]
  | 4 => cases fast <;> simp [testBit_natPut, BitVec.getLsbD]
  | 5 => cases fast <;> simp [testBit_natPut, BitVec.getLsbD]
  | 6 => cases fast <;> simp [testBit_natPut]
  | b + 7 => cases fast <;> simp [testBit_natPut, BitVec.getLsbD]

/-- The core after an entry whose frame is written. -/
def enteredCore (c : Core) (super : Bool) (sp pc : Word) (cause : Nat) (addr : Word) (fast : Bool) (h : Word) : Core :=
  let c1 := (((c.wc (if super then crSSP else crMSP) sp).wc (if super then crEPC else crMEPC) pc).wc
    (if super then crECAUSE else crMCAUSE) (w64 cause)).wc (if super then crEADDR else crMADDR) addr
  (c1.wc crSTATUS (w64 (statusEntry (c1.rc crSTATUS).toNat (if super then 1 else 3) fast))).entered h

theorem keepRep_cr (c : Core) : c.keepRep.cr = c.cr := by unfold Core.keepRep; split <;> rfl

theorem keepRep_eq (c : Core) : c.keepRep = { c with reps := c.keepRep.reps, repN := c.keepRep.repN } := by unfold Core.keepRep; split <;> rfl

theorem entered_of (s : State) (k : Nat) (super : Bool) (sp pc : Word) (cause : Nat) (addr : Word) (fast : Bool) (h : Word) :
    Entered s (s.setCore k (enteredCore (s.core k).keepRep super sp pc cause addr fast h)) k super sp pc cause addr fast h := by
  have hs : (((((((s.core k).keepRep.wc (if super then crSSP else crMSP) sp).wc (if super then crEPC else crMEPC) pc).wc
    (if super then crECAUSE else crMCAUSE) (w64 cause)).wc (if super then crEADDR else crMADDR) addr).rc crSTATUS)) = (s.core k).rc crSTATUS := by
    simp only [Core.rc, Core.wc, keepRep_cr]
    cases super <;> rw [get_set_ne _ _ _ (by decide), get_set_ne _ _ _ (by decide), get_set_ne _ _ _ (by decide), get_set_ne _ _ _ (by decide)]
  unfold Entered
  dsimp only
  rw [core_setCore, if_pos rfl]
  refine ⟨coreOnly_setCore _ _ _, ?_, ?_, ?_, ?_, ?_, ?_, ?_, ?_, ?_, ?_⟩
  · simp only [enteredCore, Core.entered, Core.wc]
    rw [keepRep_eq]
  · intro hr
    simp [enteredCore, Core.entered, Core.wc, Core.keepRep, hr]
  · intro hr
    simp [enteredCore, Core.entered, Core.wc, Core.keepRep, hr]
  case refine_9 =>
    intro b hb
    refine Eq.trans ?_ (statusEntry_bit ((s.core k).rc crSTATUS) super fast b hb)
    unfold enteredCore
    dsimp only
    rw [hs]
    simp only [Core.entered, Core.rc, Core.wc]
    rw [get_set_ne _ _ _ (by decide), get_set_self]
  case refine_10 =>
    intro r h1 h2 h3 h4 h5 h6
    simp only [enteredCore, Core.entered, Core.rc, Core.wc, keepRep_cr]
    rw [get_set_ne _ _ _ (Ne.symm h2), get_set_ne _ _ _ (Ne.symm h1), get_set_ne _ _ _ (Ne.symm h6), get_set_ne _ _ _ (Ne.symm h5),
      get_set_ne _ _ _ (Ne.symm h4), get_set_ne _ _ _ (Ne.symm h3)]
  all_goals
    simp only [enteredCore, Core.entered, Core.rc, Core.wc]
    cases super <;> simp [get_set, crSTATUS, crIWCNT, crSSP, crMSP, crEPC, crMEPC, crECAUSE, crMCAUSE, crEADDR, crMADDR, w64]

/-- Machine entry, its frame written. -/
theorem machineEntry_ok {s s2 : State} {k : Nat} {e : Entry} {orig : Nat} (hr : ((s.core k).rc crMSTKLIM).toNat + 64 ≤ ((s.core k).rc crMSP).toNat)
    (hp : s.push k 3 ((s.core k).rc crMSP - 64) ((s.core k).frame e.kind e.code e.sub e.pc e.parked) = .ok s2)
    (h : Word) (hh : (e.kind = kindFast ∧ (s2.core k).fvecL ≠ none ∧ h = (s2.core k).rc crFVEC) ∨ (e.kind ≠ kindFast ∧ ∃ l, (s2.core k).mvecL = some l ∧ h = evenTarget (nth 0 l (vectorOf e.code)))) :
    ∃ t, s.machineEntry k e orig = some t ∧
      Entered s2 t k false ((s.core k).rc crMSP - 64) e.pc (causeWord e.code e.sub orig) e.addr (decide (e.kind = kindFast)) h := by
  unfold State.machineEntry
  dsimp only
  rw [if_neg (by omega), hp]
  dsimp only
  refine ⟨_, rfl, ?_⟩
  rcases hh with ⟨hk, hf, rfl⟩ | ⟨hk, l, hl, rfl⟩
  · have hf' : (s2.core k).fvecL.isNone = false := by cases h' : (s2.core k).fvecL <;> simp_all
    simp only [hk, decide_true, if_true, hf', Bool.false_eq_true, if_false]
    exact entered_of s2 k false _ _ _ _ true _
  · have : s2.handler k false (vectorOf e.code) = (evenTarget (nth 0 l (vectorOf e.code)), s2) := by
      unfold State.handler; simp [hl]
    simp only [hk, decide_false, Bool.false_eq_true, if_false, this]
    exact entered_of s2 k false _ _ _ _ false _

/-- An entry that is no FAST one, to Supervisor level, its frame written. -/
theorem enter_super {s s2 : State} {k : Nat} {e : Entry} (hk : e.kind ≠ kindFast) (hp : (s.core k).priv ≠ 3)
    (hr : ((s.core k).rc crSTKLIM).toNat + 64 ≤ ((s.core k).rc crSSP).toNat)
    (hq : s.push k 1 ((s.core k).rc crSSP - 64) ((s.core k).frame e.kind e.code e.sub e.pc e.parked) = .ok s2)
    (l : List Word) (hl : (s2.core k).svecL = some l) :
    ∃ t, s.enter k e = some t ∧ Entered s2 t k true ((s.core k).rc crSSP - 64) e.pc (causeWord e.code e.sub 0) e.addr false
      (evenTarget (nth 0 l (vectorOf e.code))) := by
  unfold State.enter
  dsimp only
  rw [if_pos ⟨hk, hp⟩, if_neg (by omega), hq]
  dsimp only
  refine ⟨_, rfl, ?_⟩
  have : s2.handler k true (vectorOf e.code) = (evenTarget (nth 0 l (vectorOf e.code)), s2) := by
    unfold State.handler; simp [hl]
  simp only [this]
  exact entered_of s2 k true _ _ _ _ false _

theorem enter_machine {s : State} {k : Nat} {e : Entry} (h : e.kind = kindFast ∨ (s.core k).priv = 3) :
    s.enter k e = s.machineEntry k e 0 := by
  unfold State.enter
  dsimp only
  rw [if_neg]
  intro ⟨h1, h2⟩
  rcases h with h | h
  · exact h1 h
  · exact h2 h

end Sys2Proof.Laws
end

