-- ==== Sys2Proof/Laws/CoreFetch.lean ====
section
/-! SUPPORT. Laws of a core's fetch in plain memory, and of the instructions that fetch and decode what follows them. -/

namespace Sys2Proof.Laws

open Sys2Proof Sys2Proof.Machine

/-- A plain fetch goes on with nothing changed but tags. -/
theorem ifetch_plain {s : State} {k : Nat} {a : Word} {n : Nat} (h : PlainPlace s k .ex a n) (hu : s.err.upsets = []) :
    ∃ s1, (∀ f, s.ifetch k a n f = f s1) ∧ CacheOnly s s1 ∧
      ((s.core k).det = false → ∃ x, s1 = s.l1iLook k (a.toNat / 64) x) := by
  have hm := inMemory_cacheable h.2.2.2.1
  refine ⟨if !(s.core k).det then s.l1iLook k (a.toNat / 64) (effHint (s.locHint k (.dev a.toNat)) 0 0)
    else s.traffic (coreMaster k) .read (effHint (s.locHint k (.dev a.toNat)) 0 0) a.toNat n, fun f => ?_, ?_, fun hd => ⟨_, by rw [hd]; rfl⟩⟩
  · unfold State.ifetch
    dsimp only
    rw [access_one 0 _ h]
    simp only [plainPart, List.findSome?_cons, List.findSome?_nil, h.2.2.2.2, List.foldl_cons, List.foldl_nil, hm.1, Loc.uni, Bool.true_and]
  · split
    · exact l1iLook_tags s k _ _ hu
    · exact traffic_tags _ _ _ _ _ _

/-- What an access check rests on, of `s` and of `t`: the same, but for stacks that may have woken, and lines that are no longer bad. -/
def SameAccess (s t : State) : Prop :=
  t.boot = s.boot ∧ t.pwr = s.pwr ∧ t.ptr = s.ptr ∧ (∀ l, t.isBad l = true → s.isBad l = true) ∧ ∀ j, StackTags (s.stack j) (t.stack j)

theorem cacheOnly_access {s t : State} (h : CacheOnly s t) : SameAccess s t :=
  ⟨cacheOnly_boot h, cacheOnly_pwr h, cacheOnly_ptr h, fun l hx => by unfold State.isBad at hx ⊢; rw [cacheOnly_bad h] at hx; exact hx, h.2.2.1⟩

/-- A line that exists for a master still does after a change of tags. -/
theorem lineExists_keeps {s t : State} (h : SameAccess s t) (m y : Nat) (he : s.lineExists m y = true) : t.lineExists m y = true := by
  obtain ⟨hb, hp, _, _, hs⟩ := h
  unfold State.lineExists State.inShed State.mmioServed State.inShed at *
  rw [hb, hp]
  split at he <;> try exact he
  rename_i j _
  rcases (hs j).2 with ⟨e, _⟩ | ⟨_, e, _⟩
  · rw [e]; exact he
  · rw [e]

/-- An access that is permitted still is after a change of tags. -/
theorem accCheck_keeps {s t : State} (h : SameAccess s t) (m : Nat) (kd : Acc) (l : List Nat) (hc : s.accCheck m kd l = none) :
    t.accCheck m kd l = none := by
  have hp : t.ptr = s.ptr := h.2.2.1
  have hb := h.2.2.2.1
  induction l with
  | nil => rfl
  | cons y l ih =>
    have e2 : ∀ tg o, t.permits m kd tg o = s.permits m kd tg o := by
      intro tg o
      unfold State.permits State.unassigned State.ownerOf State.member
      simp only [State.entry, State.dieOwner, State.stackOwner, State.queueOwner, hp]
    unfold State.accCheck at hc ⊢
    by_cases he : s.lineExists m y = true
    · simp only [he, lineExists_keeps h m y he, Bool.not_true, Bool.false_eq_true, if_false, e2] at hc ⊢
      split at hc
      · exact absurd hc (by simp)
      · split at hc
        · exact absurd hc (by simp)
        · rename_i h1
          rw [if_neg h1]
          split at hc
          · exact absurd hc (by simp)
          · rename_i h2
            rw [if_neg (fun hx => h2 ⟨hx.1, hb y hx.2⟩)]
            exact ih hc
    · simp [he] at hc

theorem inMemory_keeps {s t : State} (h : SameAccess s t) {a : Nat} (hm : InMemory s a) : InMemory t a := by
  rcases hm with hm | ⟨j, hm, hh⟩
  · exact Or.inl hm
  · refine Or.inr ⟨j, hm, ?_⟩
    rcases (h.2.2.2.2 j).2 with ⟨e, _⟩ | ⟨_, e, _⟩
    · rw [e]; exact hh
    · rw [e]; simp

/-- ERR_INJ is no counter. -/
theorem errInj_notCounter : ¬ CounterAt regErrInj.addr := by
  have h0 : regErrInj.addr = 0x1B00018 := rfl
  rintro ⟨b, c, hc, h | h⟩ <;> rw [h0] at h <;> cases b with
  | die p b =>
    have hp := p.isLt
    have hb := b.isLt
    first
      | (have e : (pmcCtrReg (.die p b) c).addr = 0x491000 + 0x200000 * p.val + 0x80 * b.val + 0x8 * c := rfl
         omega)
      | (have e : (pmcEvtReg (.die p b) c).addr = 0x491040 + 0x200000 * p.val + 0x80 * b.val + 0x8 * c := rfl
         omega)
  | module b =>
    have hb := b.isLt
    first
      | (have e : (pmcCtrReg (.module b) c).addr = 0x1901000 + 0x80 * b.val + 0x8 * c := rfl
         omega)
      | (have e : (pmcEvtReg (.module b) c).addr = 0x1901040 + 0x80 * b.val + 0x8 * c := rfl
         omega)

/-- The injection's arming survives counters. -/
theorem errInj_keeps {s t : State} (h : ∀ off, ¬ CounterAt off → SMap.get none t.regs off = SMap.get none s.regs off) :
    t.rget regErrInj = s.rget regErrInj := by
  unfold State.rget
  rw [h _ errInj_notCounter]

/-- Plain places stay plain after a change of tags. -/
theorem plainPlace_after {s t : State} {k : Nat} {kd : Acc} {a : Word} {n : Nat} (h : CacheOnly s t) (hp : PlainPlace s k kd a n) :
    PlainPlace t k kd a n := by
  obtain ⟨h1, h2, h3, h4, h5⟩ := hp
  obtain ⟨d, i, e⟩ := h.2.2.2.1 k
  exact ⟨by rw [e]; exact h1, h2, h3, inMemory_keeps (cacheOnly_access h) h4, accCheck_keeps (cacheOnly_access h) _ _ _ h5⟩

theorem plainAccess_after {s t : State} {k : Nat} {kd : Acc} {a : Word} {n : Nat} (h : CacheOnly s t) (hp : PlainAccess s k kd a n) :
    PlainAccess t k kd a n := by
  obtain ⟨h1, h2, h3, h4, h5⟩ := hp
  obtain ⟨d, i, e⟩ := h.2.2.2.1 k
  exact ⟨plainPlace_after h h1, by rw [e]; exact h2, by rw [e]; exact h3, by rw [errInj_keeps h.2.2.2.2]; exact h4,
    by rw [cacheOnly_upsets h]; exact h5⟩

/-! ### L1I's lines -/

theorem way_put (c : Cache) (nw set w v : Nat) (x : CacheWay) :
    (c.put nw set w x).way nw set v = if w = v then x else c.way nw set v := by
  unfold Cache.put Cache.way
  rw [get_set]
  simp

theorem find_some {c : Cache} {set line w : Nat} (h : c.find 4 set line = some w) :
    w < 4 ∧ (c.way 4 set w).valid = true ∧ (c.way 4 set w).line = line := by
  unfold Cache.find at h
  have h1 := List.mem_of_find?_eq_some h
  have h2 := List.find?_some h
  simp only [Bool.and_eq_true, beq_iff_eq] at h2
  exact ⟨by simpa using h1, h2.1, h2.2⟩

/-- A way written with another number of the same line leaves the line where it is found. -/
theorem find_put {c : Cache} {set line w : Nat} (x : CacheWay) (h : c.find 4 set line = some w) (hv : x.valid = true) (hl : x.line = line) :
    (c.put 4 set w x).find 4 set line = some w := by
  have h2 := find_some h
  unfold Cache.find at h ⊢
  rw [← h]
  congr 1
  funext v
  rw [way_put]
  split
  · rename_i e; subst e; simp [hv, hl, h2.2.1, h2.2.2]
  · rfl

theorem l1_hit {c : Cache} {line w : Nat} (hint : Nat) (h : c.find 4 (line % 256) line = some w) :
    (c.l1 line hint).find 4 (line % 256) line = some w ∧ ((c.l1 line hint).way 4 (line % 256) w).data = (c.way 4 (line % 256) w).data := by
  have h2 := find_some h
  unfold Cache.l1
  simp only [h]
  exact ⟨find_put _ h h2.2.1 h2.2.2, by rw [way_put]; simp⟩

/-- After a lookup the line is found as it was before it: what L1I held, or memory's bytes. -/
theorem l1iLook_line {s : State} {k : Nat} (a hint : Nat) (hu : s.err.upsets = []) (hd : (s.core k).det = false) (ha : a < 2 ^ 64) :
    codeLine (s.l1iLook k (a / 64) hint) k a = codeLine s k a := by
  have hcar : (s.core k).det = ((s.l1iLook k (a / 64) hint).core k).det := by
    obtain ⟨d, i, e⟩ := (l1iLook_tags s k (a / 64) hint hu).2.2.2.1 k
    rw [e]; rfl
  have hmem := cacheOnly_mem (l1iLook_tags s k (a / 64) hint hu)
  unfold codeLine
  rw [← hcar, hd, hmem]
  simp only [Bool.false_eq_true, if_false]
  unfold State.l1iLook
  simp only [l1Parity_none s k 7 (a / 64) hu, ite_self]
  cases hf : (s.core k).l1i.find 4 (a / 64 % 256) (a / 64) with
  | some w =>
    simp only [Option.isNone_some, Bool.false_eq_true, if_false, core_onCore, if_true]
    obtain ⟨h1, h2⟩ := l1_hit hint hf
    rw [h1]
    exact h2
  | none =>
    simp only [Option.isNone_none, if_true]
    have ht : CacheOnly s (((s.countCore k 3 1).l2Read k (a / 64 * 64) 64 hint).onCore k (fun c => { c with l1i := c.l1i.l1 (a / 64) hint })) :=
      cacheOnly_trans (cacheOnly_trans (countCore_tags _ _ _ _) (l2Read_tags _ _ _ _ _)) (onCore_tags _ _ _ ⟨_, _, rfl⟩)
    generalize ((s.countCore k 3 1).l2Read k (a / 64 * 64) 64 hint).onCore k (fun c => { c with l1i := c.l1i.l1 (a / 64) hint }) = s2 at *
    have hh : s2.homeLine (a / 64) = Mem.readN s.mem (a / 64 * 64) 64 := by
      unfold State.homeLine
      rw [if_pos (by omega), cacheOnly_mem ht]
    rw [core_onCore, if_pos rfl, hh]
    cases hg : (s2.core k).l1i.find 4 (a / 64 % 256) (a / 64) with
    | none => simp only [hg]
    | some w =>
      have h2 := find_some hg
      dsimp only
      rw [find_put { (s2.core k).l1i.way 4 (a / 64 % 256) w with data := Mem.readN s.mem (a / 64 * 64) 64 } hg h2.2.1 h2.2.2]
      dsimp only
      rw [way_put]
      simp

/-- A plain fetch keeps the line that a core's fetches find. -/
theorem ifetch_line {s s1 : State} {k : Nat} {a : Word} {n : Nat} (h : PlainPlace s k .ex a n) (hu : s.err.upsets = [])
    (hr : ∀ f, s.ifetch k a n f = f s1) : codeLine s1 k a.toNat = codeLine s k a.toNat := by
  obtain ⟨s2, f2, o2, l2⟩ := ifetch_plain h hu
  have e : s1 = s2 := by
    have := (hr (fun s => .hold s)).symm.trans (f2 (fun s => .hold s))
    simpa using this
  subst e
  cases hd : (s.core k).det with
  | false =>
    obtain ⟨x, e⟩ := l2 hd
    rw [e]
    exact l1iLook_line _ _ hu hd a.isLt
  | true =>
    obtain ⟨d, i, e⟩ := o2.2.2.2.1 k
    unfold codeLine
    have : (s1.core k).det = true := by rw [e]; exact hd
    simp only [this, hd, if_true, cacheOnly_mem o2]

/-- The bytes of a plain fetch are those of the line; it then stands in the fetch buffer. -/
theorem codeAt_plain {s : State} {k : Nat} {a : Word} {n : Nat} (h : PlainPlace s k .ex a n) (hl : FetchesLine s k a.toNat) :
    s.codeAt k a n = (codeNat s k a.toNat n, s.onCore k (fun c => { c with fbuf := some (a.toNat / 64, codeLine s k a.toNat) })) := by
  have hm := inMemory_cacheable h.2.2.2.1
  have hlat : (s.core k).latched a.toNat n = none := by
    unfold Core.latched
    dsimp only
    split
    · rw [if_neg]
      rintro ⟨_, hb, _⟩
      rw [hl.1] at hb
      exact absurd hb (by simp)
    · rfl
  have hh : s.homeLine (a.toNat / 64) = Mem.readN s.mem (a.toNat / 64 * 64) 64 := by
    unfold State.homeLine
    rw [if_pos (by have := a.isLt; omega)]
  have hline : s.fetchLine k (a.toNat / 64) (!(s.core k).det) =
      (codeLine s k a.toNat, s.onCore k (fun c => { c with fbuf := some (a.toNat / 64, codeLine s k a.toNat) })) := by
    have pick : ∀ bs, bs = codeLine s k a.toNat → ∀ x, (s.core k).fbuf = some x → (x.1 ≠ a.toNat / 64 ∨ x.2 = bs) := by
      intro bs hb x hx
      by_cases e : x.1 = a.toNat / 64
      · right
        rw [hb]
        exact hl.2 x.2 (by rw [hx, ← e])
      · exact Or.inl e
    have fin : ∀ bs, bs = codeLine s k a.toNat →
        (match (match (s.core k).fbuf with
          | some (l, old) => if l ≠ a.toNat / 64 ∨ old = bs then (bs, s) else (let (v, s1) := s.draw; (if v % 2 = 1 then old else bs, s1))
          | none => (bs, s) : List Byte × State) with
        | (bs, s1) => (bs, s1.onCore k (fun c => { c with fbuf := some (a.toNat / 64, bs) }))) =
        (codeLine s k a.toNat, s.onCore k (fun c => { c with fbuf := some (a.toNat / 64, codeLine s k a.toNat) })) := by
      intro bs hb
      cases hf : (s.core k).fbuf with
      | none => simp only [hb]
      | some x =>
        have := pick bs hb x hf
        dsimp only
        rw [if_pos this, hb]
    unfold State.fetchLine
    refine fin _ ?_
    unfold codeLine
    rw [hh]
    cases (s.core k).det <;> rfl
  unfold State.codeAt
  dsimp only
  rw [scalar_one .ex 0 h.1 h.2.1 h.2.2.1, corePlaces_one 0 _ _ h, State.corePlaces]
  simp only [plainPart, List.nil_append, State.fetchParts, hlat, Loc.uni, hm.1, Bool.true_and, hline, List.append_nil]
  rfl

/-- A fetch buffer that is filled changes nothing an access rests on. -/
theorem plainPlace_fbuf {s : State} {k : Nat} {kd : Acc} {a : Word} {n : Nat} (f : Option (Nat × List Byte)) (hp : PlainPlace s k kd a n) :
    PlainPlace (s.onCore k (fun c => { c with fbuf := f })) k kd a n := by
  obtain ⟨h1, h2, h3, h4, h5⟩ := hp
  have h : SameAccess s (s.onCore k (fun c => { c with fbuf := f })) := ⟨rfl, rfl, rfl, fun _ h => h, fun _ => stackTags_refl _⟩
  exact ⟨by rw [core_onCore, if_pos rfl]; exact h1, h2, h3, inMemory_keeps h h4, accCheck_keeps h _ _ _ h5⟩

theorem codeLine_fbuf (s : State) (k a : Nat) (f : Option (Nat × List Byte)) : codeLine (s.onCore k (fun c => { c with fbuf := f })) k a = codeLine s k a := by
  unfold codeLine
  rw [core_onCore, if_pos rfl]
  rfl

theorem fetchOnly_of {s t : State} {k : Nat} (h : CacheOnly s t) : FetchOnly s t k := by
  obtain ⟨h1, h2, h3, h4, h5⟩ := h
  refine ⟨by rw [h1]; rfl, h2, h3, fun j => ?_, h5⟩
  obtain ⟨d, i, e⟩ := h4 j
  rw [core_onCore]
  split
  · rename_i hj; subst hj
    exact ⟨d, i, by rw [e]⟩
  · exact ⟨d, i, e⟩

theorem fetchOnly_fbuf {s t : State} {k : Nat} (h : FetchOnly s t k) (f : Option (Nat × List Byte)) :
    FetchOnly s (t.onCore k (fun c => { c with fbuf := f })) k := by
  obtain ⟨h1, h2, h3, h4, h5⟩ := h
  refine ⟨by rw [h1]; rfl, h2, h3, fun j => ?_, h5⟩
  obtain ⟨d, i, e⟩ := h4 j
  rw [core_onCore] at e ⊢
  split at e
  · rename_i hj; subst hj
    rw [if_pos rfl]
    exact ⟨d, i, by simp only [core_onCore, if_true]; rw [e]⟩
  · rename_i hj
    rw [if_neg hj, core_onCore, if_neg hj]
    exact ⟨d, i, e⟩

theorem fetchOnly_tags {s t u : State} {k : Nat} (h : FetchOnly s t k) (g : CacheOnly t u) : FetchOnly s u k := by
  have hf : (u.core k).fbuf = (t.core k).fbuf := by
    obtain ⟨d, i, e⟩ := g.2.2.2.1 k
    rw [e]
  unfold FetchOnly
  rw [hf]
  exact cacheOnly_trans h g

/-- A plain fetch keeps what the next one finds. -/
theorem fetchesLine_after {s t : State} {k a : Nat} (h : CacheOnly s t) (hl : FetchesLine s k a) (hc : codeLine t k a = codeLine s k a) :
    FetchesLine t k a := by
  obtain ⟨d, i, e⟩ := h.2.2.2.1 k
  refine ⟨by rw [e]; exact hl.1, fun bs hb => ?_⟩
  rw [hc]
  rw [e] at hb
  exact hl.2 bs hb

/-- The instruction at a plain place is decoded from the bytes its core finds there. -/
theorem fetches_plain {s : State} {k : Nat} {a : Word} (h2 : PlainPlace s k .ex a 2) (h4 : PlainPlace s k .ex a 4) (hu : s.err.upsets = [])
    (hl : FetchesLine s k a.toNat) :
    ∃ s1, Fetches s k a (gDecode (if (codeNat s k a.toNat 2).testBit 0 then codeNat s k a.toNat 4 else codeNat s k a.toNat 2)) s1 ∧
      FetchOnly s s1 k := by
  obtain ⟨s1, f1, o1, _⟩ := ifetch_plain h2 hu
  have l1 := ifetch_line h2 hu f1
  have hl1 := fetchesLine_after o1 hl l1
  have e1 : ∀ n, codeNat s1 k a.toNat n = codeNat s k a.toNat n := fun n => by unfold codeNat; rw [l1]
  have c1 := codeAt_plain (plainPlace_after o1 h2) hl1
  let s2 := s1.onCore k (fun c => { c with fbuf := some (a.toNat / 64, codeLine s1 k a.toNat) })
  have o2 : FetchOnly s s2 k := fetchOnly_fbuf (fetchOnly_of o1) _
  by_cases ht : (codeNat s k a.toNat 2).testBit 0 = true
  · have h4' : PlainPlace s2 k .ex a 4 := plainPlace_fbuf _ (plainPlace_after o1 h4)
    have hu2 : s2.err.upsets = [] := (cacheOnly_upsets o1).trans hu
    obtain ⟨s3, f3, o3, _⟩ := ifetch_plain h4' hu2
    have l3 := ifetch_line h4' hu2 f3
    have hl2 : FetchesLine s2 k a.toNat := by
      refine ⟨?_, fun bs hb => ?_⟩
      · simp only [s2, core_onCore, if_true]; exact hl1.1
      · simp only [s2, core_onCore, if_true, Option.some.injEq, Prod.mk.injEq, true_and] at hb
        rw [← hb, codeLine_fbuf]
    have c3 := codeAt_plain (plainPlace_after o3 h4') (fetchesLine_after o3 hl2 l3)
    refine ⟨_, fun f => ?_, fetchOnly_fbuf (fetchOnly_tags o2 o3) (some (a.toNat / 64, codeLine s3 k a.toNat))⟩
    unfold State.fetchDecode
    rw [f1, c1, e1]
    dsimp only
    rw [if_pos ht, if_pos ht, f3, c3]
    dsimp only
    have : codeNat s3 k a.toNat 4 = codeNat s k a.toNat 4 := by
      rw [← e1]; unfold codeNat; rw [l3, codeLine_fbuf]
    rw [this]
  · refine ⟨s2, fun f => ?_, o2⟩
    unfold State.fetchDecode
    rw [f1, c1, e1]
    dsimp only
    rw [if_neg ht, if_neg ht]

/-- A fetch that succeeds goes on with whatever is asked of it. -/
theorem ifetch_then {s s1 : State} {k : Nat} {a : Word} {n : Nat} (f : State → GRes)
    (h : s.ifetch k a n (fun s => .ok s none) = .ok s1 none) : s.ifetch k a n f = f s1 := by
  unfold State.ifetch State.access at *
  dsimp only at *
  generalize State.corePlaces k (s.core k) 0 ((s.core k).scalar .ex a n 0) {} s = r at *
  obtain ⟨r, t⟩ := r
  dsimp only at *
  split at h <;> rename_i h1
  · split at h <;> exact absurd h (by simp)
  · split at h <;> rename_i h2
    · exact absurd h (by simp)
    · rw [if_neg h2]
      split at h <;> rename_i h3
      · exact absurd h (by simp)
      · split at h <;> rename_i h4
        · exact absurd h (by simp)
        · simp only [GRes.ok.injEq, and_true] at h
          rw [h]

end Sys2Proof.Laws
end

