-- ==== Sys2Proof/Laws/Drains.lean ====
section
/-! SUPPORT. What draining a core's buffers leaves (spec/06_gelfort_core R180, R184; spec/10_ordering_coherence R267, R269). -/

namespace Sys2Proof.Laws

open Sys2Proof Sys2Proof.Machine

/-- Bytes of an entry, one by one. -/
def writeEach (m : Mem) (base : Nat) (l : List (Nat × Byte)) : Mem := l.foldl (fun m x => Mem.write m (base + x.1) x.2) m

theorem runs_eq (base : Nat) (l : List (Nat × Byte)) (m : Mem) :
    (runsOf l).foldl (fun m r => Mem.writeN m (base + r.1) r.2) m = writeEach m base l := by
  induction l generalizing m with
  | nil => rfl
  | cons x l ih =>
    obtain ⟨o, b⟩ := x
    have h2 : writeEach m base ((o, b) :: l) = writeEach (Mem.write m (base + o) b) base l := rfl
    rw [h2, ← ih]
    cases hr : runsOf l with
    | nil => simp [runsOf, hr, Mem.writeN]
    | cons y r =>
      obtain ⟨o', bs⟩ := y
      simp only [runsOf, hr]
      split
      · rename_i ho
        subst ho
        simp only [List.foldl_cons, Mem.writeN, Nat.add_assoc]
      · simp only [List.foldl_cons, Mem.writeN]

theorem get_absent {α : Type} (d : α) (l : List (Nat × α)) (k : Nat) (h : ∀ x ∈ l, x.1 ≠ k) : SMap.get d l k = d := by
  induction l with
  | nil => rfl
  | cons x l ih =>
    obtain ⟨o, b⟩ := x
    simp only [SMap.get]
    rw [if_neg (h (o, b) (by simp))]
    exact ih (fun y hy => h y (List.mem_cons_of_mem _ hy))

theorem read_writeEach (base : Nat) (l : List (Nat × Byte)) (m : Mem) (a : Nat) (hp : l.Pairwise (fun x y => x.1 < y.1)) :
    Mem.read (writeEach m base l) a = if base ≤ a then SMap.get (Mem.read m a) l (a - base) else Mem.read m a := by
  induction l generalizing m with
  | nil => simp [writeEach, SMap.get]
  | cons x l ih =>
    obtain ⟨o, b⟩ := x
    rw [List.pairwise_cons] at hp
    have h2 : writeEach m base ((o, b) :: l) = writeEach (Mem.write m (base + o) b) base l := rfl
    rw [h2, ih _ hp.2, read_write]
    by_cases h : base ≤ a
    · simp only [h, if_true, SMap.get]
      by_cases ho : o = a - base
      · rw [if_pos ho, if_pos (by omega), get_absent]
        intro y hy; have := hp.1 y hy; omega
      · rw [if_neg ho, if_neg (by omega)]
    · simp only [h, if_false]
      rw [if_neg (by omega)]

/-- Between `s` and `t` a core has written memory, which is now `m`; else tags, and the list of bad lines. -/
def Wrote (s t : State) (m : Mem) : Prop := ∃ b, CacheOnly { s with mem := m, err := { s.err with bad := b } } t ∧ BadLess s b

theorem wrote_trans {s t u : State} {m m' : Mem} (h : Wrote s t m) (h' : Wrote t u m') : Wrote s u m' := by
  obtain ⟨b, ⟨h1, h2, h3, h4, h5⟩, hl⟩ := h
  obtain ⟨b', g, gl⟩ := h'
  refine ⟨b', cacheOnly_trans (t := { t with mem := m', err := { t.err with bad := b' } }) ⟨by rw [h1], h2, h3, h4, h5⟩ g, fun l hx => hl l ?_⟩
  have := gl l hx
  unfold State.isBad at this ⊢
  rw [h1] at this
  exact this

theorem wrote_refl (s : State) : Wrote s s s.mem := ⟨s.err.bad, cacheOnly_refl s, fun _ h => h⟩

theorem wrote_tags {s t u : State} {m : Mem} (h : Wrote s t m) (g : CacheOnly t u) : Wrote s u m := by
  obtain ⟨b, h, hl⟩ := h
  exact ⟨b, cacheOnly_trans h g, hl⟩

theorem wrote_mem {s t : State} {m : Mem} (h : Wrote s t m) : t.mem = m := by
  obtain ⟨b, h, _⟩ := h
  have e := cacheOnly_mem h
  exact e

theorem wrote_upsets {s t : State} {m : Mem} (h : Wrote s t m) : t.err.upsets = s.err.upsets := by
  obtain ⟨b, h, _⟩ := h
  have e := cacheOnly_upsets h
  exact e

theorem wrote_core {s t : State} {m : Mem} (h : Wrote s t m) (j : Nat) : ∃ d i, t.core j = { s.core j with l1d := d, l1i := i } := by
  obtain ⟨b, h, _⟩ := h
  exact h.2.2.2.1 j

theorem wrote_bad {s t : State} {m : Mem} (h : Wrote s t m) (l : Nat) (hx : t.isBad l = true) : s.isBad l = true := by
  obtain ⟨b, h, hl⟩ := h
  refine hl l ?_
  have e := cacheOnly_bad h
  unfold State.isBad at hx ⊢
  rw [e] at hx
  exact hx

theorem coreWrite_wrote (s : State) (k a : Nat) (bs : List Byte) (h : Nat) (ha : a < 2 ^ 64) :
    Wrote s (s.coreWrite k a bs h) (Mem.writeN s.mem a bs) := coreWrite_plain s k a bs h ha

theorem runs_low (l : List (Nat × Byte)) (h : ∀ b ∈ l, b.1 < 64) : ∀ r ∈ runsOf l, r.1 < 64 := by
  induction l with
  | nil => intro r hr; simp [runsOf] at hr
  | cons x l ih =>
    obtain ⟨o, b⟩ := x
    have ho : o < 64 := h (o, b) (by simp)
    have hl := ih (fun y hy => h y (List.mem_cons_of_mem _ hy))
    cases hr : runsOf l with
    | nil => intro r hm; simp [runsOf, hr] at hm; subst hm; exact ho
    | cons y r' =>
      obtain ⟨o', bs⟩ := y
      intro r hm
      simp only [runsOf, hr] at hm
      rw [hr] at hl
      split at hm
      · rcases List.mem_cons.mp hm with rfl | hm
        · exact ho
        · exact hl r (List.mem_cons_of_mem _ hm)
      · rcases List.mem_cons.mp hm with rfl | hm
        · exact ho
        · exact hl r hm

theorem drainEnt_wrote (s : State) (k : Nat) (e : MergeEnt) (hu : s.err.upsets = []) (h1 : ∀ b ∈ e.bytes, b.1 < 64)
    (h2 : e.line * 64 + 64 ≤ 2 ^ 64) : Wrote s (s.drainEnt k e) (writeEach s.mem (e.line * 64) e.bytes) := by
  unfold State.drainEnt
  rw [mbufParity_none s k e hu, ← runs_eq]
  have hl := runs_low e.bytes h1
  generalize runsOf e.bytes = l at hl
  clear hu
  induction l generalizing s with
  | nil => exact wrote_refl s
  | cons r l ih =>
    rw [List.foldl_cons, List.foldl_cons]
    have hr := hl r (by simp)
    have hw := coreWrite_wrote s k (e.line * 64 + r.1) r.2 e.hint (by omega)
    have := ih (s.coreWrite k (e.line * 64 + r.1) r.2 e.hint) (fun r' hr' => hl r' (List.mem_cons_of_mem _ hr'))
    rw [wrote_mem hw] at this
    exact wrote_trans hw this

/-- What an entry of the merging buffer makes of memory. -/
theorem read_ent (m : Mem) (e : MergeEnt) (h1 : ∀ b ∈ e.bytes, b.1 < 64) (h2 : e.bytes.Pairwise (fun x y => x.1 < y.1)) (a : Nat) :
    Mem.read (writeEach m (e.line * 64) e.bytes) a = if a / 64 = e.line then SMap.get (Mem.read m a) e.bytes (a % 64) else Mem.read m a := by
  rw [read_writeEach _ _ _ _ h2]
  by_cases h : a / 64 = e.line
  · rw [if_pos (by omega), if_pos h]
    congr 1; omega
  · rw [if_neg h]
    split
    · rw [get_absent]
      intro x hx hxe
      have := h1 x hx
      omega
    · rfl

/-- Merging-buffer entries of distinct lines, drained. -/
theorem drainMerge (k : Nat) (es : List MergeEnt) (s : State) (hu : s.err.upsets = []) (hn : (es.map MergeEnt.line).Nodup)
    (h : ∀ e ∈ es, e.bytes.Pairwise (fun x y => x.1 < y.1) ∧ (∀ b ∈ e.bytes, b.1 < 64) ∧ e.line * 64 + 64 ≤ 2 ^ 64) :
    ∃ m, Wrote s (es.foldl (fun s e => s.drainEnt k e) s) m ∧
      ∀ a, Mem.read m a = match es.find? (fun e => e.line == a / 64) with
        | some e => SMap.get (Mem.read s.mem a) e.bytes (a % 64)
        | none => Mem.read s.mem a := by
  induction es generalizing s with
  | nil => exact ⟨s.mem, wrote_refl s, fun _ => rfl⟩
  | cons e es ih =>
    obtain ⟨p1, p2, p3⟩ := h e (by simp)
    rw [List.map_cons, List.nodup_cons] at hn
    have hw := drainEnt_wrote s k e hu p2 p3
    obtain ⟨m, hm, hr⟩ := ih (s.drainEnt k e) ((wrote_upsets hw).trans hu) hn.2 (fun e' he' => h e' (List.mem_cons_of_mem _ he'))
    refine ⟨m, wrote_trans hw hm, fun a => ?_⟩
    rw [hr, wrote_mem hw, read_ent _ _ p2 p1, List.find?_cons]
    by_cases ha : e.line = a / 64
    · have hnone : es.find? (fun e => e.line == a / 64) = none := by
        rw [List.find?_eq_none]
        intro e' he' hx
        simp only [beq_iff_eq] at hx
        exact hn.1 (List.mem_map.mpr ⟨e', he', by rw [hx, ha]⟩)
      rw [hnone]
      simp [ha]
    · rw [if_neg (Ne.symm ha)]
      have : (e.line == a / 64) = false := by simpa using ha
      rw [this]

/-- Buffered stores, performed in order. -/
theorem drainStores (k : Nat) (es : List StoreEnt) (s : State) (h : ∀ e ∈ es, e.addr < 2 ^ 64) :
    ∃ m, Wrote s (es.foldl (fun s e => s.coreWrite k e.addr e.bytes e.hint) s) m ∧
      ∀ a, Mem.read m a = match es.reverse.find? (fun e => decide (e.addr ≤ a) && decide (a < e.addr + e.bytes.length)) with
        | some e => nth (Mem.read s.mem a) e.bytes (a - e.addr)
        | none => Mem.read s.mem a := by
  induction es generalizing s with
  | nil => exact ⟨s.mem, wrote_refl s, fun _ => rfl⟩
  | cons e es ih =>
    have hw := coreWrite_wrote s k e.addr e.bytes e.hint (h e (by simp))
    obtain ⟨m, hm, hr⟩ := ih (s.coreWrite k e.addr e.bytes e.hint) (fun e' he' => h e' (List.mem_cons_of_mem _ he'))
    refine ⟨m, wrote_trans hw hm, fun a => ?_⟩
    rw [hr, wrote_mem hw, List.reverse_cons, List.find?_append]
    cases hf : es.reverse.find? (fun e => decide (e.addr ≤ a) && decide (a < e.addr + e.bytes.length)) with
    | some e' =>
      have := List.find?_some hf
      simp only [Bool.and_eq_true, decide_eq_true_eq] at this
      simp only [Option.some_or]
      unfold nth
      rw [List.getD_eq_getElem _ _ (by omega), List.getD_eq_getElem _ _ (by omega)]
    | none =>
      simp only [Option.none_or, List.find?_cons, List.find?_nil]
      rw [read_writeN]
      by_cases ha : e.addr ≤ a ∧ a < e.addr + e.bytes.length
      · rw [if_pos ha]
        simp only [ha.1, ha.2, decide_true, Bool.and_self]
        unfold nth
        rw [List.getD_eq_getElem _ _ (by omega), List.getD_eq_getElem _ _ (by omega)]
      · rw [if_neg ha]
        have : (decide (e.addr ≤ a) && decide (a < e.addr + e.bytes.length)) = false := by
          simp only [Bool.and_eq_false_iff, decide_eq_false_iff_not]
          by_contra hx; push_neg at hx; exact ha ⟨hx.1, hx.2⟩
        rw [this]

/-- A core's buffers drained whole: memory is what the core saw (06 R184; 10 R268). -/
theorem drainAll_wrote (s : State) (k : Nat) (hu : s.err.upsets = []) (h : BuffersOk (s.core k)) :
    ∃ m, Wrote (s.setCore k { s.core k with mbuf := [], sbuf := [] }) (s.drainAll k) m ∧
      ∀ a, Mem.read m a = (s.core k).see a (Mem.read s.mem a) := by
  unfold State.drainAll
  dsimp only
  obtain ⟨m1, w1, r1⟩ := drainMerge k (s.core k).mbuf (s.setCore k { s.core k with mbuf := [], sbuf := [] }) hu h.1 h.2.1
  obtain ⟨m2, w2, r2⟩ := drainStores k (s.core k).sbuf _ (fun e he => (h.2.2 e he).1)
  refine ⟨m2, wrote_trans w1 w2, fun a => ?_⟩
  rw [r2, wrote_mem w1, r1]
  unfold Core.see
  cases hf : (s.core k).sbuf.reverse.find? (fun e => decide (e.addr ≤ a) && decide (a < e.addr + e.bytes.length)) with
  | none => rfl
  | some e =>
    have := List.find?_some hf
    simp only [Bool.and_eq_true, decide_eq_true_eq] at this
    dsimp only
    unfold nth
    rw [List.getD_eq_getElem _ _ (by omega), List.getD_eq_getElem _ _ (by omega)]

/-! ### Stores that move on: the core sees what it saw -/

/-- What the merging buffer holds of a byte. -/
def seeM (ms : List MergeEnt) (u : Nat) (b : Byte) : Byte :=
  match ms.find? (fun e => e.line == u / 64) with
  | some e => SMap.get b e.bytes (u % 64)
  | none => b

theorem seeM_byte (ms : List MergeEnt) (h a : Nat) (v : Byte) (u : Nat) (b : Byte) :
    seeM (mergeByte ms h a v) u b = if u = a then v else seeM ms u b := by
  unfold mergeByte
  split
  · rename_i hany
    unfold seeM
    rw [List.find?_map]
    have hp : ((fun e : MergeEnt => e.line == u / 64) ∘ fun e => if e.line = a / 64 then { e with bytes := SMap.insert e.bytes (a % 64) v, hint := h } else e) =
        fun e => e.line == u / 64 := by
      funext e
      simp only [Function.comp]
      split <;> rfl
    rw [hp]
    by_cases hu : u = a
    · subst hu
      rw [if_pos rfl]
      obtain ⟨e, he, hl⟩ := List.any_eq_true.mp hany
      have hs : (ms.find? (fun e => e.line == u / 64)).isSome = true := by
        rw [List.find?_isSome]; exact ⟨e, he, hl⟩
      obtain ⟨x, hx⟩ := Option.isSome_iff_exists.mp hs
      have hxl := List.find?_some hx
      simp only [beq_iff_eq] at hxl
      simp only [hx, Option.map_some, hxl, if_true, get_insert]
    · rw [if_neg hu]
      cases hx : ms.find? (fun e => e.line == u / 64) with
      | none => rfl
      | some x =>
        have hxl := List.find?_some hx
        simp only [beq_iff_eq] at hxl
        simp only [Option.map_some]
        split
        · rename_i hl
          rw [get_insert, if_neg]
          intro hm
          apply hu
          omega
        · rfl
  · rename_i hany
    unfold seeM
    rw [List.find?_append]
    by_cases hu : u / 64 = a / 64
    · have hn : ms.find? (fun e => e.line == u / 64) = none := by
        rw [List.find?_eq_none]
        intro e he hx
        apply hany
        rw [List.any_eq_true]
        exact ⟨e, he, by rw [← hu]; exact hx⟩
      rw [hn]
      simp only [Option.none_or, List.find?_cons, hu, beq_self_eq_true, SMap.get]
      by_cases hm : a % 64 = u % 64
      · rw [if_pos hm, if_pos (by omega)]
      · rw [if_neg hm, if_neg (by omega)]
    · have : (a / 64 == u / 64) = false := by simpa using Ne.symm hu
      simp only [List.find?_cons, this, List.find?_nil, Option.or_none]
      rw [if_neg (by intro e; exact hu (by rw [e]))]

theorem seeM_bytes (ms : List MergeEnt) (h a : Nat) (bs : List Byte) (u : Nat) (b : Byte) :
    seeM (mergeBytes ms h a bs) u b = if a ≤ u ∧ u < a + bs.length then nth b bs (u - a) else seeM ms u b := by
  induction bs generalizing ms a with
  | nil => rw [if_neg (by simp)]; rfl
  | cons v bs ih =>
    rw [mergeBytes, ih, seeM_byte]
    simp only [List.length_cons]
    by_cases h1 : u = a
    · subst h1
      rw [if_neg (by omega), if_pos rfl, if_pos (by omega)]
      simp [nth]
    · by_cases h2 : a + 1 ≤ u ∧ u < a + 1 + bs.length
      · rw [if_pos h2, if_pos (by omega)]
        have : u - a = (u - (a + 1)) + 1 := by omega
        rw [this]
        simp [nth]
      · rw [if_neg h2, if_neg h1, if_neg (by omega)]

theorem see_eq (c : Core) (u : Nat) (b : Byte) : c.see u b =
    match c.sbuf.reverse.find? (fun e => decide (e.addr ≤ u) && decide (u < e.addr + e.bytes.length)) with
    | some e => nth b e.bytes (u - e.addr)
    | none => seeM c.mbuf u b := rfl

/-- The oldest store in the merging buffer: the core sees what it saw. -/
theorem popStore_see {c c' : Core} (h : c.popStore = some c') (u : Nat) (b : Byte) : c'.see u b = c.see u b := by
  unfold Core.popStore at h
  split at h
  · exact absurd h (by simp)
  · rename_i e es hs
    split at h
    · exact absurd h (by simp)
    · simp only [Option.some.injEq] at h
      subst h
      rw [see_eq, see_eq, hs, List.reverse_cons, List.find?_append]
      dsimp only
      cases hf : es.reverse.find? (fun e => decide (e.addr ≤ u) && decide (u < e.addr + e.bytes.length)) with
      | some x => rfl
      | none =>
        simp only [Option.none_or, List.find?_cons, List.find?_nil]
        rw [seeM_bytes]
        by_cases hu : e.addr ≤ u ∧ u < e.addr + e.bytes.length
        · rw [if_pos hu]
          simp [hu.1, hu.2]
        · rw [if_neg hu]
          have : (decide (e.addr ≤ u) && decide (u < e.addr + e.bytes.length)) = false := by
            simp only [Bool.and_eq_false_iff, decide_eq_false_iff_not]
            by_contra hx; push_neg at hx; exact hu ⟨hx.1, hx.2⟩
          rw [this]

end Sys2Proof.Laws
end

