-- ==== Sys2Proof/Laws/Posting.lean ====
section
/-! SUPPORT. What posting an error record and raising an interrupt source change, and what they leave alone (spec/08_exceptions_interrupts
R231; spec/19_errors R500-R502). -/

namespace Sys2Proof.Laws

open Sys2Proof Sys2Proof.Machine

theorem reported_refl (s : State) : Reported s s := ⟨rfl, fun j => ⟨(s.core j).l1d, (s.core j).l1i, rfl⟩, fun _ => ⟨rfl, rfl, rfl, rfl⟩⟩

theorem reported_trans {s t u : State} (h : Reported s t) (h' : Reported t u) : Reported s u := by
  refine ⟨?_, fun j => ?_, fun hs => ?_⟩
  · have e := congrArg (fun z : State =>
      { z with mem := u.mem, host := u.host, cores := u.cores, memsys := u.memsys, ints := u.ints, ports := u.ports, err := u.err, ldg := u.ldg,
               org := u.org, smb := u.smb }) h.1
    exact h'.1.trans e
  · obtain ⟨d, i, e⟩ := h.2.1 j
    obtain ⟨d', i', e'⟩ := h'.2.1 j
    exact ⟨d', i', by rw [e', e]⟩
  · obtain ⟨a, b, c, d⟩ := h.2.2 hs
    obtain ⟨a', b', c', d'⟩ := h'.2.2 (by rw [d]; exact hs)
    exact ⟨a'.trans a, b'.trans b, c'.trans c, d'.trans d⟩

theorem reported_foldl {α : Type} (f : State → α → State) (h : ∀ s a, Reported s (f s a)) (l : List α) (s : State) :
    Reported s (l.foldl f s) := by
  induction l generalizing s with
  | nil => exact reported_refl s
  | cons a l ih => exact reported_trans (h s a) (ih _)

/-- A change beside cores, memory, the memory system and the Orangery. -/
theorem reported_of {s t : State} (h1 : t = { s with host := t.host, ints := t.ints, ports := t.ports, err := t.err, ldg := t.ldg, smb := t.smb }) :
    Reported s t := by
  have hc : t.cores = s.cores := by rw [h1]
  refine ⟨by rw [h1], fun j => ⟨(s.core j).l1d, (s.core j).l1i, by unfold State.core; rw [hc]⟩, fun _ => ⟨?_, hc, ?_, ?_⟩⟩ <;> rw [h1]

/-- Copies that go are cores' and L2s'. -/
theorem dropCopies_eq (s : State) (own : Option Nat) (a n : Nat) :
    ∃ cs ms, s.dropCopies own a n = { s with cores := cs, memsys := ms } := by
  have key : ∀ (f : State → Nat × Core → State) (_ : ∀ s e, ∃ cs, f s e = { s with cores := cs }) (l : List (Nat × Core)) (s : State),
      ∃ cs, l.foldl f s = { s with cores := cs } := by
    intro f hf l
    induction l with
    | nil => exact fun s => ⟨s.cores, rfl⟩
    | cons e l ih =>
      intro s
      obtain ⟨c1, h1⟩ := hf s e
      obtain ⟨cs, h⟩ := ih (f s e)
      exact ⟨cs, by rw [List.foldl_cons, h, h1]⟩
  have cond : ∀ (p : Prop) (_ : Decidable p) (s : State) (k : Nat) (f : Core → Core), ∃ cs, (if p then s.onCore k f else s) = { s with cores := cs } := by
    intro p _ s k f
    split
    · exact ⟨_, rfl⟩
    · exact ⟨s.cores, rfl⟩
  unfold State.dropCopies
  split
  · exact ⟨s.cores, s.memsys, rfl⟩
  · have fin : ∀ (s1 : State) (m : State → MemSys), (∃ cs, s1 = { s with cores := cs }) →
        ∃ cs ms, { s1 with memsys := m s1 } = { s with cores := cs, memsys := ms } := by
      rintro s1 m ⟨cs, rfl⟩
      exact ⟨cs, _, rfl⟩
    dsimp only
    split
    · obtain ⟨cs, h⟩ := key _ (fun s e => cond _ _ s _ _) s.cores s
      exact ⟨cs, s.memsys, h⟩
    · exact fin _ (fun s1 => { s1.memsys with l2 := _ }) (key _ (fun s e => cond _ _ s _ _) s.cores s)

/-- A write into a session's trace buffer. -/
theorem traceTo_reported (s : State) (i agent raw : Nat) (h : s.org.sess ≠ []) : Reported s (s.traceTo i agent raw) := by
  refine ⟨?_, fun j => ?_, fun hs => absurd hs h⟩
  · unfold State.traceTo
    split
    · rfl
    · split
      · rfl
      · split
        · rename_i a _ w _ _
          obtain ⟨cs, ms, h1⟩ := dropCopies_eq s none (a + w) 64
          rw [h1]
        · rfl
  · unfold State.traceTo
    split
    · exact ⟨_, _, rfl⟩
    · split
      · exact ⟨_, _, rfl⟩
      · split
        · exact (dropCopies_tags s none (_ + _) 64).2.2.2.1 j
        · exact ⟨_, _, rfl⟩

theorem traceTo_sess (s : State) (i agent raw : Nat) (h : s.org.sess ≠ []) : (s.traceTo i agent raw).org.sess ≠ [] := by
  have hne : ∀ v, SMap.set none s.org.sess i (some v) ≠ [] := by
    intro v hn
    have := get_set_self none s.org.sess i (some v)
    rw [hn] at this
    exact absurd this (by simp)
  unfold State.traceTo
  split
  · exact h
  · split
    · exact h
    · split
      · rename_i a n w _ _
        rw [(dropCopies_tags s none (a + w) 64).1]
        exact hne _
      · exact h

theorem trace_reported (s : State) (agent raw : Nat) : Reported s (s.trace agent raw) := by
  unfold State.trace
  split
  · exact reported_refl s
  · rename_i h
    have : ∀ (l : List Nat) (s : State), s.org.sess ≠ [] → Reported s (l.foldl (fun s i => s.traceTo i agent raw) s) := by
      intro l
      induction l with
      | nil => exact fun s _ => reported_refl s
      | cons i l ih =>
        intro s hs
        exact reported_trans (traceTo_reported s i agent raw hs) (ih _ (traceTo_sess s i agent raw hs))
    exact this _ s h

theorem buffer_reported (s : State) (r : ErrRec) : Reported s (s.buffer r) := by
  unfold State.buffer
  dsimp only
  split
  · exact reported_refl s
  · split
    · exact reported_of rfl
    · split
      · exact reported_of rfl
      · split <;> exact reported_of rfl

theorem record_reported (s : State) (r : ErrRec) : Reported s (s.record r).2 := by
  unfold State.record
  dsimp only
  refine reported_trans ?_ (trace_reported _ _ _)
  have h0 : Reported s (s.stamp r.loc r.cause).2 := reported_of rfl
  refine reported_trans (reported_trans h0 (buffer_reported _ { r with stamp := (s.stamp r.loc r.cause).1, start := (s.stamp r.loc r.cause).2.boot.count % 2 ^ 32 })) ?_
  exact reported_of rfl

theorem issued_reported (s : State) (n : Nat) (ro : Bool) : Reported s (s.issued n ro) := by
  unfold State.issued
  split
  · exact reported_refl s
  · exact reported_of rfl

theorem msix_reported (s : State) (port f vec : Nat) : Reported s (s.msix port f vec) := by
  unfold State.msix
  dsimp only
  split
  · exact reported_trans (reported_of rfl) (issued_reported _ _ _)
  · exact reported_of rfl

theorem message_reported (s : State) (p n : Nat) : Reported s (s.message p n) := by
  unfold State.message
  dsimp only
  split
  · split <;> exact reported_of rfl
  · exact msix_reported _ _ _ _

theorem event1_reported (s : State) (p n : Nat) : Reported s (s.event1 p n).1 := by
  unfold State.event1
  dsimp only
  split
  · exact reported_refl s
  · have h : Reported s (if (s.rget (intTarget p n)).testBit 7 && !(s.rget (intTarget p n)).testBit 6 then s
        else s.setIntc p { s.intc p with pend := (s.intc p).pend ||| 2 ^ n }) := by
      split
      · exact reported_refl s
      · exact reported_of rfl
    split
    · split
      · split
        · exact reported_trans h (message_reported _ _ _)
        · exact h
      · exact h
    · exact h

theorem events_reported (l : List (Nat × Nat)) (s : State) : Reported s (State.events l s).1 := by
  induction l generalizing s with
  | nil => exact reported_refl s
  | cons a l ih =>
    obtain ⟨p, n⟩ := a
    unfold State.events
    exact reported_trans (event1_reported s p n) (ih _)

theorem dropRecord_reported (s : State) (p : Nat) : Reported s (s.dropRecord p) := record_reported _ _

theorem dropRecords_reported (l : List Nat) (s : State) : Reported s (State.dropRecords l s) := by
  induction l generalizing s with
  | nil => exact reported_refl s
  | cons p ps ih =>
    rw [State.dropRecords]
    generalize he : State.events [(p, 229)] (s.dropRecord p) = x
    obtain ⟨s1, ds⟩ := x
    have h1 : Reported (s.dropRecord p) s1 := by
      have := events_reported [(p, 229)] (s.dropRecord p)
      rw [he] at this
      exact this
    exact reported_trans (reported_trans (dropRecord_reported s p) h1)
      (reported_trans (reported_foldl _ dropRecord_reported _ _) (ih _))

/-- Raising a source. -/
theorem raise_reported (s : State) (p n : Nat) : Reported s (s.raise p n) := by
  unfold State.raise
  exact reported_trans (events_reported _ _) (dropRecords_reported _ _)

theorem notice_reported (s : State) (kind : Nat) (args : List Nat) (stamp : Nat) : Reported s (s.notice kind args stamp) := by
  unfold State.notice
  split
  · exact reported_of rfl
  · exact reported_refl s

/-- Posting a record. -/
theorem post_reported (s : State) (r : ErrRec) : Reported s (s.post r) := by
  unfold State.post State.postRec
  dsimp only
  have h : Reported s (State.dropRecords (State.events (recSources (s.record r).1) (s.record r).2).2
      (State.events (recSources (s.record r).1) (s.record r).2).1) :=
    reported_trans (record_reported _ _) (reported_trans (events_reported _ _) (dropRecords_reported _ _))
  split
  · exact reported_trans h (reported_trans (reported_of rfl) (notice_reported _ _ _ _))
  · exact h

end Sys2Proof.Laws
end

