-- ==== Sys2Proof/Laws/StoresMoved.lean ====
section
/-! SUPPORT. Buffered stores that move on: the core sees what it saw, and accesses stay what they were (spec/06_gelfort_core R180;
spec/10_ordering_coherence R267-R269). -/

namespace Sys2Proof.Laws

open Sys2Proof Sys2Proof.Machine

theorem core_storesOf (s t : State) (k j : Nat) : (storesOf s t k).core j =
    if k = j then { s.core k with sbuf := (t.core k).sbuf, mbuf := (t.core k).mbuf } else s.core j := core_setCore _ _ _ _

theorem storesMoved_refl (s : State) (k : Nat) : StoresMoved s s k := by
  refine ⟨⟨rfl, rfl, fun _ => stackTags_refl _, fun j => ⟨(s.core j).l1d, (s.core j).l1i, ?_⟩, fun _ _ => rfl⟩, fun _ => rfl, fun _ h => h⟩
  rw [core_storesOf]
  split
  · rename_i hj; subst hj; rfl
  · rfl

/-- The core's own part of such a change. -/
theorem storesMoved_core {s t : State} {k : Nat} (h : StoresMoved s t k) :
    ∃ d i, t.core k = { s.core k with sbuf := (t.core k).sbuf, mbuf := (t.core k).mbuf, l1d := d, l1i := i } := by
  obtain ⟨d, i, e⟩ := h.1.2.2.2.1 k
  rw [core_storesOf, if_pos rfl] at e
  exact ⟨d, i, e⟩

theorem storesMoved_trans {s t u : State} {k : Nat} (h : StoresMoved s t k) (g : StoresMoved t u k) : StoresMoved s u k := by
  have hu : CacheOnly (storesOf s u k) (storesOf t u k) := by
    obtain ⟨h1, h2, h3, h4, h5⟩ := h.1
    refine ⟨by unfold storesOf; rw [h1]; rfl, h2, h3, fun j => ?_, h5⟩
    obtain ⟨d, i, e⟩ := h4 j
    refine ⟨d, i, ?_⟩
    rw [core_storesOf] at e ⊢
    rw [core_storesOf]
    split at e
    · rename_i hj; subst hj
      rw [if_pos rfl, if_pos rfl, e]
    · rename_i hj
      rw [if_neg hj, if_neg hj]; exact e
  exact ⟨cacheOnly_trans hu g.1, fun x => (g.2.1 x).trans (h.2.1 x), fun l hx => h.2.2 l (g.2.2 l hx)⟩

/-- Accesses stay what they were. -/
theorem storesMoved_access {s t : State} {k : Nat} (h : StoresMoved s t k) : SameAccess s t :=
  have e1 := cacheOnly_boot h.1
  have e2 := cacheOnly_pwr h.1
  have e3 := cacheOnly_ptr h.1
  ⟨e1, e2, e3, h.2.2, h.1.2.2.1⟩

theorem storesMoved_plain {s t : State} {k : Nat} {kd : Acc} {a : Word} {n : Nat} (h : StoresMoved s t k) (hp : PlainAccess s k kd a n) :
    PlainAccess t k kd a n := by
  obtain ⟨⟨p1, p2, p3, p4, p5⟩, h2, h3, h4, h5⟩ := hp
  obtain ⟨d, i, e⟩ := storesMoved_core h
  refine ⟨⟨by rw [e]; exact p1, p2, p3, inMemory_keeps (storesMoved_access h) p4, accCheck_keeps (storesMoved_access h) _ _ _ p5⟩,
    by rw [e]; exact h2, by rw [e]; exact h3, ?_, ?_⟩
  · have := errInj_keeps h.1.2.2.2.2
    rw [this]
    exact h4
  · have := cacheOnly_upsets h.1
    rw [this]; exact h5

/-! ### Buffers stay well formed -/

theorem insert_mem {α : Type} (m : SMap α) (k : Nat) (v : α) (x : Nat × α) (h : x ∈ SMap.insert m k v) : x = (k, v) ∨ x ∈ m := by
  induction m with
  | nil => simpa [SMap.insert] using h
  | cons e m ih =>
    obtain ⟨i, w⟩ := e
    unfold SMap.insert at h
    split at h
    · simpa using h
    · split at h
      · rcases List.mem_cons.mp h with h | h
        · exact Or.inl h
        · exact Or.inr (List.mem_cons_of_mem _ h)
      · rcases List.mem_cons.mp h with h | h
        · exact Or.inr (by simp [h])
        · rcases ih h with h | h
          · exact Or.inl h
          · exact Or.inr (List.mem_cons_of_mem _ h)

theorem insert_rising {α : Type} (m : SMap α) (k : Nat) (v : α) (h : m.Pairwise (fun x y => x.1 < y.1)) :
    (SMap.insert m k v).Pairwise (fun x y => x.1 < y.1) := by
  induction m with
  | nil => simp [SMap.insert]
  | cons e m ih =>
    obtain ⟨i, w⟩ := e
    have h' := List.pairwise_cons.mp h
    unfold SMap.insert
    split
    · rename_i hk
      refine List.pairwise_cons.mpr ⟨fun y hy => ?_, h⟩
      rcases List.mem_cons.mp hy with rfl | hy
      · exact hk
      · exact lt_trans hk (h'.1 y hy)
    · split
      · rename_i hk; subst hk
        exact List.pairwise_cons.mpr ⟨h'.1, h'.2⟩
      · rename_i h1 h2
        refine List.pairwise_cons.mpr ⟨fun y hy => ?_, ih h'.2⟩
        rcases insert_mem m k v y hy with rfl | hy
        · show i < k
          omega
        · exact h'.1 y hy

/-- A merging buffer as stores leave it. -/
def MergeOk (ms : List MergeEnt) : Prop :=
  (ms.map MergeEnt.line).Nodup ∧
    ∀ e ∈ ms, e.bytes.Pairwise (fun x y => x.1 < y.1) ∧ (∀ b ∈ e.bytes, b.1 < 64) ∧ e.line * 64 + 64 ≤ 2 ^ 64

theorem mergeByte_ok (ms : List MergeEnt) (h a : Nat) (v : Byte) (hm : MergeOk ms) (ha : a < 2 ^ 64) : MergeOk (mergeByte ms h a v) := by
  unfold mergeByte
  split
  · refine ⟨?_, fun e he => ?_⟩
    · rw [List.map_map]
      have : (MergeEnt.line ∘ fun e : MergeEnt => if e.line = a / 64 then { e with bytes := SMap.insert e.bytes (a % 64) v, hint := h } else e) = MergeEnt.line := by
        funext e
        simp only [Function.comp]
        split <;> rfl
      rw [this]
      exact hm.1
    · obtain ⟨x, hx, rfl⟩ := List.mem_map.mp he
      obtain ⟨p1, p2, p3⟩ := hm.2 x hx
      split
      · refine ⟨insert_rising _ _ _ p1, fun b hb => ?_, p3⟩
        rcases insert_mem _ _ _ _ hb with rfl | hb
        · exact Nat.mod_lt _ (by omega)
        · exact p2 b hb
      · exact ⟨p1, p2, p3⟩
  · rename_i hany
    refine ⟨?_, fun e he => ?_⟩
    · rw [List.map_append, List.nodup_append]
      refine ⟨hm.1, by simp, fun x hx y hy => ?_⟩
      simp only [List.map_cons, List.map_nil, List.mem_singleton] at hy
      subst hy
      intro hxe
      obtain ⟨e, he, hl⟩ := List.mem_map.mp hx
      exact hany (List.any_eq_true.mpr ⟨e, he, by simp [hl, hxe]⟩)
    · rcases List.mem_append.mp he with he | he
      · exact hm.2 e he
      · simp only [List.mem_singleton] at he
        subst he
        refine ⟨by simp, fun b hb => ?_, by show a / 64 * 64 + 64 ≤ _; omega⟩
        simp only [List.mem_singleton] at hb
        subst hb
        exact Nat.mod_lt _ (by omega)

theorem mergeBytes_ok (ms : List MergeEnt) (h a : Nat) (bs : List Byte) (hm : MergeOk ms) (ha : a + bs.length ≤ 2 ^ 64) :
    MergeOk (mergeBytes ms h a bs) := by
  induction bs generalizing ms a with
  | nil => exact hm
  | cons b bs ih =>
    simp only [List.length_cons] at ha
    exact ih _ _ (mergeByte_ok ms h a b hm (by omega)) (by omega)

theorem popStore_ok {c c' : Core} (h : c.popStore = some c') (hb : BuffersOk c) : BuffersOk c' := by
  unfold Core.popStore at h
  split at h
  · exact absurd h (by simp)
  · rename_i e es hs
    split at h
    · exact absurd h (by simp)
    · simp only [Option.some.injEq] at h
      subst h
      have h3 := hb.2.2
      rw [hs] at h3
      have := mergeBytes_ok c.mbuf e.hint e.addr e.bytes ⟨hb.1, hb.2.1⟩ (h3 e (by simp)).2
      exact ⟨this.1, this.2, fun x hx => h3 x (by simp [hx])⟩

/-! ### Stores that move -/

/-- A core whose stores have moved inside its buffers. -/
theorem storesMoved_setCore (s : State) (k : Nat) (c : Core) (hc : c = { s.core k with sbuf := c.sbuf, mbuf := c.mbuf })
    (hs : ∀ u b, c.see u b = (s.core k).see u b) : StoresMoved s (s.setCore k c) k := by
  refine ⟨⟨rfl, rfl, fun _ => stackTags_refl _, fun j => ⟨((s.setCore k c).core j).l1d, ((s.setCore k c).core j).l1i, ?_⟩, fun _ _ => rfl⟩,
    fun x => ?_, fun _ h => h⟩
  · rw [core_storesOf, core_setCore, core_setCore, if_pos rfl]
    have h1 : c.l1d = (s.core k).l1d := by rw [hc]
    have h2 : c.l1i = (s.core k).l1i := by rw [hc]
    split
    · rw [h1, h2]; exact hc
    · rfl
  · rw [core_setCore, if_pos rfl]
    exact hs _ _

/-- Memory written from a core's buffers, which hold the bytes no more. -/
theorem storesMoved_wrote {s t : State} {k : Nat} {m : Mem} (c : Core) (hc : c = { s.core k with sbuf := c.sbuf, mbuf := c.mbuf })
    (h : Wrote (s.setCore k c) t m) (hs : ∀ u, c.see u (Mem.read m u) = (s.core k).see u (Mem.read s.mem u)) : StoresMoved s t k := by
  obtain ⟨d, i, e⟩ := wrote_core h k
  rw [core_setCore, if_pos rfl] at e
  have hsb : (t.core k).sbuf = c.sbuf := by rw [e]
  have hmb : (t.core k).mbuf = c.mbuf := by rw [e]
  refine ⟨?_, fun x => ?_, fun l hx => ?_⟩
  · unfold storesOf
    rw [hsb, hmb, wrote_mem h, ← hc]
    obtain ⟨b, g, _⟩ := h
    have : t.err.bad = b := by have e := cacheOnly_bad g; exact e
    rw [this]
    exact g
  · rw [wrote_mem h, ← hs, e]
    rfl
  · exact wrote_bad h l hx

/-- The oldest buffered store moves on. -/
theorem popOldest_moved {s : State} {k : Nat} (hu : s.err.upsets = []) (hb : BuffersOk (s.core k)) :
    StoresMoved s (s.popOldest k) k ∧ BuffersOk ((s.popOldest k).core k) := by
  unfold State.popOldest
  dsimp only
  cases hs : (s.core k).sbuf with
  | nil => exact ⟨storesMoved_refl s k, hb⟩
  | cons e es =>
    dsimp only
    have h3 := hb.2.2
    rw [hs] at h3
    split
    · rename_i hd
      have hw := coreWrite_wrote (s.setCore k { s.core k with sbuf := es }) k e.addr e.bytes e.hint (h3 e (by simp)).1
      refine ⟨storesMoved_wrote { s.core k with sbuf := es } rfl hw (fun u => ?_), ?_⟩
      · rw [see_eq, see_eq, hs, List.reverse_cons, List.find?_append]
        dsimp only
        rw [hd.2]
        cases hf : es.reverse.find? (fun e => decide (e.addr ≤ u) && decide (u < e.addr + e.bytes.length)) with
        | some x =>
          have := List.find?_some hf
          simp only [Bool.and_eq_true, decide_eq_true_eq] at this
          simp only [Option.some_or]
          unfold nth
          rw [List.getD_eq_getElem _ _ (by omega), List.getD_eq_getElem _ _ (by omega)]
        | none =>
          simp only [Option.none_or, List.find?_cons, List.find?_nil]
          show Mem.read (Mem.writeN s.mem e.addr e.bytes) u = _
          rw [read_writeN]
          by_cases ha : e.addr ≤ u ∧ u < e.addr + e.bytes.length
          · rw [if_pos ha]
            simp only [ha.1, ha.2, decide_true, Bool.and_self]
            unfold nth
            rw [List.getD_eq_getElem _ _ (by omega), List.getD_eq_getElem _ _ (by omega)]
          · rw [if_neg ha]
            have : (decide (e.addr ≤ u) && decide (u < e.addr + e.bytes.length)) = false := by
              simp only [Bool.and_eq_false_iff, decide_eq_false_iff_not]
              by_contra hx; push_neg at hx; exact ha ⟨hx.1, hx.2⟩
            rw [this]
            rfl
      · obtain ⟨d, i, ec⟩ := wrote_core hw k
        rw [core_setCore, if_pos rfl] at ec
        rw [ec]
        exact ⟨hb.1, hb.2.1, fun x hx => h3 x (by simp [show x ∈ es from hx])⟩
    · cases hp : (s.core k).popStore with
      | some c1 =>
        dsimp only
        have hc1 : c1 = { s.core k with sbuf := c1.sbuf, mbuf := c1.mbuf } := by
          unfold Core.popStore at hp
          rw [hs] at hp
          dsimp only at hp
          split at hp
          · exact absurd hp (by simp)
          · simp only [Option.some.injEq] at hp
            subst hp
            rfl
        refine ⟨storesMoved_setCore s k c1 hc1 (popStore_see hp), ?_⟩
        rw [core_setCore, if_pos rfl]
        exact popStore_ok hp hb
      | none =>
        dsimp only
        cases hm : (s.core k).mbuf with
        | nil => exact ⟨storesMoved_refl s k, hb⟩
        | cons x ms =>
          dsimp only
          have hm2 := hb.2.1
          rw [hm] at hm2
          obtain ⟨p1, p2, p3⟩ := hm2 x (by simp)
          have hn := hb.1
          rw [hm, List.map_cons, List.nodup_cons] at hn
          have hw := drainEnt_wrote (s.setCore k { s.core k with sbuf := e :: es, mbuf := ms }) k x hu p2 p3
          refine ⟨storesMoved_wrote { s.core k with sbuf := e :: es, mbuf := ms } rfl hw (fun u => ?_), ?_⟩
          · rw [see_eq, see_eq]
            dsimp only
            rw [hs]
            cases hf : (e :: es).reverse.find? (fun e => decide (e.addr ≤ u) && decide (u < e.addr + e.bytes.length)) with
            | some y =>
              have := List.find?_some hf
              simp only [Bool.and_eq_true, decide_eq_true_eq] at this
              dsimp only
              unfold nth
              rw [List.getD_eq_getElem _ _ (by omega), List.getD_eq_getElem _ _ (by omega)]
            | none =>
              dsimp only
              show seeM ms u (Mem.read (writeEach s.mem (x.line * 64) x.bytes) u) = _
              rw [hm, read_ent _ _ p2 p1]
              unfold seeM
              rw [List.find?_cons]
              by_cases ha : u / 64 = x.line
              · rw [if_pos ha]
                have hnone : ms.find? (fun e => e.line == u / 64) = none := by
                  rw [List.find?_eq_none]
                  intro e' he' hx
                  simp only [beq_iff_eq] at hx
                  exact hn.1 (List.mem_map.mpr ⟨e', he', by rw [hx, ha]⟩)
                rw [hnone]
                simp [ha]
              · rw [if_neg ha]
                have : (x.line == u / 64) = false := by simpa using Ne.symm ha
                rw [this]
          · obtain ⟨d, i, ec⟩ := wrote_core hw k
            rw [core_setCore, if_pos rfl] at ec
            rw [ec]
            exact ⟨hn.2, fun y hy => hm2 y (by simp [show y ∈ ms from hy]), h3⟩

/-- Stores that a load waits for. -/
theorem letOut_moved (f : Nat) {s : State} {k : Nat} (u n : Nat) (hu : s.err.upsets = []) (hb : BuffersOk (s.core k)) :
    StoresMoved s (State.letOut k u n f s) k ∧ BuffersOk ((State.letOut k u n f s).core k) := by
  induction f generalizing s with
  | zero => exact ⟨storesMoved_refl s k, hb⟩
  | succ f ih =>
    rw [State.letOut]
    split
    · exact ⟨storesMoved_refl s k, hb⟩
    · split
      · exact ⟨storesMoved_refl s k, hb⟩
      · obtain ⟨h1, h2⟩ := popOldest_moved (k := k) hu hb
        have hu' : (s.popOldest k).err.upsets = [] := by
          have := cacheOnly_upsets h1.1
          rw [this]; exact hu
        obtain ⟨g1, g2⟩ := ih hu' h2
        exact ⟨storesMoved_trans h1 g1, g2⟩

/-- Both buffers drained. -/
theorem drainAll_moved {s : State} {k : Nat} (hu : s.err.upsets = []) (hb : BuffersOk (s.core k)) :
    StoresMoved s (s.drainAll k) k ∧ ((s.drainAll k).core k).sbuf = [] ∧ ((s.drainAll k).core k).mbuf = [] := by
  obtain ⟨m, hw, hs⟩ := drainAll_wrote s k hu hb
  obtain ⟨d, i, e⟩ := wrote_core hw k
  rw [core_setCore, if_pos rfl] at e
  exact ⟨storesMoved_wrote { s.core k with mbuf := [], sbuf := [] } rfl hw (fun u => (hs u).symm ▸ rfl), by rw [e], by rw [e]⟩

/-- What stands over a line is out of the buffers. -/
theorem drainOver_moved {s : State} {k : Nat} (ls : List Nat) (hu : s.err.upsets = []) (hb : BuffersOk (s.core k)) :
    StoresMoved s (s.drainOver k ls) k ∧
      (∀ e ∈ ((s.drainOver k ls).core k).mbuf, e.line * 64 ∉ ls) ∧
      ∀ e ∈ ((s.drainOver k ls).core k).sbuf, ∀ l ∈ linesOf e.addr e.bytes.length, l ∉ ls := by
  unfold State.drainOver
  dsimp only
  split
  · obtain ⟨h1, h2, h3⟩ := drainAll_moved hu hb
    rw [h2, h3]
    exact ⟨h1, by simp, by simp⟩
  · rename_i h
    simp only [Bool.or_eq_true, List.any_eq_true, not_or, not_exists, not_and] at h
    refine ⟨storesMoved_refl s k, fun e he hx => h.1 e he (by simpa using hx), fun e he l hl hx => h.2 e he l hl (by simpa using hx)⟩

/-! ### Accesses of a core whose stores may have to move first -/

theorem seeN_congr {c c' : Core} {m m' : Mem} (h : ∀ x, c'.see x (Mem.read m' x) = c.see x (Mem.read m x)) (a n : Nat) :
    c'.seeN a (Mem.readN m' a n) = c.seeN a (Mem.readN m a n) := by
  induction n generalizing a with
  | zero => rfl
  | succ n ih => simp only [Mem.readN, Core.seeN, h, ih]

theorem storesMoved_seen {s t : State} {k : Nat} (h : StoresMoved s t k) (a n : Nat) : Seen t k a n = Seen s k a n := seeN_congr h.2.1 a n

theorem storesMoved_tags {s t u : State} {k : Nat} (h : StoresMoved s t k) (g : CacheOnly t u) : StoresMoved s u k := by
  obtain ⟨d, i, e⟩ := g.2.2.2.1 k
  have hs : (u.core k).sbuf = (t.core k).sbuf := by rw [e]
  have hm : (u.core k).mbuf = (t.core k).mbuf := by rw [e]
  refine ⟨?_, fun x => ?_, fun l hx => h.2.2 l ?_⟩
  · unfold storesOf
    rw [hs, hm, cacheOnly_mem g, cacheOnly_bad g]
    exact cacheOnly_trans h.1 g
  · rw [← h.2.1 x, cacheOnly_mem g, e]
    rfl
  · unfold State.isBad at hx ⊢
    rw [cacheOnly_bad g] at hx
    exact hx

theorem storesMoved_of {s t : State} {k : Nat} (h : CacheOnly s t) : StoresMoved s t k := storesMoved_tags (storesMoved_refl s k) h

/-! ### Then a change of one core -/

/-- A change of tags, then of one core. -/
theorem tags_then {X s2 t : State} {k : Nat} (F : Core → Core) (h : CacheOnly X s2)
    (hF : ∀ c d i, ∃ d' i', F { c with l1d := d, l1i := i } = { F c with l1d := d', l1i := i' }) (g : CoreOnly s2 t k) (gc : t.core k = F (s2.core k)) :
    CacheOnly (X.setCore k (F (X.core k))) t := by
  obtain ⟨h1, h2, h3, h4, h5⟩ := h
  obtain ⟨g1, g2, g3⟩ := g
  refine ⟨by rw [g1, h1]; rfl, by rw [g1]; exact h2, fun j => by rw [g1]; exact h3 j, fun j => ?_, fun off ho => (g3 off ho).trans (h5 off ho)⟩
  rw [core_setCore]
  obtain ⟨d, i, e⟩ := h4 j
  split
  · rename_i hj; subst hj
    rw [gc, e]
    exact hF _ _ _
  · rename_i hj
    rw [g2 j (Ne.symm hj)]; exact ⟨d, i, e⟩

/-- Stores that may have moved, then a change of the core that leaves its buffers. -/
theorem moved_then {X s2 t : State} {k : Nat} (F : Core → Core) (h : StoresMoved X s2 k)
    (hF : ∀ c sb mb d i, F { c with sbuf := sb, mbuf := mb, l1d := d, l1i := i } = { F c with sbuf := sb, mbuf := mb, l1d := d, l1i := i }) (g : CoreOnly s2 t k)
    (gc : t.core k = F (s2.core k)) : StoresMoved (X.setCore k (F (X.core k))) t k := by
  obtain ⟨d0, i0, e0⟩ := storesMoved_core h
  have hsb : (t.core k).sbuf = (s2.core k).sbuf := by rw [gc, e0, hF]
  have hmb : (t.core k).mbuf = (s2.core k).mbuf := by rw [gc, e0, hF]
  have hx : ∀ c : Core, (F c).sbuf = c.sbuf ∧ (F c).mbuf = c.mbuf := fun c => by
    have := hF c c.sbuf c.mbuf c.l1d c.l1i
    exact ⟨by have := congrArg Core.sbuf this; exact this, by have := congrArg Core.mbuf this; exact this⟩
  have sees : ∀ (c c' : Core) x b, c.sbuf = c'.sbuf → c.mbuf = c'.mbuf → c.see x b = c'.see x b := by
    intro c c' x b h1 h2; rw [see_eq, see_eq, h1, h2]
  obtain ⟨g1, g2, g3⟩ := g
  have gm : t.mem = s2.mem := by rw [g1]
  have gb : t.err.bad = s2.err.bad := by rw [g1]
  refine ⟨?_, fun x => ?_, fun l hl => h.2.2 l (by unfold State.isBad at hl ⊢; rw [gb] at hl; exact hl)⟩
  · obtain ⟨h1, h2, h3, h4, h5⟩ := h.1
    refine ⟨by unfold storesOf; rw [g1, h1]; rfl, by rw [g1]; exact h2, fun j => by rw [g1]; exact h3 j, fun j => ?_, fun off ho => (g3 off ho).trans (h5 off ho)⟩
    rw [core_storesOf, core_setCore, core_setCore, if_pos rfl]
    split
    · rename_i hj; subst hj
      refine ⟨d0, i0, ?_⟩
      rw [hsb, hmb, gc]
      exact (congrArg F e0).trans (hF _ _ _ _ _)
    · rename_i hj
      obtain ⟨d, i, e⟩ := h4 j
      rw [core_storesOf, if_neg hj] at e
      rw [g2 j (Ne.symm hj)]
      exact ⟨d, i, e⟩
  · rw [core_setCore, if_pos rfl, gm, sees (t.core k) (s2.core k) _ _ hsb hmb, sees (F (X.core k)) (X.core k) _ _ (hx _).1 (hx _).2]
    exact h.2.1 x

/-- A plain read: the bytes that the core sees, once the stores it must wait for have moved on. -/
theorem readAt_moved {s : State} {k : Nat} {a : Word} {n : Nat} (d : Nat) (h : PlainAccess s k .rd a n) (hb : BuffersOk (s.core k)) :
    ∃ s2, s.readAt k false (plainPart s k .rd a n d) = (some (Seen s k a.toNat n), s2) ∧ StoresMoved s s2 k ∧
      (Whole (s.core k) a.toNat n → CacheOnly s s2) := by
  by_cases hw : Whole (s.core k) a.toNat n
  · obtain ⟨s2, h1, h2⟩ := readAt_plain d h hw
    exact ⟨s2, h1, storesMoved_of h2, fun _ => h2⟩
  · have hm := h.1.2.2.2.1
    have hc := (inMemory_cacheable hm).1
    have hu := h.2.2.2.2
    obtain ⟨g1, _⟩ := letOut_moved ((s.core k).sbuf.length + (s.core k).mbuf.length) a.toNat n hu hb
    have h' := storesMoved_plain g1 h
    have hseen := storesMoved_seen g1 a.toNat n
    unfold State.readAt
    simp only [plainPart, Loc.uni, hc, Bool.true_and, Bool.false_or, Bool.not_true, Bool.false_eq_true, if_false]
    generalize State.letOut k a.toNat n ((s.core k).sbuf.length + (s.core k).mbuf.length) s = s1 at *
    have look : ∀ h', CacheOnly s1 (if (!!(s.core k).det) = true then (if a.toNat < 2 ^ 64 then s1.traffic (coreMaster k) .read h' a.toNat n else s1)
        else s1.l1dLook k (a.toNat / 64) h') := by
      intro hint
      split
      · split
        · exact traffic_tags _ _ _ _ _ _
        · exact cacheOnly_refl s1
      · exact l1dLook_tags s1 k _ _ h'.2.2.2.2
    unfold Seen at hseen ⊢
    rcases hm with ⟨q, hq⟩ | ⟨q, hq, _⟩ <;> simp only [hq, tryAcc_plain _ h', hseen] <;>
      exact ⟨_, rfl, storesMoved_tags g1 (look _), fun hx => absurd hx hw⟩

/-- A plain load: `done` gets the number its bytes spell. -/
theorem loadOp_moved {s : State} {k : Nat} {a : Word} {n : Nat} (done : State → Nat → GRes) (h : PlainAccess s k .rd a n)
    (hb : BuffersOk (s.core k)) :
    ∃ s2, s.loadOp k a n done = done s2 (leNat (Seen s k a.toNat n)) ∧ StoresMoved s s2 k ∧ (Whole (s.core k) a.toNat n → CacheOnly s s2) := by
  obtain ⟨s2, hr, hs⟩ := readAt_moved 0 h hb
  refine ⟨s2, ?_, hs⟩
  unfold State.loadOp
  simp only [misal_plain h, Bool.false_eq_true, if_false]
  unfold State.memOp
  rw [access_one 0 _ h.1]
  have harr := h.2.1
  simp only [plainPart, missing, CPart.remote, harr, arrivedFor, List.find?_nil] at hr ⊢
  simp [State.readAll, arrivedFor, hr, State.writeAll, scalarNat, Nat.pos_of_ne_zero h.1.2.1]

/-- With no buffered store over a line, the core sees memory there. -/
theorem seen_memory {c : Core} {m : Mem} {a n : Nat} (hn : n ≠ 0) (hl : a % 64 + n ≤ 64) (h1 : ∀ e ∈ c.mbuf, e.line * 64 ∉ linesOf a n)
    (h2 : ∀ e ∈ c.sbuf, ∀ l ∈ linesOf e.addr e.bytes.length, l ∉ linesOf a n) : c.seeN a (Mem.readN m a n) = Mem.readN m a n := by
  rw [linesOf_one hn hl] at h1
  have h2 : ∀ e ∈ c.sbuf, ∀ l ∈ linesOf e.addr e.bytes.length, l ≠ a / 64 * 64 := by
    intro e he l hle hx
    exact h2 e he l hle (by rw [linesOf_one hn hl]; simp [hx])
  have one : ∀ x, x / 64 = a / 64 → ∀ b, c.see x b = b := by
    intro x hx b
    rw [see_eq]
    have hs : c.sbuf.reverse.find? (fun e => decide (e.addr ≤ x) && decide (x < e.addr + e.bytes.length)) = none := by
      rw [List.find?_eq_none]
      intro e he hc
      simp only [Bool.and_eq_true, decide_eq_true_eq] at hc
      refine h2 e (List.mem_reverse.mp he) (x / 64 * 64) ?_ (by rw [hx])
      unfold linesOf
      refine List.mem_map.mpr ⟨x / 64, ?_, rfl⟩
      have up : ∀ (n a y : Nat), a ≤ y → y < a + n → y ∈ upFrom a n := by
        intro n
        induction n with
        | zero => intro a y h1 h2; omega
        | succ n ih =>
          intro a y h1 h2
          rw [upFrom]
          by_cases h : y = a
          · subst h; simp
          · exact List.mem_cons_of_mem _ (ih _ _ (by omega) (by omega))
      refine up _ _ _ (by omega) (by omega)
    rw [hs]
    dsimp only
    unfold seeM
    have : c.mbuf.find? (fun e => e.line == x / 64) = none := by
      rw [List.find?_eq_none]
      intro e he hc
      simp only [beq_iff_eq] at hc
      exact h1 e he (by simp [hc, hx])
    rw [this]
  have go : ∀ (j b : Nat), a ≤ b → b + j ≤ a + n → c.seeN b (Mem.readN m b j) = Mem.readN m b j := by
    intro j
    induction j with
    | zero => intro b _ _; rfl
    | succ j ih =>
      intro b hb hj
      simp only [Mem.readN, Core.seeN]
      rw [one b (by omega), ih (b + 1) (by omega) (by omega)]
  exact go n a (Nat.le_refl _) (Nat.le_refl _)

/-- A plain atomic: buffered stores over its line go first; then the old number, and the new one where there is one. -/
theorem atomicOn_moved {s : State} {k : Nat} {a : Word} {n : Nat} (f : Nat → Option Nat) (aop : Nat) (payload : List Byte)
    (done : State → Nat → GRes) (h : PlainAccess s k .at a n) (hn : a.toNat % n = 0) (hb : BuffersOk (s.core k)) :
    ∃ s1 s2, s.atomicOn k a n f aop payload done = done s2 (leNat (Seen s k a.toNat n)) ∧ StoresMoved s s1 k ∧
      (match f (leNat (Seen s k a.toNat n)) with
       | some v => CacheOnly { s1 with mem := Mem.writeN s1.mem a.toNat (leBytes n v), err := { s1.err with bad := s2.err.bad } } s2
       | none => CacheOnly s1 s2) := by
  have hm := inMemory_cacheable h.1.2.2.2.1
  obtain ⟨g1, g2, g3⟩ := drainOver_moved (linesOf a.toNat n) h.2.2.2.2 hb
  have h' := storesMoved_plain g1 h
  have hv : Mem.readLE (s.drainOver k (linesOf a.toNat n)).mem a.toNat n = leNat (Seen s k a.toNat n) := by
    rw [← storesMoved_seen g1]
    unfold Seen Mem.readLE
    rw [seen_memory h.1.2.1 h.1.2.2.1 g2 g3]
  let h0 := effHint (s.locHint k (.dev a.toNat)) 0 0
  let s1 := s.drainOver k (linesOf a.toNat n)
  let s3 := ((s1.recall none a.toNat n).dropCopies none a.toNat n).memPort (coreMaster k) .atomic h0 a.toNat n
  have hs : CacheOnly s1 s3 := cacheOnly_trans (cacheOnly_trans (recall_tags _ _ _ _) (dropCopies_tags _ _ _ _)) (memPort_tags _ _ _ _ _ _)
  have hrun : s.atomicOn k a n f aop payload done =
      (match f (leNat (Seen s k a.toNat n)) with
       | some v => done (s3.atomWrite k a.toNat (leBytes n v)) (leNat (Seen s k a.toNat n))
       | none => done s3 (leNat (Seen s k a.toNat n))) := by
    unfold State.atomicOn
    simp only [hn, ne_eq, not_true_eq_false, if_false]
    rw [access_one 0 _ h.1]
    simp only [plainPart, missing, CPart.remote, h.2.1, arrivedFor, List.find?_nil, List.filter_cons, List.filter_nil, Loc.uni, Loc.cacheable]
    simp only [Bool.false_and, Bool.false_eq_true, if_false, List.foldl_nil]
    rcases h.1.2.2.2.1 with ⟨q, hq⟩ | ⟨q, hq, _⟩ <;> simp only [hq, tryAcc_plain _ h', hv] <;>
      cases f (leNat (Seen s k a.toNat n)) <;> rfl
  rw [hrun]
  cases hf : f (leNat (Seen s k a.toNat n)) with
  | none => exact ⟨s1, _, rfl, g1, hs⟩
  | some v =>
    obtain ⟨b, hw⟩ := atomWrite_plain s3 k a.toNat (leBytes n v) a.isLt
    have := store_after hs hw
    refine ⟨s1, _, rfl, g1, ?_⟩
    have e : (s3.atomWrite k a.toNat (leBytes n v)).err.bad = b := cacheOnly_bad this
    dsimp only
    rw [e]
    exact this

end Sys2Proof.Laws
end

