-- ==== Sys2Proof/Laws/Vectors.lean ====
section
/-! SUPPORT. What writing elements of a V register leaves (spec/07_vexten_vectors R189-R194). -/

namespace Sys2Proof.Laws

open Sys2Proof.Machine

theorem leNat_leBytes (n v : Nat) : leNat (leBytes n v) = v % 256 ^ n := by
  induction n generalizing v with
  | zero => simp [leBytes, leNat, Nat.mod_one]
  | succ n ih =>
    simp only [leBytes, leNat, ih, BitVec.toNat_ofNat]
    have : v % 256 ^ (n + 1) = v % 256 + 256 * (v / 256 % 256 ^ n) := by rw [Nat.pow_succ', Nat.mod_mul]
    omega

theorem leBytes_length (n v : Nat) : (leBytes n v).length = n := by
  induction n generalizing v with
  | zero => rfl
  | succ n ih => simp [leBytes, ih]

theorem readN_congr {m m' : Mem} {a n : Nat} (h : ∀ x, a ≤ x → x < a + n → Mem.read m x = Mem.read m' x) :
    Mem.readN m a n = Mem.readN m' a n := by
  induction n generalizing a with
  | zero => rfl
  | succ n ih =>
    simp only [Mem.readN]
    rw [h a (Nat.le_refl _) (by omega), ih (fun x h1 h2 => h x (by omega) (by omega))]

/-- The V registers alone, as elements are written. -/
def vputMem (m : Mem) (r n : Nat) : List (Nat × Nat) → Mem
  | [] => m
  | (i, x) :: l => vputMem (Mem.writeN m (r * 2048 + i * n) (leBytes n x)) r n l

theorem vput_eq (c : Core) (r n : Nat) (l : List (Nat × Nat)) : c.vput r n l = { c with v := vputMem c.v r n l } := by
  induction l generalizing c with
  | nil => rfl
  | cons e l ih => obtain ⟨i, x⟩ := e; rw [Core.vput, ih, vputMem]

theorem vputMem_other (r n : Nat) (l : List (Nat × Nat)) (m : Mem) (x : Nat)
    (h : ∀ e ∈ l, x < r * 2048 + e.1 * n ∨ r * 2048 + e.1 * n + n ≤ x) : Mem.read (vputMem m r n l) x = Mem.read m x := by
  induction l generalizing m with
  | nil => rfl
  | cons e l ih =>
    obtain ⟨i, v⟩ := e
    rw [vputMem, ih _ (fun e he => h e (List.mem_cons_of_mem _ he)), read_writeN, leBytes_length, if_neg]
    have := h (i, v) (by simp)
    simp only at this
    omega

theorem block_disjoint {i j n : Nat} (h : i ≠ j) : i * n + n ≤ j * n ∨ j * n + n ≤ i * n := by
  rcases Nat.lt_or_gt_of_ne h with h | h
  · left; calc i * n + n = (i + 1) * n := by ring
      _ ≤ j * n := Nat.mul_le_mul_right _ h
  · right; calc j * n + n = (j + 1) * n := by ring
      _ ≤ i * n := Nat.mul_le_mul_right _ h

theorem vputMem_same (r n : Nat) (l : List (Nat × Nat)) (m : Mem) (hn : (l.map (fun e => e.1)).Nodup) (e : Nat × Nat) (he : e ∈ l) :
    Mem.readLE (vputMem m r n l) (r * 2048 + e.1 * n) n = e.2 % 256 ^ n := by
  induction l generalizing m with
  | nil => simp at he
  | cons e' l ih =>
    obtain ⟨i, v⟩ := e'
    simp only [List.map_cons, List.nodup_cons] at hn
    rw [vputMem]
    rcases List.mem_cons.mp he with rfl | he
    · unfold Mem.readLE
      rw [readN_congr (m' := Mem.writeN m (r * 2048 + i * n) (leBytes n v))]
      · have := readN_writeN m (r * 2048 + i * n) (leBytes n v)
        rw [leBytes_length] at this
        rw [this, leNat_leBytes]
      · intro x h1 h2
        apply vputMem_other
        intro e he
        have hne : i ≠ e.1 := fun h => hn.1 (h ▸ List.mem_map_of_mem he)
        have := block_disjoint (n := n) hne
        generalize i * n = p at *
        generalize e.1 * n = q at *
        omega
    · exact ih _ hn.2 he

/-- Elements with distinct indexes, written: what `VWrites` says. -/
theorem vputs_writes (c : Core) (r n : Nat) (act : Nat → Prop) (f : Nat → Nat) (l : List (Nat × Nat))
    (hn : (l.map (fun e => e.1)).Nodup) (hl : ∀ i, act i ↔ ∃ v, (i, v) ∈ l) (hf : ∀ e ∈ l, e.2 = f e.1) :
    VWrites c (c.vputs r n l) r n act f := by
  unfold Core.vputs
  have hact : ∀ i, act i → (i, f i) ∈ l := by
    intro i hi
    obtain ⟨v, hv⟩ := (hl i).mp hi
    have := hf _ hv
    simp only at this
    rw [← this]; exact hv
  split
  · rename_i he
    rw [List.isEmpty_iff] at he
    have hno : ∀ i, ¬ act i := by intro i hi; have := hact i hi; simp [he] at this
    exact ⟨fun i hi => absurd hi (hno i), fun _ _ => rfl, fun ⟨i, hi⟩ => absurd hi (hno i), fun _ => rfl⟩
  · rename_i he
    rw [vput_eq]
    refine ⟨fun i hi => ?_, fun x hx => ?_, fun _ => rfl, fun hno => ?_⟩
    · exact vputMem_same r n l c.v hn (i, f i) (hact i hi)
    · apply vputMem_other
      intro e h
      exact hx e.1 ((hl e.1).mpr ⟨e.2, h⟩)
    · exfalso
      cases l with
      | nil => simp at he
      | cons e l => exact hno e.1 ((hl e.1).mpr ⟨e.2, by simp⟩)

theorem actives_nodup (c : Core) (km : Fin 8) : (c.actives km).Nodup := List.Nodup.filter _ List.nodup_range

theorem mem_actives (c : Core) (km : Fin 8) (i : Nat) : i ∈ c.actives km ↔ Active c km i := by
  simp [Core.actives, Core.active, Active]

/-- The active elements, each given a value. -/
theorem vputs_actives (c : Core) (km : Fin 8) (r n : Nat) (f : Nat → Nat) :
    VWrites c (c.vputs r n ((c.actives km).map (fun i => (i, f i)))) r n (Active c km) f := by
  apply vputs_writes
  · simp only [List.map_map]
    have : (fun e : Nat × Nat => e.1) ∘ (fun i => (i, f i)) = id := rfl
    rw [this, List.map_id]; exact actives_nodup c km
  · intro i; rw [← mem_actives]; simp
  · intro e he; simp at he; obtain ⟨i, _, rfl⟩ := he; rfl

theorem wc_run (c : Core) (n : Nat) (v : Word) : (c.wc n v).run = c.run := rfl

theorem vputs_run (c : Core) (r n : Nat) (l : List (Nat × Nat)) : (c.vputs r n l).run = c.run := by
  unfold Core.vputs
  split
  · rfl
  · rw [vput_eq]; rfl

theorem flagsOr_bits (a b : FpFlags) : w64 (a.or b).bits = w64 a.bits ||| w64 b.bits := by
  obtain ⟨a1, a2, a3, a4, a5⟩ := a
  obtain ⟨b1, b2, b3, b4, b5⟩ := b
  cases a1 <;> cases a2 <;> cases a3 <;> cases a4 <;> cases a5 <;> cases b1 <;> cases b2 <;> cases b3 <;> cases b4 <;> cases b5 <;> rfl

/-- Results in floating point of the active elements. -/
theorem vfloat_actives (c : Core) (km : Fin 8) (r n : Nat) (f : Nat → Nat × FpFlags) :
    VFloat c ((c.vputs r n (((c.actives km).map (fun i => (i, f i))).map (fun p => (p.1, p.2.1)))).flags
      (orFlags ((c.actives km).map (fun i => (i, f i))))) r n (Active c km) f := by
  refine ⟨_, w64 (orFlags ((c.actives km).map (fun i => (i, f i)))).bits, ?_, rfl, fun b => ?_⟩
  · rw [List.map_map]; exact vputs_actives c km r n (fun i => (f i).1)
  · have h : ∀ (l : List (Nat × Nat × FpFlags)) (g : FpFlags),
        (w64 (l.foldl (fun f p => f.or p.2.2) g).bits).getLsbD b = true ↔
          (w64 g.bits).getLsbD b = true ∨ ∃ e ∈ l, (w64 e.2.2.bits).getLsbD b = true := by
      intro l
      induction l with
      | nil => intro g; simp
      | cons e l ih => intro g; rw [List.foldl_cons, ih, flagsOr_bits]; simp [or_assoc]
    unfold orFlags
    rw [h]
    have h0 : w64 (({} : FpFlags).bits) = 0 := rfl
    rw [h0]
    simp [← mem_actives]

end Sys2Proof.Laws
end

