-- ==== Sys2Proof/Machine/Pins.lean ====
section
/-! DEFINITION. Pins of the sideband connector that follow the state (spec/20_module_data R521, 20.5; 16 R440). -/

namespace Sys2Proof.Machine

/-- What the LED driver does. -/
inductive Led where
  | off | on
  /-- 1 Hz and 4 Hz, 50 % duty -/
  | hz1 | hz4
  deriving DecidableEq, Repr

/-- Has the start completed, outside Shed mode? -/
def State.startedUp (s : State) : Bool := s.boot.phase == 12

/-- LED# (R521): the first condition that applies. In OFF the module powers no signal of the connector (20.5). -/
def State.led (s : State) : Led :=
  if s.pwr.st = .off then .off
  else if s.pwr.crit ∨ s.ptr.parts.contains .contained then .hz4
  else if s.inShed then .hz1
  else if s.startedUp ∧ (s.pwr.st = .active ∨ s.pwr.st = .idle ∨ s.pwr.st = .nap) then .on
  else .off

/-- PID1 and PID0 (R521): both tied to ground; a KM-1 is present. -/
def pidPins : Nat := 0
/-- SMB_ALERT# is driven (R523). -/
def State.alertPin (s : State) : Bool := s.smb.alert && s.pwr.st != .off

/-- Instructions of the JTAG header that 16 R440 names. -/
inductive Jtag where
  | bypass | idcode | sample | extest
  /-- the debug chain, without or with the Orangery -/
  | chain (orangery : Bool)
  deriving DecidableEq, Repr

/-- IDCODE (16 R440). -/
def jtagId : Nat := 0x00816B3B

/-- Does the JTAG header answer an instruction (16 R440): beyond BYPASS and IDCODE, only for an open session whose PERMS grant JTAG, of
level SITE (session 8) or FULL (session 9)? -/
def State.jtagAnswers (s : State) (i : Jtag) : Bool :=
  let grants := fun (j : Nat) => match s.sess j with | some x => x.perms.testBit 5 | none => false
  s.pwr.st != .off && match i with
  | .bypass => true
  | .idcode => true
  | .sample => grants 8 || grants 9
  | .chain false => grants 8 || grants 9
  | .chain true => grants 9
  | .extest => grants 9

end Sys2Proof.Machine
end

