-- ==== Sys2Proof/Tests/Slice0.lean ====
section
/-! SUPPORT. Tests: decoding of words written out from the formats, well-formedness, and for every statement with hypotheses a state that meets
them. Where a hypothesis rests on a free value (a signature, a serial number), the witness assumes that value. -/

namespace Sys2Proof.Tests
open Sys2Proof Sys2Proof.Machine

set_option Elab.async false

theorem test_idle : step State.reset = .next State.reset.tick := rfl

/-! ### Decoding (06 R161-R164; 07 R196, R197): words written out from the formats, 31:25, 24:20, 19:17, 16:12, 11:7, 6:1, 0 -/

/-- R, I, S, B, J and U formats (06 R163, R164). -/
theorem test_decode_integer :
    (gDecode 0b0000000_00010_000_00001_00011_000001_1).toOption = some (.add .add 3 1 2, 4) ∧
    (gDecode 0b0000001_00010_001_00001_00011_000001_1).toOption = some (.slt .sltu 3 1 2, 4) ∧
    (gDecode 0b0000010_00010_011_00001_00011_000001_1).toOption = some (.mul .mulhsu 3 1 2, 4) ∧
    (gDecode 0b0000010_00010_100_00001_00011_000001_1).toOption = some (.div .div 3 1 2, 4) ∧
    (gDecode 0b100000000001_000_00001_00011_000010_1).toOption = some (.alui .addi 3 1 0x801, 4) ∧
    (gDecode 0b0000_10_111111_110_00001_00011_000010_1).toOption = some (.alui .srai 3 1 63, 4) ∧
    (gDecode 0b000000000100_011_00001_00011_000100_1).toOption = some (.load .ld 3 1 4, 4) ∧
    (gDecode 0b000000000100_010_00001_00011_000101_1).toOption = some (.store .sw 3 1 4, 4) ∧
    (gDecode 0b111111111111_100_00001_00011_000110_1).toOption = some (.branch .bltu 1 3 0xFFF, 4) ∧
    (gDecode 0b10000000000000000001_00011_000111_1).toOption = some (.jal 3 0x80001, 4) ∧
    (gDecode 0b00000000000000000001_00011_001001_1).toOption = some (.lui 3 1, 4) := by decide +kernel

/-- Atomics, floating and fixed point, block and SYS (06 R164, R170, R175). -/
theorem test_decode_system :
    (gDecode 0b0001001_00010_011_00001_00011_001011_1).toOption = some (.cas true 3 1 2, 4) ∧
    (gDecode 0b000000000000_010_00000_00000_001100_1).toOption = some (.fenceDev, 4) ∧
    (gDecode 0b0010011_00010_111_00001_00011_001101_1).toOption = some (.fp .fdiv false 7 3 1 2, 4) ∧
    (gDecode 0b00100_1_1_00010_000_00001_00011_001110_1).toOption = some (.fma true true 0 3 1 2 4, 4) ∧
    (gDecode 0b000000010000_001_00001_00000_010010_1).toOption = some (.mtc 0x010 1, 4) ∧
    (gDecode 0b000000000010_101_00000_00000_010010_1).toOption = some (.eret, 4) ∧
    (gDecode 0).toOption = none := by decide +kernel

/-- The 16-bit formats, 15:11, 10:6, 5:1, 0 (06 R162). -/
theorem test_decode_short :
    (gDecode 0b00010_00011_00001_0).toOption = some (.cMv 3 2, 2) ∧ (gDecode 0b11111_00011_01000_0).toOption = some (.cAddi 3 31, 2) ∧
    (gDecode 0b1000000001_01110_0).toOption = some (.cJ 0x201, 2) ∧ (gDecode 0b0011_010_001_10000_0).toOption = some (.cLd false 1 2 3, 2) ∧
    (gDecode 0b000_111111_1_10100_0).toOption = some (.repN 63, 2) := by decide +kernel

/-- Vexten, 31:25, 24:22, 21:17, 16:12, 11:7, 6:1, 0 (07 R196, R197, R199). -/
theorem test_decode_vexten :
    (gDecode 0b0000000_001_00010_00001_00011_100010_1).toOption = some (.vadd .vadd 3 1 (.v 2) 1, 4) ∧
    (gDecode 0b0000111_000_11111_00001_00011_100100_1).toOption = some (.vsll .vsra 3 1 (.i 31) 0, 4) ∧
    (gDecode 0b0001111_000_00010_00001_00011_100011_1).toOption = some (.vmacc 3 1 (.x 2) 0, 4) ∧
    (gDecode 0b000000000011_000_00001_00011_101100_1).toOption = some (.vsetvl 3 1 3, 4) := by decide +kernel

/-! ### Well-formedness: what the checks refuse, and that a well-formed command passes -/

theorem test_wf_core :
    (Instr.cAdd 0 .sll 1 2).wf = false ∧ (Instr.cSlli 0 .add 1 2).wf = false ∧ (Instr.alui 0 .slli 1 2 64).wf = false ∧
    (Instr.vload 0 (.segment 1) 0 1 2 0).wf = false ∧ (Instr.vstore 0 .wholeV 0 1 2 1).wf = false ∧ (Instr.vload 0 .wholeK 0 8 2 0).wf = false ∧
    (Instr.vfadd 0 .vfadd 1 2 (.i 3) 0).wf = false ∧ (Instr.vectorCompare 0 .eq 1 2 (.i 3) 0).wf = false ∧ (Instr.kand 0 .knot 1 2 3).wf = false ∧
    (Instr.alui 0 .slli 1 2 63).wf = true ∧ (Instr.illop 0 0).wf = true ∧
    (Instr.illop 0 0b0000000_00010_000_00001_00011_000001_1).wf = false := by decide +kernel

theorem test_wf_module :
    (Instr.registerWrite 0 4 true 0).wf = false ∧ (Instr.sgeMemoryWrite 0 2 false 0).wf = false ∧ (Instr.mscRequest 0 127 2 .write (0, 0)).wf = false ∧
    (Instr.bar4Access 0 0 0 0 ⟨none, false, false⟩).wf = false ∧ (Instr.bar4Access 0 0 0 2 ⟨some [1], false, false⟩).wf = false ∧
    (Instr.outboundReadCompletion (.core 0) .ur [1]).wf = false ∧ (Instr.linkTrainingDone 0 0 ⟨0, 0, 0, 1, 1, 1, 1⟩).wf = false ∧
    (Instr.retrainComplete 0 0 ⟨0, 0, 1, 1, 0, 1, 1⟩).wf = false ∧ (Instr.announce 0 ⟨0, 0⟩ 0 ⟨0, 0, 0, 1, 0, 1⟩).wf = false ∧
    (Instr.join 0 0 0 0 0 [] 0).wf = false ∧ (Instr.admitJob 0 ⟨0, 0⟩ 0 0 0 0 true 0 0 0 (some ⟨1, 0, 0, 0, 0, 0, 1, 1⟩)).wf = false ∧
    (Instr.detourWrite 0 ⟨0, 0⟩ []).wf = false ∧ (Instr.meter 0 ⟨0, 0⟩ 0 (List.replicate 4097 0)).wf = false ∧ (Instr.powerCapPeriod 0 [] [] 0).wf = false ∧
    (Instr.inventory (List.replicate 241 0)).wf = false ∧ (Instr.regWrite (List.replicate 240 0)).wf = true := by decide +kernel

/-- A 32-bit instruction for each law of decoding, and two general registers. -/
theorem witness_DecodeOfEncode : GInstr.wf (.add .add 3 1 2) = true ∧ GInstr.wf (.cMv 3 2) = true ∧ GInstr.wf (.vadd .vadd 3 1 (.v 2) 1) = true := by
  decide +kernel
theorem witness_DecodedIsEncoded : (gDecode 0b0000000_00010_000_00001_00011_000001_1).toOption = some (.add .add 3 1 2, 4) := by decide +kernel
theorem witness_GeneralRegisters : (17 : GReg).val ≠ 0 ∧ (16 : GReg) ≠ 17 ∧ ({} : Core).fb = false ∧ ({ cr := [(0, 0x23)] } : Core).fb = true ∧
    16 ≤ (17 : GReg).val ∧ (3 : GReg).val < 16 := by decide +kernel
/-! ### Witnesses: states that meet the hypotheses of the statements. Core 0 runs from near memory at Machine level. -/

def runner : Core := { run := true, pc := 0x10000000000 }
/-- Start-up is over and every PLL has locked. -/
def wit (c : Core) : State := { State.reset with boot := { phase := 12 }, pwr := { input := true, lock := 0xF }, cores := [(0, c)] }
/-- The state after core 0 has fetched `n` bytes. -/
def fetched (s : State) (n : Nat) : State :=
  match s.ifetch 0 (s.core 0).pc n (fun s => .ok s none) with
  | .ok s1 _ => s1
  | _ => s

theorem witness_StepRunsCommand : ({ State.reset with pending := [.coldReset, .restart] } : State).pending = .coldReset :: [.restart] := rfl

/-- Sums and differences beyond 63 bits while saturation is on. -/
def satCore : Core := { runner with g := [(1, 0x7FFFFFFFFFFFFFFF), (2, 1), (3, 0x8000000000000000)], cr := [(0, 3), (0x11, 4)] }
theorem witness_IntegerResults : let c := (fetched (wit satCore) 4).core 0
    Ready (wit satCore) 0 4 (fetched (wit satCore) 4) ∧ c.crBit crFXCTL 2 = true ∧
    ¬ ((c.rg 1).toInt + (c.rg 2).toInt < 2 ^ 63) ∧ ¬ (-(2 ^ 63) ≤ (c.rg 3).toInt - (c.rg 2).toInt) :=
  ⟨⟨rfl, rfl, rfl, rfl, rfl, rfl, rfl, rfl⟩, by decide +kernel⟩

theorem witness_CoreShortAndJumps : Ready (wit runner) 0 2 (fetched (wit runner) 2) ∧ Ready (wit runner) 0 4 (fetched (wit runner) 4) :=
  ⟨⟨rfl, rfl, rfl, rfl, rfl, rfl, rfl, rfl⟩, rfl, rfl, rfl, rfl, rfl, rfl, rfl, rfl⟩

/-- A test of `InMemory`, and of `PlainAccess`. -/
def inMem (s : State) (a : Nat) : Bool :=
  match placeOf a with | .near _ => true | .hbm j => decide ((s.stack j).st ≠ .hot) | _ => false
theorem inMem_spec (s : State) (a : Nat) (h : inMem s a = true) : InMemory s a := by
  unfold inMem at h
  split at h
  · next d e => exact .inl ⟨d, e⟩
  · next j e => exact .inr ⟨j, e, of_decide_eq_true h⟩
  · cases h
def placeTest (s : State) (k : Nat) (kd : Acc) (a : Word) (n : Nat) : Bool :=
  decide ((s.core k).priv = 3 ∧ n ≠ 0 ∧ a.toNat % 64 + n ≤ 64 ∧ s.accCheck (coreMaster k) kd (linesOf a.toNat n) = none) && inMem s a.toNat
theorem placeTest_spec {s : State} {k : Nat} {kd : Acc} {a : Word} {n : Nat} (h : placeTest s k kd a n = true) : PlainPlace s k kd a n := by
  simp only [placeTest, Bool.and_eq_true, decide_eq_true_eq] at h
  exact ⟨h.1.1, h.1.2.1, h.1.2.2.1, inMem_spec s _ h.2, h.1.2.2.2⟩
def accessTest (s : State) (k : Nat) (kd : Acc) (a : Word) (n : Nat) : Bool :=
  placeTest s k kd a n && decide ((s.core k).arrived = [] ∧ ((s.core k).mce = true → a.toNat % n = 0) ∧ (s.rget regErrInj).testBit 63 = false ∧ s.err.upsets = [])
theorem accessTest_spec {s : State} {k : Nat} {kd : Acc} {a : Word} {n : Nat} (h : accessTest s k kd a n = true) : PlainAccess s k kd a n := by
  simp only [accessTest, Bool.and_eq_true, decide_eq_true_eq] at h
  exact ⟨placeTest_spec h.1, h.2⟩

/-- G1, and G9 of the short forms, hold an address of near memory; with `det` the core is in deterministic mode. -/
def memCore (det : Bool) : Core :=
  { runner with g := [(1, 0x10000000040), (9, 0x10000000048)], cr := [(0, 0x13), (0x12, if det then 1 else 0)] }
theorem witness_CoreLoads :
    (let s := fetched (wit (memCore false)) 4
     Ready (wit (memCore false)) 0 4 s ∧ PlainAccess s 0 .rd ((s.core 0).rg 1 + 0) 1 ∧ PlainAccess s 0 .rd ((s.core 0).rg 1 + 56) 8 ∧
     BuffersOk (s.core 0) ∧ Whole (s.core 0) 0x10000000040 8) ∧
    (let s := fetched (wit (memCore true)) 2
     Ready (wit (memCore true)) 0 2 s ∧ PlainAccess s 0 .rd ((s.core 0).rg 9 + 0) 8 ∧ PlainAccess s 0 .rd ((s.core 0).rg 9 + 52) 4 ∧
     BuffersOk (s.core 0)) :=
  ⟨⟨⟨rfl, rfl, rfl, rfl, rfl, rfl, rfl, rfl⟩, accessTest_spec (by decide +kernel), accessTest_spec (by decide +kernel),
    by unfold BuffersOk; decide +kernel, fun _ h => nomatch h⟩,
   ⟨rfl, rfl, rfl, rfl, rfl, rfl, rfl, rfl⟩, accessTest_spec (by decide +kernel), accessTest_spec (by decide +kernel),
   by unfold BuffersOk; decide +kernel⟩
/-- A core whose store buffer is full, with `n` entries in its merging buffer. -/
def fullCore (det : Bool) (n : Nat) : Core :=
  { memCore det with sbuf := List.replicate 8 ⟨0x10000000100, [1], 0⟩, mbuf := (List.range n).map (fun i => ⟨0x400000010 + i, [(0, 2)], 0⟩) }
theorem witness_CoreStores :
    (let s := fetched (wit (memCore false)) 4
     Ready (wit (memCore false)) 0 4 s ∧ PlainAccess s 0 .wr ((s.core 0).rg 1 + 0) 8 ∧ (s.core 0).sbuf.length < 8) ∧
    (let s := fetched (wit (memCore true)) 2
     Ready (wit (memCore true)) 0 2 s ∧ PlainAccess s 0 .wr ((s.core 0).rg 9 + 52) 4 ∧ (s.core 0).det = true) ∧
    (let s := fetched (wit (fullCore true 0)) 4
     Ready (wit (fullCore true 0)) 0 4 s ∧ PlainAccess s 0 .wr ((s.core 0).rg 1 + 0) 8 ∧ 8 ≤ (s.core 0).sbuf.length ∧ (s.core 0).det = true ∧
     (s.core 0).mbuf = []) ∧
    (∀ n, n ∈ [0, 16] → ∃ s, Ready (wit (fullCore false n)) 0 4 s ∧ PlainAccess s 0 .wr ((s.core 0).rg 1 + 0) 8 ∧ 8 ≤ (s.core 0).sbuf.length ∧
      (s.core 0).det = false ∧ (s.core 0).popStore.isSome = decide (n = 0)) := by
  refine ⟨⟨⟨rfl, rfl, rfl, rfl, rfl, rfl, rfl, rfl⟩, accessTest_spec (by decide +kernel), by decide +kernel⟩,
    ⟨⟨rfl, rfl, rfl, rfl, rfl, rfl, rfl, rfl⟩, accessTest_spec (by decide +kernel), by decide +kernel⟩,
    ⟨⟨rfl, rfl, rfl, rfl, rfl, rfl, rfl, rfl⟩, accessTest_spec (by decide +kernel), by decide +kernel⟩, ?_⟩
  intro n h
  simp only [List.mem_cons, List.not_mem_nil, or_false] at h
  rcases h with rfl | rfl <;> exact ⟨_, ⟨rfl, rfl, rfl, rfl, rfl, rfl, rfl, rfl⟩, accessTest_spec (by decide +kernel), by decide +kernel⟩
theorem witness_CoreAtomics :
    let s := fetched (wit (memCore false)) 4
    Ready (wit (memCore false)) 0 4 s ∧ BuffersOk (s.core 0) ∧ PlainAccess s 0 .at ((s.core 0).rg 1) 8 ∧
      PlainAccess s 0 .at ((s.core 0).rg 1) 4 ∧ ((s.core 0).rg 1).toNat % 8 = 0 :=
  ⟨⟨rfl, rfl, rfl, rfl, rfl, rfl, rfl, rfl⟩, by unfold BuffersOk; decide +kernel, accessTest_spec (by decide +kernel),
   accessTest_spec (by decide +kernel), by decide +kernel⟩

/-- Core 0 at User level, its first page mapped to near memory. -/
def userCore : Core := { run := true, cr := [(0, 0), (0x22, 1)] }
def userWit (c : Core) : State := { wit c with xlt := { tlbs := [(0, [⟨0, 0, 16, 0x100000001E7⟩])] } }
theorem witness_PrivilegedAtUser : let s := fetched (userWit userCore) 4
    Ready (userWit userCore) 0 4 s ∧ (s.core 0).priv = 0 ∧ VextenOn s 0 :=
  ⟨⟨rfl, rfl, rfl, rfl, rfl, rfl, rfl, rfl⟩, by decide +kernel, by decide, by decide +kernel⟩

/-- VL elements of SEW; V1[0] of 32 bits is the greatest, K1 names element 0. -/
def vecCore (sew vl : Nat) : Core :=
  { runner with v := [(2048, 0xFF), (2049, 0xFF), (2050, 0xFF), (2051, 0x7F)], k := [(1, 1)],
                cr := [(0, 3), (0x20, BitVec.ofNat 64 vl), (0x21, BitVec.ofNat 64 sew), (0x22, 1)] }
theorem witness_VectorIntegerResults :
    (let s := fetched (wit (vecCore 2 2)) 4
     Ready (wit (vecCore 2 2)) 0 4 s ∧ VextenOn s 0 ∧ (s.core 0).crBits crVTYPE 1 0 = 2 ∧ Active (s.core 0) 1 0 ∧
     (let x := toSigned 32 ((s.core 0).vget 1 4 0); 2 ^ 31 ≤ x + x) ∧ ∀ i, i < 2 → (s.core 0).vget 3 4 i = 0) ∧
    (let s := fetched (wit (vecCore 3 256)) 4
     Ready (wit (vecCore 3 256)) 0 4 s ∧ VextenOn s 0 ∧ Active (s.core 0) 0 255) :=
  ⟨⟨⟨rfl, rfl, rfl, rfl, rfl, rfl, rfl, rfl⟩, ⟨by decide, by decide +kernel⟩, by decide +kernel, by unfold Active; decide +kernel, by decide +kernel, by decide +kernel⟩,
   ⟨rfl, rfl, rfl, rfl, rfl, rfl, rfl, rfl⟩, ⟨by decide, by decide +kernel⟩, by unfold Active; decide +kernel⟩
theorem witness_VectorFloatResults : ∀ sew, sew ∈ [1, 2, 3] → ∃ s1, Ready (wit (vecCore sew 2)) 0 4 s1 ∧ VextenOn s1 0 ∧
    (s1.core 0).crBits crVTYPE 1 0 = sew ∧ Active (s1.core 0) 0 1 := by
  intro sew h
  simp only [List.mem_cons, List.not_mem_nil, or_false] at h
  rcases h with rfl | rfl | rfl <;>
  exact ⟨_, ⟨rfl, rfl, rfl, rfl, rfl, rfl, rfl, rfl⟩, ⟨by decide, by decide +kernel⟩, by decide +kernel, by unfold Active; decide +kernel⟩
theorem witness_VectorReductions :
    (let s := fetched (wit (vecCore 3 0)) 4
     Ready (wit (vecCore 3 0)) 0 4 s ∧ VextenOn s 0 ∧ (s.core 0).vl = 0 ∧ (s.core 0).crBits crVTYPE 1 0 = 3) ∧
    (let s := fetched (wit (vecCore 2 512)) 4
     Ready (wit (vecCore 2 512)) 0 4 s ∧ VextenOn s 0 ∧ (s.core 0).vl = 512 ∧ (s.core 0).crBits crVTYPE 1 0 = 2) :=
  ⟨⟨⟨rfl, rfl, rfl, rfl, rfl, rfl, rfl, rfl⟩, ⟨by decide, by decide +kernel⟩, by decide +kernel⟩,
   ⟨rfl, rfl, rfl, rfl, rfl, rfl, rfl, rfl⟩, ⟨by decide, by decide +kernel⟩, by decide +kernel⟩
/-- A compare with an element active, and with none; the first bit of a K register at 0, and none below VL. -/
theorem witness_VectorPermutesAndMasks :
    (let s := fetched (wit (vecCore 2 2)) 4
     Ready (wit (vecCore 2 2)) 0 4 s ∧ VextenOn s 0 ∧ Active (s.core 0) 1 0 ∧ ¬ Active (s.core 0) 1 1 ∧ ((s.core 0).rk 1).getLsbD 0 = true ∧
     ∀ j, j < 2 → ((s.core 0).rk 2).getLsbD j = false) ∧
    (let s := fetched (wit (vecCore 2 0)) 4
     Ready (wit (vecCore 2 0)) 0 4 s ∧ VextenOn s 0 ∧ ∀ i, ¬ Active (s.core 0) 1 i) :=
  ⟨⟨⟨rfl, rfl, rfl, rfl, rfl, rfl, rfl, rfl⟩, ⟨by decide, by decide +kernel⟩, by unfold Active; decide +kernel, by unfold Active; decide +kernel,
     by decide +kernel, by decide +kernel⟩,
   ⟨rfl, rfl, rfl, rfl, rfl, rfl, rfl, rfl⟩, ⟨by decide, by decide +kernel⟩, fun _ h => absurd h.1 (Nat.not_lt_zero _)⟩
theorem witness_CoreFloatingPoint : Ready (wit runner) 0 4 (fetched (wit runner) 4) ∧ ((fetched (wit runner) 4).core 0).frm = .rne :=
  ⟨⟨rfl, rfl, rfl, rfl, rfl, rfl, rfl, rfl⟩, by decide +kernel⟩
/-- An accumulator at its greatest value, in SAT and in wrap mode; products of its like add beyond the range. -/
def accCore (sat : Nat) : Core :=
  { runner with acc := [(0, 0x7FFFFFFFFFFFFFFFFF)], g := [(1, 0x7FFFFFFF)], cr := [(0, 3), (0x11, BitVec.ofNat 64 sat)] }
theorem witness_CoreFixedPoint : ∀ sat, sat ∈ [0, 4] → ∃ s1, Ready (wit (accCore sat)) 0 4 s1 ∧ (s1.core 0).crBit crFXCTL 2 = decide (sat = 4) ∧
    (let q := ((s1.core 0).rg 1).toInt; 2 ^ 71 ≤ ((s1.core 0).ra 0).toInt + q * q * 2) ∧ 2 ^ 31 ≤ ((s1.core 0).ra 0).toInt / 2 ^ 32 ∧
    ((s1.core 0).ra 1).toInt = 0 := by
  intro sat h
  simp only [List.mem_cons, List.not_mem_nil, or_false] at h
  rcases h with rfl | rfl <;> exact ⟨_, ⟨rfl, rfl, rfl, rfl, rfl, rfl, rfl, rfl⟩, by decide +kernel⟩

theorem witness_ControlRegisters :
    (let s := fetched (wit (vecCore 2 2)) 4; Ready (wit (vecCore 2 2)) 0 4 s ∧ VextenOn s 0 ∧ (s.core 0).priv = 3 ∧ (s.core 0).halted = false ∧
      (s.core 0).det = false ∧ s.err.upsets = [] ∧ BuffersOk (s.core 0)) ∧
    (let s := fetched (userWit userCore) 4; Ready (userWit userCore) 0 4 s ∧ VextenOn s 0 ∧ (s.core 0).priv = 0) :=
  ⟨⟨⟨rfl, rfl, rfl, rfl, rfl, rfl, rfl, rfl⟩, ⟨by decide, by decide +kernel⟩, by decide +kernel, by decide +kernel, by decide +kernel, by decide +kernel,
    by unfold BuffersOk; decide +kernel⟩,
   ⟨rfl, rfl, rfl, rfl, rfl, rfl, rfl, rfl⟩, ⟨by decide, by decide +kernel⟩, by decide +kernel⟩
theorem witness_StatusWindowAndWait :
    (let s := fetched (wit runner) 4; Ready (wit runner) 0 4 s ∧ (s.core 0).priv = 3 ∧ 0x1C &&& 0x1C = 0x1C ∧ 0x20 &&& 0x1C ≠ 0x20) ∧
    (let s := fetched (userWit userCore) 4; Ready (userWit userCore) 0 4 s ∧ (s.core 0).priv = 0 ∧ 0x10 &&& 0x10 = 0x10 ∧ 0x0C &&& 0x10 ≠ 0x0C) :=
  ⟨⟨⟨rfl, rfl, rfl, rfl, rfl, rfl, rfl, rfl⟩, by decide +kernel⟩, ⟨rfl, rfl, rfl, rfl, rfl, rfl, rfl, rfl⟩, by decide +kernel⟩

/-- A core with room for one frame between its limit and its stack pointer, its latches loaded; the same at User level; and one without room. -/
def framed (super : Bool) : Core :=
  { (if super then userCore else runner) with
    svecL := some (List.replicate 8 0x100), mvecL := some (List.replicate 8 0x100), fvecL := some (List.replicate 64 0), g := [(1, 1)],
    cr := [(0, if super then 0x1C else 0x1F), (4, 0x100), (5, 0x10000000100), (7, 0x140), (8, 0x10000000140), (0x22, 1)] }
theorem witness_ExceptionEntry :
    (let s := fetched (wit (framed false)) 4
     Ready (wit (framed false)) 0 4 s ∧ (∃ s2, s.push 0 3 (((s.core 0).rc crMSP) - 64) (frameOf (s.core 0) 0 4 0 ((s.core 0).pc + 4) false) = .ok s2 ∧
      (s2.core 0).mvecL = some (List.replicate 8 0x100)) ∧ s.breakSess 0 = none ∧ (s.core 0).mce = true ∧ ((s.core 0).rg 1 + 0).toNat % 4 ≠ 0) ∧
    (let s := fetched (userWit (framed true)) 4
     Ready (userWit (framed true)) 0 4 s ∧ (s.core 0).priv = 0 ∧
      ∃ s2, s.push 0 1 (((s.core 0).rc crSSP) - 64) (frameOf (s.core 0) 0 4 0 ((s.core 0).pc + 4) false) = .ok s2 ∧
      (s2.core 0).svecL = some (List.replicate 8 0x100)) ∧
    (let s := fetched (wit runner) 4
     Ready (wit runner) 0 4 s ∧ (s.core 0).priv = 3 ∧ ¬ (((s.core 0).rc crMSTKLIM).toNat + 64 ≤ ((s.core 0).rc crMSP).toNat)) ∧
    (∃ sub, gDecode 0 = .error sub) :=
  ⟨⟨⟨rfl, rfl, rfl, rfl, rfl, rfl, rfl, rfl⟩, ⟨_, rfl, rfl⟩, by decide +kernel⟩,
   ⟨⟨rfl, rfl, rfl, rfl, rfl, rfl, rfl, rfl⟩, by decide +kernel, _, rfl, rfl⟩, ⟨⟨rfl, rfl, rfl, rfl, rfl, rfl, rfl, rfl⟩, by decide +kernel⟩, _, rfl⟩

/-- Source 5 of die 0 pending, of class `cls`, aimed at core 0. -/
def asking (cls : Nat) (c : Core) : State :=
  { wit c with ints := [(0, { pend := 0x20 })], regs := [((intTarget 0 5).addr, some (0x40 + cls * 0x100))] }
theorem witness_InterruptEntry :
    (let s := asking 1 (framed false)
     (s.core 0).fie = true ∧ (s.core 0).fb = false ∧ s.alive 0 = true ∧ (s.core 0).halted = false ∧ (s.core 0).arrived = [] ∧
     (s.core 0).rpt = false ∧ (s.core 0).parked = false ∧ (s.core 0).signal = 0 ∧ (s.intc 0).active.testBit 5 = false ∧ (s.intc 0).pend.testBit 5 = true ∧ (s.rget (intTarget 0 5)).testBit 6 = true ∧
     natBits (s.rget (intTarget 0 5)) 5 0 = 0 ∧ natBits (s.rget (intTarget 0 5)) 8 8 = 1 ∧ (s.core 0).crBits crIWCNT 9 0 = 0 ∧
     ((s.core 0).rc crMSTKLIM).toNat + 64 ≤ ((s.core 0).rc crMSP).toNat) ∧
    (let s := asking 1 (framed false)
     ∃ s2, s.push 0 3 ((s.core 0).rc crMSP - 64) (leBytes 8 (s.core 0).pc.toNat ++ leBytes 8 (0x1F + 2 * 2 ^ 8 + 0x11 * 2 ^ 16)) = .ok s2 ∧
       (s2.core 0).fvecL ≠ none) ∧
    (let s := asking 0 (framed false)
     (s.core 0).ie = true ∧ natBits (s.rget (intTarget 0 5)) 8 8 = 0 ∧ ((s.core 0).fie = true → (s.rget (intTarget 0 5)).testBit 8 = false)) ∧
    (let s := asking 0 (framed false)
     ∃ s2, s.push 0 3 ((s.core 0).rc crMSP - 64) (frameOf (s.core 0) 1 0x10 0 (s.core 0).pc false) = .ok s2 ∧
       (s2.core 0).mvecL = some (List.replicate 8 0x100)) ∧
    (((wit { runner with cr := [(0xC, 512)] }).core 0).crBits crIWCNT 9 0 ≠ 0 ∧ ((wit { runner with signal := 2 }).core 0).signal.testBit 1 = true) :=
  ⟨by decide +kernel, ⟨_, rfl, by decide +kernel⟩, by decide +kernel, ⟨_, rfl, rfl⟩, by decide +kernel⟩

/-- A Machine-level frame in near memory: `w` is its second word. -/
def frameWit (w : Byte) : State :=
  { wit { runner with cr := [(0, 3), (8, 0x10000000100)] } with mem := [(0x10000000101, 1), (0x10000000108, w), (0x10000000110, 7)] }
theorem witness_ExceptionReturn : ∀ w, w ∈ [(1 : Byte), 2] → ∃ s1, Ready (frameWit w) 0 4 s1 ∧ (s1.core 0).parked = false ∧ BuffersOk (s1.core 0) ∧
    PlainAccess s1 0 .rd ((s1.core 0).rc crMSP) 64 ∧
    leNat (((Seen s1 0 ((s1.core 0).rc crMSP).toNat 64).drop 8).take 8) % 4 = w.toNat := by
  intro w h
  simp only [List.mem_cons, List.not_mem_nil, or_false] at h
  rcases h with rfl | rfl <;>
  exact ⟨_, ⟨rfl, rfl, rfl, rfl, rfl, rfl, rfl, rfl⟩, by decide +kernel, by unfold BuffersOk; decide +kernel, accessTest_spec (by decide +kernel),
    by decide +kernel⟩

/-- A store and two merging entries, the first of its line's last byte. -/
def bufCore : Core := { runner with sbuf := [⟨0x10000000100, [1], 0⟩], mbuf := [⟨0x400000005, [(63, 2)], 0⟩, ⟨0x400000006, [(0, 3), (1, 4)], 0⟩] }
theorem bufCore_ok : BuffersOk bufCore := by
  unfold BuffersOk; decide +kernel
theorem witness_FencesAndDrains : let s := fetched (wit bufCore) 4
    Ready (wit bufCore) 0 4 s ∧ BuffersOk (s.core 0) ∧ s.err.upsets = [] ∧ (s.core 0).posted = [] ∧ (s.core 0).arrived = [] ∧
    (0, some 0x100) ∈ ((wit { bufCore with posted := [(0, some 0x100)] }).core 0).posted ∧
    BuffersOk ((wit bufCore).core 0) ∧ (wit bufCore).err.upsets = [] ∧ ((wit bufCore).core 0).mbuf ≠ [] :=
  ⟨⟨rfl, rfl, rfl, rfl, rfl, rfl, rfl, rfl⟩, by unfold BuffersOk; decide +kernel, by decide +kernel, by decide +kernel, by decide +kernel, by decide +kernel,
   bufCore_ok, rfl, by decide +kernel⟩

theorem witness_InterruptController :
    (let s := fetched (asking 1 runner) 4
     Ready (asking 1 runner) 0 4 s ∧ (s.intc 0).pend.testBit 5 = true ∧ (s.intc 0).active.testBit 5 = false ∧ (s.rget (intTarget 0 5)).testBit 6 = true ∧
     natBits (s.rget (intTarget 0 5)) 8 8 = 1 ∧ (∀ m, m < 5 → (s.intc 0).pend.testBit m = false) ∧
     s.accCheck (coreMaster 0) .rd (linesOf (0x11000000000 + 0x440000 + 0x2108) 4) = none ∧
     s.accCheck (coreMaster 0) .wr (linesOf (0x11000000000 + 0x440000 + 0x2110) 4) = none ∧ s.mayWrite (coreMaster 0) 0x442110 = true) ∧
    (let s := fetched (wit runner) 4
     Ready (wit runner) 0 4 s ∧ (∀ n, (s.intc 0).pend.testBit n = false) ∧
     s.accCheck (coreMaster 0) .rd (linesOf (0x11000000000 + 0x440000 + 0x2100) 4) = none) ∧
    ((asking 0 runner).rget (intTarget 0 230)).testBit 7 = false ∧ ((asking 0 runner).rget (intTarget 0 512)).testBit 7 = false :=
  ⟨⟨⟨rfl, rfl, rfl, rfl, rfl, rfl, rfl, rfl⟩, by decide +kernel⟩,
   ⟨⟨rfl, rfl, rfl, rfl, rfl, rfl, rfl, rfl⟩, fun n => Nat.zero_testBit n, by decide +kernel⟩, by decide +kernel⟩

/-- A module of stacks READY (as after start-up), the core about to load its latches. -/
def vecBase : State := wit { runner with due := 7, cr := [(0, 3), (9, 0x10000000040), (0xA, 0x10000000080), (0xB, 0x100000000C0)] }
/-- Core 0 in a FAST handler whose first bytes stand in the latch. -/
def latched : Core := { runner with pc := 0x100000000C0, fvecL := some (List.replicate 64 0), cr := [(0, 0x23), (0xB, 0x100000000C0)] }
theorem witness_CoreFetchAndLatches :
    (Issues vecBase 0 ∧ (vecBase.core 0).rpt = false ∧ (vecBase.core 0).tran = [] ∧ vecBase.breakHit 0 = none ∧ vecBase.err.upsets = [] ∧
      PlainPlace vecBase 0 .ex (vecBase.core 0).pc 4 ∧ PlainPlace vecBase 0 .ex (vecBase.core 0).pc 2 ∧ FetchesLine vecBase 0 (vecBase.core 0).pc.toNat) ∧
    (let s := wit latched
     (s.core 0).fb = true ∧ (s.core 0).fvecL = some (List.replicate 64 0) ∧ (s.core 0).crBits crFVEC 51 1 * 2 ≤ (s.core 0).pc.toNat ∧
     (s.core 0).pc.toNat + 4 ≤ (s.core 0).crBits crFVEC 51 1 * 2 + 64 ∧ PlainPlace s 0 .ex (s.core 0).pc 4 ∧ PlainPlace s 0 .ex (s.core 0).pc 2) ∧
    ((vecBase.core 0).due = 7 ∧ (vecBase.rget regErrInj).testBit 63 = false ∧
     ∀ a, a ∈ [(vecBase.core 0).crBits crSVEC 51 6 * 2 ^ 6, (vecBase.core 0).crBits crMVEC 51 6 * 2 ^ 6, (vecBase.core 0).crBits crFVEC 51 1 * 2] →
      a % 64 = 0 ∧ InMemory vecBase a ∧ vecBase.accCheck (coreMaster 0) .rd (linesOf a 64) = none) := by
  refine ⟨⟨⟨rfl, rfl, rfl⟩, rfl, rfl, rfl, rfl, placeTest_spec (by decide +kernel), placeTest_spec (by decide +kernel), by decide +kernel, fun _ h => nomatch h⟩,
    ⟨by decide +kernel, by decide +kernel, by decide +kernel, by decide +kernel, placeTest_spec (by decide +kernel), placeTest_spec (by decide +kernel)⟩,
    by decide +kernel, by decide +kernel, ?_⟩
  intro a h
  have h : a ∈ [0x10000000040, 0x10000000080, 0x100000000C0] := h
  simp only [List.mem_cons, List.not_mem_nil, or_false] at h
  rcases h with rfl | rfl | rfl <;> exact ⟨by decide, inMem_spec _ _ (by decide +kernel), by decide +kernel⟩

/-- The hypotheses on the accesses of a vector form, from a test. -/
def vecMay (s : State) (form : VForm) (kd : Acc) (vd : Fin 32) : Bool :=
  let c := s.core 0
  let es := c.vElems form 1 0
  c.vFormOk form vd && decide ((c.mce = true → formAligned form = true → ∀ e ∈ es, e.1 % c.sewBytes = 0) ∧ c.vAccs kd es ≠ []) &&
    (c.vAccs kd es).all (fun a => inMem s a.va && decide (s.accCheck (coreMaster 0) kd (linesOf a.va a.n) = none))
def vecMem : Core := { runner with g := [(1, 0x10000000100), (2, 64)], cr := [(0, 0x13), (0x20, 2), (0x21, 3), (0x22, 1)] }
theorem witness_VectorMemory : let s := fetched (wit vecMem) 4
    Ready (wit vecMem) 0 4 s ∧ VextenOn s 0 ∧ (s.core 0).priv = 3 ∧ (s.core 0).arrived = [] ∧ (s.core 0).sbuf = [] ∧ (s.core 0).mbuf = [] ∧
    (s.rget regErrInj).testBit 63 = false ∧ s.err.upsets = [] ∧ (∀ form, form ∈ [VForm.unit, .strided 2, .indexed 4 2, .segment 2, .wholeV, .wholeK] →
      vecMay s form .rd 0 = true ∧ vecMay s form .wr 0 = true) ∧ ((fetched (wit (vecCore 2 0)) 4).core 0).vElems .unit 1 0 = [] :=
  ⟨⟨rfl, rfl, rfl, rfl, rfl, rfl, rfl, rfl⟩, ⟨by decide, by decide +kernel⟩, by decide +kernel, by decide +kernel, by decide +kernel, by decide +kernel,
   by decide +kernel, by decide +kernel, by decide +kernel, by decide +kernel⟩

/-- BMOV, BFILL, BCMP or BSCAN of one byte at the pc. -/
def blockWit (op : BlockOp) : State :=
  { wit { runner with g := [(1, 0x10000000100), (2, 0x10000000110), (3, 1)], cr := [(0, 3), (0x12, 1)] } with
    mem := Mem.writeN [] 0x10000000000 (leBytes 4 (gEncode (.block op 0 1 2 3))) }
theorem witness_BlockInstructions :
    (let s := fetched (wit { runner with g := [(1, 0x10000000100), (2, 0x10000000110)] }) 4
     Ready (wit { runner with g := [(1, 0x10000000100), (2, 0x10000000110)] }) 0 4 s ∧ PlainAccess s 0 .rd ((s.core 0).rg 1) 4 ∧
     PlainAccess s 0 .rd ((s.core 0).rg 2) 4 ∧ blockRegs 1 2 3 = true ∧ (s.core 0).rg 3 = 0) ∧
    ∀ op, op ∈ [BlockOp.bmov, .bfill, .bcmp, .bscan] → let s := blockWit op
     Issues s 0 ∧ (s.core 0).rpt = false ∧ (s.core 0).det = true ∧ (s.core 0).rg 3 ≠ 0 ∧ (s.core 0).sbuf.length < 8 ∧
     (∃ s1, Fetches s 0 (s.core 0).pc (.ok (.block op 0 1 2 3, 4)) s1 ∧ (s1.core 0).run = true ∧ BuffersOk (s1.core 0)) ∧
     PlainAccess s 0 .rd ((s.core 0).rg 2) 1 ∧ PlainAccess s 0 .wr ((s.core 0).rg 1) 1 ∧ PlainAccess s 0 .rd ((s.core 0).rg 1) 1 := by
  refine ⟨⟨⟨rfl, rfl, rfl, rfl, rfl, rfl, rfl, rfl⟩, accessTest_spec (by decide +kernel), accessTest_spec (by decide +kernel), by decide +kernel,
    by decide +kernel⟩, ?_⟩
  intro op h
  simp only [List.mem_cons, List.not_mem_nil, or_false] at h
  rcases h with rfl | rfl | rfl | rfl <;>
  exact ⟨⟨rfl, rfl, rfl⟩, by decide +kernel, by decide +kernel, by decide +kernel, by decide +kernel,
    ⟨_, fun _ => rfl, by decide +kernel, by unfold BuffersOk; decide +kernel⟩, accessTest_spec (by decide +kernel), accessTest_spec (by decide +kernel), accessTest_spec (by decide +kernel)⟩

/-- A prefix at the pc, then ADD G1, G1, G1 (or BREAK, which no prefix may repeat), with `lc` in LC; and the same with RPT set at the ADD. -/
def repWit (i : GInstr) (status lc pc : Nat) : State :=
  { wit { runner with pc := BitVec.ofNat 64 pc, g := [(1, 1)], cr := [(0, BitVec.ofNat 64 status), (0x10, BitVec.ofNat 64 lc)] } with
    mem := Mem.writeN [] 0x10000000002 (leBytes 4 (gEncode i)) }
theorem witness_Repeats :
    (∀ i lc, (i, lc) ∈ [(GInstr.add .add 1 1 1, 1), (.add .add 1 1 1, 0), (.brk, 1)] → let s := repWit i 3 lc 0x10000000000
      Issues s 0 ∧ (s.core 0).rpt = false ∧ s.breakHit 0 = none ∧ PlainPlace s 0 .ex (s.core 0).pc 2 ∧ PlainPlace s 0 .ex ((s.core 0).pc + 2) 4 ∧
      (gDecode (Mem.readLE s.mem ((s.core 0).pc + 2).toNat 4)).toOption = some (i, 4) ∧ (s.core 0).lc = lc ∧
      repAllowed i = decide (i ≠ .brk)) ∧
    (let s := repWit (.add .add 1 1 1) 0x43 1 0x10000000002
     Issues s 0 ∧ (s.core 0).rpt = true ∧ (s.core 0).lc = 1 ∧ PlainPlace s 0 .ex (s.core 0).pc 4 ∧
     ∃ c, s.body 0 (.add .add 1 1 1) = .ok (s.setCore 0 c) none ∧ c.run = true ∧ c.lc = (s.core 0).lc) := by
  refine ⟨?_, ⟨rfl, rfl, rfl⟩, by decide +kernel, by decide +kernel, placeTest_spec (by decide +kernel), _, rfl, by decide +kernel, by decide +kernel⟩
  intro i lc h
  simp only [List.mem_cons, List.not_mem_nil, or_false, Prod.mk.injEq] at h
  rcases h with ⟨rfl, rfl⟩ | ⟨rfl, rfl⟩ | ⟨rfl, rfl⟩ <;>
  exact ⟨⟨rfl, rfl, rfl⟩, by decide +kernel, rfl, placeTest_spec (by decide +kernel), placeTest_spec (by decide +kernel), by decide +kernel,
    by decide +kernel, by decide +kernel⟩

/-! ### Witnesses of the module's statements -/

/-- A module whose start is over, with the masters that host functions need enabled. -/
def up : State := { State.reset with
  boot := { phase := 12 }, pwr := { input := true, lock := 0xF }, ports := [(0, { cfgUp := true, perst := false, link := 3, fns := [(0, { bme := true, memEn := true })] })] }
/-- Queue `q` ENABLED, with one descriptor of opcode `opc` in flight, its words 1 and up `raw`. -/
def desc (opc raw : Nat) : QDesc := { raw := opc + raw, next := 1, ix := 0 }
def busy (q opc raw : Nat) : State :=
  { up with queues := [(q, { st := .enabled, en := true, flight := [desc opc raw], nextIx := 1, sqTail := 1, sqHead := 1 })] }

theorem witness_RegisterWrites :
    (∀ k, k ∈ [RegK.gfcBootPc, .ldgMring] → let r : Reg := ⟨k, 0, 0, 0⟩
      regAt r.addr = some (r, 0) ∧ r.addr % 4 = 0 ∧ up.accCheck 0x300 .wr (linesOf (mmioBase + r.addr) 4) = none) ∧
    (up.newWord ⟨.gfcBootPc, 0, 0, 0⟩ (up.rget ⟨.gfcBootPc, 0, 0, 0⟩) 0 32 0xFFFFFFFF).2 = false ∧
    (up.newWord ⟨.ldgMring, 0, 0, 0⟩ (up.rget ⟨.ldgMring, 0, 0, 0⟩) 0 32 0xFFFFFFFF).2 = true := by decide +kernel

/-- One byte to stage, and then a command of each kind while a commit runs and while none does. -/
theorem witness_ImageAndCommit :
    (let s := busy 0 0x10 (2 ^ 192); let d := desc 0x10 (2 ^ 192)
     s.startOp 0 tyAdmin 0x10 = some d ∧ d.f 6 31 0 = 1 ∧ d.f 7 31 0 = 0 ∧ d.zeroFrom 8 = true ∧ s.commitBusy = false ∧
     (s.fn (s.qPort 0) (s.qFunc 0)).bme = true ∧ ({ s with ptr := { s.ptr with phase := .verifying } } : State).commitBusy = true) ∧
    (let s := busy 0 0x11 0; s.startOp 0 tyAdmin 0x11 = some (desc 0x11 0) ∧ (desc 0x11 0).zeroFrom 4 = true ∧ s.commitBusy = false ∧ s.ptr.staged = none) ∧
    (busy 0 0x12 0).startOp 0 tyAdmin 0x12 = some (desc 0x12 0) ∧ (desc 0x12 0).zeroFrom 4 = true ∧
    (∃ r, ({ up with ptr := { up.ptr with phase := .verifying, taken := some [] } } : State).verify [] = .error r ∧ r ≠ 0) ∧
    ({ up with ptr := { up.ptr with phase := .quiescing } } : State).ptr.affected = 0 ∧
    (let s : State := { busy 512 1 0 with ptr := { up.ptr with phase := .quiescing, affected := 1 } }
     s.affectedParts.all s.quiet = false) ∧
    (let i : Image := { Image.factory with lodge := true, id := 7 }
     let s : State := { up with ptr := { up.ptr with phase := .applying, next := some i } }
     s.ptr.affected = 0 ∧ s.ptr.image.floor = i.floor ∧ (∀ k, s.ptr.image.stackOwner k = i.stackOwner k) ∧ s.ptr.parts.length = 8 ∧
     [s.ptr.image.x, s.ptr.image.y, s.ptr.image.z, s.ptr.image.xs, s.ptr.image.ys, s.ptr.image.zs, s.ptr.image.floor, s.ptr.image.seed] =
       [i.x, i.y, i.z, i.xs, i.ys, i.zs, i.floor, i.seed] ∧ (s.queue s.ptr.cmdQueue).flight = [] ∧ s.boot.warmHeld = false) := by
  refine ⟨by decide +kernel, by decide +kernel, by decide +kernel, by decide +kernel, ⟨_, rfl, by decide +kernel⟩, rfl, by decide +kernel, ?_⟩
  exact ⟨rfl, rfl, fun _ => rfl, rfl, rfl, rfl, rfl⟩

theorem witness_QueueLife :
    (let s := busy 512 1 0
     s.accCheck 0x300 .wr (linesOf (quePtrAddr 512) 8) = none ∧ s.mayDrive 0x300 512 = true ∧ s.qst 512 = .enabled ∧
     (s.queue 512).resetting = false ∧ 1 < (s.queue 512).sqSize ∧
     s.accCheck 0x380 .wr (linesOf (quePtrAddr 512) 8) = none ∧ 0x380 ≠ s.qMaster 512 ∧ isMgmt 0x380 = false) ∧
    (up.canFetch 512 && up.hasTurn 512) = false ∧
    (∀ st, st ∈ [QSt.enabled, .draining] → let s : State := { up with queues := [(512, { st := st, sqTail := 1 })] }
     s.canFetch 512 = true ∧ s.hasTurn 512 = true ∧ ringLoc (s.queue 512).sq = 0 ∧ (s.queue 512).sqHead < (s.queue 512).sqSize) ∧
    (let s : State := { up with queues := [(512, { st := .enabled, notify := 2 ^ 33, flight := [{ desc 1 0 with st := .done 0 0 0 }] })] }
     let x := s.queue 512
     x.err ≠ 2 ∧ s.recordGoes 512 { desc 1 0 with st := .done 0 0 0 } = true ∧ (desc 1 0).other = false ∧ ringLoc x.cq = 0 ∧
     x.counted + 1 < natBits x.notify 39 32 ∧ x.st = .enabled ∧ x.resetting = false) ∧
    (let x : Queue := { notify := 2 ^ 40 + 1, counted := 1 }
     natBits x.notify 55 40 ≠ 0 ∧ x.counted ≠ 0 ∧ x.resetting = false ∧ x.notify.testBit 0 = true ∧ x.notify.testBit 12 = false) ∧
    (up.queueOwner 512 = some 0 ∧ (up.queue 512).st = .disabled ∧ (up.queue 512).resetting = false ∧ up.boot.phase = 12 ∧
     nth .unused up.ptr.parts 0 = .running ∧ up.qst 512 = .disabled) ∧
    (let x := (busy 512 1 0).queue 512; x.st = .enabled ∧ x.resetting = false ∧ x.flight ≠ []) ∧
    (let x : Queue := { st := .enabled }; x.flight = [] ∧ x.resetting = false ∧ x.ready < up.descSlots 512 ∧ x.counted = 0 ∧ x.disableFor = []) ∧
    ((busy 0 1 0).startOp 0 tyAdmin 1 = some (desc 1 0) ∧ (desc 1 0).zeroFrom 4 = true) ∧
    (let d := desc 2 (512 * 2 ^ 128)
     let s : State := { busy 0 2 (512 * 2 ^ 128) with queues := (busy 0 2 (512 * 2 ^ 128)).queues ++ (busy 512 1 0).queues }
     s.startOp 0 tyAdmin 2 = some d ∧ d.f 4 31 12 = 0 ∧ d.zeroFrom 5 = true ∧ d.f 4 11 0 = 512 ∧ s.qPort 512 = s.qPort 0 ∧ s.qst 512 = .enabled ∧
     (s.queue 512).resetting = false ∧ (s.queue 512).flight ≠ []) := by decide +kernel

/-- Which of a die's 16 DMA engines moves a descriptor is a free value: what holds of each holds of it. -/
theorem of_engines {P : Nat → Prop} (h : ∀ e : Fin 16, P (0x200 + e.val)) (q ix : Nat) : P (dmaMaster 0 q ix) := by
  have := h ⟨Config.dmaEngine q ix % 16, Nat.mod_lt _ (by decide)⟩
  simpa [dmaMaster] using this

/-- The first 64 KiB of ASID 0 lie in near memory, at every TLB of die 0. -/
def mapped (s : State) : State :=
  { s with xlt := { s.xlt with tlbs := [1100, 1110, 1120].map (fun k => (k, [⟨0, 0, 16, 0x100000001E7⟩])) } }
/-- A running COPY or FILL of 64 bytes at queue 512, from 0x100 to 0x200. -/
def moved (opc : Nat) : QDesc := { desc opc (0x100 * 2 ^ 128 + 0x200 * 2 ^ 192 + 64 * 2 ^ 256) with st := .running }
def moving (opc : Nat) : State := mapped { up with queues := [(512, { st := .enabled, flight := [moved opc] })] }
theorem witness_CopiesAndMessages :
    ((busy 512 1 0).startOp 512 tyCopy 1 = some (desc 1 0) ∧ (busy 512 2 0).startOp 512 tyCopy 2 = some (desc 2 0)) ∧
    (∀ opc : Fin 3, opc.val ≠ 0 → let s := moving opc.val
     s.runs .dma = true ∧ s.qType 512 = tyCopy ∧ (s.queue 512).flight.find? (fun d => d.st == .running && d.batches == [] && (d.opcode == 1 || d.opcode == 2)) =
        some (moved opc.val) ∧
      (State.descPages 512 0 0 .wr 0 (pagesOf ((moved opc.val).addr 6 + 0) 64) s).1 = some [⟨.dev 0x10000000200, 64, 0⟩] ∧
      (State.descPages 512 0 0 .rd 0 (pagesOf ((moved opc.val).addr 4 + 0) 64) s).1 = some [⟨.dev 0x10000000100, 64, 0⟩]) ∧
    (State.readLocs (dmaMaster 0 512 0) 0 0 [⟨.dev 0x10000000100, 64, 0⟩] (moving 1)).1.isSome = true ∧
    ((moving 1).descWrite 512 0 (dmaMaster 0 512 0) 0 [⟨.dev 0x10000000200, 64, 0⟩] (List.replicate 64 7)).1 = true ∧
    (let s := busy 1536 0x70 (0x100 * 2 ^ 128)
     s.opDesc 1536 tyService 0x70 = some (desc 0x70 (0x100 * 2 ^ 128)) ∧ (desc 0x70 (0x100 * 2 ^ 128)).addr 4 % 64 = 0 ∧
     (desc 0x70 (0x100 * 2 ^ 128)).f 5 31 24 = 0 ∧ s.homeDie 1536 = 0 ∧
     (State.descPages 1536 0 0 .wr 0 [(0x100, 48)] s).1 = none ∧
     (State.descPages 1536 0 0 .wr 0 [(0x100, 48)] (mapped s)).1 = some [⟨.dev 0x10000000100, 48, 0⟩]) ∧
    (mapped (busy 1536 0x70 0)).accCheck (dmaMaster 0 1536 0) .wr (linesOf 0x10000000100 48) = none :=
  ⟨by decide +kernel, by decide +kernel,
   of_engines (P := fun m => (State.readLocs m 0 0 [⟨.dev 0x10000000100, 64, 0⟩] (moving 1)).1.isSome = true) (by decide +kernel) 512 0,
   of_engines (P := fun m => ((moving 1).descWrite 512 0 m 0 [⟨.dev 0x10000000200, 64, 0⟩] (List.replicate 64 7)).1 = true) (by decide +kernel) 512 0,
   by decide +kernel,
   of_engines (P := fun m => (mapped (busy 1536 0x70 0)).accCheck m .wr (linesOf 0x10000000100 48) = none) (by decide +kernel) 1536 0⟩

/-- HBM stacks READY, as after start-up. -/
def hot (s : State) : State := { s with memsys := { s.memsys with hbms := (List.range 16).map (fun k => (k, { st := .ready })) } }
/-- Core 0 waits for 8 bytes of host memory. -/
def waiting : State := wit { runner with wait := some ⟨0, [{ va := 0x100, n := 8, kind := 0, host := some (0, 0x100) }]⟩, waits := 1 }
theorem witness_HostAccess :
    (let r : HostReq := ⟨0, false, .bar4 0 4096 none⟩
     up.hostWaits 0 [] r = false ∧ up.hostWaits 0 [] ⟨1, true, .bar0 true 4096 4 (some 7)⟩ = false ∧
     ({ up with memsys := { up.memsys with hbms := (List.range 16).map (fun k => (k, { st := .hot })) } } : State).hostWaits 0 [] r = true) ∧
    (up.fnServes 0 0 = true ∧ 12 ≤ up.boot.phase ∧ (mmioTarget 0).isSome = true ∧ (∃ x s1, up.busRead 0x300 0 4 = (.ok x, s1)) ∧
     (up.fn 0 0).msix = [] ∧ up.cfgServes 0 0 = true ∧ State.reset.cfgServes 0 0 = false) ∧
    (let s := hot up
     (s.port 0).cfgUp = true ∧ (s.fn 0 0).memEn = true ∧ (s.fn 0 0).d3 = false ∧ 4096 ≤ s.bar4Size 0 ∧ s.bar4Base 0 % 64 = 0 ∧
     s.hostWaits 0 (s.port 0).inq ⟨0, false, .bar4 0 4096 none⟩ = false ∧
     s.hostWaits 0 (s.port 0).inq ⟨0, false, .bar4 0 64 (some [1])⟩ = false ∧
     s.hostWaits 0 (s.port 0).inq ⟨0, false, .atomic true 0 .cas 8 1 2⟩ = false ∧
     (s.rget regErrInj).testBit 63 = false ∧ s.err.upsets = [] ∧ s.accCheck 0x300 .rd (linesOf (s.bar4Base 0) 4096) = none ∧
     s.accCheck 0x300 .wr (linesOf (s.bar4Base 0) 64) = none ∧ s.accCheck 0x300 .at (linesOf (s.bar4Base 0) 8) = none) ∧
    ((∀ g : FnIx, up.fnQueues 1 g = []) ∧ ∀ d, (up.ar d).ops = [] ∧ (up.ar d).groups = [] ∧ (up.ar d).admitting = none ∧ (up.ar d).parked = []) ∧
    (let s : State := { up with ports := [(0, { fns := [(1, { flr := true })] })] }; s.arr = [] ∧ (s.fn 0 1).flr = true ∧ s.fnQueues 0 1 = []) ∧
    (∃ r, waiting.hostPart 0 = some (0, 0, r) ∧ r.atom = none ∧ r.host = some (0, 0x100)) ∧
    ((up.port 1).perst = true ∧ up.pwr.input = true) := by
  refine ⟨by decide +kernel, ⟨by decide +kernel, by decide +kernel, by decide +kernel, ⟨_, _, rfl⟩, by decide +kernel⟩, by decide +kernel,
    ⟨by decide +kernel, fun d => ?_⟩, by decide +kernel, ⟨_, rfl, rfl, rfl⟩, by decide +kernel⟩
  exact ⟨rfl, rfl, rfl, rfl⟩

/-- An AOP of one BF16 row of two elements by two columns, and of operation 0 that performs it for queue 1. -/
def aop1 : Nat := 1 + 4 * 2 ^ 8 + 4 * 2 ^ 13 + 2 ^ 44 + 2 ^ 64 + 2 * 2 ^ 96 + 2 * 2 ^ 128 + 64 * 2 ^ 224 + 0x1000 * 2 ^ 352 + 64 * 2 ^ 416 +
  0x2000 * 2 ^ 672 + 64 * 2 ^ 736
def rec1 (raw : Nat) : AopRec := { aop := raw, src := .queue 1, ix := 0, asid := 0, func := some 0, pages := [⟨0, 0x10000000000, 0⟩] }
def op1 : ArrOp := { id := 0, reqs := [{ aopr := rec1 aop1, row0 := 0, rows := 1 }], gathered := false }
/-- Die 0's array as given, its work fetched from queue 1. -/
def arr (a : Arr) : State :=
  mapped { up with queues := [(1, { st := .enabled, flight := [{ raw := aop1, next := 2, ix := 0 }] })], arr := [(0, a)] }
/-- What the admission of `aop1` from queue 1 finds. -/
def admitted : Admit × State :=
  State.admitRanges (rec1 aop1) 0 ((arr {}).srcPart (.queue 1)) ((arr {}).gang (rec1 aop1).aop.die) (rec1 aop1).aop.ranges {}
    (arr { admitting := some (rec1 aop1) })
theorem witness_ArrayAdmission :
    (let s := arr {}
     s.runs .array = true ∧ s.isMaster 0 = true ∧ (s.ar 0).seq ≠ .stopped ∧ s.dieReleased 0 = true ∧ (s.ar 0).admitting = none ∧
     (s.ar 0).ops.length < 16 ∧ s.nextSource 0 = some (.queue 1) ∧ s.reAdmit 0 (.queue 1) = none ∧ s.offer 0 (.queue 1) = some (0, aop1, 0)) ∧
    ((arr {}).aopDetail 0 ((arr {}).srcPart (.queue 1)) ≠ 0 ∧ (arr {}).aopDetail aop1 ((arr {}).srcPart (.queue 1)) = 0) ∧
    ((∀ x, x ∈ (rec1 aop1).aop.ranges → x.1 + x.2.1 ≤ 2 ^ 56) ∧ admitted.1.pages ≠ [] ∧ admitted.1.placement = false ∧ admitted.1.denied = none ∧ admitted.1.faults = [] ∧ admitted.1.moving = false ∧
     admitted.2.candidate (admitted.2.gangMaster (rec1 aop1).aop.die) (rec1 aop1).aop = false) ∧
    (let s := arr { ops := [op1] }
     s.runs .array = true ∧ s.isMaster 0 = true ∧ (s.ar 0).seq = .idle ∧
     (∀ x, x ∈ (s.ar 0).ops → x.issued = true → x.fate ≠ .run ∨ ∃ i, x.pass = some i ∧ x.passes (s.gang 0).length ≤ i + 1) ∧
     (s.ar 0).ops.find? (fun x => !x.issued) = some op1 ∧ (s.ar 0).groups = [] ∧ s.issueBlocked op1 = false) ∧
    (let s := arr { seq := .prep }
     s.isMaster 0 = true ∧ s.accCheck 0x300 .wr (linesOf (mmioBase + Reg.addr ⟨.arrAbort, 0, 0, 0⟩) 4) = none ∧ (s.ar 0).seq = .prep) ∧
    (let s := arr { seq := .halting, ops := [{ op1 with issued := true, fate := .aborted }] }
     s.runs .array = true ∧ (s.ar 0).seq = .halting ∧ (∀ d, d ∈ s.gang 0 → (s.ar d).pipe = [] ∧ (s.ar d).relay = []) ∧ s.curOp 0 = none) ∧
    (let o := { op1 with issued := true, streamed := true }
     let s := arr { seq := .stream, ops := [o] }
     s.runs .array = true ∧ (s.ar 0).ops.find? (fun o => s.opOver 0 o) = some o ∧
     o.reqs = [{ aopr := rec1 aop1, row0 := 0, rows := 1 }] ∧ (rec1 aop1).src = .queue 1 ∧ o.fate = .run) ∧
    (let s := arr { cringDone := [(1, some (0, 0, 0))] }
     s.runs .array = true ∧ 0 < 2 ^ s.cringLog 0 ∧ (s.ar 0).cringDone = (1, some (0, 0, 0)) :: [] ∧ s.ccmpFull 0 = false) := by
  refine ⟨by decide +kernel, by decide +kernel, by decide +kernel, ?_,
    by decide +kernel, by decide +kernel, by decide +kernel, by decide +kernel⟩
  refine ⟨by decide +kernel, by decide +kernel, rfl, fun x h hx => ?_, by decide +kernel, rfl, by decide +kernel⟩
  obtain rfl : x = op1 := by simpa [arr, mapped, State.ar, SMap.get] using h
  cases hx

def run1 : ArrOp := { op1 with issued := true }
def slice1 : SliceId := run1.slice 1 (run1.passAt 0) 0
def load1 : Load := { op := 0, pass := 0, slice := slice1, rows := 1 }
def bank1 (st : BankSt) : Bank := { st := st, slice := some slice1, keep := [(0, 0)] }
/-- The operation with another word 0: REUSE, and the two kinds of preload. -/
def other (extra : Nat) : ArrOp := { run1 with reqs := [{ aopr := rec1 (aop1 + extra), row0 := 0, rows := 1 }], pass := some 0, slots := [0] }
def filling : Slot := { st := .filling, op := 0, left := 1, rows := 1, cols := 2 }
theorem witness_ArrayDataPath :
    (arr {}).runs .array = true ∧ ({ arr {} with pwr := {} } : State).runs .array = false ∧
    (let s := arr { seq := .prep, ops := [run1], loads := [load1] }
     let lines := run1.rowLines 1 (run1.passAt 0) 0 0
     (s.ar 0).loads = [] ++ [load1] ∧ s.opOf 0 0 = some run1 ∧ load1.arrived < load1.rows ∧
     (s.ar 0).staged + run1.rowBytes 1 (run1.passAt 0) 0 0 ≤ 65536 ∧ lines ≠ [] ∧
     ∀ y, y ∈ lines → SMap.get none load1.lines y = none → s.hotAt y = false) ∧
    (let o := { other (2 ^ 22) with pass := none }
     let s := arr { seq := .prep, ops := [o], bankA := bank1 .ready }
     (s.ar 0).loads = [] ∧ s.loadNext 0 = some (o, 0) ∧ o.aop.reuse = true ∧ (s.ar 0).resident (o.slice 1 (o.passAt 0) 0) = some 0) ∧
    (let l := { load1 with arrived := 1 }
     let s := arr { seq := .prep, ops := [run1], loads := [l] }
     (s.ar 0).loads = l :: [] ∧ l.bank = none ∧ l.arrived ≠ 0 ∧ [0, 1].find? (s.bankFree 0) = some 0) ∧
    (let l := { load1 with arrived := 1, bank := some 1 }
     let s := arr { seq := .prep, ops := [run1], loads := [l] }
     (s.ar 0).loads = l :: [] ∧ l.bank = some 1 ∧ l.rows ≤ l.arrived) ∧
    (let s := arr { seq := .prep, ops := [run1], bankA := bank1 .ready, reports := [(0, .shadow 0 0)] }
     s.isMaster 0 = true ∧ (s.ar 0).seq = .prep ∧ s.curOp 0 = some run1 ∧ (s.ar 0).keptFor .active 0 run1.nextPass = none ∧
     (s.ar 0).keptFor .ready 0 run1.nextPass = some 0 ∧ s.passReady 0 run1 = some [0]) ∧
    (let o := other 0
     let s := arr { seq := .stream, ops := [o], bankA := bank1 .active, slots := [filling] }
     s.curOp 0 = some o ∧ o.pass = some 0 ∧ o.passDone = false ∧ s.rowHeld 0 o (o.passAt 0) (o.row0 (o.passAt 0) + o.entered) = true ∧
     s.rowHot o (o.passAt 0) (o.row0 (o.passAt 0) + o.entered) = false ∧ (s.ar 0).activeBank = some 0) ∧
    (let v : Vec := { op := 0, pass := 0, row := 0, bank := 0, slot := 0, slotRow := 0, elems := [1, 2], scales := [] }
     let s := arr { seq := .stream, ops := [other 0], bankA := bank1 .active, slots := [filling], pipe := [v] }
     s.err.upsets = [] ∧ (s.ar 0).pipe = v :: [] ∧ s.opOf 0 v.op = some (other 0) ∧ nth {} (s.ar 0).slots 0 = filling ∧ filling.op = v.op ∧
     v.slot < (s.ar 0).slots.length ∧ filling.cols ≤ 512) ∧
    (let o := other (2 ^ 24)
     let s := arr { seq := .stream, ops := [o], bankA := bank1 .active, slots := [filling] }
     (s.preGroups 0).find? (fun e => e.1.aop.preload == 1 && !(s.ar 0).bias.any (fun b => b.op == e.1.id && b.ix == e.1.biasIx e.2)) =
       some (o, o.passAt 0) ∧ (s.ar 0).preRoom o 2 = true ∧
     s.runHot o.lead (o.lead.aop.preAddr + o.n0 1 (o.passAt 0) 0 * preBytes o.aop.preFmt) (2 * preBytes o.aop.preFmt) = false) ∧
    (let o := other (2 * 2 ^ 24)
     let s := arr { seq := .stream, ops := [o], bankA := bank1 .active, slots := [filling] }
     (s.preGroups 0).findSome? (fun e => if e.1.aop.preload == 2 then (s.residNext 0 e.1 e.2).map (fun r => (e.1, e.2, r)) else none) =
       some (o, o.passAt 0, 0) ∧ (s.ar 0).preRoom o 2 = true ∧
     s.runHot o.lead (o.lead.aop.preAddr + o.n0 1 (o.passAt 0) 0 * preBytes o.aop.preFmt) (2 * preBytes o.aop.preFmt) = false) ∧
    (let s : State := { up with ptr := { up.ptr with image := { up.ptr.image with parts := [{ dies := 3, gang := 1 }] } } }
     s.isMaster 1 = false ∧ s.isMaster 0 = true) :=
  ⟨by decide +kernel, by decide +kernel, by decide +kernel, by decide +kernel, by decide +kernel, by decide +kernel, by decide +kernel,
   by decide +kernel, by decide +kernel, by decide +kernel, by decide +kernel, by decide +kernel⟩

/-- Die 0's engine about to issue `w` for the one row of a tile of 512 columns. -/
def tile1 : SageTile := { slot := 0, rows := 1, cols := 512, f64 := false, n0 := 0, row0 := 0, entry := 0, op := 0,
                          ctxs := [{ next := 1, cur := some { row := 0, pc := 0 } }] }
def tileBase : State := arr { seq := .stream, ops := [other 0], slots := [{ filling with st := .draining }] }
def tiled (t : SageTile) (w : Nat) : State :=
  { tileBase with sage := [(0, { prog := [(0, w)], tile := some t })] }
theorem rowReq_sage (s : State) (g : SMap Sage) (p : Nat) (t : SageTile) (r : Nat) : ({ s with sage := g } : State).rowReq p t r = s.rowReq p t r := rfl
theorem runs_sage (s : State) (g : SMap Sage) (d : Dom) : ({ s with sage := g } : State).runs d = s.runs d := rfl
theorem rf_sage (s : State) (g : SMap Sage) (r : Reg) (a b : Nat) : ({ s with sage := g } : State).rf r a b = s.rf r a b := rfl
/-- A word of an opcode with D = 1, A = S2, B = S3, C = S4 where they are used, TY or KIND in bits 16 up, IMM16. -/
def word (opc : Nat) (d a b c : Bool) (f imm : Nat) : Nat :=
  opc * 2 ^ 56 + b2n d * 2 ^ 52 + b2n a * 2 * 2 ^ 45 + b2n b * 3 * 2 ^ 38 + b2n c * 4 * 2 ^ 31 + f * 2 ^ 16 + imm
theorem witness_SageInstructions :
    (∀ w, w ∈ [word 8 true true true false 0 0, word 9 true true true false 2 0, word 0xA true true true false 6 0, word 0xC true true true false 1 0,
        word 0xD true true true false 4 0] → sageForm { d := true, a := true, b := true, fm := 0b111 } w = true ∧ siTY w ≠ 3) ∧
    (let w := word 0xB true true true true 2 0; siOpc w = 0xB ∧ sageForm { d := true, a := true, b := true, c := true, fm := 0b111 } w = true ∧ siTY w ≠ 3) ∧
    (let w := word 0xE true true true false 0x32 0; siOpc w = 0xE ∧ sageForm { d := true, a := true, b := true, fm := 0b110011 } w = true ∧ siTY w = 2) ∧
    (let w := word 0xF true true true true 0 0; siOpc w = 0xF ∧ sageForm { d := true, a := true, b := true, c := true } w = true) ∧
    (∀ o, o ∈ [0x10, 0x11, 0x12, 0x13, 0x14, 0x15] → let w := word o true true true false 0 0; siOpc w = o ∧ sageForm { d := true, a := true, b := true } w = true) ∧
    (∀ o, o ∈ [0x16, 0x17, 0x18] → let w := word o true true false false 0 31; siOpc w = o ∧ sageForm { d := true, a := true, imm := true } w = true) ∧
    (∀ o, o ∈ [0x19, 0x1A] → let w := word o true false false false 0 0x8000; siOpc w = o ∧ sageForm { d := true, imm := true } w = true) ∧
    (∀ k, k < 5 → let w := word 0x1C true true (k == 4) false (k + 0x10) 0
      siOpc w = 0x1C ∧ natBits w 21 20 ≤ 1 ∧ natBits w 19 16 = k ∧ sageForm { d := true, a := true, b := k == 4, fm := 0b111111 } w = true) ∧
    (∀ o, o ∈ [0x28, 0x29, 0x2A] → ∀ f, f ∈ [0, 2, 0x82] → let w := word o true true false false f 0
      siOpc w = o ∧ sageForm { d := true, a := true, fm := 0b10000011 } w = true ∧ siTY w = f % 4 ∧ siHalf w = decide (f = 0x82)) ∧
    ((tiled tile1 1).sageEnv 0 tile1 0 0 { aopr := rec1 aop1, row0 := 0, rows := 1 }).w = 512 ∧
    (let w := word 0x2B true true false false 0 0; siOpc w = 0x2B ∧ sageForm { d := true, a := true } w = true) ∧
    (let w := word 1 false false false false 0 0; siOpc w = 1 ∧ sageForm {} w = true) ∧
    (let w := word 2 false false false false 1 0; siOpc w = 2 ∧ sageForm { fm := 1 } w = true) ∧
    (let w := word 0x38 false false false false 0 1023; siOpc w = 0x38 ∧ sageForm { imm := true } w = true ∧ siE w = false) ∧
    (let w := word 0x39 false true false false 0 1023; siOpc w = 0x39 ∧ sageForm { a := true, imm := true } w = true ∧ siE w = false) := by decide +kernel

/-- Context 0 of the TXU enabled for one choice and one combine entry, its slot 0 placed; and the same with the entry taken. -/
def txuOn (s : State) (ents : SMap (Option CombEnt)) : State :=
  { s with regs := [((ctxReg 0).addr, some (1 + 2 ^ 31 + 2 ^ 40))], txu := { place := [(s.slotBase 0, 2 ^ 31)], dies := [(0, { ents := ents })] } }
def route1 : SageRoute := { ctx := 0, k := 1, weights := [0], experts := [0], token := 0 }
theorem witness_SageTilesAndStores :
    (let s := arr { slots := [{ filling with st := .complete }], ftq := [0] }
     s.runs .sage = true ∧ (s.sg 0).tile = none ∧ (s.ar 0).ftq = [0] ∧ s.rf ⟨.sgeCtl, 0, 0, 0⟩ 0 0 = 0) ∧
    (∀ arg, arg ∈ [0, 0x100] → let o := other (arg * 2 ^ 768)
     let t : SageTile := { tile1 with ctxs := [{ next := 0 }] }
     let s : State := { arr { seq := .stream, ops := [o], slots := [{ filling with st := .draining }] } with sage := [(0, { tile := some t })] }
     ∃ r, t.ctxs[0]? = some { next := 0 } ∧ s.rowReq 0 t 0 = some (0, r) ∧ r.removed = false ∧ r.aopr.aop.argAddr = arg ∧
       s.runHot r.aopr r.aopr.aop.argAddr 256 = false) ∧
    (let t : SageTile := { tile1 with ended := 1 }; t.rows ≤ t.ended ∧ ((tiled t 0).sg 0).held = []) ∧
    (let w := word 0x20 true true false false 0 0; siOpc w = 0x20 ∧ sageForm { d := true, a := true, fm := 0b1111 } w = true ∧
      tblUsable ((tiled tile1 w).sg 0) 0 = true ∧ tblUsable ((tiled tile1 w).sg 0) 15 = false) ∧
    (let w := word 0x2C true true false false 16 0; siOpc w = 0x2C ∧ sageForm { d := true, a := true, fm := 0b11111 } w = true ∧ natBits w 20 16 = 16 ∧
      siD w < 15) ∧
    (let w := word 0x30 true false false false 3 1023; siOpc w = 0x30 ∧ sageForm { d := true, fm := 0b11, imm := true } w = true ∧
      tbRow { row := 0, pc := 0 } w = some 2047) ∧
    (let w := word 0x31 false true false false 0 0; siOpc w = 0x31 ∧ sageForm { a := true, fm := 0b11, imm := true } w = true ∧
      tbRow { row := 0, pc := 0 } w = some 0) ∧
    (∀ imm, imm ∈ [0, 1] → let w := word 0x3C false true false false 4 imm
      siOpc w = 0x3C ∧ sageForm { a := true, fm := 0b11111111, imm := true } w = true ∧ natBits w 22 21 ≠ 3 ∧ natBits w 20 16 ≤ 0xE ∧
      fmtIsMX (natBits w 20 16) = false ∧
      let e := (tiled { tile1 with cols := 2 } w).sageEnv 0 { tile1 with cols := 2 } 0 0 { aopr := rec1 aop1, row0 := 0, rows := 1 }
      e.outStride = 64 ∧ e.w = 2 ∧ e.n0 = 0 ∧ fmtBits (natBits w 20 16) = 16) ∧
    (({ row := 0, pc := 0 } : SageRow).routed = false ∧ let w := word 0x3E false true true false 1 0; siOpc w = 0x3E ∧ sageForm { a := true, b := true, fm := 0b111111111, imm := true } w = true ∧
      tile1.lowerRows 0 = false ∧ natBits w 24 21 = 0 ∧ natBits w 20 16 = 1 ∧
      (txuOn (tiled tile1 w) []).routeCheck 0 route1 = .taken 0 ∧
      (txuOn (tiled tile1 w) [(0, some { token := 0, dest := 0, weights := [], slots := [], st := [] })]).routeCheck 0 route1 = .held) ∧
    sageOpcOk (siOpc (word 0xFF false false false false 0 0)) = false := by
  refine ⟨by decide +kernel, ?_, by decide +kernel, by decide +kernel, by decide +kernel, by decide +kernel, by decide +kernel, by decide +kernel,
    ?_, by decide +kernel⟩
  · intro arg h
    simp only [List.mem_cons, List.not_mem_nil, or_false] at h
    rcases h with rfl | rfl
    · exact ⟨{ aopr := rec1 (aop1 + 0 * 2 ^ 768), row0 := 0, rows := 1 }, by decide +kernel⟩
    · exact ⟨{ aopr := rec1 (aop1 + 0x100 * 2 ^ 768), row0 := 0, rows := 1 }, by decide +kernel⟩
  · refine ⟨by decide +kernel, by decide +kernel, by decide +kernel, by decide +kernel, by decide +kernel, by decide +kernel, rfl, rfl⟩

/-- Stack 0 of no partition, READY or as given. -/
def loose (x : Stack) : State :=
  { up with ptr := { up.ptr with image := { up.ptr.image with parts := [{ dies := 0xFF, hbms := 0xFFFE, qcount := 4096 }] } }, memsys := { hbms := [(0, x)] } }
def cached (x : Stack) : State := { hot up with memsys := { hbms := [(0, { x with st := .ready })] } }
theorem witness_MemoryRows :
    (up.runs .near = true ∧ up.pwr.st ≠ .sleep ∧ (SMap.get [] up.memsys.banks 0).any (fun r => r.master == 0x300 && r.row == 0 && r.array == true) = false ∧
     (let l : List BankReq := [⟨0, 0, false, 255⟩, ⟨0x300, 0, true, 0⟩]
      l.any (fun r => r.master == 0x300 && r.row == 0 && r.array == true) = true)) ∧
    (let s := cached {}
     ∃ tg o, targetOf 0 = some (tg, o) ∧ s.runs .msc = true ∧ (s.stack 0).st = .ready ∧ placeOf 0 = .hbm 0 ∧ s.permits 0x300 .rd tg o = true ∧
      s.permits 0x301 .rd tg o = false ∧ (s.stack 0).cmd = 0 ∧ s.recall none 0 128 = s ∧ hintOf (effHint (s.hintAt 0x300 0) (effHint 0 0 0) 0) = .normal ∧
      (s.stack 0).wcb = [] ∧ (s.stack 0).msc.find 16 (mscSet 0) 0 = none ∧ ∃ w, w < 16 ∧ ((s.stack 0).msc.way 16 (mscSet 0) w).keep = false) ∧
    (let s := cached { msc := [(mscSet 0 * 16 + 3, { valid := true })] }
     (s.stack 0).msc.find 16 (mscSet 0) 0 = some 3 ∧ (s.stack 0).wcb = [] ∧ s.keepWays 0 ≠ 0 ∧
     ∀ h, h ∈ [0, 1, 2, 3] → hintOf (effHint (s.hintAt 0x300 0) (effHint 0 h 0) 0) =
       nth .normal [Hint.normal, .stream, .keep, .last] h) ∧
    (let x := (loose { st := .ready, woken := true }).stack 0
     x.st = .ready ∧ x.woken = true ∧ (loose x).stackOwner 0 = none ∧ x.wcb = [] ∧ x.cmd = 0) ∧
    (let s := loose { cmd := 1, wcb := [⟨0, 1, .normal⟩], msc := [(0, { valid := true, dirty := true })] }
     s.runs .msc = true ∧ (s.stack 0).cmd = 1 ∧ (s.stack 0).wcb ≠ []) ∧
    (let s := loose { st := .selfref }
     (∀ n : PortIx, (s.port n).inq = []) ∧ (s.stack 0).held = [] ∧ (∀ d, (s.tdie d).held = []) ∧ (s.stack 0).st = .selfref ∧ s.stackOwner 0 = none) := by
  refine ⟨by decide +kernel, ⟨_, _, rfl, by decide +kernel, by decide +kernel, by decide +kernel, by decide +kernel, by decide +kernel, by decide +kernel,
    rfl, by decide +kernel, by decide +kernel, by decide +kernel, 0, by decide +kernel⟩, by decide +kernel, by decide +kernel, by decide +kernel,
    by decide +kernel, by decide +kernel, fun _ => rfl, by decide +kernel⟩

/-- ASID 0's tables in near memory: its context, its root's first entry, a level-2 leaf of stack 0. -/
def tables : State :=
  { hot up with
    regs := [(regAsidtab.addr, some 0x10000010001)],
    mem := Mem.writeN (Mem.writeN (Mem.writeN [] 0x10000010000 (leBytes 16 (3 + 0x10000020000 * 2 ^ 64))) 0x10000020000 (leBytes 8 0x10000030005))
      0x10000030000 (leBytes 8 0x1E3) }
def fault1 : FaultEnt :=
  { req := { waiter := .core 0, asid := 0, va := 0x10000, kind := .rd, cause := 1, level := 3, entry := 0, master := 0, queue := 0x1FFF, cls := 0,
             rsv := false, port := 0, part := some 0 }, index := 0, stamp := 0, waiters := [.core 0] }
def batch1 (st : BatchSt) : Batch := { id := 0, port := 0, rsv := false, st := st, ents := [fault1] }
def faulted (st : BatchSt) (s : State) : State := { s with xlt := { dies := [(0, { batches := [batch1 st] })] } }
theorem witness_TranslationFaults :
    (tables.runs .mesh = true ∧ (tables.rget regAsidtab).testBit 0 = true ∧ tables.context 0 = some ⟨1, 0, 0, false, 0x10000020000⟩ ∧ tables.dieOwner 0 = some 0 ∧
     tables.accCheck (fnMaster 0 0) .rd (linesOf (tables.ctxAddr 0) 16) = none ∧ tables.hotAt (tables.ctxAddr 0) = false) ∧
    WalkFinds tables ⟨1, 0, 0, false, 0x10000020000⟩ 0 .rd (some 0) 2 ∧
    ((up.rget regAsidtab).testBit 0 = false ∧ (up.xdie 0).batches = [] ∧ (up.xdie 0).waiting = [] ∧ 1 < up.maxrec) ∧
    (let s := faulted .open up; (s.xdie 0).openOf 0 = some (batch1 .open) ∧ ((s.xdie 0).batches.map Batch.id).Nodup) ∧
    (let s : State := { faulted .closed up with regs := [((fringReg .xltFringCtl 0).addr, some 13)] }
     s.nextBatch 0 = some (0, batch1 .closed) ∧ s.org.sess = [] ∧ s.rf (fringReg .xltFringCtl 0) 0 0 = 1 ∧ (s.fn 0 0).bme = true ∧
     1 ≤ (s.rf (fringReg .xltFringPtr 0) 30 16 + s.fringSize 0 - (nth 0 s.xlt.ringTail 0 + 1) % s.fringSize 0) % s.fringSize 0 ∧
     s.xlt.ringTail.length = 2 ∧ s.xlt.ringWrap.length = 2) ∧
    (∀ j f, (up.fn j f).msixEn = false) ∧
    (∀ opc, opc ∈ [0x22, 0x23] → (desc opc 0).f 4 31 16 = 0 ∧ (desc opc 0).zeroFrom 5 = true ∧ (busy 0 opc 0).startOp 0 tyAdmin opc = some (desc opc 0) ∧ (busy 0 opc 0).batchReason 0 0 ≠ 0 ∧
      (faulted .written (busy 0 opc 0)).startOp 0 tyAdmin opc = some (desc opc 0) ∧ (faulted .written (busy 0 opc 0)).batchReason 0 0 = 0) ∧
    (let s := faulted .written (wit { runner with parked := true, park := some ⟨0, [0], 0, [], []⟩ })
     (s.xdie 0).batches.find? (fun b => b.id == 0) = some (batch1 .written) ∧ (s.core 0).park = some ⟨0, [0], 0, [], []⟩ ∧
     (s.tdie 0).held = [] ∧ (s.ar 0).parked = [] ∧ (s.xdie 0).waiting = []) := by
  refine ⟨by decide +kernel, by unfold WalkFinds; decide +kernel, by decide +kernel, by decide +kernel, by decide +kernel, ?_, by decide +kernel,
    by decide +kernel⟩
  intro j f
  by_cases hj : j = 0
  · subst hj
    by_cases hf : f = 0
    · subst hf; rfl
    · show (SMap.get {} [(0, ({ bme := true, memEn := true } : PciFn))] f).msixEn = false
      simp [SMap.get, hf, eq_comm]
  · show (SMap.get {} (SMap.get ({} : PciPort) [(0, _)] j).fns f).msixEn = false
    simp [SMap.get, hj, eq_comm]

/-- A page table down to a level-0 leaf of stack 0, and a queue's descriptor of it. -/
def paged (q : Nat) (d : QDesc) : State :=
  { hot up with
    regs := [(regAsidtab.addr, some 0x10000010001)], queues := [(q, { st := .enabled, en := true, flight := [d], nextIx := 1, sqTail := 1, sqHead := 1 })]
    mem := [(0x10000010000, leBytes 16 (3 + 0x10000020000 * 2 ^ 64)), (0x10000020000, leBytes 8 0x10000030005), (0x10000030000, leBytes 8 0x10000040005),
      (0x10000040000, leBytes 8 0x10000050005), (0x10000050000, leBytes 8 0x1001E3)].foldl (fun m e => Mem.writeN m e.1 e.2) [] }
def entryOf : LeafAt → Option (Nat × Nat × Nat × Nat)
  | .entry ty port a e => some (ty, port, a, e)
  | _ => none
def pageRaw : Nat := 65536 * 2 ^ 224
def prefRaw : Nat := pageRaw + 2 ^ 140 + 0x10000100000 * 2 ^ 288
theorem no_buffers {s : State} (h : s.cores.all (fun e => decide (e.2.mbuf = [] ∧ e.2.sbuf = [])) = true) (k : Nat) :
    (s.core k).mbuf = [] ∧ (s.core k).sbuf = [] := by
  unfold State.core
  revert h
  generalize s.cores = l
  intro h
  induction l with
  | nil => exact ⟨rfl, rfl⟩
  | cons e l ih =>
    simp only [List.all_cons, Bool.and_eq_true, decide_eq_true_eq] at h
    unfold SMap.get
    split
    · exact h.1
    · exact ih h.2
theorem witness_Withdrawal :
    (∀ opc, opc ∈ [0x20, 0x24, 0x25] →
      (busy 0 opc 0).startOp 0 tyAdmin opc = some (desc opc 0) ∧ (desc opc 0).badRange = true ∧ (desc opc 0).f 4 12 12 = 0 ∧ (busy 0 opc 0).runs .dma = true) ∧
    (let d := desc 0x20 pageRaw; let s := paged 0 d
     s.startOp 0 tyAdmin 0x20 = some d ∧ d.f 4 31 13 = 0 ∧ d.zeroFrom 9 = true ∧ s.otherPort 0 d.asid = false ∧ d.f 4 12 12 = 0 ∧ d.badRange = false) ∧
    (let d := desc 0x21 0; (busy 0 0x21 0).startOp 0 tyAdmin 0x21 = some d ∧ d.zeroFrom 4 = true) ∧
    (let s : State := { wit { runner with wait := some ⟨0, []⟩, waits := 1, tran := [⟨0, .rd, .dev 0, 0⟩] } with xlt := { fences := [(0, 0, [.core 0 0])] } }
     s.xlt.fences.find? (fun f => f.1 == 0) = some (0, 0, [.core 0 0]) ∧ [Holding.core 0 0].any s.held = true) ∧
    ([Holding.core 0 0].any up.held = false ∧ ∀ k, (up.core k).mbuf = [] ∧ (up.core k).sbuf = []) ∧
    (let d := desc 0x24 prefRaw; let s := paged 0 d
     let u : State := { s.descRun 0 0 with xlt := { s.xlt with prefetch := [{ q := 0, ix := 0 }] } }
     s.startOp 0 tyAdmin 0x24 = some d ∧ s.runs .dma = true ∧ d.badRange = false ∧ d.f 4 31 19 = 0 ∧ d.zeroFrom 11 = true ∧ prefTarget d ≤ 1 ∧ d.f 4 15 14 = 0 ∧
     prefDest d % 65536 = 0 ∧ destOk d = true ∧ s.otherPort 0 d.asid = false ∧ s.xlt.prefetch = [] ∧ entryOf (u.leafAt 0 d.asid d.va).1 =
     some (1, 0, 0x10000050000, 0x1001E3) ∧ u.accCheck 0x300 .wr (linesOf 0x10000050000 8) = none ∧ movable 0x1001E3 = true) ∧
    (let d := desc 0x24 prefRaw; let pf : Prefetch := { q := 0, ix := 0, moving := some 0x10000050000, ty := 1 }
     let s : State := { paged 0 d with xlt := { prefetch := [pf] } }
     s.runs .dma = true ∧ s.desc 0 0 = some d ∧ pf.holds.any s.held = false ∧ pf.ty ≠ 2 ∧ (∀ k, (s.core k).mbuf = [] ∧ (s.core k).sbuf = []) ∧
     (s.rget regErrInj).testBit 63 = false ∧ s.err.upsets = [] ∧ (∀ p, p < 8 → (s.tdie p).held = []) ∧ Mem.readLE s.mem 0x10000050000 8 = 0x1001E3 ∧ leafType 0x1001E3 < 2 ∧
     prefTarget d < 2 ∧ d.vlen / 65536 = 1 ∧ natBits 0x1001E3 55 16 * 2 ^ 16 = 0x100000 ∧ prefDest d = 0x10000100000 ∧ pf.page = 0 ∧
     (∀ l, l ∈ [(0x10000050000, 8, Acc.rd), (0x10000050000, 8, .wr), (0x100000, 65536, .rd), (0x10000100000, 65536, .wr)] →
       s.accCheck (fnMaster 0 0) l.2.2 (linesOf l.1 l.2.1) = none ∧ s.hotAt l.1 = false) ∧ s.qPort 0 = 0) ∧
    (let d := desc 0x25 pageRaw; let s := paged 0 d
     s.startOp 0 tyAdmin 0x25 = some d ∧ d.badRange = false ∧ d.f 4 15 14 = 0 ∧ d.f 4 31 20 = 0 ∧ d.zeroFrom 9 = true ∧ s.otherPort 0 d.asid = false ∧ d.vlen / 65536 = 1 ∧
     entryOf (s.leafAt 0 d.asid d.va).1 = some (1, 0, 0x10000050000, 0x1001E3) ∧ s.accCheck 0x300 .wr (linesOf 0x10000050000 8) = none ∧
     leafType 0x1001E3 ≠ 3) ∧
    up.invBusy 0 = false ∧
    (SMap.get none ({ up with xlt := { inv := [(0, some ⟨true, [.core 0 0]⟩)] } } : State).xlt.inv 0 = some ⟨true, [.core 0 0]⟩) := by
  refine ⟨?_, ?_, ?_, ?_, ⟨?_, no_buffers ?_⟩, ?_, ⟨?_, ?_, ?_, ?_, no_buffers ?_, ?_⟩, ?_, ?_, ?_⟩ <;> decide +kernel

/-- Trellis port 0 in a state. -/
def linked (p : TrlPort) : State := { up with regs := [((trlReg .trlPortcfg 0).addr, some 1)], ptr := { up.ptr with image := { up.ptr.image with xs := 4 } }, trl := { up.trl with on := true, ports := [(0, p)] } }
theorem witness_LinkTraining :
    (linked {}).runs .trls = true ∧ ({} : TrlPort).lanes.length = 2 ∧
    (let s := linked { mated := true }
     (s.tport 0).st = .down ∧ (s.setTport 0 { s.tport 0 with mated := true }).portAllowed 0 = true) ∧
    (∀ st, st ∈ [LinkSt.training, .retrain, .up] → ((linked { st := st, mated := true }).tport 0).st = st) ∧
    2 < (maskBits 18 0b111).length ∧ maskBits 18 0b11 = [0, 1] ∧ maskBits 18 0 = [] ∧ maskBits 18 (2 ^ 16 + 2 ^ 3) = [3, 16] ∧
    (let s := linked { st := .failed, why := 5, mated := true }; (s.tport 0).why = 5 ∧ s.portAllowed 0 = true) ∧
    (∀ st, st ∈ [LinkSt.failed, .miswired, .refused] → (linked { st := st, mated := true }).portAllowed 0 = true) := by decide +kernel

/-- A packet of one flit, of a request without data, and the flit that brings it. -/
def reqPkt (opc cls reserved dst : Nat) : Packet := { hdr := opc + cls * 2 ^ 8 + reserved * 2 ^ 14 + dst * 2 ^ 32 + 3 * 2 ^ 64 + 5 * 2 ^ 128, data := [] }
def flitOf (data ty seq ack : Nat) : Nat := flitRaw data ty 0 true seq ack
def goodFlit (w : Nat) : Bool := crc32 (leBytes 60 (w % 2 ^ 480)) == w / 2 ^ 480
theorem witness_FlitsAndReplay :
    ((linked { st := .up }).runs .trls = true ∧ ((linked { st := .up }).tport 0).st = .up ∧ ((linked { st := .up }).tport 0).replay = []) ∧
    goodFlit 0 = false ∧ (goodFlit (flitOf 0 1 7 0) = true ∧ natBits (flitOf 0 1 7 0) 449 448 = 1 ∧ natBits (flitOf 0 1 7 0) 465 456 = 7) ∧
    (goodFlit (flitOf 0 0 0 0) = true ∧ natBits (flitOf 0 0 0 0) 449 448 = 0) ∧
    (∀ rsv, rsv ∈ [0, 1] → let w := flitOf (reqPkt 1 0 rsv 0).hdr 1 0 0
     let y : TrlPort := { st := .up, rx := [(0, [{ sop := w.testBit 454, data := w % 2 ^ 448 }])] }
     goodFlit w = true ∧ natBits w 453 450 = 0 ∧ y.headPacket 0 = some (reqPkt 1 0 rsv 0) ∧ up.device = 0 ∧
     (up.arrive (reqPkt 1 0 rsv 0)).target = 0 ∧ (reqPkt 1 0 rsv 0).esc = false ∧ (reqPkt 1 0 rsv 0).dst = 0 ∧ (reqPkt 1 0 rsv 0).cls = 0 ∧
     (up.arrive (reqPkt 1 0 rsv 0)).wellFormed = decide (rsv = 0) ∧ (reqPkt 1 0 rsv 0).wellFormed = decide (rsv = 0)) ∧
    (let p : TrlPort := { st := .up, replay := [⟨4, 0, 0⟩, ⟨5, 0, 0⟩] }
     (linked p).rf (trlReg .trlPortcfg 0) 9 4 = 0 ∧ (linked p).tport 0 = p ∧ ({ linked p with regs := [] } : State).rf (trlReg .trlPortcfg 0) 9 4 = 16) := by
  refine ⟨?_, ?_, ?_, ?_, ?_, ?_⟩ <;> decide +kernel

/-- A packet at port 1 of a module of a ring of four, bound for device 3 by port 0, which is in a state; and one that waits to be injected. -/
def passing (st : LinkSt) (pk : Packet) : State :=
  { up with ptr := { up.ptr with image := { up.ptr.image with xs := 4 } }
            trl := { up.trl with ports := [(0, { st := st }), (1, { st := .up, rx := [(0, pk.flitData.map (fun d => { sop := true, data := d }))] })]
                                 out := [⟨pk, some 0, none⟩], tags := [(0, some { req := .xfer 1024 0 0, len := 8 })] } }
def sent (dst hops : Nat) : Packet := { hdr := 1 + dst * 2 ^ 32 + hops * 2 ^ 50, data := [] }
theorem witness_RoutingAndInjection :
    (∀ st, st ∈ [LinkSt.up, .retrain, .down] → ∀ hops, hops ∈ [0, 255] → let s := passing st (sent 3 hops)
     s.runs .trls = true ∧ (s.tport 1).headPacket 0 = some (sent 3 hops) ∧ (sent 3 hops).target = 3 ∧ s.hop s.device 3 = some 0 ∧ (s.tport 0).st = st ∧
     s.inTorus 3 = true ∧ (sent 3 hops).esc = false ∧ (sent 3 hops).hops = hops ∧ (s.tport 0).canSend (sent 3 0) = true ∧
     (st = .up → hops = 0 → ({ s with trl := { s.trl with out := [] } } : State).hasSlot 0 0 true = true ∧
       ({ s with trl := { s.trl with ports := s.trl.ports.take 1 } } : State).hasSlot 0 0 false = true) ∧
     ({ s.tport 0 with replay := List.replicate 512 ⟨0, 0, 0⟩ } : TrlPort).canSend (sent 3 0) = false) ∧
    (∀ dst, dst ∈ [0, 3, 5] → let s := passing .up (sent dst 0)
     s.trl.out[0]? = some ⟨sent dst 0, some 0, none⟩ ∧ s.injStopped 0 = false ∧ (s.inTorus dst = true ↔ dst ≠ 5) ∧ (sent dst 0).cls = 0 ∧ (sent dst 0).dst = dst ∧ s.device = 0 ∧
     s.tag (sent dst 0).tag = some { req := .xfer 1024 0 0, len := 8 } ∧ s.trl.waiting = []) ∧
    (let s := passing .up (sent 3 0)
     s.findDetour s.activeBank (s.path 96 s.device 3) = none ∧ s.hop s.device 3 = some 0 ∧ ¬ s.shareOf 0 0 ≤ SMap.get 0 (s.tport 0).share 0 ∧
     (∀ b, b ∈ [false, true] → ∃ d, ({ s with regs := [((⟨.trlDetour, 0, 0, 0⟩ : Reg).addr, some (3 + 3 * 2 ^ 8 + b2n b * 2 ^ 50 + 2 * 2 ^ 32))] } : State).findDetour 0
       (s.path 96 s.device 3) = some d ∧ d.testBit 50 = b)) ∧
    (let s : State := { passing .up (sent 3 0) with ptr := { up.ptr with parts := [.contained] } }; s.injStopped 0 = true) := by
  refine ⟨?_, ?_, ⟨?_, ?_, ?_, ?_⟩, ?_⟩
  case _ => decide +kernel
  case _ => decide +kernel
  case _ => decide +kernel
  case _ => decide +kernel
  case _ => decide +kernel
  case _ =>
    intro b hb
    simp only [List.mem_cons, List.not_mem_nil, or_false] at hb
    rcases hb with rfl | rfl
    · exact ⟨3 + 3 * 2 ^ 8 + 2 * 2 ^ 32, by decide +kernel⟩
    · exact ⟨3 + 3 * 2 ^ 8 + 2 ^ 50 + 2 * 2 ^ 32, by decide +kernel⟩
  case _ => decide +kernel

/-- A packet from device 3 at the module's loop. -/
def request (opc aux len asz aop tag : Nat) (a : Nat) : Packet :=
  { hdr := opc + len * 2 ^ 16 + (3 + 2 ^ 21) * 2 ^ 64 + (tag + aop * 2 ^ 24 + asz * 2 ^ 28) * 2 ^ 128 + a * 2 ^ 160 + aux * 2 ^ 224, data := List.replicate len 0 }
def remoteTag : Nat := 3 + 2 ^ 21 + 2 ^ 22
def arriving (p : Packet) : State :=
  { hot up with
    ptr := { up.ptr with image := { up.ptr.image with tags := [(0, remoteTag)], templates := some [[(0x400, 0xF)]] }, parts := [.running] }
    trl := { up.trl with max := 1, loop := [p] } }
/-- The requests that are served: a read, a write, an addition, at near memory. -/
def servedReqs : List (Packet × Acc × Nat) :=
  [(request 1 8 0 0 0 9 0x10000000000, .rd, 8), (request 2 0 8 0 0 9 0x10000000000, .wr, 8), (request 3 0 8 1 1 9 0x10000000000, .at, 8)]
theorem witness_RequestsServed :
    (∀ x, x ∈ servedReqs → let p := x.1; let s := arriving p
     s.device < 2 ^ 18 ∧ s.peekPacket .loop = some p ∧ p.cls = 0 ∧ p.wellFormed = true ∧ s.hotLoc (.dev p.addr) = false ∧ p.reqOk = true ∧
     s.ptr.image.tags.find? (fun e => e.2.testBit 22 && natBits e.2 17 0 == p.src && (e.2.testBit 21 || natBits e.2 20 18 == p.srcpart)) =
       some (0, remoteTag) ∧ p.plvl ≤ s.trl.max ∧ s.ptr.image.floor ≤ p.plvl ∧ natBits remoteTag 34 32 < s.ptr.parts.length ∧
     s.accCheck 0x400 x.2.1 (linesOf p.addr x.2.2) = none ∧ (s.rget regErrInj).testBit 63 = false ∧ s.err.upsets = [] ∧ placeOf p.addr = .near 0) ∧
    (let p := request 1 0 0 0 0 9 0; (arriving p).peekPacket .loop = some p ∧ p.cls = 0 ∧ p.wellFormed = true ∧ p.reqOk = false ∧ (request 1 0 0 0 0 9 0).put 0 14 14 1 ≠ p ∧
     ((request 1 0 0 0 0 9 0).put 0 14 14 1).wellFormed = false) ∧
    (let p := request 1 8 0 0 0 9 0; let s := arriving p
     p.reqOk = true ∧ ({ s with ptr := { s.ptr with image := { s.ptr.image with tags := [] } } } : State).ptr.image.tags.find? (fun _ => true) = none ∧
     s.ptr.image.floor ≤ p.plvl) := by
  refine ⟨?_, ?_, ?_⟩ <;> decide +kernel

/-- Tag 0 in use by a request of queue 1024's transfer. -/
def tagged (req : TrlReq) (len : Nat) (late : Bool) (p : Packet) : State :=
  { up with trl := { up.trl with loop := [p], tags := [(0, some { req := req, len := len, timedOut := late })],
                                 xfers := [{ q := 1024, ix := 0, base := 0, len := 8, left := 1 }] } }
theorem witness_ResponsesTaken :
    (∀ opc : Fin 4, let p : Packet := { request (0x10 + opc.val) 0 8 0 0 0 0 with hdr := (request (0x10 + opc.val) 0 8 0 0 0 0).hdr + 2 ^ 8 }
     ∀ late, let s := tagged (.xfer 1024 0 0) 8 late p
     s.peekPacket .loop = some p ∧ p.cls = 1 ∧ p.wellFormed = true ∧ p.opc = 0x10 + opc.val ∧ s.tag p.tag = some ⟨.xfer 1024 0 0, 8, late⟩ ∧
     p.data.length = 8 ∧ s.trl.waiting = []) ∧
    (tagged (.core 0 0 0) 8 false (request 0x10 0 8 0 0 0 0)).tag 0 = some ⟨.core 0 0 0, 8, false⟩ ∧
    ∀ late, let s := tagged (.xfer 1024 0 0) 8 late (request 0x10 0 8 0 0 0 0)
     s.tag 0 = some ⟨.xfer 1024 0 0, 8, late⟩ ∧ s.trl.waiting = [] ∧ (∀ o, o ∈ s.trl.out → ¬ (o.pkt.cls = 0 ∧ o.pkt.tag = 0)) := by
  refine ⟨?_, ?_, ?_⟩ <;> decide +kernel

/-- A GET or PUT of 8 bytes at queue 1024, from 0x100 to 0x200; the leaf says where the remote page is. -/
def xferDesc (opc len : Nat) : QDesc := desc opc (0x100 * 2 ^ 128 + 0x10200 * 2 ^ 192 + len * 2 ^ 256)
def peerTlb : List TlbEnt := [⟨0, 0, 16, 0x100000001E7⟩, ⟨0, 0x10000, 16, 0x100000001EF⟩]
def xfering (opc len : Nat) : State :=
  { busy 1024 opc 0 with
    queues := [(1024, { st := .enabled, en := true, flight := [xferDesc opc len], nextIx := 1, sqTail := 1, sqHead := 1 })]
    xlt := { tlbs := [1100, 1110, 1120].map (fun k => (k, peerTlb)) } }

theorem witness_TransfersStart :
    (∀ opc, opc ∈ [1, 2] → (busy 1024 opc 0).runs .dma = true ∧ (busy 1024 opc 0).startOp 1024 tyTrellis opc = some (desc opc 0) ∧ (desc opc 0).len40 8 = 0) ∧
    (∀ opc, opc ∈ [1, 2] → ∀ len, len ∈ [8, 0x20000] → let s := xfering opc len; let d := xferDesc opc len
     s.startOp 1024 tyTrellis opc = some d ∧ d.len40 8 = len ∧ d.addr 4 = 0x100 ∧ d.addr 6 = 0x10200 ∧ d.f 10 31 3 = 0 ∧ d.f 10 2 0 = 0 ∧
     d.f 5 31 24 = 0 ∧ d.f 7 31 24 = 0 ∧ d.f 9 31 8 = 0 ∧ d.zeroFrom 11 = true ∧
     s.queueOwner 1024 = some 0 ∧ s.dieOwner 0 = some 0) ∧
    (∀ put : Bool, let opc := if put then 1 else 2; let s := xfering opc 8
     let r := State.descPages 1024 0 0 (if put then .rd else .wr) 0 (pagesOf 0x100 8) (s.descRun 1024 0)
     let r2 := State.descPages 1024 0 0 (if put then .wr else .rd) 0 (pagesOf 0x10200 8) r.2
     r.1 = some [⟨.dev 0x10000000100, 8, 0⟩] ∧ r2.1 = some [⟨.peer 0 0x10000000200, 8, 0⟩] ∧ 0x10000000200 % 4096 + 8 ≤ 4096 ∧
     (r2.2.rget regErrInj).testBit 63 = false ∧ r2.2.err.upsets = [] ∧ r2.2.trl.waiting = [] ∧ r2.2.trl.tags = [] ∧ r2.2.device < 2 ^ 18 ∧ r2.2.regs = [] ∧
     r2.2.ptr.image.floor < 256) ∧
    (xfering 1 8).accCheck (dmaMaster 0 1024 0) .rd (linesOf 0x10000000100 8) = none :=
  ⟨by decide +kernel, by decide +kernel, by decide +kernel,
   of_engines (P := fun m => (xfering 1 8).accCheck m .rd (linesOf 0x10000000100 8) = none) (by decide +kernel) 1024 0⟩

/-- A module whose context 0 is enabled with rows of 32 elements and one choice, expert queue 0 of die 0 bound to it with four slots of BF16 and
chunks of one row, its template at 0x200; the first 64 KiB of ASID 0 are mapped. -/
def eqBits : Nat := 1 + 4 * 2 ^ 5 + 4 * 2 ^ 10 + 1 * 2 ^ 23
def txuRegs : SMap (Option Nat) :=
  [((ctxReg 0).addr, some (1 + 32 * 2 ^ 16 + 2 ^ 31 + 2 ^ 40)), ((eqCfg 0 0).addr, some eqBits), ((⟨.txuEqTmpl, 0, 0, 0⟩ : Reg).addr, some 0x200)]
def txu (x : TxuDie) : State :=
  mapped { up with regs := txuRegs, ptr := { up.ptr with image := { up.ptr.image with txuCap := [16] } },
                   txu := { place := [(0, 2 ^ 31 + 5)], dies := [(0, x)] } }
def okBytes (r : Except Bool (List Byte) × List Nat × State) : Option (List Byte) := match r.1 with | .ok b => some b | .error _ => none
def slot0 (ready : Bool) : Option EqSlot := some { src := 0, odie := 0, cent := 0, ctx := 0, loc := true, ready := ready }
def tok0 (st : List ChSt) : CombEnt := { token := 0x100, dest := 0x180, weights := [0x3F800000], slots := [0], st := st }
def place (count : Nat) : QDesc := desc 0x10 (count * 2 ^ 192 + 0x100 * 2 ^ 256)
def placing (count : Nat) (s : State) : State := { s with queues := [(1024, { st := .enabled, en := true, flight := [{ place count with st := .running }] })] }
theorem witness_DispatchAndChunks :
    (txu {}).runs .txu = true ∧
    (∀ n, n ∈ [0, 1, 17] → ∃ d, (placing n (txu {})).opDesc 1024 tyTrellis 0x10 = some d ∧ d.f 4 3 0 = 0 ∧ d.f 5 16 0 = 0 ∧ d.f 6 17 0 = n ∧
      d.f 6 31 18 = 0 ∧ d.f 4 31 4 = 0 ∧ d.f 5 31 17 = 0 ∧ d.f 7 31 0 = 0 ∧ d.f 9 31 24 = 0 ∧ d.zeroFrom 10 = true ∧ d.addr 8 = 0x100) ∧
    ((txu {}).slotsOf 0 = 16 ∧ (txu {}).ctxPart 0 = 0 ∧ (txu {}).queueOwner 1024 = some 0 ∧ (txu {}).homeDie 1024 = 0) ∧
    (let s := placing 1 (txu {}); let r := State.descPages 1024 0 0 .rd 0 (pagesOf 0x100 4) s
     r.1 = some [⟨.dev 0x10000000100, 4, 0⟩] ∧ r.2.mem = s.mem) ∧
    (let s := txu { dbuf := [(0, 0)], ents := [(0, some (tok0 [.wait]))] }
     (s.tdie 0).dbuf = (0, 0) :: [] ∧ (s.tdie 0).going = false ∧ (tok0 [.wait]).batches = [] ∧ s.ent 0 (entKey 0 0) = some (tok0 [.wait]) ∧
     okBytes (s.txuRead 0 (entKey 0 0) 0 (txuDisp 0) 0x100 (2 * s.ctxHidden 0)) = some (List.replicate 64 0) ∧
     (tok0 [.wait]).slots.map (fun x => placeTarget (s.place 0 x)) = [⟨5, 0, 0⟩] ∧ s.device = 0 ∧ ∀ i, i < 8 → s.jobFloor i < 256) ∧
    (∀ run, run ∈ [0, 1] → let s := txu { eqs := [(0, { slots := [(0, slot0 (run == 1))], order := if run = 1 then [0] else [] })] }
     s.eqF 0 0 28 23 = 1 ∧ s.eqF 0 0 22 10 = 4 ∧ (∀ i, i < run → SMap.get none (s.eq32 0 0).slots i = slot0 true) ∧ (s.tdie 0).stopped = false ∧
     s.tmplAddr 0 0 0 = 0x200 ∧ (okBytes (s.txuRead 0 (eqWaiter 0) 0 (txuDisp 0) 0x200 128)).isSome = true) ∧
    (∀ st, st ∈ [0, 2] → let c : EqChunk := { id := 0, first := 0, rows := 1, done := some st, todo := false }
     let s := txu { eqs := [(0, { slots := [(0, slot0 true)], chunks := [c] })] }
     (s.eq32 0 0).chunks.find? (fun c => c.batches == [] && (c.done.isSome || c.todo)) = some c ∧ s.eqF 0 0 30 29 = 0 ∧
     (State.sendResults 0 0 (stageAop 0 1 0) c (upFrom 0 1) s).1.toOption = some true) := by
  refine ⟨?_, ?_, ?_, ?_, ?_, ?_, ?_⟩
  · decide +kernel
  · intro n h
    simp only [List.mem_cons, List.not_mem_nil, or_false] at h
    rcases h with rfl | rfl | rfl
    · exact ⟨{ place 0 with st := .running }, by decide +kernel⟩
    · exact ⟨{ place 1 with st := .running }, by decide +kernel⟩
    · exact ⟨{ place 17 with st := .running }, by decide +kernel⟩
  all_goals decide +kernel

/-- A token packet from device 3 for token 0 of context 0, dies 0, at Trellis port 0. -/
def tokPkt (opc plvl aux status : Nat) (data : List Byte) : Packet :=
  { hdr := opc + 2 * 2 ^ 8 + data.length * 2 ^ 16 + (3 + plvl * 2 ^ 21) * 2 ^ 64 + status * 2 ^ 144 + aux * 2 ^ 224, data := data }
def srcTok : PktSrc := .port 0 4
def tokAt (pk : Packet) (s : State) : State :=
  { s with ptr := { s.ptr with image := { s.ptr.image with tags := [(0, remoteTag)] } }
           trl := { s.trl with max := 1, ports := [(0, { st := .up, rx := [(4, pk.flitData.map (fun d => { sop := true, data := d }))] })] } }
def row : List Byte := List.replicate 64 1
def policy1 (s : State) : State := { s with regs := SMap.set none s.regs (ctxReg 0).addr (some (1 + 32 * 2 ^ 16 + 2 ^ 31 + 2 ^ 36 + 2 ^ 40)) }
def okPages (r : Option (List Piece) × List Nat × State) : Option (List Piece) := r.1
theorem witness_TokensExchanged :
    (∀ plvl, plvl ∈ [0, 1] → ∀ en, en ∈ [[], [(0, slot0 true)]] → let pk := tokPkt 0x20 plvl 1 0 row
     let s := tokAt pk (txu { eqs := [(0, { slots := en })] })
     s.runs .txu = true ∧ s.peekPacket srcTok = some pk ∧ pk.wellFormed = true ∧ pk.cls = 2 ∧ pk.src ≠ s.device ∧ s.device < 2 ^ 18 ∧ (∀ i, i < 8 → s.jobFloor i < 256) ∧
     s.dieOwner 0 = some (s.ctxPart 0) ∧ s.remoteTag pk.src pk.srcpart = some (0, 0) ∧ (plvl < s.ptr.image.floor ↔ plvl = 0) ∧ plvl ≤ s.trl.max ∧
     nth PartSt.unused s.ptr.parts 0 = .running ∧ (s.tdie 0).stopped = false ∧ s.rowWaits 0 pk = false ∧ pk.tok.ctx = 0 ∧ pk.tok.tdie = 0 ∧ pk.tok.last = 0) ∧
    (∀ x, x ∈ [PartSt.contained, .applying] →
      nth PartSt.unused ({ txu {} with ptr := { up.ptr with parts := [x] } } : State).ptr.parts 0 = x) ∧
    (let s := tokAt (tokPkt 0x20 1 1 0 row) (txu {})
     s.eqF 0 0 0 0 = 1 ∧ s.eqF 0 0 4 1 = 0 ∧ s.eqF 0 0 9 5 = 4 ∧ (s.eq32 0 0).next % s.eqF 0 0 22 10 = 0 ∧ s.ctx 0 36 36 = 0 ∧
     (policy1 s).ctx 0 36 36 = 1 ∧ s.eqF 0 1 0 0 = 0 ∧ ({ s with ptr := { s.ptr with image := { s.ptr.image with tags := [] } } } : State).remoteTag 3 0 =
     none) ∧
    (let s := tokAt (tokPkt 0x20 1 1 0 row) (txu {}); let u := s.dropPacket srcTok
     (okBytes (u.txuRead 0 (eqWaiter 0) 0 (txuDisp 0) (s.tmplAddr 0 0 0) 128)).isSome = true) ∧
    (∀ opc, opc ∈ [0x21, 0x22, 0x23, 0x24] → ∀ st, st ∈ [ChSt.wait, .result] →
      let pk := tokPkt opc 1 (if opc = 0x21 then 0 else 1) 0 (if opc = 0x21 then row else [])
      let e := { tok0 [st] with targets := [⟨3, 0, 0⟩], sent := true }
      let s := tokAt pk (txu { ents := [(0, some e)] })
      s.peekPacket srcTok = some pk ∧ pk.wellFormed = true ∧ s.rowWaits 0 pk = false ∧ pk.opc = opc ∧ s.ent 0 (entKey 0 0) = some e ∧ e.choice ⟨pk.src, 0, 0⟩ = some 0 ∧ e.st[0]? = some st ∧
      (tokAt pk (txu {})).ent 0 (entKey 0 0) = none) ∧
    (∀ fin, fin ∈ [ChSt.result, .passed, .failed 2, .wait] → let e := { tok0 [fin] with sent := true, retry := [0] }
     let s := txu { ents := [(0, some e)] }
     s.ent 0 (entKey 0 0) = some e ∧ e.batches = [] ∧ (s.tdie 0).stopped = false ∧ (0, 0) ∉ (s.tdie 0).dbuf ∧ s.ctxEn 0 = true ∧
     ({ s with regs := [] } : State).ctxEn 0 = false ∧ (okBytes (s.txuRead 0 (entKey 0 0) 0 (txuDisp 0) e.token 64)).isSome = true ∧
     (okPages (State.txuPages 0 (entKey 0 0) 0 (txuComb 0) .wr (pagesOf e.dest 128) s)) = some [⟨.dev 0x10000000180, 128, 0⟩] ∧
     (s.writeLocs (txuComb 0) 0 [⟨.dev 0x10000000180, 128, 0⟩] (List.replicate 128 0)).1 = true) := by
  refine ⟨?_, ?_, ?_, ?_, ?_, ?_⟩ <;> decide +kernel

/-- An ALLREDUCE of four FP32 elements between two modules of the X ring, at queue 1024, and a packet of it from device 1. -/
def collRaw (dims : Nat) : Nat := dims * 2 ^ 134 + 7 * 2 ^ 144 + 2 * 2 ^ 166 + 0x100 * 2 ^ 256 + 0x200 * 2 ^ 320 + 4 * 2 ^ 384
def collDesc (dims : Nat) : QDesc := { desc 0x11 (collRaw dims) with st := .running }
def ring : CollRun := { q := 1024, ix := 0, raw := 0x11 + collRaw 1, lo := 0, hi := 4, vec := [] }
def collPk (opc status dig plvl : Nat) (els : List Byte) : Packet :=
  let sub := 7 + 1 * 2 ^ 20 + (ring.digest + dig) * 2 ^ 32
  { hdr := opc + 3 * 2 ^ 8 + (32 + els.length) * 2 ^ 16 + (1 + plvl * 2 ^ 21) * 2 ^ 64 + status * 2 ^ 144, data := leBytes 32 sub ++ els }
def srcColl : PktSrc := .port 0 6
def coll (dims : Nat) (runs : List CollRun) (pk : Packet) : State :=
  mapped { busy 1024 0x11 0 with
    queues := [(1024, { st := .enabled, en := true, flight := [collDesc dims] })]
    ptr := { up.ptr with image := { up.ptr.image with xs := 4, tags := [(0, 1 + 2 ^ 21 + 2 ^ 22)] } }
    txu := { colls := runs }
    trl := { up.trl with max := 1, ports := [(0, { st := .up, rx := [(6, pk.flitData.map (fun d => { sop := true, data := d }))] })] } }
def els1 : List Byte := leBytes 4 0x3F800000
theorem witness_Collectives :
    (let s := coll 1 [ring] (collPk 0x31 2 0 1 [])
     s.runs .txu = true ∧ s.txu.colls.find? (fun r => r.q == 1024) = some ring ∧ ring.dims = [0] ∧ ring.len 0 = 2 ∧ s.device < 2 ^ 18 ∧ s.collNext ring 0 = 1 ∧
     ∀ i, i < 8 → s.jobFloor i < 256) ∧
    (∀ dims, dims ∈ [0, 1] → let s := coll dims [] (collPk 0x31 2 0 1 []); let r : CollRun := { q := 1024, ix := 0, raw := (collDesc dims).raw }
     s.opDesc 1024 tyTrellis 0x11 = some (collDesc dims) ∧ s.txu.colls = [] ∧ (s.collBad r 1024 = true ↔ dims = 0)) ∧
    (let s := coll 1 [{ ring with ix := 9 }] (collPk 0x31 2 0 1 [])
     s.txu.colls.find? (fun x => x.q == 1024 && x.ix == 0) = none ∧ s.txu.colls.any (fun x => x.q == 1024) = true) ∧
    (let s := coll 1 [] (collPk 0x31 2 0 1 [])
     (State.descPages 1024 0 0 .rd 0 (pagesOf 0x100 16) s).1 = some [⟨.dev 0x10000000100, 16, 0⟩]) ∧
    (State.readLocs (dmaMaster 0 1024 0) 0 0 [⟨.dev 0x10000000100, 16, 0⟩] (coll 1 [] (collPk 0x31 2 0 1 []))).1.isSome = true ∧
    (∀ x, x ∈ [(0x31, 2, 0, 1, []), (0x30, 0, 1, 1, els1), (0x30, 0, 0, 1, els1), (0x30, 0, 0, 0, els1)] →
     let pk := collPk x.1 x.2.1 x.2.2.1 x.2.2.2.1 x.2.2.2.2
     let s := coll 1 [ring] pk
     s.peekPacket srcColl = some pk ∧ pk.wellFormed = true ∧ pk.cls = 3 ∧
     s.txu.colls.find? (fun r => r.cid == natBits pk.collSub 15 0 && s.queueOwner r.q == s.dieOwner (natBits pk.collSub 28 26)) = some ring ∧
     s.collCheck pk false (natBits pk.collSub 28 26) = (if x.2.2.2.1 = 0 then some 7 else none) ∧
     (natBits pk.collSub 63 32 = ring.digest ↔ x.2.2.1 = 0) ∧ ring.plan[0]? = some (0, 0) ∧ natBits pk.collSub 19 18 = 0 ∧
     natBits pk.collSub 17 16 = 0 ∧ natBits pk.collSub 25 20 + 1 = 2 ∧ ring.ready = false ∧
     ((chunksOf ring.rsize pk.data.length (pk.data.drop 32)).length < s.collExpect ring)) ∧
    (let pk := collPk 0x30 0 0 1 els1; let s := coll 1 [{ ring with stage := 2 }] pk; (s.collTake { ring with stage := 2 } pk).isNone = true) := by
  refine ⟨?_, ?_, ?_, ?_, ?_, ?_, ?_⟩
  · decide +kernel
  · decide +kernel
  · decide +kernel
  · decide +kernel
  · exact of_engines (P := fun m => (State.readLocs m 0 0 [⟨.dev 0x10000000100, 16, 0⟩] (coll 1 [] (collPk 0x31 2 0 1 []))).1.isSome = true)
      (by decide +kernel) 1024 0
  · decide +kernel
  · decide +kernel

/-- A module of a ring of four that holds a Lodge of level `level`, with member device 1. -/
def plot1 : PlotPart := { dies := 1, gang := 0, free := true, running := true, job := 0 }
def memb1 : Member := { dev := 1, st := .healthy, max := 1, floor := 1, parts := [plot1] }
def lodgeOf (level : Nat) (l : Ldg) : State :=
  { up with ptr := { up.ptr with image := { up.ptr.image with xs := 4, lodge := true, level := level } }, ldg := { l with held := true } }
def msg (opc dst seq : Nat) (args : List Nat) : Msg := { opc := opc, dst := dst, seq := seq, args := args, stamp := 0 }
def box0 (n : Fin 65) : Box := { x0 := 0, xn := n, y0 := 0, yn := 1, z0 := 0, zn := 1 }
def serviceQ (q opc raw : Nat) (s : State) : State :=
  { s with queues := [(q, { st := .enabled, en := true, flight := [desc opc raw], nextIx := 1, sqTail := 1, sqHead := 1 })] }
theorem witness_Membership :
    (∀ l : Nat, l < 3 → (lodgeOf l { members := [memb1] }).ptr.image.lodge = true ∧ (lodgeOf l { members := [memb1] }).ldg.held = true) ∧
    up.ptr.image.lodge = false ∧
    (up.ldg.seen.find? (fun x => x.1 == 1 && x.2.1 == 0) = none ∧ [(1, 0, [msg 0x42 1 0 [1]])].find? (fun x => x.1 == 1 && x.2.1 == 0) =
      some (1, 0, [msg 0x42 1 0 [1]])) ∧
    (up.boxHas (boxNat (box0 1)) up.device = true ∧ up.boxHas (boxNat (box0 0)) up.device = false ∧ up.ldg.pparent = none) ∧
    (let s := lodgeOf 0 { pparent := some 1 }; s.boxHas (boxNat (box0 1)) s.device = true ∧ s.ldg.lparent = none ∧ 1 = s.ptr.image.level + 1 ∧
     s.ldg.pparent ≠ none) ∧
    (let s := lodgeOf 1 { members := List.replicate 64 { memb1 with dev := 2 } }
     s.ldg.members.find? (fun m => m.dev == 1) = none ∧ 64 ≤ s.ldg.members.length) ∧
    (let s := lodgeOf 1 { members := [memb1] }
     s.ldg.members.find? (fun m => m.dev == 1) = some memb1 ∧ s.ldg.away = [] ∧ s.ldg.links = [] ∧ s.ldg.sleepers = [] ∧ s.device = 0 ∧
     s.ldg.jobs = []) ∧
    (let s := lodgeOf 1 { members := [{ memb1 with st := .draining, parts := [{ plot1 with free := false }] }] }
     ∃ m, s.ldg.members.find? (fun m => m.dev == 1) = some m ∧ m.st = .draining ∧ ∃ p, p ∈ m.parts ∧ p.dies ≠ 0 ∧ p.free = false) ∧
    (let s := lodgeOf 1 { members := [{ memb1 with st := .leaving, missed := 16 }] }
     ∃ m, s.ldg.members.find? (fun m => m.dev == 1) = some m ∧ m.st = .leaving ∧ 16 ≤ m.missed) ∧
    (let s := lodgeOf 1 { members := [{ memb1 with missed := 16 }] }; s.rf ⟨.ldgTimers, 0, 0, 0⟩ 19 16 ≤ 16 ∧ s.rf ⟨.ldgTimers, 0, 0, 0⟩ 19 16 ≠ 0) ∧
    (let l : Ldg := { await := [msg 0x51 1 3 []], pparent := some 1, pmiss := 16 }
     l.await.find? (fun m => m.seq == 3) = some (msg 0x51 1 3 []) ∧ (msg 0x51 1 3 []).sends < 8 ∧ up.pwr.req = none) ∧
    (let m := { msg 0x41 1 3 [] with sends := 8 }
     let s : State := { up with ldg := { await := [m], pparent := some 1 } }
     s.ldg.await.find? (fun m => m.seq == 3) = some m ∧ 8 ≤ m.sends ∧ s.ldg.pparent = some m.dst ∧ s.ldg.lparent = none ∧ m.dst ≠ s.device) ∧
    ((lodgeOf 2 { annPeriods := 16 }).ptr.image.level ≠ 1 ∧ 16 ≤ (lodgeOf 2 { annPeriods := 16 }).ldg.annPeriods) ∧
    (let s := mapped (serviceQ 1536 0x43 (0x100 * 2 ^ 256) (lodgeOf 1 { members := [memb1] })); let x := desc 0x43 (0x100 * 2 ^ 256)
     s.opDesc 1536 tyService 0x43 = some x ∧ natBits x.raw 255 128 = 0 ∧ x.f 9 31 24 = 0 ∧ x.zeroFrom 10 = true ∧ x.addr 8 + 1024 ≤ 2 ^ 56 ∧ s.homeDie 1536 = 0 ∧
     (State.descPages 1536 0 0 .wr 0 (pagesOf 0x100 1024) s).1 = some [⟨.dev 0x10000000100, 1024, 0⟩]) ∧
    (let s := mapped (serviceQ 1536 0x43 0 (lodgeOf 1 { members := [memb1] }))
     (s.descWrite 1536 0 (dmaMaster 0 1536 0) 0 [⟨.dev 0x10000000100, 1024, 0⟩] (List.replicate 1024 0)).1 = true) := by
  refine ⟨?_, ?_, ?_, ?_, ?_, ?_, ?_, ⟨_, rfl, by decide +kernel⟩, ⟨_, rfl, by decide +kernel⟩, ?_, ?_, ?_, ?_, ?_, ?_⟩
  case _ => decide +kernel
  case _ => decide +kernel
  case _ => decide +kernel
  case _ => decide +kernel
  case _ => decide +kernel
  case _ => decide +kernel
  case _ => decide +kernel
  case _ => decide +kernel
  case _ => decide +kernel
  case _ => decide +kernel
  case _ => decide +kernel
  case _ => decide +kernel
  case _ =>
    exact of_engines (P := fun m => ((mapped (serviceQ 1536 0x43 0 (lodgeOf 1 { members := [memb1] }))).descWrite 1536 0 m 0 [⟨.dev 0x10000000100, 1024, 0⟩]
      (List.replicate 1024 0)).1 = true) (by decide +kernel) 1536 0

theorem witness_CoreReleaseResetWake :
    (0 : CoreIx).val = 64 * (0 : DieIx).val + (0 : Fin 64).val ∧ (up.core 0).run = false ∧ up.dieReleased 0 = true ∧ up.inShed = false ∧
    ({ up with ptr := { up.ptr with parts := [.applying] } } : State).dieReleased 0 = false ∧ (up.ptr.image.lodge = false ∧ (lodgeOf 1 {}).ptr.image.lodge = true) ∧
    ((wit bufCore).core 0).run = true ∧ BuffersOk ((wit bufCore).core 0) ∧ (wit bufCore).err.upsets = [] ∧
    (let s := asking 1 { runner with wfi := true }
     (s.core 0).wfi = true ∧ (s.core 0).halted = false ∧ s.runs .core = true ∧ (s.intc 0).pend.testBit 5 = true ∧ (s.intc 0).active.testBit 5 = false ∧
     (s.rget (intTarget 0 5)).testBit 6 = true ∧ natBits (s.rget (intTarget 0 5)) 5 0 = 0 ∧ natBits (s.rget (intTarget 0 5)) 8 8 = 1) ∧
    ((wit { runner with wfi := true }).core 0).wfi = true ∧ (∀ n, ((wit runner).intc 0).pend.testBit n = false) ∧
    (let s : State := { up with cores := [(512, { run := true, wfi := true })] }
     (s.core 512).wfi = true ∧ (s.core 512).halted = false ∧ s.runs (coreDom 512) = true) :=
  ⟨by decide, by decide +kernel, by decide +kernel, by decide +kernel, by decide +kernel, ⟨rfl, rfl⟩, by decide +kernel, bufCore_ok, rfl, by decide +kernel,
   by decide +kernel, Nat.zero_testBit, by decide +kernel⟩

/-- A job for one die on the box of two plots of the X ring; a running job of plot 1. -/
def jobRaw (tenant dies xn : Nat) : Nat :=
  tenant * 2 ^ 128 + dies * 2 ^ 160 + 1 * 2 ^ 168 + 1 * 2 ^ 192 + xn * 2 ^ 224 + 1 * 2 ^ 232 + 1 * 2 ^ 240
def job5 (ph : JobPhase) : Job := { id := 5, plots := [(1, 0)], phase := ph, q := some (1536, 0) }
/-- The Lodge's box is X 0 to 3 of one row. -/
def boxed (m : Member) (raw : Nat) : State :=
  { serviceQ 1536 0x40 raw (lodgeOf 1 { members := [m] }) with
    regs := [((⟨.ldgBox, 0, 0, 0⟩ : Reg).addr, some (4 * 2 ^ 32 + 2 ^ 40 + 2 ^ 48))] }
def okPlots (r : Except Nat (List (Nat × Nat))) : Option (List (Nat × Nat)) := match r with | .ok l => some l | .error _ => none
def plotted (p : LdgPart) : State := { up with ldg := { up.ldg with parts := p :: List.replicate 7 {} } }
theorem witness_Jobs :
    (∀ raw, raw ∈ [jobRaw 1 1 1, jobRaw 0 1 1, jobRaw 1 3 1, jobRaw 1 1 0] → let s := boxed memb1 raw
     s.startOp 1536 tyService 0x40 = some (desc 0x40 raw) ∧ s.ldg.jobs = [] ∧ s.ptr.image.level = 1 ∧ ((desc 0x40 raw).jobBad = false ↔ raw = jobRaw 1 1 1)) ∧
    (let s := boxed memb1 (jobRaw 1 1 1); let jd := (desc 0x40 (jobRaw 1 1 1)).job
     jd.any = false ∧ s.boxIn jd.box s.ldgBox = true ∧ s.boxDevs jd.box = [1] ∧ s.memb 1 = some memb1 ∧ memb1.st = .healthy ∧ jd.floor ≤ memb1.max ∧
     memb1.floor ≤ jd.floor ∧ okPlots (s.choosePlots jd) = some [(1, 0)]) ∧
    (let s := boxed memb1 (jobRaw 1 1 9); let jd := (desc 0x40 (jobRaw 1 1 9)).job; (desc 0x40 (jobRaw 1 1 9)).jobBad = false ∧ s.boxIn jd.box s.ldgBox = false) ∧
    (∀ m, m ∈ [{ memb1 with st := .draining }, { memb1 with max := 0 }, { memb1 with parts := [] }] → (boxed m (jobRaw 1 1 1)).memb 1 = some m) ∧
    (up.ldgPart 0 = {} ∧ (up.entry 0).dies ≠ 0 ∧ up.ldg.parts.length = 8 ∧ (up.entry 1).dies = 0) ∧
    (∀ ph, ph ∈ [JobPhase.admitting, .running, .ending] → let s := lodgeOf 1 { members := [memb1], jobs := [job5 ph] }
     s.ldg.jobs.find? (fun j => j.id == 5) = some (job5 ph) ∧ (∀ w, w ∈ (job5 ph).plots → w.1 ∈ [1]) ∧ (∃ w, w ∈ (job5 ph).plots ∧ w.1 ∉ [2]) ∧
     (job5 ph).parent = none ∧ s.ptr.image.level = 1 ∧ (lodgeOf 2 { jobs := [job5 ph] }).ptr.image.level ≠ 1) ∧
    (∀ st, st ∈ [JobSt.running, .ending] → let s := plotted { st := st, job := 5, endFrom := some 1 }
     (s.ldgPart 0).job = 5 ∧ (s.ldgPart 0).st = st ∧ s.ldg.parts.length = 8 ∧ (∀ k, k < 8 → k ≠ 0 → (s.ldgPart k).job ≠ 5) ∧
     s.ldg.store.length + s.ldg.closed.length < 16) ∧
    (∀ x, (up.queue x).st = .disabled ∧ (up.queue x).flight = [] ∧ (up.queue x).ready = 0) ∧
    (∀ x, x ∈ [(0, 5), (1, 5)] → let s := serviceQ 1536 0x41 (x.2 * 2 ^ 128) (lodgeOf 1 { members := [memb1], jobs := [job5 .running] })
     s.startOp 1536 tyService 0x41 = some (desc 0x41 (x.2 * 2 ^ 128)) ∧ (desc 0x41 (x.2 * 2 ^ 128)).zeroFrom 6 = true ∧
     natBits (desc 0x41 (x.2 * 2 ^ 128)).raw 191 128 = 5 ∧ ∀ m pp, m ∈ [memb1] → pp ∈ m.parts → pp.job ≠ 6) ∧
    (∀ raw, raw ∈ [0, 2 ^ 128] → let s := busy 0 0x40 raw
     s.startOp 0 tyAdmin 0x40 = some (desc 0x40 raw) ∧ ((desc 0x40 raw).zeroFrom 4 = true ↔ raw = 0) ∧ s.ldg.jobs = []) := by
  refine ⟨?_, ?_, ?_, ?_, ?_, ?_, ?_, fun _ => ⟨rfl, rfl, show ({} : Queue).ready = 0 by decide⟩, ?_, ?_⟩
  case _ => decide +kernel
  case _ => decide +kernel
  case _ => decide +kernel
  case _ => decide +kernel
  case _ => decide +kernel
  case _ => decide +kernel
  case _ => decide +kernel
  case _ =>
    intro x hx
    refine ⟨?_, ?_, ?_, ?_⟩
    all_goals simp only [List.mem_cons, List.not_mem_nil, or_false] at hx
    · rcases hx with rfl | rfl <;> decide +kernel
    · rcases hx with rfl | rfl <;> decide +kernel
    · rcases hx with rfl | rfl <;> decide +kernel
    · intro m pp hm hp
      simp only [List.mem_cons, List.not_mem_nil, or_false] at hm
      subst hm
      simp only [memb1, List.mem_cons, List.not_mem_nil, or_false] at hp
      subst hp
      decide
  case _ => decide +kernel

/-- JOB_CHECKPOINT of a job that runs; a partition in each step of a checkpoint; a Lodge whose detours wait. -/
def part0 (st : JobSt) (step : Nat) : LdgPart := { st := st, job := 5, step := step, ckptFrom := some 1 }
def ckptJob (step : Nat) : Job := { job5 (.ckpt step) with plots := [(1, 0), (2, 0)] }
theorem witness_CheckpointsAndDetours :
    (∀ flag, flag ∈ [0, 1, 2 ^ 32] → let raw := 5 * 2 ^ 128 + flag * 2 ^ 192
     let s := serviceQ 1536 0x42 raw (lodgeOf 1 { members := [memb1], jobs := [job5 .running] })
     s.startOp 1536 tyService 0x42 = some (desc 0x42 raw) ∧ natBits (desc 0x42 raw).raw 191 128 = 5 ∧
     ((desc 0x42 raw).zeroFrom 7 = false ↔ flag = 2 ^ 32) ∧ ((desc 0x42 raw).f 6 31 0 = 0 ↔ flag ≠ 1) ∧
     s.ldg.jobs.find? (fun j => j.id == 5) = some (job5 .running)) ∧
    (∀ st, st ∈ [JobSt.running, .ckpt] → ∀ step, step ∈ [1, 2] → let s := plotted (part0 st step)
     (s.ldgPart 0).job = 5 ∧ s.ldg.jobs = [] ∧ s.ldg.parts.length = 8 ∧ (∀ k, k < 8 → k ≠ 0 → (s.ldgPart k).job ≠ 5) ∧ s.ckptQuiet 0 = true ∧
     ({ s with queues := (busy 512 1 0).queues } : State).ckptQuiet 0 = false ∧ (s.ldgPart 0).ckptFrom = some 1 ∧ (s.ldgPart 0).step = step ∧
     (s.ldgPart 0).prepared = false ∧ s.rf (regCkpt 0) 1 1 = 0 ∧ s.snapHot 0 = false ∧ s.rf (regCkpt 0) 9 3 = 0 ∧ s.rf (regCkpt 0) 2 2 = 0 ∧ (s.fn 0 0).bme = true ∧
     ({ s with ports := [] } : State).rf (regCkpt 0) 1 1 = 0 ∧ (({ s with ports := [] } : State).fn 0 0).bme = false) ∧
    (let s : State := { plotted (part0 .ckpt 2) with regs := [((⟨.ldgCkptLen, 0, 0, 0⟩ : Reg).addr, some nearSize)]
                                                     ptr := { up.ptr with image := { up.ptr.image with parts := [{ dies := 1, qcount := 4096 }] } } }
     (Mem.wf s.mem && Mem.wf s.host) = true ∧ s.snapHot 0 = false ∧ (s.entry 0).dies = 2 ^ 0 ∧ nearSize ≤ s.rf ⟨.ldgCkptLen, 0, 0, 0⟩ 55 16 * 65536 ∧ s.rangeFail (fnMaster 0 0) .rd (nearOf 0) nearSize = none ∧
     (∀ e, e < 8 → (s.rget (intTarget e 260)).testBit 7 = false)) ∧
    (∀ step, step < 5 → let s := lodgeOf 1 { members := [memb1], jobs := [ckptJob step] }
     s.ldg.jobs.find? (fun j => j.id == 5) = some (ckptJob step) ∧ (ckptJob step).phase = .ckpt step ∧ 1 ∉ (ckptJob step).acked ∧
     (ckptJob step).parent = none ∧ s.ldg.await = [] ∧ (∃ w, w ∈ (ckptJob step).plots ∧ w.1 ≠ 1 ∧ w.1 ∉ (ckptJob step).acked) ∧
     (∀ w, w ∈ (ckptJob step).plots → w.1 = 1 ∨ w.1 ∈ ({ ckptJob step with acked := [2] } : Job).acked)) ∧
    (∀ ds, ds ∈ [[1], [1, 2]] → let l : Ldg := { await := [msg 0x4B 1 3 []], detourWait := ds }
     l.await.find? (fun m => m.dst == 1 && (m.opc == 0x4B || m.opc == 0x4C)) = some (msg 0x4B 1 3 []) ∧ 1 ∈ l.detourWait ∧
     (l.detourWait.filter (· != 1) = [] ↔ ds = [1]) ∧ l.sleepers = []) := by
  refine ⟨?_, ?_, ?_, ?_, ?_⟩ <;> decide +kernel

/-- A record ready to be sealed, one ready for the ring, and a ring of four entries in host memory. -/
def rec0 : MeterRec := { part := 0, raw := 1 }
def seal0 (toRing : Bool) : Sealed := { bytes := [1, 2], toRing := toRing, sent := false }
def ringed (on : Bool) (l : Ldg) : State := { up with regs := [(regMring.addr, some (b2n on * 2 ^ 63 + 2 * 2 ^ 2))], ldg := l }
theorem witness_MeterRecords :
    (up.ldg.parts.length = 8 ∧ (List.range 8).filter (fun i => (up.entry i).dies != 0) = [0] ∧ up.ldg.store.length + up.ldg.closed.length + 1 ≤ 16) ∧
    (16 ≤ ({ closed := List.replicate 16 rec0 } : Ldg).store.length + ({ closed := List.replicate 16 rec0 } : Ldg).closed.length) ∧
    (∀ raw, raw ∈ [0, 2 ^ 128] → (busy 0 0x41 raw).startOp 0 tyAdmin 0x41 = some (desc 0x41 raw) ∧ ((desc 0x41 raw).zeroFrom 4 = true ↔ raw = 0)) ∧
    (∀ d, d ∈ [none, some 1] → let s : State := { up with ldg := { closed := [rec0], pparent := d } }
     s.ldg.closed = rec0 :: [] ∧ s.ldg.store.length < 16 ∧ s.org.level ≠ 3 ∧ s.ldg.pparent = d ∧ s.device = 0) ∧
    (∀ on, let s := ringed on { store := [seal0 true] }
     s.rf regMring 63 63 = b2n on ∧ s.rf regMring 0 0 = 0 ∧ s.rf regMring 1 1 = 0 ∧ (s.fn 0 0).bme = true ∧ 2 ^ s.rf regMring 5 2 = 4 ∧
     (s.ldg.ringTail + 1) % 4 ≠ s.rf ⟨.ldgMringPtr, 0, 0, 0⟩ 28 16 ∧ ((3 + 1) % 4 = s.rf ⟨.ldgMringPtr, 0, 0, 0⟩ 28 16) ∧
     s.rf regMring 55 15 * 32768 = 0 ∧ (s.writeRaw 0x501 0 0 0 [1, 2]).1 = true) ∧
    (let s := ringed true { store := [seal0 false], rxRecords := [[1, 2]] }
     (∀ r, r ∈ s.ldg.store → r.toRing = false) ∧ s.ldg.rxRecords = [1, 2] :: [] ∧ (s.writeRaw 0x501 0 0 0 [1, 2]).1 = true) ∧
    (∀ m, m ∈ [[], [0, 1, 3, 4]] → let s := lodgeOf 1 { rxMeter := [(1, m.map (fun k => (k, [])))] }
     s.ldg.seen = [] ∧ let got := (SMap.get [] s.ldg.rxMeter 1).filter (fun x => x.1 != 2) ++ [(2, [])]
       ((∀ k, k < 5 → got.any (fun x => x.1 == k) = true) ↔ m ≠ [])) := by
  refine ⟨?_, ?_, ?_, ?_, ?_, ?_, ?_⟩ <;> decide +kernel

/-- Mailbox 0 has submitted a command with a request; the fuses have had `lc` lifecycle transitions. -/
def asked (lc code : Nat) (req : List Byte) : State :=
  { up with org := { up.org with fuses := { lcCount := lc }, cmds := [0], mbx := [(0, { code := code, busy := true, len := req.length })],
                                 buf := Mem.writeN [] 0 req } }
def zeroes (n : Nat) : List Byte := List.replicate n 0
def slept (s : State) : State := { s with pwr := { s.pwr with st := .sleep } }
def opened (j life : Nat) (s : State) : State := { s with org := { s.org with sess := [(j, some { chan := 0, perms := 0x3F, life := life })] } }
/-- A token of a type with a signature's place, its KEYID and the site key's length of signature. -/
def tokReq (ty k extra : Nat) : List Byte := leBytes 128 (1 + ty * 2 ^ 8 + 5 * 2 ^ 64 + 9 * 2 ^ 128 + extra) ++ leBytes 4 k ++ leBytes 4 (sigLen 2)
def tokenIn (ty k extra : Nat) : State :=
  let s := asked 1 (if isDebugTok ty then 0x33 else 0x37) (tokReq ty k extra)
  { s with org := { s.org with mbx := [(0, { code := if isDebugTok ty then 0x33 else 0x37, busy := true, len := 136 + sigLen 2 })],
                               site := true, siteKey := some 7, chal := [(0, some 9)] } }
def reqOf (s : State) : List Byte := Mem.readN s.org.buf 0 (s.mbx 0).len
theorem witness_OrangeryCommands :
    (∀ code, code ∈ [0x31, 0x32, 0x33, 0x34, 0x35, 0x36] → let s := asked 1 code []
     s.org.cmds.head? = some 0 ∧ (s.mbx 0).code = code ∧ Mem.wf s.org.buf = true ∧ s.org.fuses.lifecycle = .deployed ∧ (slept s).pwr.st = .sleep ∧
     ({ s.org.fuses with scrap := true } : Fuses).lifecycle = .scrapped ∧ s.pwr.st ≠ .sleep ∧ s.ptr.phase ≠ .applying ∧ s.pwr.input = true) ∧
    (∀ n, n ∈ [0, 1] → Mem.wf (asked 1 0x30 (zeroes n)).org.buf = true ∧ reqOf (asked 1 0x30 (zeroes n)) = zeroes n) ∧
    (reqOf (asked 1 0x31 (zeroes 32))).length = 32 ∧
    (∀ r, r ∈ [9, 10] → let req := reqOf (asked 1 0x36 (leBytes 40 r)); req.length = 40 ∧ leNat (req.take 8) = r) ∧
    (let s := asked 1 0x35 (leBytes 48 7); (reqOf s).length = 48 ∧ s.org.fuses.slot = 0 ∧ s.org.fuses.deployment < s.org.fuses.site.length ∧
     ({ s.org.fuses with site := [1, 0, 0, 0] } : Fuses).slot ≠ 0 ∧ (asked 0 0x35 []).org.fuses.lifecycle ≠ .deployed) ∧
    (∀ j, j ∈ [0, 9, 10] → let s := asked 1 0x34 (leBytes 8 j); (reqOf s).length = 8 ∧ leNat (reqOf s) = j ∧ s.org.open j = false ∧
      (opened j 1 s).org.open j = true ∧ (∃ x, (opened j 1 s).sess j = some x ∧ x.life ≠ 0) ∧ ∃ x, (opened j 0 s).sess j = some x ∧ x.life = 0) ∧
    (∀ raw, raw ∈ [2 ^ 129, 48 * 2 ^ 320 + 0x100 * 2 ^ 256] → let s := busy 0 0x30 raw
     s.org.cmds = [] ∧ s.startOp 0 tyAdmin 0x30 = some (desc 0x30 raw) ∧ s.org.fuses.lifecycle ≠ .scrapped ∧ ((desc 0x30 raw).f 4 31 1 = 0 ↔ raw ≠ 2 ^ 129) ∧
     s.rawWaits 0 0 0x100 = false ∧ (desc 0x30 raw).f 6 31 24 = 0 ∧ (desc 0x30 raw).f 7 31 0 = 0 ∧ (desc 0x30 raw).f 9 31 24 = 0 ∧
     (desc 0x30 raw).f 10 31 17 = 0 ∧ (desc 0x30 raw).zeroFrom 11 = true) ∧
    ∀ bs, ((busy 0 0x30 0).writeRaw 0x300 0 0 0x100 bs).1 = true := by
  refine ⟨?_, ?_, ?_, ?_, ?_, ?_, ?_, fun _ => rfl⟩
  case _ => decide +kernel
  case _ => decide +kernel
  case _ => decide +kernel
  case _ => decide +kernel
  case _ => decide +kernel
  case _ =>
    intro j h
    simp only [List.mem_cons, List.not_mem_nil, or_false] at h
    rcases h with rfl | rfl | rfl
    all_goals exact ⟨by decide +kernel, by decide +kernel, by decide +kernel, by decide +kernel, ⟨_, rfl, by decide⟩, ⟨_, rfl, rfl⟩⟩
  case _ => decide +kernel

theorem ok_some {ε α : Type} {r : Except ε α} {a : α} (h : r.toOption = some a) : r = .ok a := by
  cases r with
  | ok b => cases h; rfl
  | error e => cases h
/-- Tokens of each kind: the key is the site's, and whether the signature verifies and the serial matches are free values, here assumed to. -/
theorem witness_OrangeryTokens (hs : Config.serial % 2 ^ 64 = 5) (hv : ∀ k key body sg, Config.slhVerify k key body sg = true) :
    (∀ x, x ∈ [(1, true), (2, true), (0x20, false), (0x12, false)] → ∃ t, (tokenIn x.1 2 0).tokenCheck 0 x.2 (reqOf (tokenIn x.1 2 0)) = .ok t ∧
      t = leNat ((reqOf (tokenIn x.1 2 0)).take 128) ∧ t.type = x.1 ∧ t.serial = 5 ∧ t.nonce = 9) := by
  intro x hx
  simp only [List.mem_cons, List.not_mem_nil, or_false] at hx
  rcases hx with rfl | rfl | rfl | rfl
  all_goals
    refine ⟨_, ok_some ?_, rfl, by decide +kernel, by decide +kernel, by decide +kernel⟩
    unfold State.tokenCheck
    rw [hs]
    simp only [hv]
    decide +kernel

/-- Tokens refused: one whose key is not its type's, one that needs a site key where none is enrolled, one of another serial or nonce. -/
theorem witness_OrangeryRefusals (hv : ∀ k key body sg, Config.slhVerify k key body sg = true) :
    (∀ k, k ∈ [2, 7] → ∀ extra, extra ∈ [0, 2 ^ 64, 2 ^ 128] → let s := tokenIn 1 k extra; let req := reqOf s; let t0 : Tok := leNat (req.take 128)
     req.length = 136 + sigLen 2 ∧ tokFormOk t0 true = true ∧ word32 req 128 = k ∧ (k ∈ tokKeys t0.type s.org.fuses.lifecycle ↔ k = 2) ∧
     word32 req 132 = sigLen 2 ∧ s.org.site = true ∧ tokKeys t0.type s.org.fuses.lifecycle = [2] ∧ s.org.fuses.lifecycle ≠ .scrapped ∧
     t0.serial = (if extra = 2 ^ 64 then 6 else 5) ∧ (SMap.get none s.org.chal 0 = some t0.nonce ↔ extra ≠ 2 ^ 128)) ∧
    ({ (tokenIn 1 2 0).org with site := false } : Org).site = false ∧ ∀ key body sg, Config.slhVerify 2 key body sg = true := by
  refine ⟨by decide +kernel, rfl, fun _ _ _ => hv _ _ _ _⟩

/-- Mailbox 0 asks session `j` for debug operation `op`: target, address, count and data; the sessions are as given. -/
def dbgReq (op j tgt adr n : Nat) (data : List Byte) : List Byte := leBytes 4 (op + j * 2 ^ 8) ++ leBytes 4 tgt ++ leBytes 8 adr ++ leBytes 4 n ++ data
def probing (req : List Byte) (x : Option Sess) (s : State) : State :=
  let a := asked 1 0x38 req
  { s with org := { a.org with sess := [(8, x)] } }
def full (k : Option Nat) (perms : Nat) : Option Sess := some { chan := 0, perms := perms, core := k }
def haltedBy (s : State) : State := { s with org := { s.org with haltBy := [(0, 9)] } }
theorem witness_DebugOperations :
    (∀ op : Fin 12, let tgt := 0; let n := if op.val = 8 ∨ op.val = 9 ∨ op.val = 10 then 8 else 0
     let req := dbgReq op.val 8 tgt 0x10000000000 n (zeroes (if op.val = 7 then 8 else if op.val = 9 then n else 0))
     ∀ x, x ∈ [none, full (some 0) 0, full (some 0) 0x3F] → let s := probing req x up
     Mem.wf s.org.buf = true ∧ s.org.cmds.head? = some 0 ∧ (s.mbx 0).code = 0x38 ∧ s.org.fuses.lifecycle ≠ .scrapped ∧ s.pwr.st ≠ .sleep ∧
     reqOf s = req ∧ word32 req 0 % 256 = op.val ∧ natBits (word32 req 0) 11 8 = 8 ∧ word32 req 4 = 0 ∧ word32 req 0 / 2 ^ 12 = 0 ∧ word32 req 16 = n ∧
     s.sess 8 = x ∧ regBytes 0 = some 8 ∧ (∀ y, y ∈ x → y.core = some 0 ∧ s.coreScope 8 y 0 = true ∧ s.memScope 8 y 0x10000000000 8 = true)) ∧
    (coreOf 0 = some 0 ∧ coreOf 0x300 = none ∧ up.coreGated 0 = false ∧ ({ up with pwr := { up.pwr with st := .nap } } : State).coreGated 0 = true ∧
     (up.core 0).halted = false ∧ ((wit { runner with halted := true }).core 0).halted = true ∧ up.coreScope 8 { chan := 0, perms := 0 } 520 = false ∧
     SMap.get 0 (haltedBy up).org.haltBy 0 = 9 ∧ (up.rget (intTarget 0 261)).testBit 7 = false ∧ regBytes 0x100 = some 8 ∧ regBytes 0x200 = some 2048 ∧
     regBytes 0x300 = none ∧ (crRule 1).isSome = true) ∧
    (∀ kd, kd ∈ [Acc.rd, .wr] → up.accCheck 0x501 kd (linesOf 0x10000000000 8) = none) ∧
    ((up.rget regErrInj).testBit 63 = false ∧ up.err.upsets = [] ∧ up.hotAt 0x10000000000 = false ∧ (loose { st := .hot }).hotAt 0 = true ∧ up.memScope 0 { chan := 0, perms := 0, part := 1 } 0x10000000000 8 = false ∧
     (SMap.get [] ({ up.org with brk := [(0, [(8, 0), (8, 4), (8, 8), (8, 12)])] } : Org).brk 0).length = 4) := by
  refine ⟨?_, ?_, ?_, ?_⟩ <;> decide +kernel

/-- A halted core's single step leaves the debug sessions as they are. -/
theorem witness_DebugStep : let s := haltedBy (probing (dbgReq 3 8 0 0 0 []) (full (some 0) 0x3F) (wit { runner with halted := true }))
    (s.stepCore 0).org = s.org := by decide +kernel

/-- A module in step `n` of a start, with a boot record; and without its input. -/
def starting (n : Nat) (r : Option BootRec) : State := { State.reset with boot := { phase := n, record := r } }
def unpowered (s : State) : State := { s with pwr := { s.pwr with input := false } }
/-- A firmware header whose four components are empty, and the start of its signature. -/
def sha0 : Nat := 0x55b852781b9995a44c939b64e441ae2724b96f99c8f4fb9a141cfc9842c4b0e3
def fwComp : List Byte := leBytes 4 0x8000 ++ leBytes 4 0 ++ leBytes 32 sha0
def fwHead : List Byte := leBytes 4 0x544F4C53 ++ leBytes 4 0x00040001 ++ leBytes 4 0 ++ leBytes 4 1 ++ zeroes 16 ++ fwComp ++ fwComp ++ fwComp ++ fwComp ++ zeroes 64
def fwEnv : List Byte := leBytes 4 1 ++ leBytes 4 29792
def flipped (bs : List Byte) : List Byte := bs.map (fun b => b ^^^ 0xFF)
def flash : Mem := Mem.writeN (Mem.writeN [] 256 (flipped fwEnv)) 0 (flipped fwHead)
def flashed (s : State) : State := { s with boot := { s.boot with nor := flash } }
/-- An image of one section, the meter interval. -/
def imgBody : List Byte := leBytes 16 (11 + 2 ^ 16 + 144 * 2 ^ 32 + 8 * 2 ^ 64) ++ leBytes 8 (2 ^ 24)
def imgHead : List Byte :=
  leBytes 4 0x50415254 ++ leBytes 4 0x10001 ++ leBytes 4 16384 ++ zeroes 52 ++ leBytes 32 0xba16b91c15530005c33675c9604df805a9e345c1ec9feb6bc7066f4fd0537a9b ++ zeroes 32
def imgFile : List Byte := imgHead ++ imgBody ++ leBytes 4 2 ++ leBytes 4 16224 ++ zeroes 16224
def sited (s : State) : State := { s with org := { s.org with site := true, siteKey := some 7, fuses := { lcCount := 1 } } }
theorem witness_StartAndResets :
    (∀ n, n < 14 → let s := starting n (some {}); s.pwr.input = true ∧ (unpowered s).pwr.input = false ∧ s.boot.phase = n ∧ s.boot.failed = false ∧
      s.boot.record = some {} ∧ (starting n none).boot.record = none ∧ s.boot.pend = none ∧ s.ptr.phase ≠ .applying ∧ s.pwr.judged = false ∧
      s.boot.warmHeld = false ∧ Mem.wf s.boot.nor = true ∧ ({ s.boot with pend := some (true, 1), failed := true } : Boot).failed = true) ∧
    (up.pwr.st ≠ .nap ∧ up.pwr.st ≠ .sleep ∧ up.queues = [] ∧ up.org.sess = [] ∧ (slept up).pwr.st = .sleep ∧ (slept up).pwr.exiting = false ∧
     ({ (slept up).pwr with exiting := true } : Pwr).exiting = true) ∧
    ((lodgeOf 1 {}).ptr.image.lodge = true ∧ (lodgeOf 1 {}).dieOwner 0 = some 0 ∧ (lodgeOf 1 {}).partState 0 = .running) ∧
    (((starting 10 none).port 0).link ≠ 1 ∧ ((starting 2 none).port 0).perst = true ∧ (up.port 0).perst = false ∧
     (({ starting 10 none with ports := [(0, { link := 1 })] } : State).port 0).link = 1) ∧
    (({} : Fuses).lifecycle ≠ .scrapped ∧ ({ scrap := true } : Fuses).lifecycle = .scrapped ∧ ({} : Fuses).lifecycle = .manufacture ∧
     ({} : Fuses).idSeed = 0 ∧ ({ idSeed := 1 } : Fuses).idSeed ≠ 0) ∧
    (let r : BootRec := { slotSt := [1, 1] }; let s := starting 5 (some r)
     r.preferred < 2 ∧ (∀ k, k < 2 → nth 0 r.slotSt k < 4) ∧ (∀ k, k < 2 → s.fwCheck (s.norRead k) 0x800000 ≠ 0) ∧ r.log.length = 8) ∧
    (let f : Fuses := { lcCount := 1, site := [sha256 (leBytes 48 7)] }; f.slot = sha256 (leBytes 48 7) ∧ f.slot ≠ 0) ∧
    (let s := starting 6 (some {}); s.org.siteKey = none ∧ s.org.fuses.slot = 0 ∧ ∀ k, k < 2 → word32 (s.norRead k 0x800000 4) 0 ≠ 0x50415254) ∧
    (let s := starting 8 (some {}); s.boot.phase = 8 ∧ s.boot.slot = 0 ∧ ∀ k, k < 16 → (s.stack k).st ≠ .degraded) ∧
    (∀ d, d < 8 → (up.rget (intTarget d 262)).testBit 7 = false) ∧
    (∀ p, p ∈ [({} : Pwr), { runA := 7 }, { runB := 7 }, { absent := 15, runR := 7 }] → let s : State := { starting 3 none with pwr := { p with input := true } }
      s.boot.phase = 3 ∧ s.pwr.judged = false) ∧
    (up.boot.cmd = none ∧ Mem.wf up.boot.nor = true ∧ up.rf ⟨.bootSlotlen, 0, 0, 0⟩ 23 0 = 256 ∧
     2 ^ 21 < ({ up with regs := [((⟨.bootSlotlen, 0, 0, 0⟩ : Reg).addr, some 0x300000)] } : State).rf ⟨.bootSlotlen, 0, 0, 0⟩ 23 0 ∧
     (∃ u, ({ up with regs := [((⟨.bootSlotlen, 0, 0, 0⟩ : Reg).addr, some 64), ((⟨.bootSlotsrc, 0, 0, 0⟩ : Reg).addr, some 0x1000000000000)] } : State).slotSource 1 64 0 =
       (none, u)) ∧ (up.slotSource 0 0 0).1 = some [] ∧ up.fwCheck (fun o m => (([] : List Byte).drop o).take m) 0 ≠ 0 ∧
     up.imageCheck [] = .error 1) ∧
    (up.hotAt (up.rf ⟨.bootSlotsrc, 0, 0, 0⟩ 55 0) = false ∧ (loose { st := .hot }).hotAt (up.rf ⟨.bootSlotsrc, 0, 0, 0⟩ 55 0) = true ∧ (up.fn 0 0).bme = true ∧
     (State.reset.fn 0 0).bme = false ∧ ∀ op, op ∈ [1, 2] → let c : SlotCmd := ⟨op, 1, [], some 1⟩; let d : SlotCmd := ⟨op, 1, [7], none⟩
       ({ up.boot with cmd := some c } : Boot).cmd = some ⟨op, 1, [], some 1⟩ ∧ d.held = none ∧ d.op ≠ 3 ∧ d.bytes.length ≤ 0x800000) := by
  refine ⟨by decide +kernel, by decide +kernel, by decide +kernel, by decide +kernel, by decide +kernel, by decide +kernel, by decide +kernel,
    by decide +kernel, by decide +kernel, by decide +kernel, by decide +kernel,
    ⟨by decide +kernel, by decide +kernel, by decide +kernel, by decide +kernel, ⟨_, rfl⟩, by decide +kernel, by decide +kernel, rfl⟩, by decide +kernel⟩

def good : State := flashed (starting 5 (some { slotSt := [1, 0] }))
theorem flipped_flipped (bs : List Byte) : flipped (flipped bs) = bs := by
  induction bs with
  | nil => rfl
  | cons b bs ih => simp only [flipped, List.map_cons] at ih ⊢; rw [ih, BitVec.xor_assoc, BitVec.xor_self, BitVec.xor_zero]
theorem good_nor : good.boot.nor = flash := by simp only [good, flashed]
theorem good_read (o n : Nat) : good.norRead 0 o n = flipped (Mem.readN good.boot.nor o n) := by
  simp only [State.norRead, flipped, Nat.zero_mul, Nat.zero_add]
theorem good_head : good.norRead 0 0 256 = fwHead := by
  have n : (flipped fwHead).length = 256 := by decide +kernel
  have h := Laws.readN_writeN (Mem.writeN [] 256 (flipped fwEnv)) 0 (flipped fwHead)
  rw [n] at h
  rw [good_read, good_nor, flash, h, flipped_flipped]
theorem good_env : good.norRead 0 256 8 = fwEnv := by
  have n : (flipped fwHead).length = 256 := by decide +kernel
  have h := Laws.readN_writeN [] 256 (flipped fwEnv)
  have c : Mem.readN (Mem.writeN (Mem.writeN [] 256 (flipped fwEnv)) 0 (flipped fwHead)) 256 8 = Mem.readN (Mem.writeN [] 256 (flipped fwEnv)) 256 8 :=
    Laws.readN_congr (fun x hx _ => by rw [Laws.read_writeN, if_neg (by rw [n]; omega)])
  have l : (flipped fwEnv).length = 8 := by decide +kernel
  rw [l] at h
  rw [good_read, good_nor, flash, c, h, flipped_flipped]
/-- Firmware and an image that pass every check where their signatures verify: that is a free value. -/
theorem witness_GoodFirmware (hv : ∀ k key body sg, Config.slhVerify k key body sg = true) :
    good.fwCheck (good.norRead 0) 0x800000 = 0 ∧ fwLen (good.norRead 0 0 256) 2 = 0 := by
  have form : fwForm fwHead 0x800000 = true := by decide +kernel
  have words : word32 fwEnv 0 = 1 ∧ word32 fwEnv 4 = 29792 := by decide +kernel
  have low : leNat ((fwHead.drop 16).take 8) = 0 ∧ ¬ word32 fwHead 8 < good.org.fuses.fwFloor := by decide +kernel
  have comps : ∀ k, k ∈ List.range 4 → fwLen fwHead k = 0 ∧ fwHash fwHead k = sha0 := by decide +kernel
  have hash : sha256 [] = sha0 := by decide +kernel
  have all : (List.range 4).any (fun k => sha256 (good.norRead 0 (fwOff fwHead k) (fwLen fwHead k)) != fwHash fwHead k) = false := by
    rw [List.any_eq_false]
    intro k hk
    rw [(comps k hk).1, (comps k hk).2]
    show ¬ (sha256 [] != sha0) = true
    rw [hash]
    simp
  refine ⟨?_, by rw [good_head]; exact (comps 2 (by decide)).1⟩
  simp only [State.fwCheck, good_head, good_env]
  simp [form, words, low, all, hv]
theorem witness_GoodImage (hv : ∀ k key body sg, Config.slhVerify k key body sg = true) : ∃ i, (sited up).imageCheck imgFile = .ok i := by
  have h : (sited up).headReason imgFile = 0 := by
    simp only [State.headReason, State.imageSigned, hv]
    decide +kernel
  refine ⟨imageOf imgFile, ?_⟩
  have h1 : sectionsOk imgFile = true := by decide +kernel
  have h2 : (sects imgFile).all (fun x => fieldsOk x.type (x.bytes imgFile)) = true := by decide +kernel
  have h3 : (imageOf imgFile).reason = 0 := by decide +kernel
  simp only [State.imageCheck, h, h1, h2, h3]
  rfl
theorem witness_GoodCommit (hv : ∀ k key body sg, Config.slhVerify k key body sg = true) : ∃ i, (sited up).verify imgFile = .ok i := by
  obtain ⟨i, h⟩ := witness_GoodImage hv
  have hl : (sited up).ldg.held = false := rfl
  exact ⟨i, by simp [State.verify, h, hl]⟩

/-- A powered module with a request for a state, in a state. -/
def inState (st : PState) (r : Option PReq) (s : State) : State := { s with pwr := { s.pwr with st := st, req := r } }
def preq (t : PState) (begun : Bool) : PReq := { target := t, asked := t, begun := begun }
theorem witness_ClocksAndPower :
    (∀ i : Fin 4, ({ lock := 0xF } : Pwr).lock.testBit i.val = true ∧ ({} : Pwr).lock.testBit i.val = false) ∧
    (up.boot.phase = 12 ∧ up.pwr.st = .active ∧ (slept up).pwr.st = .sleep ∧ up.ldg.parts.length = 8 ∧
     up.accCheck 0x300 .wr (linesOf (mmioBase + 0x1801018) 4) = none ∧ (∀ d, d < 8 → ∀ g, g ∈ up.gang d → g < 8) ∧
     (∀ d, d < 8 → (up.rget (intTarget d 258)).testBit 7 = false ∧ (up.rget (intTarget d 259)).testBit 7 = false)) ∧
    (∀ raw, raw ∈ [0, 2 ^ 130, 2 ^ 160] → (busy 0 0x60 raw).startOp 0 tyAdmin 0x60 = some (desc 0x60 raw) ∧
      (((desc 0x60 raw).f 4 31 2 = 0 ∧ (desc 0x60 raw).zeroFrom 5 = true) ↔ raw = 0)) ∧
    (∀ raw, raw ∈ [0, 2 ^ 141, 2 ^ 160] → (busy 0 0x61 raw).startOp 0 tyAdmin 0x61 = some (desc 0x61 raw) ∧
      (((desc 0x61 raw).f 4 31 13 = 0 ∧ (desc 0x61 raw).zeroFrom 5 = true) ↔ raw = 0)) ∧
    (let s : State := { up with regs := [((⟨.pwrCtl, 0, 0, 0⟩ : Reg).addr, some 8)] }
     s.rf ⟨.pwrCtl, 0, 0, 0⟩ 3 3 = 1 ∧ s.pwr.st = .active ∧ s.pwr.req = none ∧ s.moduleQuiet = true ∧ (busy 512 1 0).moduleQuiet = false) ∧
    (∀ t, t ∈ [PState.idle, .nap, .sleep] → let s := inState .active (some (preq t false)) up
     s.pwr.req = some (preq t false) ∧ s.moduleQuiet = true ∧ s.pwr.exiting = false ∧ s.pwr.st.depth < t.depth ∧ t ≠ .off ∧ s.pwr.crit = false ∧
     s.ldg.pparent = none ∧ s.org.cmds = [] ∧ s.org.open 9 = false ∧ (preq t true).begun = true ∧ (preq t true).q = none) ∧
    (up.autoSleep = false ∧
     let s : State := { up with
       regs := [((⟨.pwrCtl, 0, 0, 0⟩ : Reg).addr, some 16)], ports := [(0, { cfgUp := true, perst := false, link := 3, fns := [(0, { d3 := true })] })] }
     s.pwr.req = none ∧ s.rf ⟨.pwrCtl, 0, 0, 0⟩ 4 4 = 1 ∧ 2 ≤ (s.port 0).link ∧ (∀ n, n < 2 → 2 ≤ (s.port n).link → (s.fn n 0).d3 = true) ∧
     s.ldg.held = false ∧ s.moduleQuiet = true) ∧
    (∀ st, st ∈ [PState.active, .idle, .nap, .sleep, .off] → (inState st none up).pwr.st = st ∧ (inState st (some (preq .sleep true)) up).pwr.req =
      some (preq .sleep true)) ∧
    (∀ k, k < 16 → (up.stack k).st ≠ .degraded) ∧ (up.pwr.exiting = false ∧ up.pwr.warmAfter = false ∧ up.pwr.crit = false) ∧
    (lodgeOf 1 {}).ldg.held = true ∧ (∃ d, ({ pparent := some 1 } : Ldg).pparent = some d ∧ d ≠ up.device) := by
  refine ⟨?_, ?_, ?_, ?_, ?_, ?_, ?_, ?_, ?_, ?_, ?_, ⟨1, ?_⟩⟩ <;> decide +kernel

/-- An order to contain partition 0; one record for port A's ring; a session that may inject; a counter that counts; a SNAPSHOT of die 0. -/
def errRec : ErrRec := { sev := 2, kind := 2, loc := 0 }
def ringRegs (room : Nat) : SMap (Option Nat) :=
  [((⟨.errRing, 0, 0, 0⟩ : Reg).addr, some (1 + 2 * 2)), ((⟨.errRingPtr, 0, 0, 0⟩ : Reg).addr, some (2 ^ 51 + room * 2 ^ 16))]
def evt0 (v : Nat) : State := { up with regs := [((pmcEvtReg (.die 0 0) 0).addr, some v)] }
def snapRaw (mask : Nat) : Nat := mask * 2 ^ 128 + 0x100 * 2 ^ 256
def snapping (mask : Nat) : State :=
  let s := mapped (serviceQ 1536 0x60 (snapRaw mask) up)
  { s with regs := [((⟨.pmcCtxen, 0, 0, 0⟩ : Reg).addr, some 1)] }
theorem witness_ErrorsAndCounters :
    (up.err.orders = [] ∧ up.ptr.parts.length = 8 ∧ (up.entry 0).dies ≠ 0 ∧ (up.entry 1).dies = 0 ∧ nth .unused up.ptr.parts 0 = .running ∧
     up.xlt.prefetch = [] ∧ up.queueOwner 512 = some 0 ∧ ((busy 512 1 0).queue 512).flight = [desc 1 0] ∧ (desc 1 0).st = .waiting ∧ (desc 1 0).batches = [] ∧
     up.partOf 0x300 = some 0) ∧
    (∀ l, l ∈ [[], [desc 1 0]] → let s : State := { up with ptr := { up.ptr with parts := .contained :: List.replicate 7 .unused }, queues := [(512, { st := .contained, flight := l })] }
     s.ptr.parts.length = 8 ∧ nth .unused s.ptr.parts 0 = .contained ∧ s.queueOwner 512 = some 0 ∧ (s.queue 512).st = .contained ∧
     (s.queue 512).resetting = false ∧ (s.queue 512).flight = l) ∧
    (∀ room, room ∈ [0, 1] → let s : State := { up with regs := ringRegs room, err := { up.err with buf := [errRec] } }
     (s.fn 0 0).bme = true ∧ s.err.buf = [errRec] ∧ s.ringTakes 0 errRec = true ∧ s.ringTakes 1 errRec = false ∧ errRec.wrote.testBit 0 = false ∧
     2 ^ s.rf ⟨.errRing, 0, 0, 0⟩ 4 1 = 4 ∧ nth 0 s.err.ringTail 0 = 0 ∧
     (1 ≤ (s.rf ⟨.errRingPtr, 0, 0, 0⟩ 30 16 % 4 + 2 * 4 - 0 - 1) % 4 ↔ room = 0)) ∧
    (∀ key, key ∈ [ScrubKey.stack 0, .near 0 0] → let s := hot { up with regs := [((⟨.errScrub, 0, 0, 0⟩ : Reg).addr, some (2 ^ 48 + 2 ^ 16))] }
     s.pwr.st ≠ .sleep ∧ s.rf ⟨.errScrub, 0, 0, 0⟩ 48 48 = 1 ∧ s.rf ⟨.errScrub, 0, 0, 0⟩ 16 16 = 1 ∧ (s.stack 0).st = .ready ∧
     SMap.get 0 s.err.scrub (scrubIx key) < (scrubRange key).2.2 ∧ s.isBad (scrubRange key).1 = false ∧ (s.rget regErrInj).testBit 63 = false ∧
     (badKey (scrubRange key).1).isSome = true ∧ s.err.upsets = [] ∧
     ∀ unc, unc ∈ [false, true] → ∃ u : Upset, u.unc = unc ∧ u.hits false 0x500 (linesOf (scrubRange key).1 (scrubRange key).2.1) = true ∧ u.code ≠ 3) ∧
    (∃ x, (opened 8 0 up).sess 8 = some x ∧ x.perms.testBit 4 = true ∧ up.sess 8 = none ∧ up.sess 9 = none) ∧
    (natBits (2 ^ 52 + 2 ^ 56) 54 52 ∈ [1, 2, 3, 4] ∧ natBits (2 ^ 52 + 2 ^ 56) 57 56 ∈ [1, 2]) ∧
    (∀ chain, chain ∈ [0, 2 ^ 9] → let s := evt0 (1 + 2 ^ 8 + chain)
     s.runs (pmcDom (.die 0 0)) = true ∧
     s.rf (pmcEvtReg (.die 0 0) 0) 8 8 = 1 ∧ s.rf (pmcEvtReg (.die 0 0) 0) 7 0 = 1 ∧ s.rget (pmcCtrReg (.die 0 0) 0) < 2 ^ 48) ∧
    (up.rf (pmcEvtReg (.die 0 0) 0) 8 8 = 0) ∧
    (let s : State := { up with regs := [((⟨.pmcEvt, 0, 0, 0⟩ : Reg).addr, some (2 ^ 8 + 2 ^ 10))] }
     s.rf ⟨.pmcEvt, 0, 0, 0⟩ 10 10 = 1 ∧ s.rf ⟨.pmcEvt, 0, 0, 0⟩ 8 8 = 1 ∧ s.rf ⟨.pmcSample, 0, 0, 0⟩ 0 0 = 0 ∧
     ({ s with regs := SMap.set none s.regs (⟨.pmcSample, 0, 0, 0⟩ : Reg).addr (some 1) } : State).rf ⟨.pmcSample, 0, 0, 0⟩ 0 0 = 1) ∧
    (Mem.wf up.mem = true ∧ up.runs .mesh = true ∧ ({ up with pwr := { up.pwr with lock := 0 } } : State).runs .mesh = false ∧ up.rf (collReg 0) 3 3 = 0 ∧ ({ up with regs := [((collReg 0).addr, some 8)] } : State).rf (collReg 0) 3 3 = 1) ∧
    (∀ mask, mask ∈ [0, 1] → let s := snapping mask; let d := desc 0x60 (snapRaw mask)
     s.opDesc 1536 tyService 0x60 = some d ∧ d.f 4 31 8 = 0 ∧ natBits d.raw 255 160 = 0 ∧ d.f 9 31 24 = 0 ∧ d.zeroFrom 10 = true ∧ d.addr 8 = 0x100 ∧
     d.f 4 7 0 = mask ∧ s.queueOwner 1536 = some 0 ∧ (s.entry 0).dies.testBit 0 = true ∧ s.qAsid 1536 = 0 ∧
     (s.rget ⟨.pmcCtxen, 0, 0, 0⟩).testBit 0 = true ∧ (up.rget ⟨.pmcCtxen, 0, 0, 0⟩).testBit 0 = false ∧ s.homeDie 1536 = 0 ∧
     (State.descPages 1536 0 0 .wr 0 (pagesOf 0x100 4544) s).1 = some [⟨.dev 0x10000000100, 4544, 0⟩] ∧
     (State.descPages 1536 0 0 .wr 0 (pagesOf 0x100 4544) { s with xlt := {} }).1 = none) ∧
    ((snapping 1).descWrite 1536 0 (dmaMaster 0 1536 0) 0 [⟨.dev 0x10000000100, 4544, 0⟩] (zeroes 4544)).1 = true := by
  refine ⟨?_, ?_, ?_, ?_, ⟨_, rfl, by decide +kernel⟩, ?_, ?_, ?_, ?_, ?_, ?_, ?_⟩
  case _ => decide +kernel
  case _ => decide +kernel
  case _ => decide +kernel
  case _ =>
    intro key hk
    simp only [List.mem_cons, List.not_mem_nil, or_false] at hk
    rcases hk with rfl | rfl
    · refine ⟨by decide +kernel, by decide +kernel, by decide +kernel, by decide +kernel, by decide +kernel, by decide +kernel, by decide +kernel, by decide +kernel,
        rfl, fun unc _ => ⟨⟨4, 0, 0, unc⟩, rfl, ?_, show 4 ≠ 3 by decide⟩⟩
      cases unc <;> decide +kernel
    · refine ⟨by decide +kernel, by decide +kernel, by decide +kernel, by decide +kernel, by decide +kernel, by decide +kernel, by decide +kernel, by decide +kernel,
        rfl, fun unc _ => ⟨⟨1, 0, 0x10000000000, unc⟩, rfl, ?_, show 1 ≠ 3 by decide⟩⟩
      cases unc <;> decide +kernel
  case _ => decide +kernel
  case _ => decide +kernel
  case _ => decide +kernel
  case _ => decide +kernel
  case _ => decide +kernel
  case _ => decide +kernel
  case _ => exact of_engines (P := fun m => ((snapping 1).descWrite 1536 0 m 0 [⟨.dev 0x10000000100, 4544, 0⟩] (zeroes 4544)).1 = true) (by decide +kernel) 1536 0

/-- The SMBus where the module answers: COMPLETE, and in Shed mode. -/
def shedded : State := { up with boot := { up.boot with phase := 13 } }
def scrappedUp : State := { up with org := { up.org with fuses := { scrap := true } } }
theorem witness_SMBusCommands :
    (up.pwr.input = true ∧ up.pwr.st ≠ .off ∧ 6 ≤ up.boot.phase ∧ up.org.fuses.lifecycle ≠ .scrapped ∧ up.pwr.req = none ∧ up.boot.phase ≠ 13 ∧
     ¬ 6 ≤ State.reset.boot.phase) ∧
    (scrappedUp.org.fuses.lifecycle = .scrapped ∧ scrappedUp.pwr.req = none ∧ shedded.boot.phase = 13) ∧
    ((inState .active (some { preq .idle false with smb := true }) up).pwr.req = some { preq .idle false with smb := true }) ∧
    (∃ v u, smbReads 0x50 = true ∧ up.busRead 0x502 0x50 4 = (.ok v, u)) ∧ smbReads 0x480000 = false ∧
    (∃ r, regAt RegK.pwrCap.base = some (r, 0) ∧ r.k = .pwrCap ∧ RegK.pwrCap.base % 4 = 0 ∧ (up.busWrite 0x502 2 RegK.pwrCap.base 4 6500).1 = none) ∧
    ((up.mbx 2).busy = false ∧ (({ up with org := { up.org with mbx := [(2, { busy := true })] } } : State).mbx 2).busy = true) ∧
    (∀ kd, kd ∈ [Acc.rd, .wr] → shedded.accCheck 0x502 kd (linesOf (nearBase + 0x100) 4) = none) ∧ ((shedded.rget regErrInj).testBit 63 = false ∧ shedded.err.upsets = [] ∧ (zeroes 240).length ≤ 240 ∧ 240 < (zeroes 241).length) ∧
    up.smb.alert = false ∧ ({ up with smb := { up.smb with alert := true } } : State).smb.alert = true := by
  refine ⟨?_, ?_, ?_, ⟨_, _, ?_, rfl⟩, ?_, ⟨⟨.pwrCap, 0, 0, 0⟩, ?_⟩, ?_, ?_, ?_, ?_, ?_⟩ <;> decide +kernel

/-- The state after reset keeps its memories in canonical form, and a step from it with a command waiting answers a next state. -/
theorem witness_StepKeepsMemory : MemOk { State.reset with pending := [.coldReset] } ∧ State.reset.ptr.parts.length = 8 ∧ State.reset.ldg.parts.length = 8 ∧
    ∃ t, step { State.reset with pending := [.coldReset] } = .next t := by
  exact ⟨⟨rfl, rfl⟩, rfl, rfl, _, rfl⟩

end Sys2Proof.Tests
end

/-! PROOFS. The integer instructions of a core (06 R164, R165): the value each operation gives, and the instruction that writes it. -/

namespace Sys2Proof.Proofs.IntegerOps

open Sys2Proof Sys2Proof.Machine Sys2Proof.Laws

/-! ### The values of the operations, as R165 speaks of them -/

theorem cmpOp_slt (a b : Word) : cmpOp .slt a b = if a.toInt < b.toInt then 1 else 0 := by
  simp [cmpOp, BitVec.slt]

theorem cmpOp_sltu (a b : Word) : cmpOp .sltu a b = if a.toNat < b.toNat then 1 else 0 := by
  simp [cmpOp, BitVec.ult]

theorem cmpOp_min (a b : Word) : cmpOp .min a b = if b.toInt < a.toInt then b else a := by
  simp [cmpOp, BitVec.slt]

theorem cmpOp_max (a b : Word) : cmpOp .max a b = if a.toInt < b.toInt then b else a := by
  simp [cmpOp, BitVec.slt]

theorem cmpOp_minu (a b : Word) : cmpOp .minu a b = if b.toNat < a.toNat then b else a := by
  simp [cmpOp, BitVec.ult]

theorem cmpOp_maxu (a b : Word) : cmpOp .maxu a b = if a.toNat < b.toNat then b else a := by
  simp [cmpOp, BitVec.ult]

/-- The low half of a product is the same for signed and unsigned operands. -/
theorem mulOp_mul (a b : Word) : mulOp .mul a b = BitVec.ofInt 64 (a.toInt * b.toInt) := by
  simp [mulOp, BitVec.ofInt_mul, BitVec.ofInt_toInt]

theorem divOp_div {w : Nat} (a b : BitVec w) :
    divOp .div a b = if b = 0 then -1 else BitVec.ofInt w (a.toInt.tdiv b.toInt) := rfl

theorem divOp_divu {w : Nat} (a b : BitVec w) :
    divOp .divu a b = if b = 0 then -1 else BitVec.ofNat w (a.toNat / b.toNat) := rfl

theorem divOp_rem {w : Nat} (a b : BitVec w) :
    divOp .rem a b = if b = 0 then a else BitVec.ofInt w (a.toInt.tmod b.toInt) := rfl

theorem divOp_remu {w : Nat} (a b : BitVec w) :
    divOp .remu a b = if b = 0 then a else BitVec.ofNat w (a.toNat % b.toNat) := rfl

theorem aluiOp_slti (a : Word) (imm : BitVec 12) :
    aluiOp .slti a imm = if a.toInt < (imm.signExtend 64 : Word).toInt then 1 else 0 := cmpOp_slt a _

theorem aluiOp_sltiu (a : Word) (imm : BitVec 12) :
    aluiOp .sltiu a imm = if a.toNat < (imm.signExtend 64 : Word).toNat then 1 else 0 := cmpOp_sltu a _

theorem aluiOp_slli (a : Word) {imm : BitVec 12} (h : imm.toNat < 64) : aluiOp .slli a imm = a <<< imm.toNat := by
  simp [aluiOp, Nat.mod_eq_of_lt h]

theorem aluiOp_srli (a : Word) {imm : BitVec 12} (h : imm.toNat < 64) : aluiOp .srli a imm = a >>> imm.toNat := by
  simp [aluiOp, Nat.mod_eq_of_lt h]

theorem aluiOp_srai (a : Word) {imm : BitVec 12} (h : imm.toNat < 64) : aluiOp .srai a imm = a.sshiftRight imm.toNat := by
  simp [aluiOp, Nat.mod_eq_of_lt h]

/-! ### QADD and QSUB -/

/-- The exact sum or difference that QADD or QSUB rounds into a register. -/
def exactSum (sub : Bool) (x y : Word) : Int := if sub then x.toInt - y.toInt else x.toInt + y.toInt

/-- Is an integer in the signed 64-bit range? -/
def FitsWord (r : Int) : Prop := -(2 ^ 63) ≤ r ∧ r < 2 ^ 63

/-- A clamp to the signed 64-bit range takes an integer outside it to the nearer end. -/
theorem clampInt_of_not_fitsWord {r : Int} (h : ¬ FitsWord r) :
    clampInt (-(2 ^ 63)) (2 ^ 63 - 1) r = if r < 0 then -(2 ^ 63) else 2 ^ 63 - 1 := by
  unfold FitsWord at h
  unfold clampInt
  by_cases hlow : r < -(2 ^ 63)
  · rw [if_pos hlow, if_pos (by omega)]
  · rw [if_neg hlow, if_pos (by omega), if_neg (by omega)]

theorem gQadd_wraps {sub : Bool} (rd : GReg) {a b : GReg} {c : Core}
    (h : FitsWord (exactSum sub (c.rg a) (c.rg b)) ∨ c.crBit crFXCTL 2 = false) :
    gQadd sub rd a b c = .ok (c.wg rd (BitVec.ofInt 64 (exactSum sub (c.rg a) (c.rg b)))) none := by
  refine if_neg ?_
  rintro ⟨hout, hsat⟩
  rcases h with ⟨hlow, hhigh⟩ | hoff
  · exact hout.elim (not_lt.mpr hlow) (not_le.mpr hhigh)
  · exact absurd hsat (by simp [hoff])

theorem gQadd_saturates {sub : Bool} (rd : GReg) {a b : GReg} {c : Core}
    (h : ¬ FitsWord (exactSum sub (c.rg a) (c.rg b))) (hsat : c.crBit crFXCTL 2 = true) :
    gQadd sub rd a b c = .ok (c.wg rd (BitVec.ofInt 64
      (if exactSum sub (c.rg a) (c.rg b) < 0 then -(2 ^ 63) else 2 ^ 63 - 1))).setSATF none := by
  rw [← clampInt_of_not_fitsWord h]
  refine if_pos ⟨?_, hsat⟩
  by_contra hin
  exact h ⟨not_lt.mp fun hlow => hin (.inl hlow), not_le.mp fun hhigh => hin (.inr hhigh)⟩

/-! ### The instructions -/

/-- A scalar instruction whose function of the core succeeds and goes on to the next word gives the core that function answers. -/
theorem gives_onC {i : Instr} {g : GInstr} {s s1 : State} {k : CoreIx} {f : Core → CoreOut} {c : Core}
    (h : Ready s k 4 s1) (he : exec i s = .next (s.runG k.val g 4)) (hi : g ≠ .brk) (hv : (s1.core k).vCount g = 0)
    (hb : s1.body k g = onC s1 k f) (hf : f (s1.core k) = .ok c none) (hr : c.run = (s1.core k).run) :
    Gives i s s1 k c ((s1.core k).pc + 4) := by
  refine gives he h hi (vUpset_scalar s1 k g hv) (c := c) (next := none) ?_ hr rfl
  rw [hb, onC, hf]
  rfl

section Instructions

variable {s s1 : State} {k : CoreIx} {rd a b : GReg} {v : Word} (h : Ready s k 4 s1)
include h

theorem gives_add (op : AluOp) (hv : aluOp op ((s1.core k).rg a) ((s1.core k).rg b) = v) :
    Gives (.add k op rd a b) s s1 k ((s1.core k).wg rd v) ((s1.core k).pc + 4) :=
  hv ▸ gives_onC h rfl nofun rfl rfl rfl (wg_run _ _ _)

theorem gives_slt (op : CmpOp) (hv : cmpOp op ((s1.core k).rg a) ((s1.core k).rg b) = v) :
    Gives (.slt k op rd a b) s s1 k ((s1.core k).wg rd v) ((s1.core k).pc + 4) :=
  hv ▸ gives_onC h rfl nofun rfl rfl rfl (wg_run _ _ _)

theorem gives_mul (op : MulOp) (hv : mulOp op ((s1.core k).rg a) ((s1.core k).rg b) = v) :
    Gives (.mul k op rd a b) s s1 k ((s1.core k).wg rd v) ((s1.core k).pc + 4) :=
  hv ▸ gives_onC h rfl nofun rfl rfl rfl (wg_run _ _ _)

theorem gives_div (op : DivOp) (hv : divOp op ((s1.core k).rg a) ((s1.core k).rg b) = v) :
    Gives (.div k op rd a b) s s1 k ((s1.core k).wg rd v) ((s1.core k).pc + 4) :=
  hv ▸ gives_onC h rfl nofun rfl rfl rfl (wg_run _ _ _)

theorem gives_alui (op : AluiOp) {imm : BitVec 12} (hv : aluiOp op ((s1.core k).rg a) imm = v) :
    Gives (.alui k op rd a imm) s s1 k ((s1.core k).wg rd v) ((s1.core k).pc + 4) :=
  hv ▸ gives_onC h rfl nofun rfl rfl rfl (wg_run _ _ _)

theorem gives_aluw (op : AluwOp) (hv : aluwOp op ((s1.core k).rg a) ((s1.core k).rg b) = v) :
    Gives (.aluw k op rd a b) s s1 k ((s1.core k).wg rd v) ((s1.core k).pc + 4) :=
  hv ▸ gives_onC h rfl nofun rfl rfl rfl (wg_run _ _ _)

theorem gives_lui (imm : BitVec 20) :
    Gives (.lui k rd imm) s s1 k ((s1.core k).wg rd (imm.signExtend 64 * 4096)) ((s1.core k).pc + 4) :=
  gives_onC h rfl nofun rfl rfl rfl (wg_run _ _ _)

theorem gives_auipc (imm : BitVec 20) :
    Gives (.auipc k rd imm) s s1 k ((s1.core k).wg rd ((s1.core k).pc + imm.signExtend 64 * 4096)) ((s1.core k).pc + 4) :=
  gives_onC h rfl nofun rfl rfl rfl (wg_run _ _ _)

theorem gives_qadd_wraps (sub : Bool)
    (hw : FitsWord (exactSum sub ((s1.core k).rg a) ((s1.core k).rg b)) ∨ (s1.core k).crBit crFXCTL 2 = false) :
    Gives (.qadd k sub rd a b) s s1 k
      ((s1.core k).wg rd (BitVec.ofInt 64 (exactSum sub ((s1.core k).rg a) ((s1.core k).rg b)))) ((s1.core k).pc + 4) :=
  gives_onC h rfl nofun rfl rfl (gQadd_wraps rd hw) (wg_run _ _ _)

theorem gives_qadd_saturates (sub : Bool) (ho : ¬ FitsWord (exactSum sub ((s1.core k).rg a) ((s1.core k).rg b)))
    (hsat : (s1.core k).crBit crFXCTL 2 = true) :
    Gives (.qadd k sub rd a b) s s1 k
      ((s1.core k).wg rd (BitVec.ofInt 64 (if exactSum sub ((s1.core k).rg a) ((s1.core k).rg b) < 0 then -(2 ^ 63) else
        2 ^ 63 - 1))).setSATF ((s1.core k).pc + 4) :=
  gives_onC h rfl nofun rfl rfl (gQadd_saturates rd ho hsat) (wg_run _ _ _)

end Instructions

/-- Settles O4: each conjunct is the instruction's own lemma with the value its operation gives. -/
theorem integerResults : Obligations.IntegerResults := by
  unfold Obligations.IntegerResults
  constructor
  · intro k s s1 rd a b h
    exact ⟨gives_add h .add rfl, gives_add h .sub rfl, gives_add h .and rfl, gives_add h .or rfl, gives_add h .xor rfl,
      gives_add h .sll rfl, gives_add h .srl rfl, gives_add h .sra rfl,
      gives_slt h .slt (cmpOp_slt _ _), gives_slt h .sltu (cmpOp_sltu _ _), gives_slt h .min (cmpOp_min _ _),
      gives_slt h .max (cmpOp_max _ _), gives_slt h .minu (cmpOp_minu _ _), gives_slt h .maxu (cmpOp_maxu _ _),
      gives_mul h .mul (mulOp_mul _ _), gives_mul h .mulh rfl, gives_mul h .mulhu rfl, gives_mul h .mulhsu rfl,
      gives_div h .div (divOp_div _ _), gives_div h .divu (divOp_divu _ _), gives_div h .rem (divOp_rem _ _),
      gives_div h .remu (divOp_remu _ _)⟩
  · intro k s s1 rd a b imm up h
    exact ⟨gives_alui h .addi rfl, gives_alui h .andi rfl, gives_alui h .ori rfl, gives_alui h .xori rfl,
      gives_alui h .slti (aluiOp_slti _ _), gives_alui h .sltiu (aluiOp_sltiu _ _),
      fun hsh => ⟨gives_alui h .slli (aluiOp_slli _ hsh), gives_alui h .srli (aluiOp_srli _ hsh),
        gives_alui h .srai (aluiOp_srai _ hsh)⟩,
      gives_lui h up, gives_auipc h up,
      gives_aluw h .add rfl, gives_aluw h .sub rfl, gives_aluw h .mul rfl, gives_aluw h .sll rfl, gives_aluw h .srl rfl,
      gives_aluw h .sra rfl,
      gives_aluw h .div (congrArg (BitVec.signExtend 64) (divOp_div _ _)), gives_aluw h .divu (congrArg (BitVec.signExtend 64) (divOp_divu _ _)),
      gives_aluw h .rem (congrArg (BitVec.signExtend 64) (divOp_rem _ _)), gives_aluw h .remu (congrArg (BitVec.signExtend 64) (divOp_remu _ _)),
      gives_qadd_wraps h false, gives_qadd_wraps h true, gives_qadd_saturates h false, gives_qadd_saturates h true⟩

end Sys2Proof.Proofs.IntegerOps

/-! PROOFS. The boot record and the non-volatile store (17 R455, R460): what a write of the store leaves and what is read back. -/

namespace Sys2Proof.Proofs.BootRecord

open Sys2Proof Sys2Proof.Machine Sys2Proof.Laws

/-! ### Bytes of the store -/

theorem read_zero (m : Mem) (a n j : Nat) : Mem.read (Mem.zero m a n) j = if a ≤ j ∧ j < a + n then 0 else Mem.read m j := by
  simp [Mem.read, Mem.zero, get_drop]

@[simp] theorem norWrite_nor (s : State) (dev off size : Nat) (bs : List Byte) :
    (s.norWrite dev off size bs).boot.nor =
      Mem.writeN (Mem.zero s.boot.nor (dev * 2 ^ 26 + off) size) (dev * 2 ^ 26 + off) (bs.map (fun b => b ^^^ 0xFF)) := rfl

theorem norWrite_eq (s : State) (dev off size : Nat) (bs : List Byte) :
    s.norWrite dev off size bs = { s with boot := { s.boot with nor := (s.norWrite dev off size bs).boot.nor } } := rfl

theorem norWrite_wf {s : State} (h : Mem.wf s.boot.nor = true) (dev off size : Nat) (bs : List Byte) :
    Mem.wf (s.norWrite dev off size bs).boot.nor = true := mem_wf_writeN _ _ _ (mem_wf_zero _ _ _ h)

/-- A read outside the bytes erased and written finds what stood there. -/
theorem norRead_norWrite_other (s : State) {dev off size k x n : Nat} {bs : List Byte} (hb : bs.length ≤ size)
    (h : ∀ y, x ≤ y → y < x + n → k * 2 ^ 26 + y < dev * 2 ^ 26 + off ∨ dev * 2 ^ 26 + off + size ≤ k * 2 ^ 26 + y) :
    (s.norWrite dev off size bs).norRead k x n = s.norRead k x n := by
  unfold State.norRead
  rw [norWrite_nor, readN_congr (m' := s.boot.nor)]
  intro j hj hj'
  obtain ⟨y, rfl⟩ : ∃ y, j = k * 2 ^ 26 + y := ⟨j - k * 2 ^ 26, by omega⟩
  have hy := h y (by omega) (by omega)
  rw [read_writeN, List.length_map, if_neg (by omega), read_zero, if_neg (by omega)]

theorem xor_xor_ff (b : Byte) : b ^^^ 0xFF ^^^ 0xFF = b := by
  rw [BitVec.xor_assoc, BitVec.xor_self, BitVec.xor_zero]

/-- The bytes written are read back. -/
theorem norRead_norWrite_same (s : State) (dev off size : Nat) (bs : List Byte) :
    (s.norWrite dev off size bs).norRead dev off bs.length = bs := by
  unfold State.norRead
  have h := readN_writeN (Mem.zero s.boot.nor (dev * 2 ^ 26 + off) size) (dev * 2 ^ 26 + off) (bs.map (fun b => b ^^^ 0xFF))
  rw [List.length_map] at h
  rw [norWrite_nor, h, List.map_map]
  exact (List.map_congr_left (fun b _ => xor_xor_ff b)).trans (List.map_id bs)

/-- Erased flash reads 0xFF. -/
theorem norRead_erased (s : State) {dev off size x : Nat} (h : off ≤ x) (h' : x < off + size) :
    (s.norWrite dev off size []).norRead dev x 1 = [0xFF] := by
  have hz : Mem.read (Mem.zero s.boot.nor (dev * 2 ^ 26 + off) size) (dev * 2 ^ 26 + x) = 0 := by
    rw [read_zero, if_pos (by omega)]
  simp only [State.norRead, norWrite_nor, List.map_nil, Mem.writeN, Mem.readN, List.map_cons, hz]
  rfl

/-- Two states with the same store. -/
theorem norRead_congr {s t : State} (h : t.boot.nor = s.boot.nor) (k x n : Nat) : t.norRead k x n = s.norRead k x n := by
  unfold State.norRead
  rw [h]

/-! ### The record -/

/-- What the record's copy holds: its words and their hash. -/
def recordBytes (r : BootRec) : List Byte := leBytes 96 r.raw ++ leBytes 32 (sha256 (leBytes 96 r.raw))

theorem recordBytes_length (r : BootRec) : (recordBytes r).length = 128 := by
  simp [recordBytes, leBytes_length]

/-- The record with GEN one higher. -/
def nextGen (r : BootRec) : BootRec := { r with gen := (r.gen + 1) % 2 ^ 32 }

theorem recordSave_write (s : State) (r : BootRec) : s.recordSave r =
    ({ s with boot := { s.boot with record := some (nextGen r) } } : State).norWrite ((nextGen r).gen % 2) 0x3E00000 65536 (recordBytes (nextGen r)) := rfl

theorem recordSave_eq (s : State) (r : BootRec) :
    s.recordSave r = { s with boot := { s.boot with record := some (nextGen r), nor := (s.recordSave r).boot.nor } } := by
  rw [recordSave_write]
  generalize recordBytes (nextGen r) = bs
  rfl

@[simp] theorem recordSave_record (s : State) (r : BootRec) : (s.recordSave r).boot.record = some (nextGen r) := rfl
@[simp] theorem recordSave_pwr (s : State) (r : BootRec) : (s.recordSave r).pwr = s.pwr := rfl
/-- The copies of the record in the store depend on the store and the record alone. -/
theorem recordSave_nor_congr {s t : State} (h : t.boot.nor = s.boot.nor) (r : BootRec) : (t.recordSave r).boot.nor = (s.recordSave r).boot.nor := by
  rw [recordSave_write, recordSave_write, norWrite_nor, norWrite_nor]
  exact congrArg (fun m => Mem.writeN (Mem.zero m _ _) _ _) h

theorem recordSave_wf {s : State} (h : Mem.wf s.boot.nor = true) (r : BootRec) : Mem.wf (s.recordSave r).boot.nor = true :=
  norWrite_wf (s := { s with boot := { s.boot with record := some (nextGen r) } }) h _ _ _ _

theorem norRead_recordSave (s : State) (r : BootRec) :
    (s.recordSave r).norRead ((nextGen r).gen % 2) 0x3E00000 128 = recordBytes (nextGen r) := by
  rw [recordSave_write, ← recordBytes_length (nextGen r)]
  exact norRead_norWrite_same _ _ _ _ _

/-- A write of the record leaves every byte that is not of its copy. -/
theorem norRead_recordSave_byte (s : State) (r : BootRec) {k x : Nat} (hx : x < 2 ^ 26)
    (h : k ≠ (nextGen r).gen % 2 ∨ x < 0x3E00000 ∨ 0x3E00000 + 65536 ≤ x) : (s.recordSave r).norRead k x 1 = s.norRead k x 1 := by
  rw [recordSave_write, norRead_norWrite_other _ (by rw [recordBytes_length]; decide)]
  · rfl
  · intro y hy hy'
    obtain rfl : y = x := by omega
    generalize (nextGen r).gen % 2 = d at h
    rcases Nat.lt_trichotomy k d with hk | hk | hk <;> omega

/-- A write of the record leaves what stands before the copies, in either device. -/
theorem norRead_recordSave_low (s : State) (r : BootRec) {k x n : Nat} (h : x + n ≤ 0x3E00000) : (s.recordSave r).norRead k x n = s.norRead k x n := by
  rw [recordSave_write, norRead_norWrite_other _ (by rw [recordBytes_length]; decide)]
  · rfl
  · intro y hy hy'
    generalize (nextGen r).gen % 2 = d
    rcases Nat.lt_trichotomy k d with hk | hk | hk <;> omega

/-! ### Slots' states, and FORCE and PREFERRED -/

theorem setSlot_none {s : State} (h : s.boot.record = none) (k st : Nat) : s.setSlot k st = s := by
  rw [State.setSlot, h]

theorem setSlot_some {s : State} {r : BootRec} (h : s.boot.record = some r) (k st : Nat) :
    s.setSlot k st = s.recordSave { r with slotSt := r.slotSt.set k st } := by
  rw [State.setSlot, h]

/-- A slot's state changes the record and its copies, and nothing else. -/
theorem setSlot_eq (s : State) (k st : Nat) :
    s.setSlot k st = { s with boot := { s.boot with record := (s.setSlot k st).boot.record, nor := (s.setSlot k st).boot.nor } } := by
  cases h : s.boot.record with
  | none => rw [setSlot_none h]
  | some r => rw [setSlot_some h]; exact recordSave_eq s _

theorem norRead_setSlot_low (s : State) (j st : Nat) {k x n : Nat} (h : x + n ≤ 0x3E00000) : (s.setSlot j st).norRead k x n = s.norRead k x n := by
  cases hr : s.boot.record with
  | none => rw [setSlot_none hr]
  | some r => rw [setSlot_some hr]; exact norRead_recordSave_low _ _ h

theorem recordDone_some {s : State} {f : Bool} {p : Nat} {r : BootRec} (hp : s.boot.pend = some (f, p)) (hr : s.boot.record = some r) :
    s.recordDone = { s.recordSave { r with force := f, preferred := p } with
      boot := { (s.recordSave { r with force := f, preferred := p }).boot with pend := none } } := by
  rw [State.recordDone, hp, hr]

theorem recordDone_none {s : State} (h : s.boot.pend = none ∨ s.boot.record = none) : s.recordDone = s := by
  unfold State.recordDone
  rcases h with h | h
  · rw [h]
  · rw [h]
    cases s.boot.pend <;> rfl

/-- The update changes the boot state alone: the record, its copies, and what was pending. -/
theorem recordDone_eq (s : State) : s.recordDone =
    { s with boot := { s.boot with record := s.recordDone.boot.record, nor := s.recordDone.boot.nor, pend := s.recordDone.boot.pend } } := by
  cases hp : s.boot.pend with
  | none => rw [recordDone_none (.inl hp)]
  | some x => cases hr : s.boot.record with
    | none => rw [recordDone_none (.inr hr)]
    | some r => rw [recordDone_some hp hr]; rfl

theorem recordDone_pwr (s : State) : s.recordDone.pwr = s.pwr := by rw [recordDone_eq]

/-- After the update nothing is pending that could reach the record. -/
theorem recordDone_settled (s : State) : s.recordDone.boot.pend = none ∨ s.recordDone.boot.record = none := by
  cases hp : s.boot.pend with
  | none => rw [recordDone_none (.inl hp)]; exact .inl hp
  | some x => cases hr : s.boot.record with
    | none => rw [recordDone_none (.inr hr)]; exact .inr hr
    | some r => rw [recordDone_some hp hr]; exact .inl rfl

end Sys2Proof.Proofs.BootRecord

/-! PROOFS. The module's input and its resets (17 R449, R452, R453, R465, R466; 20 R514, R515). -/

namespace Sys2Proof.Proofs.Resets

open Sys2Proof Sys2Proof.Machine Sys2Proof.Laws Sys2Proof.Proofs.BootRecord

/-- A table written from a function, key by key. -/
theorem get_foldl_set {α : Type} [DecidableEq α] (d : α) (f : Nat → α) (l : List Nat) (m : SMap α) (k : Nat) :
    SMap.get d (l.foldl (fun m n => SMap.set d m n (f n)) m) k = if k ∈ l then f k else SMap.get d m k := by
  induction l generalizing m with
  | nil => simp
  | cons n l ih =>
    rw [List.foldl_cons, ih, get_set]
    by_cases h : n = k
    · simp [h]
    · simp [h, Ne.symm h]

/-! ### Cold resets and a loss of power -/

/-- `t` is what a cold reset or a loss of power leaves of `u`, with the start in phase `ph`: the fuses and the site key, the record and the
non-volatile store, and what stands outside the module. -/
def ColdFrom (u : State) (input : Bool) (ph : Nat) (st : PState) (t : State) : Prop :=
  t = { free := u.free, host := u.host, pending := u.pending, cores := coresAtReset,
        org := { fuses := u.org.fuses, siteKey := u.org.siteKey },
        boot := { record := u.boot.record, nor := u.boot.nor, last := u.boot.last, phase := ph },
        pwr := { input := input, st := st }, smb := { u.smb with alert := false },
        ports := t.ports, trl := { ports := t.trl.ports } } ∧
    (∀ n, n < 2 → t.port n = { perst := (u.port n).perst }) ∧ ∀ n, n < 6 → t.tport n = { mated := (u.tport n).mated }

theorem coldBase_port (u : State) (input : Bool) {n : Nat} (h : n < 2) : (u.coldBase input).port n = { perst := (u.port n).perst } :=
  (get_foldl_set ({} : PciPort) (fun n => { perst := (u.port n).perst }) [0, 1] [] n).trans (if_pos (by simp; omega))

theorem coldBase_tport (u : State) (input : Bool) {n : Nat} (h : n < 6) : (u.coldBase input).tport n = { mated := (u.tport n).mated } :=
  (get_foldl_set ({} : TrlPort) (fun n => { mated := (u.tport n).mated }) (List.range 6) [] n).trans (if_pos (List.mem_range.2 h))

theorem coldBase_eq (u : State) (input : Bool) : u.coldBase input =
    { free := u.free, host := u.host, pending := u.pending, cores := coresAtReset,
      org := { fuses := u.org.fuses, siteKey := u.org.siteKey },
      boot := { record := u.boot.record, nor := u.boot.nor, last := u.boot.last },
      pwr := { input := input }, smb := { u.smb with alert := false },
      ports := (u.coldBase input).ports, trl := { ports := (u.coldBase input).trl.ports } } := by
  generalize hp : (u.coldBase input).ports = p
  generalize ht : (u.coldBase input).trl.ports = q
  unfold State.coldBase at *
  dsimp only at hp ht
  rw [hp, ht]

/-- A state that is what `coldBase` leaves, but for the phase of the start and the power state. -/
theorem coldFrom_of {u t : State} (input : Bool) (ph : Nat) (st : PState)
    (h : t = { u.coldBase input with boot := { (u.coldBase input).boot with phase := ph }, pwr := { (u.coldBase input).pwr with st := st } }) :
    ColdFrom u input ph st t := by
  have hp : ∀ n, n < 2 → (u.coldBase input).port n = { perst := (u.port n).perst } := fun _ => coldBase_port u input
  have ht : ∀ n, n < 6 → (u.coldBase input).tport n = { mated := (u.tport n).mated } := fun _ => coldBase_tport u input
  have he := coldBase_eq u input
  generalize u.coldBase input = c at hp ht he h
  subst h
  generalize c.ports = p at he
  generalize c.trl.ports = q at he
  refine ⟨?_, hp, ht⟩
  rw [he]

theorem coldFrom_toStep (u : State) (input : Bool) (ph : Nat) : ColdFrom u input ph .active ((u.coldBase input).toStep ph) :=
  coldFrom_of input ph .active rfl

theorem coldFrom_powerOff (u : State) : ColdFrom u false 0 .off u.powerOff :=
  coldFrom_of false 0 .off rfl

section
variable {s : State} (on : s.pwr.input = true)
include on

theorem coldReset_eq : s.coldReset = (s.recordDone.coldBase true).toStep 2 := by
  rw [State.coldReset, if_neg (by simp [on])]; rfl

/-- A cold reset, once the record's update has reached it. -/
theorem coldFrom_coldReset : ColdFrom s.recordDone true 2 .active s.coldReset := by
  rw [coldReset_eq on]
  exact coldFrom_toStep _ _ _

theorem coldFrom_coldReset_settled (h : s.boot.pend = none ∨ s.boot.record = none) : ColdFrom s true 2 .active s.coldReset := by
  have := coldFrom_coldReset on
  rwa [recordDone_none h] at this

/-- RESTART with no record to write. -/
theorem coldFrom_restart_none (h : s.recordDone.boot.record = none) : ColdFrom s.recordDone true 2 .active s.restart := by
  have he : s.restart = s.recordDone.coldReset := by
    rw [State.restart, if_neg (by simp [on])]
    simp only [h]
  rw [he]
  exact coldFrom_coldReset_settled (by rw [recordDone_pwr]; exact on) (recordDone_settled s)

/-- RESTART writes ATTEMPTS and FORCE zero first. -/
theorem coldFrom_restart_some {r : BootRec} (h : s.recordDone.boot.record = some r) :
    ColdFrom (s.recordDone.recordSave { r with attempts := 0, force := false }) true 2 .active s.restart := by
  have he : s.restart = (s.recordDone.recordSave { r with attempts := 0, force := false }).coldReset := by
    rw [State.restart, if_neg (by simp [on])]
    simp only [h]
  have hp : s.recordDone.boot.pend = none := (recordDone_settled s).resolve_right (by simp [h])
  rw [he]
  refine coldFrom_coldReset_settled ?_ (.inl hp)
  rw [recordSave_pwr, recordDone_pwr]
  exact on

end

/-! ### The commands -/

theorem exec_inputInRange_off {s : State} (h : ¬ s.pwr.input = true) : Next .inputInRange s (ColdFrom s true 1 .active) :=
  ⟨_, congrArg Host.Outcome.next (if_neg h), coldFrom_toStep s true 1⟩

theorem exec_inputInRange_on {s : State} (h : s.pwr.input = true) : exec .inputInRange s = .next s := congrArg Host.Outcome.next (if_pos h)

theorem exec_inputOutOfRange_on {s : State} (h : s.pwr.input = true) : Next .inputOutOfRange s (ColdFrom s false 0 .off) :=
  ⟨_, congrArg Host.Outcome.next (if_pos h), coldFrom_powerOff s⟩
theorem exec_inputOutOfRange_off {s : State} (h : ¬ s.pwr.input = true) : exec .inputOutOfRange s = .next s := congrArg Host.Outcome.next (if_neg h)

theorem exec_overcurrentTrip_on {s : State} (h : s.pwr.input = true) : Next .overcurrentTrip s (ColdFrom s false 0 .off) :=
  ⟨_, congrArg Host.Outcome.next (if_pos h), coldFrom_powerOff s⟩
theorem exec_overcurrentTrip_off {s : State} (h : ¬ s.pwr.input = true) : exec .overcurrentTrip s = .next s := congrArg Host.Outcome.next (if_neg h)

section
variable {s : State} (off : ¬ s.pwr.input = true)
include off

theorem exec_coldReset_off : exec .coldReset s = .next s := congrArg Host.Outcome.next (if_pos (by simp [off]))
theorem exec_warmReset_off : exec .warmReset s = .next s := congrArg Host.Outcome.next (if_pos (by simp [off]))
theorem exec_restart_off : exec .restart s = .next s := congrArg Host.Outcome.next (if_pos (by simp [off]))
theorem exec_start_off (n : Fin 12) (e : Bool) (l : List (StackIx × Fin 2080)) : exec (.start n e l) s = .next s :=
  congrArg Host.Outcome.next (if_pos (by simp [off]))
theorem exec_startStepTimeout_off (e : BitVec 16) : exec (.startStepTimeout e) s = .next s :=
  congrArg Host.Outcome.next (if_pos (by simp [off]))

end

theorem exec_startRestart_failed {s : State} (on : s.pwr.input = true) (h : s.boot.failed = true) :
    Next .startRestart s (ColdFrom s.recordDone true 2 .active) :=
  ⟨_, congrArg Host.Outcome.next (if_pos h), coldFrom_coldReset on⟩
theorem exec_startRestart_idle {s : State} (h : s.boot.failed = false) : exec .startRestart s = .next s :=
  congrArg Host.Outcome.next (if_neg (by simp [h]))

/-! ### A warm reset that is held, or waits for ACTIVE -/

/-- Every stack that is not DEGRADED trains. -/
def StacksTrain (s t : State) : Prop := t.memsys = { s.memsys with hbms := t.memsys.hbms } ∧
  ∀ k, k < 16 → t.stack k = if (s.stack k).st = .degraded then s.stack k else { s.stack k with st := .training }

/-- What each stack becomes when each of a list is set to what it was, changed by a function of its number and the partition table. -/
theorem stack_foldl_setStack (f : Ptr → Nat → Stack → Stack) (l : List Nat) (hl : l.Nodup) (s : State) (k : Nat) :
    (l.foldl (fun s j => s.setStack j (f s.ptr j (s.stack j))) s).stack k = if k ∈ l then f s.ptr k (s.stack k) else s.stack k := by
  induction l generalizing s with
  | nil => simp
  | cons j l ih =>
    obtain ⟨hj, hl⟩ := List.nodup_cons.1 hl
    have hp : (s.setStack j (f s.ptr j (s.stack j))).ptr = s.ptr := rfl
    rw [List.foldl_cons, ih hl, stack_setStack, hp]
    by_cases h : j = k
    · subst h; simp [hj]
    · simp [h, Ne.symm h]

/-- Setting stacks changes the stacks alone. -/
theorem foldl_setStack_eq (f : State → Nat → Stack) (l : List Nat) (s : State) :
    ∃ h, l.foldl (fun s k => s.setStack k (f s k)) s = { s with memsys := { s.memsys with hbms := h } } := by
  induction l generalizing s with
  | nil => exact ⟨s.memsys.hbms, rfl⟩
  | cons k l ih =>
    obtain ⟨h, e⟩ := ih (s.setStack k (f s k))
    exact ⟨h, e⟩

theorem trainBegin_eq (s : State) : ∃ h, s.trainBegin = { s with memsys := { s.memsys with hbms := h } } := foldl_setStack_eq _ _ s

theorem trainBegin_frame (s : State) : s.trainBegin = { s with memsys := s.trainBegin.memsys } := by
  obtain ⟨h, e⟩ := trainBegin_eq s
  rw [e]

theorem trainBegin_trains (s : State) : StacksTrain s s.trainBegin := by
  refine ⟨?_, fun k hk => ?_⟩
  · obtain ⟨h, e⟩ := trainBegin_eq s
    rw [e]
  · exact (stack_foldl_setStack (fun _ _ => Stack.toTrain) (List.range 16) List.nodup_range s k).trans (if_pos (List.mem_range.2 hk))

section
variable {s : State} (on : s.pwr.input = true)
include on

theorem exec_warmReset_held (h : s.boot.phase < 12 ∨ s.ptr.phase = .applying) :
    exec .warmReset s = .next { s with boot := { s.boot with warmHeld := true } } := by
  refine congrArg Host.Outcome.next ?_
  rw [State.warmReset, if_neg (by simp [on]), if_pos h]

variable (done : 12 ≤ s.boot.phase) (idle : s.ptr.phase ≠ .applying)
include done idle

theorem warmReset_waits (h : s.pwr.st = .nap ∨ s.pwr.st = .sleep) :
    s.warmReset = ({ s with pwr := { s.pwr with warmAfter := true } } : State).exitBegin := by
  rw [State.warmReset, if_neg (by simp [on]), if_neg (not_or_intro (by omega) idle), if_pos h]

theorem warmReset_now (h1 : s.pwr.st ≠ .nap) (h2 : s.pwr.st ≠ .sleep) : s.warmReset = s.warmNow := by
  rw [State.warmReset, if_neg (by simp [on]), if_neg (not_or_intro (by omega) idle), if_neg (not_or_intro h1 h2)]

theorem exec_warmReset_exits (h : s.pwr.st = .nap ∨ (s.pwr.st = .sleep ∧ s.pwr.exiting = true)) :
    exec .warmReset s = .next { s with pwr := { s.pwr with warmAfter := true, exiting := true } } := by
  refine congrArg Host.Outcome.next ((warmReset_waits on done idle (h.imp_right And.left)).trans ?_)
  refine if_neg ?_
  rintro ⟨hs, he⟩
  rcases h with h | ⟨_, h⟩
  · exact absurd (h.symm.trans hs) (by decide)
  · simp [h] at he

/-- From SLEEP the exit begins with the training of the stacks. -/
theorem exec_warmReset_asleep (h : s.pwr.st = .sleep) (he : s.pwr.exiting = false) : Next .warmReset s (fun t =>
    t = { s with pwr := { s.pwr with warmAfter := true, exiting := true }, memsys := t.memsys } ∧ StacksTrain s t) := by
  let u : State := { s with pwr := { s.pwr with warmAfter := true, exiting := true } }
  refine ⟨u.trainBegin, congrArg Host.Outcome.next ((warmReset_waits on done idle (.inr h)).trans (if_pos ⟨h, by simp [he]⟩)), ?_, ?_⟩
  · exact trainBegin_frame u
  · exact trainBegin_trains u

end

end Sys2Proof.Proofs.Resets

/-! PROOFS. What error records, accesses and the records of queues leave alone: the start-up state, the committed image, the fabric, the
Orangery but for its trace buffers (12 R331-R341; 16 R442; 19 R492-R502). -/

namespace Sys2Proof.Proofs.Frames

open Sys2Proof Sys2Proof.Machine Sys2Proof.Laws

/-! ### Parts of the state that stand elsewhere -/

theorem stack_congr {s t : State} (h : t.memsys = s.memsys) (k : Nat) : t.stack k = s.stack k := by rw [State.stack, h]; rfl
theorem ar_congr {s t : State} (h : t.arr = s.arr) (p : Nat) : t.ar p = s.ar p := by rw [State.ar, h]; rfl
theorem queue_congr {s t : State} (h : t.queues = s.queues) (q : Nat) : t.queue q = s.queue q := by rw [State.queue, h]; rfl
theorem port_congr {s t : State} (h : t.ports = s.ports) (n : Nat) : t.port n = s.port n := by rw [State.port, h]; rfl

/-! ### The relations -/

/-- Between `s` and `t` nothing differs of the start-up state, the committed image and its partitions, the fabric, and the Orangery but its
open sessions, of which none opens; no stack becomes DEGRADED, and none stops being so. -/
structure Aside (s t : State) : Prop where
  boot : t.boot = s.boot
  ptr : t.ptr = s.ptr
  trl : t.trl = s.trl
  org : t.org = { s.org with sess := t.org.sess }
  shut : ∀ j, s.sess j = none → t.sess j = none
  deg : ∀ k, (t.stack k).st = .degraded ↔ (s.stack k).st = .degraded

/-- Beside that, no queue changes, and no core is released or held. -/
structure Outside (s t : State) : Prop extends Aside s t where
  queues : t.queues = s.queues
  run : ∀ k, (t.core k).run = (s.core k).run

/-- Beside that, no core is released or held, and no queue but `q` gets a descriptor in flight that had none. -/
structure QueueWork (q : Nat) (s t : State) : Prop extends Aside s t where
  run : ∀ k, (t.core k).run = (s.core k).run
  idle : ∀ a, a ≠ q → (s.queue a).flight = [] → (t.queue a).flight = []

theorem Aside.refl (s : State) : Aside s s := ⟨rfl, rfl, rfl, rfl, fun _ h => h, fun _ => Iff.rfl⟩
theorem Aside.trans {s t u : State} (h : Aside s t) (g : Aside t u) : Aside s u :=
  ⟨g.boot.trans h.boot, g.ptr.trans h.ptr, g.trl.trans h.trl, by rw [g.org, h.org], fun j hj => g.shut j (h.shut j hj),
    fun k => (g.deg k).trans (h.deg k)⟩

theorem Outside.refl (s : State) : Outside s s := ⟨Aside.refl s, rfl, fun _ => rfl⟩
theorem Outside.trans {s t u : State} (h : Outside s t) (g : Outside t u) : Outside s u :=
  ⟨h.toAside.trans g.toAside, g.queues.trans h.queues, fun k => (g.run k).trans (h.run k)⟩

theorem QueueWork.refl (q : Nat) (s : State) : QueueWork q s s := ⟨Aside.refl s, fun _ => rfl, fun _ _ h => h⟩
theorem QueueWork.trans {q : Nat} {s t u : State} (h : QueueWork q s t) (g : QueueWork q t u) : QueueWork q s u :=
  ⟨h.toAside.trans g.toAside, fun k => (g.run k).trans (h.run k), fun a ha hf => g.idle a ha (h.idle a ha hf)⟩

theorem Outside.work {s t : State} (h : Outside s t) (q : Nat) : QueueWork q s t :=
  ⟨h.toAside, h.run, fun a _ hf => by rw [queue_congr h.queues]; exact hf⟩

theorem aside_foldl {α : Type} (f : State → α → State) (h : ∀ s a, Aside s (f s a)) (l : List α) (s : State) : Aside s (l.foldl f s) := by
  induction l generalizing s with
  | nil => exact Aside.refl s
  | cons a l ih => exact (h s a).trans (ih _)
theorem outside_foldl {α : Type} (f : State → α → State) (h : ∀ s a, Outside s (f s a)) (l : List α) (s : State) : Outside s (l.foldl f s) := by
  induction l generalizing s with
  | nil => exact Outside.refl s
  | cons a l ih => exact (h s a).trans (ih _)
theorem queueWork_foldl {α : Type} {q : Nat} (f : State → α → State) (h : ∀ s a, QueueWork q s (f s a)) (l : List α) (s : State) :
    QueueWork q s (l.foldl f s) := by
  induction l generalizing s with
  | nil => exact QueueWork.refl q s
  | cons a l ih => exact (h s a).trans (ih _)

theorem queueWork_ite {q : Nat} {s a b : State} (p : Prop) [Decidable p] (h : QueueWork q s a) (g : QueueWork q s b) :
    QueueWork q s (if p then a else b) := by
  split
  · exact h
  · exact g

/-- What holds of the state an operation answers holds of it by its name. -/
theorem of_snd {α : Type} (p : State → Prop) {x : α × State} {a : α} {t : State} (h : x = (a, t)) (g : p x.2) : p t := by
  subst h
  exact g

/-- A change of none of what the relation speaks of. -/
theorem outside_of {s t : State}
    (h : t = { s with
      free := t.free, regs := t.regs, mem := t.mem, host := t.host, arr := t.arr, sage := t.sage, ints := t.ints, ports := t.ports,
      xlt := t.xlt, err := t.err, colls := t.colls, txu := t.txu, ldg := t.ldg, pwr := t.pwr, smb := t.smb }) : Outside s t := by
  rw [h]
  exact ⟨⟨rfl, rfl, rfl, rfl, fun _ h => h, fun _ => Iff.rfl⟩, rfl, fun _ => rfl⟩

theorem outside_tags {s t : State} (h : CacheOnly s t) : Outside s t := by
  obtain ⟨he, -, hst, hco, -⟩ := h
  refine ⟨⟨by rw [he], by rw [he], by rw [he], by rw [he], fun j hj => ?_, fun k => ?_⟩, by rw [he], fun k => ?_⟩
  · rw [he]; exact hj
  · rcases (hst k).2 with ⟨h, -⟩ | ⟨h, h', -⟩
    · rw [h]
    · rw [h, h']; decide
  · obtain ⟨d, i, h⟩ := hco k
    rw [h]

/-! ### Records and sources -/

theorem traceTo_outside (s : State) (i agent raw : Nat) : Outside s (s.traceTo i agent raw) := by
  unfold State.traceTo
  split
  · exact Outside.refl s
  · rename_i x hx
    split
    · exact Outside.refl s
    · rename_i a n w _
      split
      · refine (outside_tags (dropCopies_tags s none (a + w) 64)).trans ?_
        have ho : (s.dropCopies none (a + w) 64).org = s.org := cacheOnly_org (dropCopies_tags s none (a + w) 64)
        refine ⟨⟨rfl, rfl, rfl, rfl, fun j hj => ?_, fun _ => Iff.rfl⟩, rfl, fun _ => rfl⟩
        have hi : i ≠ j := by
          rintro rfl
          rw [State.sess, ho, hx] at hj
          exact absurd hj (by simp)
        show SMap.get none (SMap.set none (s.dropCopies none (a + w) 64).org.sess i (some { x with trace := some (a, n, w + 64) })) j = none
        exact (get_set_ne _ _ _ hi).trans hj
      · exact Outside.refl s

theorem trace_outside (s : State) (agent raw : Nat) : Outside s (s.trace agent raw) := by
  unfold State.trace
  split
  · exact Outside.refl s
  · exact outside_foldl _ (fun s j => traceTo_outside s j agent raw) _ _

theorem buffer_outside (s : State) (r : ErrRec) : Outside s (s.buffer r) := by
  unfold State.buffer
  dsimp only
  split
  · exact Outside.refl s
  · split
    · exact outside_of rfl
    · split
      · exact outside_of rfl
      · split <;> exact outside_of rfl

theorem record_outside (s : State) (r : ErrRec) : Outside s (s.record r).2 := by
  unfold State.record
  dsimp only
  refine Outside.trans ?_ (trace_outside _ _ _)
  refine Outside.trans (t := (s.stamp r.loc r.cause).2) (outside_of rfl) ?_
  refine Outside.trans (buffer_outside _ { r with stamp := (s.stamp r.loc r.cause).1, start := (s.stamp r.loc r.cause).2.boot.count % 2 ^ 32 }) ?_
  exact outside_of rfl

theorem issued_outside (s : State) (n : Nat) (ro : Bool) : Outside s (s.issued n ro) := by
  unfold State.issued
  split
  · exact Outside.refl s
  · exact outside_of rfl

theorem msix_outside (s : State) (port f vec : Nat) : Outside s (s.msix port f vec) := by
  unfold State.msix
  dsimp only
  split
  · exact Outside.trans (outside_of rfl) (issued_outside _ _ _)
  · exact outside_of rfl

theorem message_outside (s : State) (p n : Nat) : Outside s (s.message p n) := by
  unfold State.message
  dsimp only
  split
  · split <;> exact outside_of rfl
  · exact msix_outside _ _ _ _

theorem event1_outside (s : State) (p n : Nat) : Outside s (s.event1 p n).1 := by
  unfold State.event1
  dsimp only
  split
  · exact Outside.refl s
  · have h : Outside s (if (s.rget (intTarget p n)).testBit 7 && !(s.rget (intTarget p n)).testBit 6 then s
        else s.setIntc p { s.intc p with pend := (s.intc p).pend ||| 2 ^ n }) := by
      split
      · exact Outside.refl s
      · exact outside_of rfl
    split
    · split
      · split
        · exact h.trans (message_outside _ _ _)
        · exact h
      · exact h
    · exact h

theorem events_outside (l : List (Nat × Nat)) (s : State) : Outside s (State.events l s).1 := by
  induction l generalizing s with
  | nil => exact Outside.refl s
  | cons a l ih => exact (event1_outside s a.1 a.2).trans (ih _)

theorem dropRecord_outside (s : State) (p : Nat) : Outside s (s.dropRecord p) := record_outside _ _

theorem dropRecords_outside (l : List Nat) (s : State) : Outside s (State.dropRecords l s) := by
  induction l generalizing s with
  | nil => exact Outside.refl s
  | cons p ps ih =>
    exact ((dropRecord_outside s p).trans (events_outside [(p, 229)] _)).trans
      ((outside_foldl _ dropRecord_outside _ _).trans (ih _))

theorem raise_outside (s : State) (p n : Nat) : Outside s (s.raise p n) :=
  (events_outside _ _).trans (dropRecords_outside _ _)

theorem notice_outside (s : State) (kind : Nat) (args : List Nat) (stamp : Nat) : Outside s (s.notice kind args stamp) := by
  unfold State.notice
  split
  · exact outside_of rfl
  · exact Outside.refl s

theorem postRec_outside (s : State) (r : ErrRec) : Outside s (s.postRec r).2 := by
  unfold State.postRec
  dsimp only
  have h : Outside s (State.dropRecords (State.events (recSources (s.record r).1) (s.record r).2).2
      (State.events (recSources (s.record r).1) (s.record r).2).1) :=
    (record_outside _ _).trans ((events_outside _ _).trans (dropRecords_outside _ _))
  split
  · exact h.trans (Outside.trans (outside_of rfl) (notice_outside _ _ _ _))
  · exact h

theorem post_outside (s : State) (r : ErrRec) : Outside s (s.post r) := postRec_outside s r

/-! ### Errors of lines and structures -/

theorem order_outside (s : State) (i stamp : Nat) : Outside s (s.order i stamp) := by
  unfold State.order
  split
  · exact Outside.refl s
  · exact outside_of rfl

theorem uncorrectableIn_outside (s : State) (code : Nat) (m : Option Nat) (a info : Nat) (inj : Bool) :
    Outside s (s.uncorrectableIn code m a info inj) := by
  unfold State.uncorrectableIn
  dsimp only
  generalize ({ sev := _, inj := inj, kind := 0x02, loc := _, master := m, part := _, addr := a, info := code + info } : ErrRec) = r
  have h1 := postRec_outside s r
  generalize s.postRec r = x at h1
  obtain ⟨st, s1⟩ := x
  dsimp only at h1 ⊢
  have listed : ∀ (p : Prop) [Decidable p] (o : Option (Nat × Nat)), Outside s1 (if p then s1 else match o with
      | some (k, l) => if 64 ≤ (SMap.get [] s1.err.bad k).length then s1 else
          { s1 with err := { s1.err with bad := SMap.set [] s1.err.bad k (SMap.get [] s1.err.bad k ++ [l]) } }
      | none => s1) := by
    intro p _ o
    split
    · exact Outside.refl _
    · split
      · split
        · exact Outside.refl _
        · exact outside_of rfl
      · exact Outside.refl _
  split
  · exact h1.trans (listed _ _)
  · split
    · refine (h1.trans (listed _ _)).trans (outside_foldl _ (fun s i => ?_) _ _)
      split
      · exact order_outside _ _ _
      · exact Outside.refl _
    · split
      · exact (h1.trans (listed _ _)).trans (order_outside _ _ _)
      · exact h1.trans (listed _ _)

theorem correctedIn_outside (s : State) (code : Nat) (m : Option Nat) (a info : Nat) (inj : Bool) :
    Outside s (s.correctedIn code m a info inj) := by
  unfold State.correctedIn
  dsimp only
  refine Outside.trans ?_ (post_outside _ _)
  split
  · split
    · exact Outside.refl s
    · exact outside_tags (count_tags _ _ _ _)
  · split
    · exact Outside.refl s
    · exact outside_tags (count_tags _ _ _ _)
  · exact Outside.refl s

theorem rput_outside (s : State) (r : Reg) (hi lo v : Nat) : Outside s (s.rput r hi lo v) := outside_of rfl

theorem injMeet_outside (s : State) (m : Option Nat) (a flag : Nat) : Outside s (s.injMeet m a flag).2 := by
  unfold State.injMeet
  dsimp only
  split
  · exact ((rput_outside s regErrInj 63 63 0).trans (outside_of rfl)).trans (uncorrectableIn_outside _ _ _ _ _ _)
  · exact ((rput_outside s regErrInj 63 63 0).trans (outside_of rfl)).trans (correctedIn_outside _ _ _ _ _ _)

theorem upset_outside {s s1 : State} {p : Upset → Bool} {u : Upset} (h : s.upset p = some (u, s1)) : Outside s s1 := by
  unfold State.upset at h
  obtain ⟨v, -, hv⟩ := Option.map_eq_some_iff.1 h
  obtain ⟨-, rfl⟩ := Prod.mk.inj hv
  exact outside_of rfl

theorem upsetMeet_outside (s : State) (cached : Bool) (m a : Nat) (ls : List Nat) : Outside s (s.upsetMeet cached m a ls).2 := by
  unfold State.upsetMeet
  split
  · exact Outside.refl s
  · rename_i u s1 h
    dsimp only
    split
    · exact ((upset_outside h).trans (outside_of rfl)).trans (uncorrectableIn_outside _ _ _ _ _ _)
    · exact ((upset_outside h).trans (outside_of rfl)).trans (correctedIn_outside _ _ _ _ _ _)

/-! ### Accesses -/

theorem failed_outside (s : State) (m a : Nat) (f : AccFail) : Outside s (s.failed m a f) := by
  cases f with
  | denied l => exact post_outside _ _
  | absent l => exact post_outside _ _
  | bad l => exact uncorrectableIn_outside _ _ _ _ _ _

theorem tryAcc_outside (s : State) (m : Nat) (k : Acc) (cached : Bool) (a n : Nat) : Outside s (s.tryAcc m k cached a n).2 := by
  unfold State.tryAcc
  dsimp only
  split
  · exact failed_outside _ _ _ _
  · split
    · exact injMeet_outside _ _ _ _
    · split
      · exact Outside.refl s
      · split <;> (rename_i hx; exact of_snd (Outside s) hx (upsetMeet_outside _ _ _ _ _))

theorem clearBad_outside (s : State) (a n : Nat) : Outside s (s.clearBad a n) := by
  unfold State.clearBad
  dsimp only
  split
  · exact Outside.refl s
  · exact outside_of rfl

theorem store_outside (s : State) (a : Nat) (bs : List Byte) : Outside s (s.store a bs) :=
  ((outside_tags (snoop_tags s none a bs.length)).trans (outside_of rfl)).trans (clearBad_outside _ _ _)

theorem devRead_outside (s : State) (m a n h : Nat) : Outside s (s.devRead m a n h).2 := by
  unfold State.devRead
  split
  · rename_i hx
    exact of_snd (Outside s) hx (tryAcc_outside _ _ _ _ _ _)
  · rename_i hx
    exact (of_snd (Outside s) hx (tryAcc_outside _ _ _ _ _ _)).trans (outside_tags (traffic_tags _ _ _ _ _ _))

theorem devWrite_outside (s : State) (m a : Nat) (bs : List Byte) (h : Nat) : Outside s (s.devWrite m a bs h).2 := by
  unfold State.devWrite
  split
  · rename_i hx
    exact of_snd (Outside s) hx (tryAcc_outside _ _ _ _ _ _)
  · rename_i hx
    exact ((of_snd (Outside s) hx (tryAcc_outside _ _ _ _ _ _)).trans (store_outside _ _ _)).trans (outside_tags (memPort_tags _ _ _ _ _ _))

theorem outErr_outside (s : State) (n kind m a : Nat) : Outside s (s.outErr n kind m a) := by
  unfold State.outErr
  dsimp only
  refine Outside.trans ?_ (post_outside _ _)
  split
  · exact Outside.trans (outside_of rfl) (outside_tags (count_tags _ _ _ _))
  · exact outside_of rfl

theorem readEnd_outside (s : State) (e : Nat) : Outside s (s.readEnd e).2 := by
  unfold State.readEnd
  split
  · exact Outside.refl s
  · exact outside_of rfl

theorem hostGet_outside (s : State) (e port m a n : Nat) : Outside s (s.hostGet e port m a n).2 := by
  unfold State.hostGet
  dsimp only
  split
  · exact readEnd_outside s e
  · exact (readEnd_outside s e).trans (outErr_outside _ _ _ _ _)

theorem hostWrite_outside (s : State) (port a : Nat) (bs : List Byte) : Outside s (s.hostWrite port a bs) :=
  ((outside_tags (snoop_tags s none (uniHost port a) bs.length)).trans (outside_of rfl)).trans (issued_outside _ _ _)

theorem readRaw_outside (s : State) (m loc port a n e : Nat) : Outside s (s.readRaw m loc port a n e).2 := by
  unfold State.readRaw
  split
  · exact hostGet_outside _ _ _ _ _ _
  · exact devRead_outside _ _ _ _ _

theorem writeRaw_outside (s : State) (m loc port a : Nat) (bs : List Byte) : Outside s (s.writeRaw m loc port a bs).2 := by
  unfold State.writeRaw
  split
  · exact hostWrite_outside _ _ _ _
  · exact devWrite_outside _ _ _ _ _

/-! ### Queues and their records -/

theorem setQueue_work (s : State) (q : Nat) (x : Queue) : QueueWork q s (s.setQueue q x) := by
  refine ⟨⟨rfl, rfl, rfl, rfl, fun _ h => h, fun _ => Iff.rfl⟩, fun _ => rfl, fun a ha hf => ?_⟩
  rw [queue_setQueue, if_neg (Ne.symm ha)]
  exact hf

/-- A descriptor that ends puts nothing into flight, of its queue or another. -/
theorem descDone_work (s : State) (q a ix status tsf result : Nat) : QueueWork q s (s.descDone a ix status tsf result) := by
  refine ⟨⟨rfl, rfl, rfl, rfl, fun _ h => h, fun _ => Iff.rfl⟩, fun _ => rfl, fun b _ hf => ?_⟩
  unfold State.descDone State.updDesc
  rw [queue_setQueue]
  split
  · rename_i h
    subst h
    simp [hf]
  · exact hf

/-- The commands that wait for a queue to be DISABLED end. -/
theorem disableFor_work (q : Nat) (l : List Nat) (s : State) : QueueWork q s (l.foldl (fun s a =>
    match (s.queue a).flight.find? (fun d => d.st == .running && d.opcode == 2) with
    | some d => s.descDone a d.ix 0 0 0
    | none => s) s) := by
  refine queueWork_foldl _ (fun s a => ?_) l s
  split
  · exact descDone_work _ _ _ _ _ _ _
  · exact QueueWork.refl q s

theorem notify_work (s : State) (q : Nat) : QueueWork q s (s.notify q) := by
  unfold State.notify
  dsimp only
  have h : QueueWork q s (if (s.queue q).notify.testBit 0 then
      (s.setQueue q { s.queue q with counted := 0 }).msix (s.qPort q) (s.qFunc q) (natBits (s.queue q).notify 11 1)
      else s.setQueue q { s.queue q with counted := 0 }) := by
    split
    · exact (setQueue_work _ _ _).trans ((msix_outside _ _ _ _).work q)
    · exact setQueue_work _ _ _
  split
  · exact h.trans ((raise_outside _ _ _).work q)
  · exact h

theorem queueOff_work (s : State) (q : Nat) : QueueWork q s (s.queueOff q) := by
  unfold State.queueOff
  dsimp only
  refine QueueWork.trans ?_ (disableFor_work q _ _)
  split
  · exact setQueue_work _ _ _
  · exact (setQueue_work _ _ _).trans (notify_work _ _)

theorem queueZero_work (s : State) (q : Nat) : QueueWork q s (s.queueZero q) := (queueOff_work s q).trans (setQueue_work _ _ _)

theorem queueZero_flight (s : State) (q : Nat) : ((s.queueZero q).queue q).flight = [] := by
  unfold State.queueZero
  dsimp only
  rw [queue_setQueue, if_pos rfl]

theorem queueClear_work (s : State) (q : Nat) : QueueWork q s (s.queueClear q) :=
  (setQueue_work _ _ _).trans (disableFor_work q _ _)

theorem queueSettle_work (s : State) (q : Nat) : QueueWork q s (s.queueSettle q) := by
  unfold State.queueSettle
  refine queueWork_ite _ (QueueWork.refl q s) (queueWork_ite _ (queueOff_work s q) (queueWork_ite _ (queueOff_work s q) ?_))
  exact queueWork_ite _ (queueZero_work s q) (QueueWork.refl q s)

theorem ringError_work (s : State) (q e : Nat) : QueueWork q s (s.ringError q e) :=
  (setQueue_work _ _ _).trans ((post_outside _ _).work q)

theorem ringRead_outside (s : State) (q e : Nat) : Outside s (s.ringRead q e).2 := by
  unfold State.ringRead
  dsimp only
  split
  · rename_i hx
    exact of_snd (Outside s) hx (readRaw_outside _ _ _ _ _ _ _)
  · rename_i s1 hx
    have h1 := of_snd (Outside s) hx (readRaw_outside _ _ _ _ _ _ _)
    split
    · exact h1
    · split <;> (rename_i hy; exact h1.trans (of_snd (Outside s1) hy (readRaw_outside _ _ _ _ _ _ _)))

theorem otherRead_outside (s : State) (q : Nat) (d : QDesc) (status : Nat) : Outside s (s.otherRead q d status).2 := by
  unfold State.otherRead
  split
  · exact Outside.refl s
  · split <;> (rename_i hx; exact of_snd (Outside s) hx (hostGet_outside _ _ _ _ _ _))

theorem recordWrite_work (s : State) (q : Nat) (d : QDesc) (status tsf result : Nat) : QueueWork q s (s.recordWrite q d status tsf result).2 := by
  unfold State.recordWrite
  refine QueueWork.trans ((otherRead_outside s q d status).work q) ?_
  have h := fun m loc port a bs => (writeRaw_outside (s.otherRead q d status).2 m loc port a bs).work q
  rw [apply_ite Prod.snd]
  exact queueWork_ite _ (h _ _ _ _ _) ((h _ _ _ _ _).trans (setQueue_work _ _ _))

/-- Writing out the records of a queue that is reset. -/
theorem resetRecords_work (q st0 e f : Nat) (s : State) : QueueWork q s (State.resetRecords q st0 e f s) := by
  induction f generalizing s with
  | zero => exact QueueWork.refl q s
  | succ f ih =>
    unfold State.resetRecords
    dsimp only
    split
    · refine QueueWork.trans (QueueWork.trans ?_ (setQueue_work _ _ _)) (ih _)
      refine queueWork_ite _ (QueueWork.refl q s) ?_
      split
      · rename_i hx
        exact of_snd (QueueWork q s) hx (recordWrite_work _ _ _ _ _ _)
      · rename_i hx
        exact (of_snd (QueueWork q s) hx (recordWrite_work _ _ _ _ _ _)).trans (ringError_work _ _ _)
    · refine queueWork_ite _ (QueueWork.refl q s) ?_
      split
      · rename_i hx
        exact (((of_snd (Outside s) hx (ringRead_outside _ _ _)).work q).trans (setQueue_work _ _ _)).trans (ih _)
      · rename_i hx
        exact (((of_snd (Outside s) hx (ringRead_outside _ _ _)).work q).trans (setQueue_work _ _ _)).trans (ringError_work _ _ _)

/-! ### Measurements (16 R434) -/

theorem measure_meas (s : State) (r d j : Nat) :
    SMap.get 0 (s.measure r d).org.meas j = if j = r then extendM (SMap.get 0 s.org.meas r) d else SMap.get 0 s.org.meas j := by
  refine (get_set 0 s.org.meas r j (extendM (SMap.get 0 s.org.meas r) d)).trans ?_
  by_cases h : r = j
  · simp [h]
  · simp [h, Ne.symm h]

/-- A measurement changes one register of the Orangery. -/
theorem measure_eq (s : State) (r d : Nat) : ∃ m, s.measure r d = { s with org := { s.org with meas := m } } := ⟨_, rfl⟩

end Sys2Proof.Proofs.Frames

/-! PROOFS. A warm reset (17 R453; 01 R26, R43; 03 R91; 06 R160; 13 R374; 16 R445): what each of its parts changes, and what stays. -/

namespace Sys2Proof.Proofs.WarmReset

open Sys2Proof Sys2Proof.Machine Sys2Proof.Laws Sys2Proof.Proofs.Frames

/-! ### Lists of cores and dies -/

theorem mem_upFrom {a n x : Nat} : x ∈ upFrom a n ↔ a ≤ x ∧ x < a + n := by
  induction n generalizing a with
  | zero => simp [upFrom]
  | succ n ih =>
    rw [upFrom, List.mem_cons, ih]
    omega

theorem mem_dieCores {d k : Nat} : k ∈ dieCores d ↔ k / 64 = d := by
  rw [dieCores, mem_upFrom]
  omega

theorem findPart_lt {img : Image} {p : PartEntry → Bool} {i : Nat} (h : findPart img p = some i) : i < 8 :=
  List.mem_range.1 (List.mem_of_find?_eq_some h)

/-! ### Sessions close (16 R441) -/

/-- What the closing of sessions leaves: nothing changes but the cores they halted, the Orangery, stamps and ERR_INJ; no fuse and no measurement
register but M7 changes, no session opens, and no core is released or held. -/
structure Closing (s t : State) : Prop where
  eq : t = { s with regs := t.regs, cores := t.cores, err := t.err, org := t.org }
  fuses : t.org.fuses = s.org.fuses
  meas : ∀ r, r ≠ 7 → SMap.get 0 t.org.meas r = SMap.get 0 s.org.meas r
  shut : ∀ j, s.sess j = none → t.sess j = none
  run : ∀ k, (t.core k).run = (s.core k).run

theorem Closing.refl (s : State) : Closing s s := ⟨rfl, rfl, fun _ _ => rfl, fun _ h => h, fun _ => rfl⟩
theorem Closing.trans {s t u : State} (h : Closing s t) (g : Closing t u) : Closing s u :=
  ⟨by rw [g.eq, h.eq], g.fuses.trans h.fuses, fun r hr => (g.meas r hr).trans (h.meas r hr), fun j hj => g.shut j (h.shut j hj),
    fun k => (g.run k).trans (h.run k)⟩

theorem closing_foldl {α : Type} (f : State → α → State) (h : ∀ s a, Closing s (f s a)) (l : List α) (s : State) : Closing s (l.foldl f s) := by
  induction l generalizing s with
  | nil => exact Closing.refl s
  | cons a l ih => exact (h s a).trans (ih _)

theorem measure7_closing (s : State) (d : Nat) : Closing s (s.measure 7 d) := by
  have hm : ∀ r, r ≠ 7 → SMap.get 0 (s.measure 7 d).org.meas r = SMap.get 0 s.org.meas r := fun r hr => by rw [measure_meas, if_neg hr]
  obtain ⟨m, he⟩ := measure_eq s 7 d
  rw [he] at hm ⊢
  exact ⟨rfl, rfl, hm, fun _ h => h, fun _ => rfl⟩

theorem event7_closing (s : State) (kind j level reason tenant : Nat) : Closing s (s.event7 kind j level reason tenant) := by
  have h : Closing s (s.stamp 0x0A 0).2 := ⟨rfl, rfl, fun _ _ => rfl, fun _ h => h, fun _ => rfl⟩
  unfold State.event7
  generalize s.stamp 0x0A 0 = x at h
  exact h.trans (measure7_closing _ _)

theorem sess_setSess (s : State) (j : Nat) (x : Option Sess) (i : Nat) : (s.setSess j x).sess i = if j = i then x else s.sess i :=
  get_set none s.org.sess j i x

theorem setSess_none_closing (s : State) (j : Nat) : Closing s (s.setSess j none) := by
  refine ⟨rfl, rfl, fun _ _ => rfl, fun i hi => ?_, fun _ => rfl⟩
  rw [sess_setSess, hi, ite_self]

/-- A core that was halted goes on. -/
def goOn (s : State) (k : Nat) : State := s.onCore k (fun c => { c with halted := false })

theorem goOn_closing (s : State) (k : Nat) : Closing s (goOn s k) := by
  refine ⟨rfl, rfl, fun _ _ => rfl, fun _ h => h, fun i => ?_⟩
  rw [goOn, core_onCore]
  split
  · rename_i h; subst h; rfl
  · rfl

/-- The event is measured, the session goes, and its halts, breakpoints and injection with it. -/
theorem closeSess_open {s : State} {j : Nat} {x : Sess} (h : s.sess j = some x) (reason : Nat) : ∃ (ks : List Nat) (hs : SMap Nat) (bs : SMap (List (Nat × Nat))) (rs : SMap (Option Nat)),
    let u := ks.foldl goOn ((s.event7 2 j (sessLevel j) reason x.tenant).setSess j none)
    s.closeSess j reason = { u with regs := rs, org := { u.org with haltBy := hs, brk := bs } } := by
  rw [State.closeSess, h]
  dsimp only
  split <;> exact ⟨_, _, _, _, rfl⟩

theorem closeSess_closed (s : State) {j : Nat} (h : s.sess j = none) (reason : Nat) : s.closeSess j reason = s := by
  rw [State.closeSess, h]

theorem closeSess_closing (s : State) (j reason : Nat) : Closing s (s.closeSess j reason) := by
  cases h : s.sess j with
  | none => rw [closeSess_closed s h]; exact Closing.refl s
  | some x =>
    obtain ⟨ks, hs, bs, rs, he⟩ := closeSess_open h reason
    rw [he]
    refine (((event7_closing s 2 j (sessLevel j) reason x.tenant).trans (setSess_none_closing _ j)).trans (closing_foldl _ goOn_closing ks _)).trans ?_
    exact ⟨rfl, rfl, fun _ _ => rfl, fun _ h => h, fun _ => rfl⟩

/-- The session named is no more. -/
theorem closeSess_shuts (s : State) (j reason : Nat) : (s.closeSess j reason).sess j = none := by
  cases h : s.sess j with
  | none => rw [closeSess_closed s h]; exact h
  | some x =>
    obtain ⟨ks, hs, bs, rs, he⟩ := closeSess_open h reason
    rw [he]
    exact (closing_foldl _ goOn_closing ks _).shut j (by rw [sess_setSess, if_pos rfl])

theorem closeSess_all (l : List Nat) (reason : Nat) (s : State) : ∀ j ∈ l, (l.foldl (fun s j => s.closeSess j reason) s).sess j = none := by
  induction l generalizing s with
  | nil => simp
  | cons i l ih =>
    intro j hj
    rcases List.mem_cons.1 hj with rfl | hj
    · exact (closing_foldl _ (fun s j => closeSess_closing s j reason) l _).shut _ (closeSess_shuts _ _ _)
    · exact ih _ j hj

/-! ### The functions of the ports are reset (12 R341) -/

theorem flight_of_absent {s : State} {q : Nat} (h : q ∉ SMap.keys s.queues) : (s.queue q).flight = [] := by
  have : s.queue q = {} := get_absent _ _ _ (fun x hx hq => h (hq ▸ List.mem_map_of_mem hx))
  rw [this]

/-- Work on each queue of a list: a queue outside the list that has nothing in flight gets nothing. -/
theorem work_foldl (f : State → Nat → State) (h : ∀ s q, QueueWork q s (f s q)) (l : List Nat) (s : State) :
    Aside s (l.foldl f s) ∧ (∀ k, ((l.foldl f s).core k).run = (s.core k).run) ∧
      ∀ a, a ∉ l → (s.queue a).flight = [] → ((l.foldl f s).queue a).flight = [] := by
  induction l generalizing s with
  | nil => exact ⟨Aside.refl s, fun _ => rfl, fun _ _ h => h⟩
  | cons q l ih =>
    obtain ⟨h1, h2, h3⟩ := ih (f s q)
    refine ⟨(h s q).toAside.trans h1, fun k => (h2 k).trans ((h s q).run k), fun a ha hf => ?_⟩
    obtain ⟨haq, hal⟩ := not_or.1 (fun x => ha (List.mem_cons.2 x))
    exact h3 a hal ((h s q).idle a haq hf)

/-- Work on each queue of a list that leaves the queue with nothing in flight. -/
theorem empties_foldl (f : State → Nat → State) (h : ∀ s q, QueueWork q s (f s q)) (he : ∀ s q, ((f s q).queue q).flight = []) (l : List Nat)
    (s : State) (hs : ∀ a, a ∉ l → (s.queue a).flight = []) (a : Nat) : ((l.foldl f s).queue a).flight = [] := by
  induction l generalizing s with
  | nil => exact hs a (by simp)
  | cons q l ih =>
    refine ih (f s q) (fun a ha => ?_)
    by_cases haq : a = q
    · subst haq; exact he s a
    · exact (h s q).idle a haq (hs a (by simp [haq, ha]))

theorem queueClear_zero_work (s : State) (q : Nat) : QueueWork q s ((s.queueClear q).queueZero q) :=
  (queueClear_work s q).trans (queueZero_work _ q)

theorem setPort_aside (s : State) (n : Nat) (x : PciPort) : Aside s (s.setPort n x) := (outside_of rfl : Outside s (s.setPort n x)).toAside

/-- A reset of every function: no core is released or held, and no queue has anything in flight. -/
theorem resetAllFns_frame (s : State) : Aside s s.resetAllFns ∧ (∀ k, (s.resetAllFns.core k).run = (s.core k).run) ∧
    ∀ q, (s.resetAllFns.queue q).flight = [] := by
  unfold State.resetAllFns
  dsimp only
  have h1 := work_foldl (fun s q => State.resetRecords q 5 anyEnd ((s.queue q).sqSize + 32) s) (fun s q => resetRecords_work _ _ _ _ s)
    (SMap.keys s.queues) s
  generalize (SMap.keys s.queues).foldl (fun s q => State.resetRecords q 5 anyEnd ((s.queue q).sqSize + 32) s) s = s1 at h1
  obtain ⟨a1, r1, f1⟩ := h1
  obtain ⟨a2, r2, -⟩ := work_foldl _ queueClear_zero_work (SMap.keys s.queues) s1
  have f2 := empties_foldl _ queueClear_zero_work (fun s q => queueZero_flight _ q) (SMap.keys s.queues) s1
    (fun a ha => f1 a ha (flight_of_absent ha))
  exact ⟨(a1.trans a2).trans (aside_foldl _ (fun s n => setPort_aside s n _) _ _), fun k => (r2 k).trans (r1 k), f2⟩

theorem setPorts_eq (f : State → Nat → PciPort) (l : List Nat) (s : State) :
    ∃ p, l.foldl (fun s n => s.setPort n (f s n)) s = { s with ports := p } := by
  induction l generalizing s with
  | nil => exact ⟨s.ports, rfl⟩
  | cons n l ih => exact ih (s.setPort n (f s n))

theorem resetAllFns_no_queues (s : State) (h : s.queues = []) : ∃ p, s.resetAllFns = { s with ports := p } := by
  have hk : SMap.keys s.queues = [] := by rw [h]; rfl
  unfold State.resetAllFns
  rw [hk]
  exact setPorts_eq _ _ s

/-! ### Dies are reset (03 R91; 06 R160) -/

/-- A die reset changes registers, cores and engines, caches, translations and interrupts. -/
def DieWork (s t : State) : Prop :=
  t = { s with
    free := t.free, regs := t.regs, cores := t.cores, arr := t.arr, sage := t.sage, memsys := t.memsys, ints := t.ints, xlt := t.xlt,
    err := { s.err with stamps := t.err.stamps }, colls := t.colls, txu := t.txu, ldg := t.ldg }

theorem DieWork.trans {s t u : State} (h : DieWork s t) (g : DieWork t u) : DieWork s u := by
  unfold DieWork at *
  rw [g, h]

theorem dieWork_tags {s t : State} (h : CacheOnly s t) : DieWork s t := by
  unfold DieWork
  rw [h.1]

/-- The dies of a list are reset: their cores are held, their arrays keep the ACB and the next operation's number, and no stack becomes or
ceases to be DEGRADED. -/
structure DiesReset (l : List Nat) (s t : State) : Prop where
  work : DieWork s t
  run : ∀ k, (t.core k).run = if k / 64 ∈ l then false else (s.core k).run
  ar : ∀ p, t.ar p = if p ∈ l then { acb := (s.ar p).acb, nextId := (s.ar p).nextId } else s.ar p
  deg : ∀ k, (t.stack k).st = .degraded ↔ (s.stack k).st = .degraded

theorem resetCore_eq (s : State) (k : Nat) (run : Bool) : ∃ c x, s.resetCore k run = { s with cores := c, xlt := x } := by
  unfold State.resetCore State.dropPark
  dsimp only
  split
  · exact ⟨_, s.xlt, rfl⟩
  · exact ⟨_, _, rfl⟩

theorem dropPark_run (s : State) (k j : Nat) : ((s.dropPark k).core j).run = (s.core j).run := by
  unfold State.dropPark
  split
  · rfl
  · dsimp only
    rw [core_onCore]
    split
    · rename_i h; subst h; rfl
    · rfl

theorem resetCore_run (s : State) (k : Nat) (run : Bool) (j : Nat) : ((s.resetCore k run).core j).run = if k = j then run else (s.core j).run := by
  unfold State.resetCore
  dsimp only
  rw [core_setCore]
  split
  · rfl
  · exact dropPark_run s k j

theorem resetCores (l : List Nat) (s : State) : (∃ c x, l.foldl (fun s k => s.resetCore k false) s = { s with cores := c, xlt := x }) ∧
    ∀ j, ((l.foldl (fun s k => s.resetCore k false) s).core j).run = if j ∈ l then false else (s.core j).run := by
  induction l generalizing s with
  | nil => exact ⟨⟨s.cores, s.xlt, rfl⟩, fun j => rfl⟩
  | cons k l ih =>
    obtain ⟨⟨c, x, h⟩, hr⟩ := ih (s.resetCore k false)
    obtain ⟨c', x', h'⟩ := resetCore_eq s k false
    refine ⟨⟨c, x, by rw [List.foldl_cons, h, h']⟩, fun j => ?_⟩
    rw [List.foldl_cons, hr, resetCore_run]
    by_cases hk : k = j
    · simp [hk]
    · simp [hk, Ne.symm hk]

theorem l2Empty_tags (s : State) (d : Nat) : CacheOnly s (s.l2Empty d) :=
  cacheOnly_trans (cacheOnly_foldl _ l2Back_tags _ _) (l2_tags _ _)

theorem dieUnits_eq (u : State) (d : Nat) (a : Arr) (g : Sage) : ∃ r gs t i,
    (((u.setAr d a).setSg d g).setTdie d {}).clearInt d = { u.setAr d a with regs := r, sage := gs, txu := t, ints := i } := ⟨_, _, _, _, rfl⟩

/-- Registers, cores, the array, Sage, the TXU and interrupts. -/
theorem dieUnits_reset (s : State) (d : Nat) (g : Sage) : DiesReset [d] s
    ((((((dieCores d).foldl (fun s k => s.resetCore k false) (s.rclear (ownReg d))).setAr d
      { acb := (s.ar d).acb, nextId := (s.ar d).nextId }).setSg d g).setTdie d {}).clearInt d) := by
  obtain ⟨⟨c, x, he⟩, hr⟩ := resetCores (dieCores d) (s.rclear (ownReg d))
  generalize (dieCores d).foldl (fun s k => s.resetCore k false) (s.rclear (ownReg d)) = u at he hr
  obtain ⟨r, gs, t, i, hx⟩ := dieUnits_eq u d { acb := (s.ar d).acb, nextId := (s.ar d).nextId } g
  rw [hx]
  have hm : u.memsys = s.memsys := by rw [he]; rfl
  have ha : u.arr = s.arr := by rw [he]; rfl
  refine ⟨?_, fun k => ?_, fun p => ?_, fun k => iff_of_eq (congrArg (fun x : Stack => x.st = .degraded) (stack_congr hm k))⟩
  · unfold DieWork
    rw [he]
    rfl
  · have h := hr k
    simp only [mem_dieCores, List.mem_singleton] at h ⊢
    exact h
  · refine (ar_setAr u d p _).trans ?_
    rw [ar_congr ha]
    by_cases h : d = p
    · simp [h]
    · simp [h, Ne.symm h]

/-- Caches, translations and the counters' collector. -/
theorem dieCaches_reset (s : State) (d : Nat) (y : XltDie) (c : SMap Coll) :
    DiesReset [] s { ((s.l2Empty d).dropTlbs d).setXdie d y with colls := c } := by
  have h := l2Empty_tags s d
  have ho := outside_tags h
  have hw := dieWork_tags h
  have ha : (s.l2Empty d).arr = s.arr := by rw [h.1]
  generalize s.l2Empty d = u at ho hw ha
  refine ⟨hw.trans rfl, ho.run, fun p => ?_, ho.deg⟩
  show SMap.get {} u.arr p = _
  rw [ha]
  rfl

theorem DiesReset.trans {l m : List Nat} {s t u : State} (h : DiesReset l s t) (g : DiesReset m t u) : DiesReset (l ++ m) s u := by
  refine ⟨h.work.trans g.work, fun k => ?_, fun p => ?_, fun k => (g.deg k).trans (h.deg k)⟩
  · rw [g.run, h.run]
    by_cases hl : k / 64 ∈ l <;> simp [hl]
  · rw [g.ar, h.ar]
    by_cases hl : p ∈ l <;> simp [hl]

theorem dieReset_resets (s : State) (d : Nat) : DiesReset [d] s (s.dieReset d) :=
  (dieUnits_reset s d _).trans (dieCaches_reset _ d _ _)

theorem dieReset_all (l : List Nat) (s : State) : DiesReset l s (l.foldl (fun s d => s.dieReset d) s) := by
  induction l generalizing s with
  | nil => exact ⟨rfl, fun _ => rfl, fun _ => rfl, fun _ => Iff.rfl⟩
  | cons d l ih => exact (dieReset_resets s d).trans (ih _)

/-- Nothing that `Aside` speaks of changes when dies are reset. -/
theorem DiesReset.aside {l : List Nat} {s t : State} (h : DiesReset l s t) : Aside s t := by
  have e := h.work
  unfold DieWork at e
  exact ⟨by rw [e], by rw [e], by rw [e], by rw [e], fun j hj => by rw [e]; exact hj, h.deg⟩

/-! ### The stacks write back -/

theorem retireAll_tags (x : Stack) (kw : Nat) : TagsOf x (x.retireAll kw) := by
  have key : ∀ (l : List WcbEnt) (x : Stack), TagsOf x (l.foldl (fun x e => x.retire kw e) x) := by
    intro l
    induction l with
    | nil => exact fun x => tagsOf_refl x
    | cons e l ih => exact fun x => tagsOf_trans (retire_tags x kw e) (ih _)
  exact key _ x

theorem retireAll_cacheOnly (l : List Nat) (s : State) : CacheOnly s (l.foldl (fun s k => s.setStack k ((s.stack k).retireAll (s.keepWays k))) s) :=
  cacheOnly_foldl _ (fun _ _ => setStack_tags _ _ _ (stackTags_of (retireAll_tags _ _))) l s

/-! ### The Lodge service cores (01 R26) -/

/-- Releases change cores and translations alone; the cores of the list run where they may. -/
theorem releaseCores (l : List Nat) (s : State) : (∃ c x, l.foldl (fun s k => s.releaseCore k) s = { s with cores := c, xlt := x }) ∧
    (∀ j, j ∉ l → ((l.foldl (fun s k => s.releaseCore k) s).core j).run = (s.core j).run) ∧
    ∀ j, (j ∈ l → s.mayRelease j = true) → (j ∈ l ∨ (s.core j).run = true) → ((l.foldl (fun s k => s.releaseCore k) s).core j).run = true := by
  induction l generalizing s with
  | nil => exact ⟨⟨s.cores, s.xlt, rfl⟩, fun _ _ => rfl, fun j _ h => h.resolve_left (by simp)⟩
  | cons k l ih =>
    obtain ⟨⟨c, x, h⟩, hn, hy⟩ := ih (s.releaseCore k)
    have hk : ∃ c' x', s.releaseCore k = { s with cores := c', xlt := x' } := by
      unfold State.releaseCore
      split
      · exact ⟨s.cores, s.xlt, rfl⟩
      · exact resetCore_eq s k true
    have hother : ∀ j, k ≠ j → ((s.releaseCore k).core j).run = (s.core j).run := by
      intro j hj
      unfold State.releaseCore
      split
      · rfl
      · rw [resetCore_run, if_neg hj]
    have hself : s.mayRelease k = true → ((s.releaseCore k).core k).run = true := by
      intro hm
      unfold State.releaseCore
      split
      · rename_i hc
        simpa [hm] using hc
      · rw [resetCore_run, if_pos rfl]
    obtain ⟨c', x', hk⟩ := hk
    refine ⟨⟨c, x, by rw [List.foldl_cons, h, hk]⟩, fun j hj => ?_, fun j hm hj => ?_⟩
    · obtain ⟨hjk, hjl⟩ := not_or.1 (fun x => hj (List.mem_cons.2 x))
      rw [List.foldl_cons, hn j hjl, hother j (Ne.symm hjk)]
    · have hmay : ∀ i, (s.releaseCore k).mayRelease i = s.mayRelease i := fun i => by rw [hk]; rfl
      rw [List.foldl_cons]
      refine hy j (fun hjl => by rw [hmay]; exact hm (List.mem_cons_of_mem _ hjl)) ?_
      by_cases hjk : k = j
      · subst hjk
        exact .inr (hself (hm (by simp)))
      · rcases hj with hj | hj
        · exact .inl ((List.mem_cons.1 hj).resolve_left (Ne.symm hjk))
        · exact .inr ((hother j hjk).trans hj)

theorem startService_eq (s : State) : ∃ c x, s.startService = { s with cores := c, xlt := x } := by
  unfold State.startService
  split
  · exact (releaseCores _ s).1
  · exact ⟨s.cores, s.xlt, rfl⟩

/-- Only a Lodge's service cores are released. -/
theorem startService_only {s : State} {k : Nat} (h : (s.startService.core k).run = true) (hk : (s.core k).run = false) :
    s.ptr.image.lodge = true ∧ k < 8 := by
  unfold State.startService at h
  split at h
  · rename_i hl
    refine ⟨hl, ?_⟩
    by_contra hlt
    rw [(releaseCores _ s).2.1 k (by simpa using hlt), hk] at h
    exact absurd h (by decide)
  · rw [hk] at h
    exact absurd h (by decide)

/-- The service cores run once their die's partition does. -/
theorem startService_runs {s : State} (hl : s.ptr.image.lodge = true) (hs : s.boot.phase ≠ 13)
    (hp : ∀ i, s.dieOwner 0 = some i → nth .unused s.ptr.parts i = .running) {k : Nat} (hk : k < 8) : (s.startService.core k).run = true := by
  rw [State.startService, if_pos hl]
  refine (releaseCores _ s).2.2 k (fun _ => ?_) (.inl (List.mem_range.2 hk))
  have hr : s.dieReleased (k / 64) = true := by
    have h0 : k / 64 = 0 := by omega
    unfold State.dieReleased
    rw [h0]
    split
    · rename_i i hi
      rw [hp i hi]
      simp
    · rfl
  simp [State.mayRelease, hr, State.inShed, hs]

/-- A partition's state by what its entry and its stacks say, looked up in the table of all eight. -/
theorem nth_partState (s : State) {i : Nat} (h : i < 8) : nth .unused ((List.range 8).map s.partState) i = s.partState i := by
  unfold nth
  rw [List.getD_eq_getElem?_getD, List.getElem?_map, List.getElem?_range h]
  rfl

theorem partState_congr {s t : State} (hp : t.ptr.image = s.ptr.image) (hd : ∀ k, (t.stack k).st = .degraded ↔ (s.stack k).st = .degraded)
    (i : Nat) : t.partState i = s.partState i := by
  have he : t.entry i = s.entry i := by rw [State.entry, hp]; rfl
  have hg : ∀ e, t.degraded e = s.degraded e := fun e => by
    unfold State.degraded
    congr 1
    funext k
    exact Bool.eq_iff_iff.2 (by simpa using hd k)
  simp only [State.partState, he, hg]

/-! ### The reset as a whole -/

/-- The commit in progress is no more. -/
def warmBegun (s : State) : State :=
  { s with boot := { s.boot with warmHeld := false }, ptr := { s.ptr with staged := none, taken := none, next := none, phase := .idle } }

/-- The tenants' sessions close. -/
def tenantsClosed (s : State) : State := (List.range 8).foldl (fun s j => s.closeSess j 4) s

/-- No channel is busy, and no command of one waits. -/
def channelsIdle (s : State) : State := (List.range 3).foldl (fun s c => s.setMbx c { s.mbx c with busy := false }) s
def commandsDropped (s : State) : State := { s with org := { s.org with cmds := [], chal := [] } }

/-- Before functions, dies and stacks are reset. -/
def warmShut (s : State) : State := commandsDropped (channelsIdle (tenantsClosed (warmBegun s)))

def diesReset (s : State) : State := (List.range 8).foldl (fun s d => s.dieReset d) s
def stacksRetired (s : State) : State := (List.range 16).foldl (fun s k => s.setStack k ((s.stack k).retireAll (s.keepWays k))) s

/-- Functions, dies and stacks are reset. -/
def warmIdle (s : State) : State := stacksRetired (diesReset (warmShut s).resetAllFns)

/-- Translations, the fabric's requests and containments are no more, and each partition's state is what its stacks say. -/
def warmRest (u : State) : State :=
  { u with
    xlt := { ringTail := u.xlt.ringTail, ringWrap := u.xlt.ringWrap }
    trl := { u.trl with out := u.trl.out.filter (fun o => o.pkt.cls == 1), tags := [], waiting := [], xfers := [] }
    txu := { u.txu with colls := [] }
    err := { u.err with contained := 0, orders := [] }
    ptr := { u.ptr with parts := if u.inShed then u.ptr.parts else (List.range 8).map u.partState } }

theorem warmNow_eq (s : State) : s.warmNow = (warmRest (warmIdle s)).startService := by
  unfold State.warmNow
  extract_lets p0 b0 s0 s1 s2 o3 s3 s4 s5 s6 p7 e7 u7 t7 s7
  have h0 : s0 = warmBegun s := rfl
  have h1 : s1 = tenantsClosed s0 := rfl
  have h2 : s2 = channelsIdle s1 := rfl
  have h3 : s3 = commandsDropped s2 := rfl
  have h4 : s4 = s3.resetAllFns := rfl
  have h5 : s5 = diesReset s4 := rfl
  have h6 : s6 = stacksRetired s5 := rfl
  clear_value s6
  have h7 : s7 = warmRest s6 := rfl
  rw [h7, h6, h5, h4, h3, h2, h1, h0, warmIdle, warmShut]

section
variable (u : State)

theorem warmBegun_boot : (warmBegun u).boot = { u.boot with warmHeld := false } := rfl
theorem warmBegun_ptr : (warmBegun u).ptr = { u.ptr with staged := none, taken := none, next := none, phase := .idle } := rfl
theorem warmBegun_rest : (warmBegun u).mem = u.mem ∧ (warmBegun u).arr = u.arr ∧ (warmBegun u).queues = u.queues ∧
    (warmBegun u).memsys = u.memsys ∧ (warmBegun u).trl = u.trl ∧ (warmBegun u).org = u.org := ⟨rfl, rfl, rfl, rfl, rfl, rfl⟩
theorem warmRest_boot : (warmRest u).boot = u.boot := rfl
theorem warmRest_ptr : (warmRest u).ptr = { u.ptr with parts := if u.inShed then u.ptr.parts else (List.range 8).map u.partState } := rfl
theorem warmRest_org : (warmRest u).org = u.org := rfl
theorem warmRest_core (k : Nat) : (warmRest u).core k = u.core k := rfl

end

/-- What stays beside the Orangery while sessions close. -/
theorem Closing.rest {s t : State} (h : Closing s t) : t.mem = s.mem ∧ t.arr = s.arr ∧ t.queues = s.queues ∧ t.memsys = s.memsys ∧
    t.trl = s.trl ∧ t.boot = s.boot ∧ t.ptr = s.ptr := by
  rw [h.eq]
  exact ⟨rfl, rfl, rfl, rfl, rfl, rfl, rfl⟩
theorem cacheOnly_arr {s t : State} (h : CacheOnly s t) : t.arr = s.arr := by rw [h.1]
theorem aside_org {s t : State} (h : Aside s t) : t.org.fuses = s.org.fuses ∧ t.org.meas = s.org.meas ∧ t.org.cmds = s.org.cmds ∧
    t.org.chal = s.org.chal := by
  rw [h.org]
  exact ⟨rfl, rfl, rfl, rfl⟩
theorem DieWork.rest {s t : State} (h : DieWork s t) : t.mem = s.mem ∧ t.queues = s.queues := by
  unfold DieWork at h
  rw [h]
  exact ⟨rfl, rfl⟩

theorem tenantsClosed_closing (s : State) : Closing s (tenantsClosed s) := closing_foldl _ (fun s j => closeSess_closing s j 4) _ s
theorem tenantsClosed_sess (s : State) {j : Nat} (h : j < 8) : (tenantsClosed s).sess j = none := closeSess_all _ 4 s j (List.mem_range.2 h)

theorem channelsIdle_closing (s : State) : Closing s (channelsIdle s) :=
  closing_foldl (fun s c => s.setMbx c { s.mbx c with busy := false }) (fun _ _ => ⟨rfl, rfl, fun _ _ => rfl, fun _ h => h, fun _ => rfl⟩) _ s
theorem commandsDropped_closing (s : State) : Closing s (commandsDropped s) := ⟨rfl, rfl, fun _ _ => rfl, fun _ h => h, fun _ => rfl⟩
theorem commandsDropped_org (s : State) : (commandsDropped s).org.cmds = [] ∧ (commandsDropped s).org.chal = [] := ⟨rfl, rfl⟩

theorem warmShut_closing (s : State) : Closing (warmBegun s) (warmShut s) :=
  ((tenantsClosed_closing _).trans (channelsIdle_closing _)).trans (commandsDropped_closing _)
theorem warmShut_sess (s : State) {j : Nat} (h : j < 8) : (warmShut s).sess j = none :=
  (commandsDropped_closing _).shut j ((channelsIdle_closing _).shut j (tenantsClosed_sess _ h))
theorem warmShut_org (s : State) : (warmShut s).org.cmds = [] ∧ (warmShut s).org.chal = [] := commandsDropped_org _

theorem diesReset_reset (s : State) : DiesReset (List.range 8) s (diesReset s) := dieReset_all _ s
theorem stacksRetired_tags (s : State) : CacheOnly s (stacksRetired s) := retireAll_cacheOnly _ s

theorem warmIdle_aside (s : State) : Aside (warmShut s) (warmIdle s) :=
  ((resetAllFns_frame _).1.trans (diesReset_reset _).aside).trans (outside_tags (stacksRetired_tags _)).toAside

theorem warmIdle_run (s : State) {k : Nat} (h : k < 512) : ((warmIdle s).core k).run = false := by
  refine ((outside_tags (stacksRetired_tags _)).run k).trans (((diesReset_reset _).run k).trans (if_pos ?_))
  exact List.mem_range.2 (by omega)

theorem warmIdle_flight (s : State) (q : Nat) : ((warmIdle s).queue q).flight = [] := by
  have hq : (warmIdle s).queues = (warmShut s).resetAllFns.queues :=
    (outside_tags (stacksRetired_tags _)).queues.trans (diesReset_reset _).work.rest.2
  rw [queue_congr hq]
  exact (resetAllFns_frame _).2.2 q

/-- What stands when the functions are reset and no queue has any state. -/
theorem warmShut_rest (s : State) : (warmShut s).mem = s.mem ∧ (warmShut s).arr = s.arr ∧ (warmShut s).queues = s.queues ∧
    (warmShut s).memsys = s.memsys ∧ (warmShut s).trl = s.trl ∧ (warmShut s).boot = { s.boot with warmHeld := false } ∧
    (warmShut s).ptr = { s.ptr with staged := none, taken := none, next := none, phase := .idle } := by
  obtain ⟨hm, ha, hq, hs, ht, hb, hp⟩ := (warmShut_closing s).rest
  obtain ⟨gm, ga, gq, gs, gt, -⟩ := warmBegun_rest s
  exact ⟨hm.trans gm, ha.trans ga, hq.trans gq, hs.trans gs, ht.trans gt, hb.trans (warmBegun_boot s), hp.trans (warmBegun_ptr s)⟩

theorem resetAllFns_memory (s : State) (h : s.queues = []) : s.resetAllFns.mem = s.mem ∧ s.resetAllFns.arr = s.arr := by
  obtain ⟨ps, e⟩ := resetAllFns_no_queues s h
  rw [e]
  exact ⟨rfl, rfl⟩

/-- With no queue that has any state nothing writes memory. -/
theorem warmIdle_memory (s : State) (h : s.queues = []) : (warmIdle s).mem = s.mem ∧
    ∀ p, p < 8 → (warmIdle s).ar p = { acb := (s.ar p).acb, nextId := (s.ar p).nextId } := by
  obtain ⟨hm, ha, hq, -⟩ := warmShut_rest s
  have hf := resetAllFns_memory (warmShut s) (hq.trans h)
  have hd := diesReset_reset (warmShut s).resetAllFns
  have ht := stacksRetired_tags (diesReset (warmShut s).resetAllFns)
  refine ⟨(cacheOnly_mem ht).trans (hd.work.rest.1.trans (hf.1.trans hm)), fun p hp => ?_⟩
  have hr : (warmIdle s).arr = (diesReset (warmShut s).resetAllFns).arr := cacheOnly_arr ht
  rw [ar_congr hr, hd.ar, if_pos (List.mem_range.2 hp), ar_congr (hf.2.trans ha)]

theorem warmIdle_boot (s : State) : (warmIdle s).boot = { s.boot with warmHeld := false } :=
  (warmIdle_aside s).boot.trans (warmShut_rest s).2.2.2.2.2.1

theorem warmIdle_ptr (s : State) : (warmIdle s).ptr = { s.ptr with staged := none, taken := none, next := none, phase := .idle } :=
  (warmIdle_aside s).ptr.trans (warmShut_rest s).2.2.2.2.2.2

theorem warmIdle_image (s : State) : (warmIdle s).ptr.image = s.ptr.image := by rw [warmIdle_ptr]

theorem warmIdle_partState (s : State) (i : Nat) : (warmIdle s).partState i = s.partState i := by
  refine partState_congr (warmIdle_image s) (fun k => ?_) i
  rw [(warmIdle_aside s).deg, stack_congr (warmShut_rest s).2.2.2.1]

theorem warmIdle_shed (s : State) : (warmIdle s).inShed = decide (s.boot.phase = 13) := by rw [State.inShed, warmIdle_boot]

/-- The partition table's state after the reset. -/
theorem warmRest_warmIdle_ptr (s : State) : (warmRest (warmIdle s)).ptr = { s.ptr with
    staged := none, taken := none, next := none, phase := .idle,
    parts := if s.boot.phase = 13 then s.ptr.parts else (List.range 8).map s.partState } := by
  have hp : (List.range 8).map (warmIdle s).partState = (List.range 8).map s.partState :=
    List.map_congr_left (fun i _ => warmIdle_partState s i)
  rw [warmRest_ptr, hp, warmIdle_shed, warmIdle_ptr]
  simp only [decide_eq_true_eq]

/-- What a start or a warm reset ends with: a Lodge's service cores run where their die's partition does (01 R26). -/
def ServiceRuns (s t : State) : Prop :=
  s.ptr.image.lodge = true → (∀ i, s.dieOwner 0 = some i → s.partState i = .running) → ∀ k, k < 8 → (t.core k).run = true

/-- The image, the fuses and the fabric's ports stay; the commit, the sessions and the work of queues are no more; and memory stays where no
queue has any state. -/
def WarmFrom (s t : State) : Prop :=
  t.ptr.image = s.ptr.image ∧ t.ptr.source = s.ptr.source ∧
    t.ptr.phase = .idle ∧ t.ptr.staged = none ∧ t.ptr.taken = none ∧ t.ptr.next = none ∧
    t.ptr.parts = (if s.boot.phase = 13 then s.ptr.parts else (List.range 8).map s.partState) ∧ t.boot = { s.boot with warmHeld := false } ∧
    t.org.fuses = s.org.fuses ∧ t.trl.ports = s.trl.ports ∧
    (∀ r, r ≠ 7 → SMap.get 0 t.org.meas r = SMap.get 0 s.org.meas r) ∧ (∀ j, j < 8 → t.sess j = none) ∧ t.org.cmds = [] ∧ t.org.chal = [] ∧
    (∀ k, k < 512 → (t.core k).run = true → s.ptr.image.lodge = true ∧ k < 8) ∧
    (s.boot.phase ≠ 13 → ServiceRuns s t) ∧ (∀ q, (t.queue q).flight = []) ∧ t.err.contained = 0 ∧ t.err.orders = [] ∧
    (s.queues = [] → s.org.sess = [] → t.mem = s.mem ∧ ∀ p, p < 8 → t.ar p = { acb := (s.ar p).acb, nextId := (s.ar p).nextId })

theorem warmNow_runs (s : State) (hs : s.boot.phase ≠ 13) : ServiceRuns s s.warmNow := by
  intro hl hr k hk
  have hp := warmRest_warmIdle_ptr s
  have hi : (warmRest (warmIdle s)).ptr.image = s.ptr.image := by rw [hp]
  rw [warmNow_eq]
  refine startService_runs (by rw [hi]; exact hl) (by rw [warmRest_boot, warmIdle_boot]; exact hs) (fun i ho => ?_) hk
  have ho' : s.dieOwner 0 = some i := by rw [State.dieOwner, hi] at ho; exact ho
  have hi8 : i < 8 := by
    unfold State.dieOwner at ho'
    exact findPart_lt ho'
  simp only [hp, if_neg hs]
  rw [nth_partState s hi8]
  exact hr i ho'

theorem warmNow_only {s : State} {k : Nat} (hk : k < 512) (h : (s.warmNow.core k).run = true) : s.ptr.image.lodge = true ∧ k < 8 := by
  have hi : (warmRest (warmIdle s)).ptr.image = s.ptr.image := by rw [warmRest_warmIdle_ptr]
  rw [← hi]
  rw [warmNow_eq] at h
  exact startService_only h ((congrArg Core.run (warmRest_core _ k)).trans (warmIdle_run s hk))

/-- Before the service cores run. -/
theorem warmRest_org_warmIdle (s : State) : (warmRest (warmIdle s)).org.fuses = s.org.fuses ∧
    (∀ r, r ≠ 7 → SMap.get 0 (warmRest (warmIdle s)).org.meas r = SMap.get 0 s.org.meas r) ∧ (warmRest (warmIdle s)).org.cmds = [] ∧
    (warmRest (warmIdle s)).org.chal = [] := by
  have hc := warmShut_closing s
  obtain ⟨hf, hm, hcm, hch⟩ := aside_org (warmIdle_aside s)
  have ho : (warmBegun s).org = s.org := (warmBegun_rest s).2.2.2.2.2
  have hfs : (warmBegun s).org.fuses = s.org.fuses := congrArg Org.fuses ho
  have hms : (warmBegun s).org.meas = s.org.meas := congrArg Org.meas ho
  rw [warmRest_org, hm]
  exact ⟨(hf.trans hc.fuses).trans hfs, fun r hr => (hc.meas r hr).trans (congrArg (fun m => SMap.get 0 m r) hms), hcm.trans (warmShut_org s).1,
    hch.trans (warmShut_org s).2⟩

theorem warmIdle_sess (s : State) {j : Nat} (h : j < 8) : (warmIdle s).sess j = none := (warmIdle_aside s).shut j (warmShut_sess s h)

theorem warmIdle_ports (s : State) : (warmIdle s).trl.ports = s.trl.ports := by
  rw [(warmIdle_aside s).trl, (warmShut_rest s).2.2.2.2.1]

/-- What the service cores' start and the last changes of the reset leave of a state. -/
theorem warmRest_startService (u : State) : let t := (warmRest u).startService
    t.ptr = (warmRest u).ptr ∧ t.boot = u.boot ∧ t.org = (warmRest u).org ∧ t.trl.ports = u.trl.ports ∧ t.queues = u.queues ∧
    t.err.contained = 0 ∧ t.err.orders = [] ∧ t.mem = u.mem ∧ t.arr = u.arr := by
  obtain ⟨c, x, he⟩ := startService_eq (warmRest u)
  rw [he]
  exact ⟨rfl, rfl, rfl, rfl, rfl, rfl, rfl, rfl, rfl⟩

theorem warmNow_warm (s : State) : WarmFrom s s.warmNow := by
  obtain ⟨hp, hb, ho, hl, hq, hn, hd, hm, ha⟩ := warmRest_startService (warmIdle s)
  rw [← warmNow_eq] at hp hb ho hl hq hn hd hm ha
  obtain ⟨hf, hr, hc, hg⟩ := warmRest_org_warmIdle s
  rw [← ho] at hf hr hc hg
  rw [warmRest_warmIdle_ptr] at hp
  have hs : ∀ j, s.warmNow.sess j = (warmIdle s).sess j := fun j => by rw [State.sess, ho, warmRest_org]; rfl
  refine ⟨by rw [hp], by rw [hp], by rw [hp], by rw [hp], by rw [hp], by rw [hp], by rw [hp], hb.trans (warmIdle_boot s), hf,
    hl.trans (warmIdle_ports s), hr, fun j hj => (hs j).trans (warmIdle_sess s hj), hc, hg, fun k hk h => warmNow_only hk h, warmNow_runs s,
    fun q => ?_, hn, hd, fun hq _ => ?_⟩
  · rw [queue_congr hq]
    exact warmIdle_flight s q
  · obtain ⟨gm, ga⟩ := warmIdle_memory s hq
    exact ⟨hm.trans gm, fun p hp => (ar_congr ha p).trans (ga p hp)⟩

end Sys2Proof.Proofs.WarmReset

/-! PROOFS. The start, step by step: how a command runs steps, and the steps that change only the phase, the ports and the stacks (17 R449-R454;
09 R245; 12 R319). -/

namespace Sys2Proof.Proofs.StartSteps

open Sys2Proof Sys2Proof.Machine Sys2Proof.Laws Sys2Proof.Proofs.BootRecord Sys2Proof.Proofs.Resets

/-! ### Running steps -/

section
variable {recErr : Bool} {lanes : List (StackIx × Fin 2080)}

theorem startRun_stops {s : State} {n : Nat} (h : s.boot.failed = true ∨ n < s.boot.phase) (f : Nat) : State.startRun recErr lanes n f s = s := by
  cases f with
  | zero => rfl
  | succ f => rw [State.startRun, if_pos h]

theorem startRun_steps {s : State} {n : Nat} (hf : s.boot.failed = false) (h : s.boot.phase ≤ n) (f : Nat) :
    State.startRun recErr lanes n (f + 1) s = State.startRun recErr lanes n f (s.startStep recErr lanes) := by
  rw [State.startRun, if_neg (by simp [hf, h])]

/-- A step that has no effect holds the start where it is. -/
theorem startRun_holds {s : State} {n : Nat} (h : s.startStep recErr lanes = s) (f : Nat) : State.startRun recErr lanes n f s = s := by
  induction f with
  | zero => rfl
  | succ f ih =>
    rw [State.startRun, h, ih, ite_self]

variable {s : State} (on : s.pwr.input = true)
include on

theorem startUp_eq (hp : s.boot.phase ≠ 0) (n : Fin 12) : s.startUp n.val recErr lanes = State.startRun recErr lanes n.val 12 s := by
  rw [State.startUp, if_neg (by simp [on]), if_neg hp, Nat.min_eq_left (by omega)]

theorem exec_start_ended (h : s.boot.failed = true ∨ 12 ≤ s.boot.phase) (hp : s.boot.phase ≠ 0) (n : Fin 12) :
    exec (.start n recErr lanes) s = .next s := by
  refine congrArg Host.Outcome.next ((startUp_eq on hp n).trans (startRun_stops ?_ 12))
  exact h.imp_right (fun h => by omega)

theorem exec_start_first (hp : s.boot.phase = 0) : exec (.start 0 recErr lanes) s = .next { s with boot := { s.boot with phase := 1 } } := by
  refine congrArg Host.Outcome.next ?_
  rw [State.startUp, if_neg (by simp [on]), if_pos hp]
  exact startRun_stops (s := s.toStep 1) (.inr (show 0 < 1 by decide)) 12

variable (hf : s.boot.failed = false) {n : Fin 12} (hp : s.boot.phase = n.val)
include hf hp

/-- The step in progress runs, and the command ends with it when it fails or leads further. -/
theorem exec_start_step (hn : n.val ≠ 0) {t : State} (ht : s.startStep recErr lanes = t) (h : t.boot.failed = true ∨ n.val < t.boot.phase) :
    exec (.start n recErr lanes) s = .next t := by
  refine congrArg Host.Outcome.next ((startUp_eq on (by omega) n).trans ?_)
  rw [startRun_steps hf (by omega), ht]
  exact startRun_stops h 11

omit hf in
theorem exec_start_holds (hn : n.val ≠ 0) (h : s.startStep recErr lanes = s) : exec (.start n recErr lanes) s = .next s :=
  congrArg Host.Outcome.next ((startUp_eq on (by omega) n).trans (startRun_holds h 12))

end

/-! ### Ports -/

/-- Work on port `n`: nothing but ports and free values changes, no other port does, and `g` relates the port before and after. -/
def PortWork (g : PciPort → PciPort → Prop) (n : Nat) (s t : State) : Prop :=
  t = { s with free := t.free, ports := t.ports } ∧ (∀ j, j ≠ n → t.port j = s.port j) ∧ g (s.port n) (t.port n)

theorem setPort_work {g : PciPort → PciPort → Prop} {s : State} {n : Nat} {x : PciPort} (h : g (s.port n) x) : PortWork g n s (s.setPort n x) := by
  refine ⟨rfl, fun j hj => ?_, ?_⟩
  · rw [port_setPort, if_neg (Ne.symm hj)]
  · rw [port_setPort, if_pos rfl]; exact h

/-- Work on both ports. -/
theorem portWork_both {g : PciPort → PciPort → Prop} {f : State → Nat → State} (h : ∀ s n, PortWork g n s (f s n)) (s : State) :
    [0, 1].foldl f s = { s with free := ([0, 1].foldl f s).free, ports := ([0, 1].foldl f s).ports } ∧
      ∀ n, n < 2 → g (s.port n) (([0, 1].foldl f s).port n) := by
  obtain ⟨e0, o0, g0⟩ := h s 0
  obtain ⟨e1, o1, g1⟩ := h (f s 0) 1
  have hc : [0, 1].foldl f s = f (f s 0) 1 := rfl
  rw [hc]
  refine ⟨e1.trans (by rw [e0]), fun n hn => ?_⟩
  obtain rfl | rfl : n = 0 ∨ n = 1 := by omega
  · rw [o1 0 (by decide)]; exact g0
  · rw [o0 1 (by decide)] at g1; exact g1

/-- A port whose link settles at a rate of at most `cap`. -/
def Settles (cap : Nat) (x y : PciPort) : Prop := ∃ rate w fl rv, 1 ≤ rate ∧ rate ≤ cap ∧ w ∈ [1, 2, 4, 8, 16] ∧ (rate = 6 → fl = true) ∧
  y = { x with link := if rate < 3 then 3 else 2, rate := rate, width := w, flit := fl, reversed := rv }

theorem width_mem (v : Nat) : 2 ^ (v % 5) ∈ [1, 2, 4, 8, 16] := by
  have h := Nat.mod_lt v (show 0 < 5 by decide)
  generalize v % 5 = w at h
  interval_cases w <;> decide

theorem linkUp_work (s : State) (n : Nat) {cap : Nat} (hc : 0 < cap) : PortWork (Settles cap) n s (s.linkUp n cap) := by
  have h := Nat.mod_lt (Config.freeValue s.free) hc
  refine ⟨rfl, fun j hj => ?_, ⟨1 + Config.freeValue s.free % cap, 2 ^ (Config.freeValue s.free / 8 % 5),
    1 + Config.freeValue s.free % cap == 6 || (Config.freeValue s.free / 64).testBit 0, (Config.freeValue s.free / 64).testBit 1, by omega, by omega,
    width_mem _, fun h6 => by simp [h6], ?_⟩⟩
  · exact (port_setPort _ n j _).trans (if_neg (Ne.symm hj))
  · exact (port_setPort _ n n _).trans (if_pos rfl)

theorem settles_one {x y : PciPort} (h : Settles 1 x y) : ∃ w fl rv, w ∈ [1, 2, 4, 8, 16] ∧
    y = { x with link := 3, rate := 1, width := w, flit := fl, reversed := rv } := by
  obtain ⟨rate, w, fl, rv, h1, h2, hw, -, rfl⟩ := h
  obtain rfl : rate = 1 := by omega
  exact ⟨w, fl, rv, hw, rfl⟩

/-! ### Steps 1, 3, 7, 9 and 10 -/

section
variable {recErr : Bool} {lanes : List (StackIx × Fin 2080)} {s : State} (on : s.pwr.input = true) (hf : s.boot.failed = false)
include on hf

theorem exec_start_1 (hp : s.boot.phase = 1) : exec (.start 1 recErr lanes) s = .next { s with boot := { s.boot with phase := 2 } } := by
  refine exec_start_step on hf hp (by decide) ?_ (.inr (show 1 < 2 by decide))
  simp only [State.startStep, hp]
  rfl

theorem exec_start_3 (hp : s.boot.phase = 3) :
    exec (.start 3 recErr lanes) s = .next (if s.pwr.judged then { s with boot := { s.boot with phase := 4 } } else s) := by
  have hs : s.startStep recErr lanes = if s.pwr.judged then s.toStep 4 else s := by simp only [State.startStep, hp]
  split
  · rename_i hj
    exact exec_start_step on hf hp (by decide) (hs.trans (if_pos hj)) (.inr (show 3 < 4 by decide))
  · rename_i hj
    exact exec_start_holds on hp (by decide) (hs.trans (if_neg hj))

theorem exec_start_7 (hp : s.boot.phase = 7) : Next (.start 7 recErr lanes) s (fun t =>
    t = { s with boot := { s.boot with phase := 8 }, pwr := { s.pwr with lock := 0xF }, memsys := t.memsys } ∧ StacksTrain s t) := by
  have hs : s.startStep recErr lanes = (({ s with pwr := { s.pwr with lock := 0xF } } : State).trainBegin).toStep 8 := by
    simp only [State.startStep, hp]
  obtain ⟨-, hst⟩ := trainBegin_trains ({ s with pwr := { s.pwr with lock := 0xF } } : State)
  obtain ⟨h, e⟩ := trainBegin_eq ({ s with pwr := { s.pwr with lock := 0xF } } : State)
  rw [e] at hs hst
  exact ⟨_, exec_start_step on hf hp (by decide) hs (.inr (show 7 < 8 by decide)), rfl, rfl, hst⟩

/-- Step 9 ends with the fabric on and the links that have a partner in training. -/
def fabricOn (s : State) : State := (({ s with trl := { s.trl with on := true } } : State).linksTrain).toStep 10

omit on hf in
theorem linksTrain_trains (s : State) : s.linksTrain = { s with ports := s.linksTrain.ports } ∧
    ∀ n, n < 2 → s.linksTrain.port n = if (s.port n).link = 0 then s.port n else { s.port n with link := 1 } := by
  have h : ∀ (s : State) n, PortWork (fun x y => y = if x.link = 0 then x else { x with link := 1 }) n s
      (if (s.port n).link = 0 then s else s.setPort n { s.port n with link := 1 }) := by
    intro s n
    split
    · rename_i h0
      exact ⟨rfl, fun _ _ => rfl, (if_pos h0).symm⟩
    · rename_i h0
      exact setPort_work (if_neg h0).symm
  have hfree : ∀ (s : State) n, (if (s.port n).link = 0 then s else s.setPort n { s.port n with link := 1 }).free = s.free := by
    intro s n
    split <;> rfl
  obtain ⟨he, hg⟩ := portWork_both h s
  have hfr : s.linksTrain.free = s.free := (hfree _ 1).trans (hfree _ 0)
  refine ⟨?_, hg⟩
  refine Eq.trans he ?_
  show ({ s with free := s.linksTrain.free, ports := s.linksTrain.ports } : State) = _
  rw [hfr]

omit on hf in
theorem fabricOn_trains (s : State) : fabricOn s = { s with
      boot := { s.boot with phase := 10 }, trl := { s.trl with on := true }, ports := (fabricOn s).ports } ∧
    ∀ n, n < 2 → (fabricOn s).port n = if (s.port n).link = 0 then s.port n else { s.port n with link := 1 } := by
  obtain ⟨he, hg⟩ := linksTrain_trains ({ s with trl := { s.trl with on := true } } : State)
  refine ⟨?_, hg⟩
  unfold fabricOn
  rw [he]
  rfl

theorem exec_start_9 (hp : s.boot.phase = 9) : exec (.start 9 recErr lanes) s = .next (fabricOn s) := by
  refine exec_start_step on hf hp (by decide) ?_ (.inr (show 9 < 10 by decide))
  simp only [State.startStep, hp]
  rfl

theorem exec_start_10 (hp : s.boot.phase = 10) : Next (.start 10 recErr lanes) s (fun t =>
    t = { s with free := t.free, boot := { s.boot with phase := 11 }, ports := t.ports } ∧
    ∀ n, n < 2 → ((s.port n).link ≠ 1 → t.port n = s.port n) ∧ ((s.port n).link = 1 → Settles 6 (s.port n) (t.port n))) := by
  have h : ∀ (s : State) n, PortWork (fun x y => (x.link ≠ 1 → y = x) ∧ (x.link = 1 → Settles 6 x y)) n s
      (if (s.port n).link = 1 then s.linkUp n 6 else s) := by
    intro s n
    split
    · rename_i h1
      obtain ⟨he, ho, hg⟩ := linkUp_work s n (show 0 < 6 by decide)
      exact ⟨he, ho, fun h => absurd h1 h, fun _ => hg⟩
    · rename_i h1
      exact ⟨rfl, fun _ _ => rfl, fun _ => rfl, fun h => absurd h h1⟩
  obtain ⟨he, hg⟩ := portWork_both h s
  have hs : s.startStep recErr lanes = ([0, 1].foldl (fun s n => if (s.port n).link = 1 then s.linkUp n 6 else s) s).toStep 11 := by
    simp only [State.startStep, hp]
    rfl
  refine ⟨_, exec_start_step on hf hp (by decide) hs (.inr (show 10 < 11 by decide)), ?_, hg⟩
  generalize [0, 1].foldl (fun s n => if (s.port n).link = 1 then s.linkUp n 6 else s) s = u at he ⊢
  show ({ u with boot := { u.boot with phase := 11 } } : State) = _
  rw [he]
  rfl

end

end Sys2Proof.Proofs.StartSteps

/-! PROOFS. Step 2 of a start, and a step that fails (17 R449, R451, R452, R454; 16 R433, R434). -/

namespace Sys2Proof.Proofs.StartFails

open Sys2Proof Sys2Proof.Machine Sys2Proof.Laws Sys2Proof.Proofs.BootRecord Sys2Proof.Proofs.Frames Sys2Proof.Proofs.StartSteps

/-! ### Step 2 -/

/-- Configuration space of a port that is not in reset answers, and its link settles at 2.5 GT/s. -/
def Answers (x y : PciPort) : Prop := (x.perst = true → y = x) ∧ (x.perst = false → ∃ w fl rv, w ∈ [1, 2, 4, 8, 16] ∧
  y = { x with cfgUp := true, link := 3, rate := 1, width := w, flit := fl, reversed := rv })

def portAnswers (s : State) (n : Nat) : State := if (s.port n).perst then s else (s.setPort n { s.port n with cfgUp := true }).linkUp n 1

theorem portAnswers_work (s : State) (n : Nat) : PortWork Answers n s (portAnswers s n) := by
  unfold portAnswers
  split
  · rename_i hp
    exact ⟨rfl, fun _ _ => rfl, fun _ => rfl, fun h => absurd hp (by simp [h])⟩
  · rename_i hp
    obtain ⟨-, ho, hg⟩ := linkUp_work (s.setPort n { s.port n with cfgUp := true }) n (show 0 < 1 by decide)
    rw [port_setPort, if_pos rfl] at hg
    obtain ⟨w, fl, rv, hw, hy⟩ := settles_one hg
    refine ⟨rfl, fun j hj => (ho j hj).trans ((port_setPort _ _ _ _).trans (if_neg (Ne.symm hj))), fun h => absurd h hp,
      fun _ => ⟨w, fl, rv, hw, hy⟩⟩

section
variable {recErr : Bool} {lanes : List (StackIx × Fin 2080)} {s : State} (on : s.pwr.input = true) (hp : s.boot.phase = 2)
include on hp

theorem exec_start_2_scrapped (h : s.org.fuses.lifecycle = .scrapped) : exec (.start 2 recErr lanes) s = .next s := by
  refine exec_start_holds on hp (by decide) ?_
  simp only [State.startStep, hp]
  rw [State.step2, if_pos h]

theorem exec_start_2 (hf : s.boot.failed = false) (h : s.org.fuses.lifecycle ≠ .scrapped) : Next (.start 2 recErr lanes) s (fun t => t = { s with
      free := t.free, ports := t.ports, org := { s.org with meas := t.org.meas },
      boot := { s.boot with phase := 3 }, pwr := { s.pwr with lock := s.pwr.lock ||| 8 } } ∧
    (∀ r, SMap.get 0 t.org.meas r = if r = 0 then extendM (SMap.get 0 s.org.meas 0) Config.romDigest else SMap.get 0 s.org.meas r) ∧
    ∀ n, n < 2 → Answers (s.port n) (t.port n)) := by
  obtain ⟨m, hm, hg⟩ : ∃ m, s.measure 0 Config.romDigest = { s with org := { s.org with meas := m } } ∧
      ∀ r, SMap.get 0 m r = if r = 0 then extendM (SMap.get 0 s.org.meas 0) Config.romDigest else SMap.get 0 s.org.meas r :=
    ⟨_, rfl, measure_meas s 0 Config.romDigest⟩
  obtain ⟨he, hw⟩ := portWork_both portAnswers_work ({ s with org := { s.org with meas := m } } : State)
  have hs : s.startStep recErr lanes = ({ [0, 1].foldl portAnswers ({ s with org := { s.org with meas := m } } : State) with
      pwr := { ([0, 1].foldl portAnswers ({ s with org := { s.org with meas := m } } : State)).pwr with
        lock := ([0, 1].foldl portAnswers ({ s with org := { s.org with meas := m } } : State)).pwr.lock ||| 8 } } : State).toStep 3 := by
    simp only [State.startStep, hp]
    rw [State.step2, if_neg h, hm]
    rfl
  generalize [0, 1].foldl portAnswers ({ s with org := { s.org with meas := m } } : State) = u at he hw hs
  refine ⟨_, exec_start_step on hf hp (by decide) hs (.inr (show 2 < 3 by decide)), ?_, ?_, hw⟩
  · rw [he]
    rfl
  · intro r
    rw [he]
    exact hg r

end

/-! ### A step that fails -/

/-- The entry of a start whose step fails, from step 4 on. -/
def failEnt (s : State) (r : BootRec) (e : Nat) : LogEnt := ⟨(r.ent 0).start, s.boot.phase, s.boot.slot, s.ptr.source, s.boot.phase, e⟩

/-- The record after the step fails. -/
def failRecord (s : State) (e : Nat) : State :=
  match s.boot.record with
  | some r => if 4 ≤ s.boot.phase then s.recordSave (r.setEnt (failEnt s r e)) else s
  | none => s

theorem failRecord_early {s : State} (h : s.boot.phase < 4 ∨ s.boot.record = none) (e : Nat) : failRecord s e = s := by
  unfold failRecord
  split
  · rename_i r hr
    exact if_neg (by rcases h with h | h <;> simp_all)
  · rfl

theorem failRecord_late {s : State} {r : BootRec} (h : 4 ≤ s.boot.phase) (hr : s.boot.record = some r) (e : Nat) :
    failRecord s e = s.recordSave (r.setEnt (failEnt s r e)) := by
  unfold failRecord
  rw [hr]
  exact if_pos h

theorem failRecord_eq (s : State) (e : Nat) :
    failRecord s e = { s with boot := { s.boot with record := (failRecord s e).boot.record, nor := (failRecord s e).boot.nor } } := by
  by_cases h : s.boot.phase < 4
  · rw [failRecord_early (.inl h)]
  · cases hr : s.boot.record with
    | none => rw [failRecord_early (.inr hr)]
    | some r => rw [failRecord_late (by omega) hr]; exact recordSave_eq s _

/-- A port that is DOWN. -/
def portDown (x : PciPort) : PciPort := { x with link := 0, rate := 0, width := 0, flit := false, cfgUp := false }

/-- A function applied to every value of a table. -/
theorem get_map_values {α : Type} (d : α) (f : α → α) (hd : f d = d) (m : SMap α) (k : Nat) :
    SMap.get d (m.map (fun e => (e.1, f e.2))) k = f (SMap.get d m k) := by
  induction m with
  | nil => exact hd.symm
  | cons e m ih =>
    obtain ⟨i, v⟩ := e
    simp only [List.map_cons, SMap.get]
    split
    · rfl
    · exact ih

def portsDown (s : State) : State := [0, 1].foldl (fun s n => s.setPort n (portDown (s.port n))) s

theorem portsDown_eq (s : State) : ∃ p, portsDown s = { s with ports := p } ∧ ∀ j, j < 2 → SMap.get {} p j = portDown (s.port j) :=
  ⟨_, rfl, (portWork_both (g := fun x y => y = portDown x) (fun _ _ => setPort_work rfl) s).2⟩

/-- The fabric goes off, and the module waits for its restart. -/
def fabricOff (s : State) : State :=
  { s with trl := { s.trl with on := false, ports := s.trl.ports.map (fun e => (e.1, { e.2 with st := .down, why := 0 })) }
           boot := { s.boot with failed := true } }

theorem fabricOff_tport (s : State) (j : Nat) : (fabricOff s).tport j = { s.tport j with st := .down, why := 0 } :=
  get_map_values ({} : TrlPort) (fun x => { x with st := .down, why := 0 }) rfl s.trl.ports j

theorem startFail_eq (s : State) (e : Nat) : s.startFail e = fabricOff (portsDown (failRecord s e)) := rfl

/-- What a failure leaves: the record as it was written, the ports DOWN and the fabric off. -/
theorem startFail_frame (s : State) (e : Nat) : let t := s.startFail e
    t.boot = { s.boot with failed := true, record := (failRecord s e).boot.record, nor := (failRecord s e).boot.nor } ∧
    t = { s with boot := t.boot, ports := t.ports, trl := { s.trl with on := false, ports := t.trl.ports } } ∧
    (∀ j, t.tport j = { s.tport j with st := .down, why := 0 }) ∧ ∀ j, j < 2 → t.port j = portDown (s.port j) := by
  rw [startFail_eq]
  have hr := failRecord_eq s e
  generalize (failRecord s e).boot.record = r at hr ⊢
  generalize (failRecord s e).boot.nor = n at hr ⊢
  obtain ⟨p, hp, hd⟩ := portsDown_eq (failRecord s e)
  rw [hp, hr]
  rw [hr] at hd
  exact ⟨rfl, rfl, fabricOff_tport _, hd⟩

theorem startFail_boot (s : State) (e : Nat) : let t := s.startFail e
    t.boot = { s.boot with failed := true, record := t.boot.record, nor := t.boot.nor } ∧
    t.boot.record = (failRecord s e).boot.record ∧ t.boot.nor = (failRecord s e).boot.nor := by
  have hb := (startFail_frame s e).1
  dsimp only at hb ⊢
  rw [hb]
  exact ⟨rfl, rfl, rfl⟩

/-- A step before step 4 writes no record, nor does a start that has none. -/
theorem startFail_early {s : State} (h : s.boot.phase < 4 ∨ s.boot.record = none) (e : Nat) :
    (s.startFail e).boot.record = s.boot.record ∧ (s.startFail e).boot.nor = s.boot.nor := by
  obtain ⟨-, hr, hn⟩ := startFail_boot s e
  rw [failRecord_early h] at hr hn
  exact ⟨hr, hn⟩

theorem startFail_late {s : State} {r : BootRec} (h : 4 ≤ s.boot.phase) (hr : s.boot.record = some r) (e : Nat) :
    (s.startFail e).boot.record = (s.recordSave (r.setEnt (failEnt s r e))).boot.record ∧
      (s.startFail e).boot.nor = (s.recordSave (r.setEnt (failEnt s r e))).boot.nor := by
  obtain ⟨-, hrec, hn⟩ := startFail_boot s e
  rw [failRecord_late h hr] at hrec hn
  exact ⟨hrec, hn⟩

/-- What a step that exceeds its maximum leaves (17 R449, R452). -/
theorem exec_startStepTimeout_fails {s : State} {n : Nat} (on : s.pwr.input = true) (hf : s.boot.failed = false) (hp : s.boot.phase = n)
    (h1 : 1 ≤ n) (h11 : n ≤ 11) (h9 : n ≠ 9) (e : BitVec 16) :
    exec (.startStepTimeout e) s = .next (s.startFail e.toNat) := by
  refine congrArg Host.Outcome.next ?_
  rw [State.startTimeout, if_neg (by simp [on, hf]; omega), if_neg (by omega)]

theorem exec_startStepTimeout_9 {s : State} (on : s.pwr.input = true) (hf : s.boot.failed = false) (hp : s.boot.phase = 9) (e : BitVec 16) :
    exec (.startStepTimeout e) s = .next (fabricOn s) := by
  refine congrArg Host.Outcome.next ?_
  rw [State.startTimeout, if_neg (by simp [on, hf, hp]), if_pos hp]
  rfl

theorem exec_startStepTimeout_ended {s : State} (h : s.boot.phase = 0 ∨ 11 < s.boot.phase ∨ s.boot.failed = true) (e : BitVec 16) :
    exec (.startStepTimeout e) s = .next s :=
  congrArg Host.Outcome.next (if_pos (.inr h))

end Sys2Proof.Proofs.StartFails

/-! PROOFS. Step 4 of a start: the identity key, the count of the start in the record, and Shed mode (17 R461, R463-R465; 16 R430). -/

namespace Sys2Proof.Proofs.StartCounts

open Sys2Proof Sys2Proof.Machine Sys2Proof.Laws Sys2Proof.Proofs.BootRecord Sys2Proof.Proofs.StartSteps

/-! ### The identity key -/

theorem idKeyStep_eq (s : State) : ∃ fr fu k, s.idKeyStep = { s with free := fr, org := { s.org with fuses := fu, idKey := k } } ∧
    (s.org.fuses.idSeed ≠ 0 → fu = s.org.fuses) ∧
    (s.org.fuses.idSeed ≠ 0 ∨ s.org.fuses.lifecycle = .manufacture → k = Config.slhPublic fu.idSeed) := by
  unfold State.idKeyStep
  dsimp only
  split
  · rename_i h
    exact ⟨_, _, _, rfl, fun h0 => absurd h.2 h0, fun _ => rfl⟩
  · rename_i h
    split
    · rename_i h0
      refine ⟨s.free, s.org.fuses, s.org.idKey, rfl, fun _ => rfl, fun hk => ?_⟩
      rcases hk with hk | hk
      · exact absurd h0 hk
      · exact absurd ⟨hk, h0⟩ h
    · exact ⟨s.free, s.org.fuses, _, rfl, fun _ => rfl, fun _ => rfl⟩

/-! ### Shed mode -/

/-- Partition 0 is HELD_DEGRADED, port B is absent, and port A runs at no more than 16 GT/s (R463). -/
def ShedPorts (s t : State) : Prop := nth .unused t.ptr.parts 0 = .heldDegraded ∧ (t.port 1).link = 0 ∧ (t.port 1).cfgUp = false ∧
  ((s.port 0).link ≠ 0 → 1 ≤ (t.port 0).rate ∧ (t.port 0).rate ≤ 4 ∧ (t.port 0).link = if (t.port 0).rate < 3 then 3 else 2)

/-- Port A settles, where it has a partner. -/
def portA (s : State) : State := if (s.port 0).link = 0 then s else s.linkUp 0 4

theorem portA_work (s : State) : PortWork (fun x y => x.link ≠ 0 → Settles 4 x y) 0 s (portA s) := by
  unfold portA
  split
  · rename_i h
    exact ⟨rfl, fun _ _ => rfl, fun h' => absurd h h'⟩
  · obtain ⟨he, ho, hg⟩ := linkUp_work s 0 (show 0 < 4 by decide)
    exact ⟨he, ho, fun _ => hg⟩

def portBOff (s : State) : State := s.setPort 1 { s.port 1 with link := 0, rate := 0, width := 0, cfgUp := false }

theorem enterShed_eq (s : State) (reason : Nat) : s.enterShed reason = portBOff (portA { s with
    boot := { s.boot with phase := 13, shed := reason }, ptr := { s.ptr with parts := s.ptr.parts.set 0 .heldDegraded } }) := rfl

theorem portBOff_port (s : State) : (portBOff s).port 0 = s.port 0 ∧ ((portBOff s).port 1).link = 0 ∧ ((portBOff s).port 1).cfgUp = false := by
  unfold portBOff
  rw [port_setPort, port_setPort, if_neg (by decide), if_pos rfl]
  exact ⟨rfl, rfl, rfl⟩

theorem enterShed_sheds (s : State) (reason : Nat) : let t := s.enterShed reason
    t.boot = { s.boot with phase := 13, shed := reason } ∧ t.org = s.org ∧ (0 < s.ptr.parts.length → ShedPorts s t) := by
  rw [enterShed_eq]
  obtain ⟨he, -, hg⟩ := portA_work { s with
    boot := { s.boot with phase := 13, shed := reason }, ptr := { s.ptr with parts := s.ptr.parts.set 0 .heldDegraded } }
  generalize portA { s with
    boot := { s.boot with phase := 13, shed := reason }, ptr := { s.ptr with parts := s.ptr.parts.set 0 .heldDegraded } } = u at he hg
  have hb : u.boot = { s.boot with phase := 13, shed := reason } := by rw [he]
  have ho : u.org = s.org := by rw [he]
  have hp : u.ptr.parts = s.ptr.parts.set 0 .heldDegraded := by rw [he]
  obtain ⟨h0, h1, h1'⟩ := portBOff_port u
  refine ⟨hb, ho, fun hn => ⟨?_, h1, h1', fun hl => ?_⟩⟩
  · show nth .unused u.ptr.parts 0 = _
    rw [hp, nth, List.getD_eq_getElem?_getD, List.getElem?_set_self hn]
    rfl
  · obtain ⟨rate, w, fl, rv, hr1, hr2, -, -, hy⟩ := hg hl
    rw [h0, hy]
    exact ⟨hr1, hr2, rfl⟩

/-! ### The count of a start -/

/-- The record once the start is counted: START_COUNT, ATTEMPTS unless the start sheds, and a new entry of the log. -/
def countedRec (r : BootRec) : BootRec :=
  let n := (r.startCount + 1) % 2 ^ 64
  let shed := r.force = true ∨ 3 ≤ r.attempts
  { r with
    attempts := if shed then r.attempts else min (r.attempts + 1) 255, startCount := n, next := (r.next + 1) % 8,
    log := r.log.set (r.next % 8) { start := n % 2 ^ 32, step := 4, reason := if shed then 0x0D else 0x0C } }

/-- The start counted, before the module goes on or sheds. -/
def counted (s : State) : State :=
  { s.idKeyStep with boot := { s.idKeyStep.boot with count := (s.currentRec.startCount + 1) % 2 ^ 64 } }

theorem countedRec_eq (r : BootRec) : countedRec r =
    ({ r with startCount := (r.startCount + 1) % 2 ^ 64
              attempts := if (r.force || decide (3 ≤ r.attempts)) = true then r.attempts else min (r.attempts + 1) 255
              next := (r.next + 1) % 8 } : BootRec).setEnt
      { start := (r.startCount + 1) % 2 ^ 64 % 2 ^ 32, step := 4, reason := if (r.force || decide (3 ≤ r.attempts)) = true then 0x0D else 0x0C } := by
  have hc : ((r.next + 1) % 8 + 7) % 8 = r.next % 8 := by omega
  simp only [countedRec, BootRec.setEnt, BootRec.cur, hc, Bool.or_eq_true, decide_eq_true_eq]

theorem currentRec_congr {s t : State} (h : t.boot = s.boot) : t.currentRec = s.currentRec := by
  have hn : ∀ k x n, t.norRead k x n = s.norRead k x n := fun k x n => norRead_congr (by rw [h]) k x n
  simp only [State.currentRec, h, hn]

theorem currentRec_some {s : State} {r : BootRec} (h : s.boot.record = some r) : s.currentRec = r := by rw [State.currentRec, h]
theorem currentRec_none {s : State} (h : s.boot.record = none) :
    s.currentRec = { slotSt := [0, 1].map (fun k => if fwForm (s.norRead k 0 256) 0x800000 then 1 else 0) } := by rw [State.currentRec, h]

/-- What the count leaves but the record. -/
theorem counted_frame (s : State) : let t := counted s
    t.boot = { s.boot with count := (s.currentRec.startCount + 1) % 2 ^ 64 } ∧ t.ptr = s.ptr ∧ t.ports = s.ports ∧
    (s.org.fuses.idSeed ≠ 0 → t.org.fuses = s.org.fuses) ∧
    (s.org.fuses.idSeed ≠ 0 ∨ s.org.fuses.lifecycle = .manufacture → t.org.idKey = Config.slhPublic t.org.fuses.idSeed) := by
  obtain ⟨fr, fu, k, he, hf, hk⟩ := idKeyStep_eq s
  unfold counted
  rw [he]
  exact ⟨rfl, rfl, rfl, hf, hk⟩

theorem idKeyStep_currentRec (s : State) : s.idKeyStep.currentRec = s.currentRec := by
  obtain ⟨fr, fu, k, he, -⟩ := idKeyStep_eq s
  exact currentRec_congr (by rw [he])

theorem step4_err (s : State) : s.step4 true = (counted s).enterShed 4 := by
  rw [State.step4]
  unfold counted
  simp only [if_true, idKeyStep_currentRec]

theorem step4_counts (s : State) : s.step4 false =
    if (s.currentRec.force || decide (3 ≤ s.currentRec.attempts)) = true then
      ((counted s).recordSave (countedRec s.currentRec)).enterShed s.currentRec.shedReason
    else ((counted s).recordSave (countedRec s.currentRec)).toStep 5 := by
  rw [State.step4, countedRec_eq]
  unfold counted
  simp only [Bool.false_eq_true, if_false, idKeyStep_currentRec]

/-- The start is counted, and the identity key stands where a seed does (R430, R461). -/
def Counted (s t : State) : Prop :=
  t.boot.count = (s.currentRec.startCount + 1) % 2 ^ 64 ∧ (s.org.fuses.idSeed ≠ 0 → t.org.fuses = s.org.fuses) ∧
    (s.org.fuses.idSeed ≠ 0 ∨ s.org.fuses.lifecycle = .manufacture → t.org.idKey = Config.slhPublic t.org.fuses.idSeed)

theorem counted_of {s t : State} (hc : t.boot.count = (counted s).boot.count) (ho : t.org = (counted s).org) : Counted s t := by
  obtain ⟨hb, -, -, hf, hk⟩ := counted_frame s
  unfold Counted
  rw [hc, ho, hb]
  exact ⟨rfl, hf, hk⟩

theorem shedPorts_of {s u t : State} (hp : u.ptr = s.ptr) (hq : u.ports = s.ports) (h : 0 < u.ptr.parts.length → ShedPorts u t)
    (hn : 0 < s.ptr.parts.length) : ShedPorts s t := by
  have h' := h (by rw [hp]; exact hn)
  unfold ShedPorts at h' ⊢
  rwa [Frames.port_congr hq] at h'

section
variable {lanes : List (StackIx × Fin 2080)} {s : State} (on : s.pwr.input = true) (hf : s.boot.failed = false) (hp : s.boot.phase = 4)
include on hf hp

/-- With no record to be read the module sheds (R464). -/
theorem exec_start_4_err : Next (.start 4 true lanes) s (fun t => Counted s t ∧ t.boot.phase = 13 ∧ t.boot.shed = 4 ∧
    t.boot.record = s.boot.record ∧ t.boot.nor = s.boot.nor ∧ (0 < s.ptr.parts.length → ShedPorts s t)) := by
  have hs : s.startStep true lanes = (counted s).enterShed 4 := by
    simp only [State.startStep, hp]
    exact step4_err s
  obtain ⟨hb, hptr, hports, -⟩ := counted_frame s
  obtain ⟨eb, eo, es⟩ := enterShed_sheds (counted s) 4
  generalize (counted s).enterShed 4 = t at hs eb eo es
  have hph : t.boot.phase = 13 := by rw [eb]
  refine ⟨t, exec_start_step on hf hp (by decide) hs (.inr (by rw [hph]; decide)), counted_of (by rw [eb]) eo, hph, by rw [eb], ?_, ?_,
    shedPorts_of hptr hports es⟩
  · rw [eb, hb]
  · rw [eb, hb]

/-- What the count writes is the record and its copy. -/
theorem exec_start_4_ok : Next (.start 4 false lanes) s (fun t => Counted s t ∧
    (s.currentRec.force = true ∨ 3 ≤ s.currentRec.attempts →
      t.boot.phase = 13 ∧ t.boot.shed = s.currentRec.shedReason ∧ (0 < s.ptr.parts.length → ShedPorts s t)) ∧
    (¬ (s.currentRec.force = true ∨ 3 ≤ s.currentRec.attempts) → t.boot.phase = 5) ∧
    t.boot.record = (s.recordSave (countedRec s.currentRec)).boot.record ∧ t.boot.nor = (s.recordSave (countedRec s.currentRec)).boot.nor) := by
  have h4 : s.startStep false lanes = s.step4 false := by simp only [State.startStep, hp]
  have hs := h4.trans (step4_counts s)
  simp only [Bool.or_eq_true, decide_eq_true_eq] at hs
  obtain ⟨hb, hptr, hports, -⟩ := counted_frame s
  have hn : ((counted s).recordSave (countedRec s.currentRec)).boot.nor = (s.recordSave (countedRec s.currentRec)).boot.nor :=
    recordSave_nor_congr (by rw [hb]) _
  generalize countedRec s.currentRec = r at hs hn ⊢
  have hw := recordSave_eq (counted s) r
  generalize (counted s).recordSave r = w at hs hn hw
  have hc : w.boot.count = (counted s).boot.count := by rw [hw]
  have ho : w.org = (counted s).org := by rw [hw]
  have hr : w.boot.record = some (nextGen r) := by rw [hw]
  by_cases hshed : s.currentRec.force = true ∨ 3 ≤ s.currentRec.attempts
  · rw [if_pos hshed] at hs
    obtain ⟨eb, eo, es⟩ := enterShed_sheds w s.currentRec.shedReason
    generalize w.enterShed s.currentRec.shedReason = t at hs eb eo es
    have hph : t.boot.phase = 13 := by rw [eb]
    refine ⟨t, exec_start_step on hf hp (by decide) hs (.inr (by rw [hph]; decide)), counted_of ((by rw [eb] : t.boot.count = w.boot.count).trans hc)
      (eo.trans ho), fun _ => ⟨hph, by rw [eb], shedPorts_of (by rw [hw]; exact hptr) (by rw [hw]; exact hports) es⟩, fun h => absurd hshed h, ?_, ?_⟩
    · rw [eb]; exact hr
    · rw [eb]; exact hn
  · rw [if_neg hshed] at hs
    exact ⟨w.toStep 5, exec_start_step on hf hp (by decide) hs (.inr (show 4 < 5 by decide)), counted_of hc ho, fun h => absurd h hshed,
      fun _ => rfl, hr, hn⟩

end

end Sys2Proof.Proofs.StartCounts

/-! PROOFS. Step 5 of a start: a slot is chosen and its components are measured (17 R456-R458, R461; 16 R434). -/

namespace Sys2Proof.Proofs.SlotChoice

open Sys2Proof Sys2Proof.Machine Sys2Proof.Laws Sys2Proof.Proofs.BootRecord Sys2Proof.Proofs.Frames Sys2Proof.Proofs.StartSteps
  Sys2Proof.Proofs.StartFails

/-! ### The check of a slot's firmware -/

theorem fwForm_component {h : List Byte} {limit k : Nat} (hf : fwForm h limit = true) (hk : k < 4) : fwOff h k + fwLen h k ≤ limit := by
  unfold fwForm at hf
  simp only [Bool.and_eq_true, List.all_eq_true, decide_eq_true_eq] at hf
  obtain ⟨⟨⟨-, hc⟩, -⟩, -⟩ := hf
  have := (hc k (List.mem_range.2 hk)).2
  omega

/-- The check depends on the fuses' floor and on the region it reads. -/
theorem fwCheck_congr {s t : State} {rd rd' : Nat → Nat → List Byte} {limit : Nat} (hl : 30056 ≤ limit)
    (hf : t.org.fuses = s.org.fuses) (h : ∀ x n, x + n ≤ limit → rd' x n = rd x n) : t.fwCheck rd' limit = s.fwCheck rd limit := by
  unfold State.fwCheck
  rw [h 0 256 (by omega), h 256 8 (by omega), h 264 29792 (by omega), hf]
  dsimp only
  by_cases hform : fwForm (rd 0 256) limit = true
  · have hc : (List.range 4).any (fun k => sha256 (rd' (fwOff (rd 0 256) k) (fwLen (rd 0 256) k)) != fwHash (rd 0 256) k) =
        (List.range 4).any (fun k => sha256 (rd (fwOff (rd 0 256) k) (fwLen (rd 0 256) k)) != fwHash (rd 0 256) k) := by
      refine Bool.eq_iff_iff.2 ?_
      simp only [List.any_eq_true]
      refine exists_congr (fun k => and_congr_right (fun hk => ?_))
      rw [h _ _ (fwForm_component hform (List.mem_range.1 hk))]
    rw [hc]
  · simp [hform]

/-! ### A slot is tried -/

/-- A slot that is tried: UNTRIED or GOOD (R458). -/
def Tried (r : BootRec) (k : Nat) : Prop := nth 0 r.slotSt k = 1 ∨ nth 0 r.slotSt k = 2

def trySlot (s : State) (k : Nat) : Bool × State :=
  let st := match s.boot.record with | some r => nth 0 r.slotSt k | none => 0
  if st = 0 ∨ st = 3 then (false, s)
  else if s.fwOk k then (true, s)
  else (false, s.setSlot k 3)

section
variable {s : State} {r : BootRec} {k : Nat} (hr : s.boot.record = some r)
include hr

theorem trySlot_untried (h : nth 0 r.slotSt k < 4) (ht : ¬ Tried r k) : trySlot s k = (false, s) := by
  obtain ⟨h1, h2⟩ := not_or.1 ht
  unfold trySlot
  simp only [hr]
  exact if_pos (by omega)

theorem trySlot_good (ht : Tried r k) (hc : s.fwCheck (s.norRead k) 0x800000 = 0) : trySlot s k = (true, s) := by
  have hok : s.fwOk k = true := by simp [State.fwOk, hc]
  unfold trySlot
  simp only [hr, hok, if_true]
  exact if_neg (by rcases ht with ht | ht <;> omega)

theorem trySlot_bad (ht : Tried r k) (hc : s.fwCheck (s.norRead k) 0x800000 ≠ 0) :
    trySlot s k = (false, s.recordSave { r with slotSt := r.slotSt.set k 3 }) := by
  have hok : s.fwOk k = false := by simp [State.fwOk, hc]
  unfold trySlot
  rw [setSlot_some hr]
  simp only [hr, hok]
  exact if_neg (by rcases ht with ht | ht <;> omega)

end

/-- `u` is `s` but for the record and its copies; below the copies both stores read the same, and the record has the log of `r`. -/
structure SlotsMarked (s u : State) (r r' : BootRec) : Prop where
  eq : u = { s with boot := { s.boot with record := some r', nor := u.boot.nor } }
  low : ∀ k x n, x + n ≤ 0x800000 → u.norRead k x n = s.norRead k x n
  log : r'.log = r.log
  next : r'.next = r.next

theorem slotsMarked_refl {s : State} {r : BootRec} (hr : s.boot.record = some r) : SlotsMarked s s r r := by
  refine ⟨?_, fun _ _ _ _ => rfl, rfl, rfl⟩
  rw [← hr]

theorem slotsMarked_set {s u : State} {r r' : BootRec} (h : SlotsMarked s u r r') (k : Nat) :
    SlotsMarked s (u.recordSave { r' with slotSt := r'.slotSt.set k 3 }) r (nextGen { r' with slotSt := r'.slotSt.set k 3 }) := by
  refine ⟨?_, fun j x n hx => ?_, h.log, h.next⟩
  · generalize hz : ({ r' with slotSt := r'.slotSt.set k 3 } : BootRec) = z
    have he := recordSave_eq u z
    generalize u.recordSave z = v at he
    rw [he, h.eq]
  · rw [norRead_recordSave_low _ _ (by omega)]
    exact h.low j x n hx

theorem SlotsMarked.check {s u : State} {r r' : BootRec} (h : SlotsMarked s u r r') (k : Nat) :
    u.fwCheck (u.norRead k) 0x800000 = s.fwCheck (s.norRead k) 0x800000 :=
  fwCheck_congr (by decide) (by rw [h.eq]) (h.low k)

theorem SlotsMarked.record {s u : State} {r r' : BootRec} (h : SlotsMarked s u r r') : u.boot.record = some r' := by rw [h.eq]

/-- A slot that is not chosen: what the trial of it leaves. -/
theorem trySlot_fails {s u : State} {r r' : BootRec} {k : Nat} (h : SlotsMarked s u r r') (hk : nth 0 r'.slotSt k < 4)
    (hn : ¬ (Tried r' k ∧ s.fwCheck (s.norRead k) 0x800000 = 0)) : ∃ v x, trySlot u k = (false, v) ∧ SlotsMarked s v r x ∧
      (Tried r' k → v = u.recordSave { r' with slotSt := r'.slotSt.set k 3 } ∧ x.slotSt = r'.slotSt.set k 3) ∧ (¬ Tried r' k → v = u ∧ x = r') := by
  by_cases ht : Tried r' k
  · refine ⟨_, _, trySlot_bad h.record ht (fun hc => hn ⟨ht, ?_⟩), slotsMarked_set h k, fun _ => ⟨rfl, rfl⟩, fun hx => absurd ht hx⟩
    rw [← h.check, hc]
  · exact ⟨_, _, trySlot_untried h.record hk ht, h, fun hx => absurd hx ht, fun _ => ⟨rfl, rfl⟩⟩

/-! ### The components are measured -/

theorem measureComponents (hd : List Byte) (s : State) : ∃ m, (List.range 4).foldl (fun s c => s.measure (c + 1) (fwHash hd c)) s =
      { s with org := { s.org with meas := m } } ∧
    ∀ j, SMap.get 0 m j = if 1 ≤ j ∧ j ≤ 4 then extendM (SMap.get 0 s.org.meas j) (fwHash hd (j - 1)) else SMap.get 0 s.org.meas j := by
  have key : ∀ n (s : State), ∃ m, (List.range n).foldl (fun s c => s.measure (c + 1) (fwHash hd c)) s = { s with org := { s.org with meas := m } } ∧
      ∀ j, SMap.get 0 m j = if 1 ≤ j ∧ j ≤ n then extendM (SMap.get 0 s.org.meas j) (fwHash hd (j - 1)) else SMap.get 0 s.org.meas j := by
    intro n s
    induction n with
    | zero => exact ⟨s.org.meas, rfl, fun j => (if_neg (by omega)).symm⟩
    | succ n ih =>
      obtain ⟨m, he, hm⟩ := ih
      refine ⟨SMap.modify 0 m (n + 1) (fun x => extendM x (fwHash hd n)), ?_, fun j => ?_⟩
      · rw [List.range_succ, List.foldl_append, he]
        rfl
      · refine (get_set 0 m (n + 1) j _).trans ?_
        by_cases hj : n + 1 = j
        · subst hj
          rw [if_pos rfl, hm, if_neg (by omega), if_pos (by omega)]
          rfl
        · rw [if_neg hj, hm]
          by_cases h1 : 1 ≤ j ∧ j ≤ n
          · rw [if_pos h1, if_pos (by omega)]
          · rw [if_neg h1, if_neg (by omega)]
  exact key 4 s

/-- Slot `k` is chosen. -/
def chosen (s : State) (k : Nat) : State :=
  let s2 := { s with boot := { s.boot with slot := k } }
  let h := s2.norRead k 0 256
  let s3 := (List.range 4).foldl (fun s c => s.measure (c + 1) (fwHash h c)) s2
  ({ s3 with trl := { s3.trl with max := word32 h 12 } }).toStep 6

/-- Neither slot passes: the step fails. -/
def noneChosen (s : State) (k : Nat) : State :=
  let s2 := { s with boot := { s.boot with slot := k } }
  let (v, s3) := s2.draw
  s3.startFail (v % 2 ^ 16)

def withInfos (s : State) : State := { s with boot := { s.boot with info := [s.slotInfo 0, s.slotInfo 1] } }

/-- The slot that is tried first. -/
def firstSlot (r : BootRec) : Nat := if r.attempts % 2 = 1 then r.preferred else 1 - r.preferred

/-- The two tries: whether a slot passes, which, and what they leave. -/
def slotTries (s : State) (k : Nat) : Bool × Nat × State :=
  match trySlot s k with
  | (true, s1) => (true, k, s1)
  | (false, s1) => match trySlot s1 (1 - k) with
    | (b, s2) => (b, 1 - k, s2)

/-- What the tries lead to. -/
def stepOf (x : Bool × Nat × State) : State :=
  match x with
  | (ok, k, u) => if !ok then noneChosen u k else chosen u k

section
variable {s : State} {r : BootRec} (hr : s.boot.record = some r)
include hr

theorem step5_eq : s.step5 = stepOf (slotTries (withInfos s) (firstSlot r)) := by
  have hf : (if (r.attempts + 255) % 256 % 2 = 0 then r.preferred else 1 - r.preferred) = firstSlot r :=
    if_congr (by omega) rfl rfl
  refine Eq.trans ?_ (congrArg (fun k => stepOf (slotTries (withInfos s) k)) hf)
  unfold State.step5
  rw [hr]
  rfl

end

/-! ### What a choice leaves -/

/-- TMAX and SVN of both slots' headers stand in BOOT's registers. -/
def Infos (s t : State) : Prop := t.boot.info = [0, 1].map (fun k => let h := s.norRead k 0 256
  if fwForm h 0x800000 then (word32 h 12, word32 h 8) else (0, 0))

/-- Slot `k` is chosen, and its components are measured. -/
def Takes (s : State) (k : Nat) (t : State) : Prop :=
  t.boot.slot = k ∧ t.boot.phase = 6 ∧ Infos s t ∧ t.trl.max = word32 (s.norRead k 0 256) 12 ∧
    ∀ m, SMap.get 0 t.org.meas m = if 1 ≤ m ∧ m ≤ 4 then extendM (SMap.get 0 s.org.meas m) (fwHash (s.norRead k 0 256) (m - 1))
      else SMap.get 0 s.org.meas m

theorem withInfos_infos (s : State) : Infos s (withInfos s) := rfl

theorem chosen_takes {s u : State} {r r' : BootRec} (h : SlotsMarked (withInfos s) u r r') (k : Nat) :
    Takes s k (chosen u k) ∧ (chosen u k).boot.record = some r' ∧ (chosen u k).boot.nor = u.boot.nor := by
  have hd : u.norRead k 0 256 = s.norRead k 0 256 := h.low k 0 256 (by decide)
  have hm : ∀ j, SMap.get 0 u.org.meas j = SMap.get 0 s.org.meas j := fun j => by rw [h.eq]; rfl
  have hi : u.boot.info = (withInfos s).boot.info := by rw [h.eq]
  have hc : chosen u k = ({ (List.range 4).foldl (fun s c => s.measure (c + 1) (fwHash (u.norRead k 0 256) c))
        ({ u with boot := { u.boot with slot := k } } : State) with
      trl := { ((List.range 4).foldl (fun s c => s.measure (c + 1) (fwHash (u.norRead k 0 256) c))
        ({ u with boot := { u.boot with slot := k } } : State)).trl with max := word32 (u.norRead k 0 256) 12 } } : State).toStep 6 := rfl
  obtain ⟨m, he, hg⟩ := measureComponents (u.norRead k 0 256) ({ u with boot := { u.boot with slot := k } } : State)
  rw [hc, he, hd]
  rw [hd] at hg
  refine ⟨⟨rfl, rfl, hi.trans (withInfos_infos s), rfl, fun j => (hg j).trans ?_⟩, h.record, rfl⟩
  rw [← hm j]

theorem slotsMarked_start {s : State} {r : BootRec} (hr : s.boot.record = some r) : SlotsMarked (withInfos s) (withInfos s) r r :=
  slotsMarked_refl hr

/-- A slot that passes. -/
def Good (s : State) (r : BootRec) (k : Nat) : Prop := Tried r k ∧ s.fwCheck (s.norRead k) 0x800000 = 0

/-- The record and its copies once slot `k` is BAD. -/
def badSlot (s : State) (r : BootRec) (k : Nat) : Boot := (s.recordSave { r with slotSt := r.slotSt.set k 3 }).boot

theorem firstSlot_lt {r : BootRec} (h : r.preferred < 2) : firstSlot r < 2 := by
  unfold firstSlot
  split <;> omega

theorem nth_set_ne {α : Type} (d : α) (l : List α) {i j : Nat} (v : α) (h : i ≠ j) : nth d (l.set i v) j = nth d l j := by
  simp only [nth, List.getD_eq_getElem?_getD, List.getElem?_set_ne h]

theorem nth_set_self {α : Type} (d : α) (l : List α) {i : Nat} (v : α) (h : i < l.length) : nth d (l.set i v) i = v := by
  simp only [nth, List.getD_eq_getElem?_getD, List.getElem?_set_self h, Option.getD_some]

section
variable {recErr : Bool} {lanes : List (StackIx × Fin 2080)} {s : State} (on : s.pwr.input = true) (hf : s.boot.failed = false)
  (hp : s.boot.phase = 5) {r : BootRec} (hr : s.boot.record = some r)
include on hf hp hr

theorem exec_start_5 {t : State} (hs : stepOf (slotTries (withInfos s) (firstSlot r)) = t) (h : t.boot.failed = true ∨ 5 < t.boot.phase) :
    exec (.start 5 recErr lanes) s = .next t := by
  refine exec_start_step on hf hp (by decide) ?_ h
  simp only [State.startStep, hp]
  exact (step5_eq hr).trans hs

theorem exec_start_5_first (hg : Good s r (firstSlot r)) : Next (.start 5 recErr lanes) s (fun t => Takes s (firstSlot r) t ∧
    t.boot.record = some r ∧ t.boot.nor = s.boot.nor) := by
  have ht : trySlot (withInfos s) (firstSlot r) = (true, withInfos s) := trySlot_good hr hg.1 hg.2
  have hs : stepOf (slotTries (withInfos s) (firstSlot r)) = chosen (withInfos s) (firstSlot r) := by
    rw [slotTries, ht]
    rfl
  have h := chosen_takes (slotsMarked_start hr) (firstSlot r)
  exact ⟨_, exec_start_5 on hf hp hr hs (.inr (by rw [h.1.2.1]; decide)), h⟩

variable (hpref : r.preferred < 2) (hst : ∀ k, k < 2 → nth 0 r.slotSt k < 4)
include hpref hst

omit on hf hp in
/-- The first choice does not pass: what its trial leaves, and the state of the other slot. -/
theorem firstSlot_fails (hg : ¬ Good s r (firstSlot r)) : ∃ v x, trySlot (withInfos s) (firstSlot r) = (false, v) ∧
    SlotsMarked (withInfos s) v r x ∧ (Tried r (firstSlot r) → v.boot.record = (badSlot s r (firstSlot r)).record ∧
      v.boot.nor = (badSlot s r (firstSlot r)).nor ∧ x.slotSt = r.slotSt.set (firstSlot r) 3) ∧ (¬ Tried r (firstSlot r) → v = withInfos s ∧ x = r) := by
  obtain ⟨v, x, ht, hm, h1, h2⟩ := trySlot_fails (slotsMarked_start hr) (hst _ (firstSlot_lt hpref)) hg
  refine ⟨v, x, ht, hm, fun h => ?_, h2⟩
  obtain ⟨hv, hx⟩ := h1 h
  subst hv
  exact ⟨rfl, recordSave_nor_congr (s := s) (t := withInfos s) rfl _, hx⟩

theorem exec_start_5_second (hg : ¬ Good s r (firstSlot r)) (hg' : Good s r (1 - firstSlot r)) :
    Next (.start 5 recErr lanes) s (fun t => Takes s (1 - firstSlot r) t ∧
      (Tried r (firstSlot r) → t.boot.record = (badSlot s r (firstSlot r)).record ∧ t.boot.nor = (badSlot s r (firstSlot r)).nor) ∧
      (¬ Tried r (firstSlot r) → t.boot.record = some r ∧ t.boot.nor = s.boot.nor)) := by
  have hlt := firstSlot_lt hpref
  obtain ⟨v, x, ht, hm, h1, h2⟩ := firstSlot_fails hr hpref hst hg
  have hslot : nth 0 x.slotSt (1 - firstSlot r) = nth 0 r.slotSt (1 - firstSlot r) := by
    by_cases h : Tried r (firstSlot r)
    · rw [(h1 h).2.2, nth_set_ne _ _ _ (by omega)]
    · rw [(h2 h).2]
  have ht2 : trySlot v (1 - firstSlot r) = (true, v) := by
    refine trySlot_good hm.record ?_ ((hm.check _).trans hg'.2)
    rw [Tried, hslot]
    exact hg'.1
  have hs : stepOf (slotTries (withInfos s) (firstSlot r)) = chosen v (1 - firstSlot r) := by
    simp only [slotTries, ht, ht2]
    rfl
  obtain ⟨hc, hrec, hnor⟩ := chosen_takes hm (1 - firstSlot r)
  refine ⟨_, exec_start_5 on hf hp hr hs (.inr (by rw [hc.2.1]; decide)), hc, fun h => ?_, fun h => ?_⟩
  · obtain ⟨hv, hn, -⟩ := h1 h
    rw [hrec, hnor]
    exact ⟨hm.record.symm.trans hv, hn⟩
  · obtain ⟨hv, hx⟩ := h2 h
    rw [hrec, hnor, hv, hx]
    exact ⟨rfl, rfl⟩

end

/-- What a start without a slot leaves: the ports are DOWN, and the record has the failure. -/
theorem noneChosen_fails {u : State} {x : BootRec} (hp : u.boot.phase = 5) (hx : u.boot.record = some x) (k : Nat) : let t := noneChosen u k
    t.boot.phase = 5 ∧ t.boot.failed = true ∧ t.boot.info = u.boot.info ∧ (t.port 0).link = 0 ∧ (t.port 1).link = 0 ∧
    ∃ y, t.boot.record = some y ∧ y.slotSt = x.slotSt ∧ (x.log.length = 8 → (y.ent 0).step = 5 ∧ (y.ent 0).reason = 5) := by
  have hc : noneChosen u k = ({ u with boot := { u.boot with slot := k }, free := u.free + 1 } : State).startFail (Config.freeValue u.free % 2 ^ 16) := rfl
  generalize hw : ({ u with boot := { u.boot with slot := k }, free := u.free + 1 } : State) = w at hc
  have h5 : w.boot.phase = 5 := by rw [← hw]; exact hp
  have hi : w.boot.info = u.boot.info := by rw [← hw]
  have hxw : w.boot.record = some x := by rw [← hw]; exact hx
  obtain ⟨hb, -, -, hd⟩ := startFail_frame w (Config.freeValue u.free % 2 ^ 16)
  have hl := failRecord_late (by omega) hxw (Config.freeValue u.free % 2 ^ 16)
  rw [hl, recordSave_record] at hb
  rw [hc]
  refine ⟨by rw [hb]; exact h5, by rw [hb], by rw [hb]; exact hi, by rw [hd 0 (by decide)]; rfl, by rw [hd 1 (by decide)]; rfl,
    nextGen (x.setEnt (failEnt w x (Config.freeValue u.free % 2 ^ 16))), congrArg Boot.record hb, rfl, fun hlen => ?_⟩
  have hent : (nextGen (x.setEnt (failEnt w x (Config.freeValue u.free % 2 ^ 16)))).ent 0 = failEnt w x (Config.freeValue u.free % 2 ^ 16) := by
    have hcur : (x.next + 15 - 0) % 8 = (x.next + 7) % 8 := by omega
    show nth {} (x.log.set ((x.next + 7) % 8) _) ((x.next + 15 - 0) % 8) = _
    rw [hcur, nth_set_self _ _ _ (by omega)]
  rw [hent]
  exact ⟨h5, h5⟩

/-- A slot that was tried and did not pass is BAD; no other slot's state changes. -/
theorem slotSt_marked {r x : BootRec} {k : Nat} (h1 : Tried r k → x.slotSt = r.slotSt.set k 3) (h2 : ¬ Tried r k → x = r) (j : Nat) :
    nth 0 x.slotSt j = if j = k ∧ k < r.slotSt.length ∧ (nth 0 r.slotSt k = 1 ∨ nth 0 r.slotSt k = 2) then 3 else nth 0 r.slotSt j := by
  by_cases ht : Tried r k
  · rw [h1 ht]
    by_cases hk : j = k ∧ k < r.slotSt.length
    · obtain ⟨rfl, hk⟩ := hk
      rw [nth_set_self _ _ _ hk, if_pos ⟨rfl, hk, ht⟩]
    · rw [if_neg (fun h => hk ⟨h.1, h.2.1⟩)]
      by_cases hj : j = k
      · rw [List.set_eq_of_length_le (by omega)]
      · exact nth_set_ne _ _ _ (Ne.symm hj)
  · rw [h2 ht, if_neg (fun h => ht h.2.2)]

section
variable {recErr : Bool} {lanes : List (StackIx × Fin 2080)} {s : State} (on : s.pwr.input = true) (hf : s.boot.failed = false)
  (hp : s.boot.phase = 5) {r : BootRec} (hr : s.boot.record = some r) (hpref : r.preferred < 2) (hst : ∀ k, k < 2 → nth 0 r.slotSt k < 4)
include on hf hp hr hpref hst

theorem exec_start_5_none (hg : ¬ Good s r (firstSlot r)) (hg' : ¬ Good s r (1 - firstSlot r)) : Next (.start 5 recErr lanes) s (fun t =>
    t.boot.phase = 5 ∧ t.boot.failed = true ∧ Infos s t ∧ (t.port 0).link = 0 ∧ (t.port 1).link = 0 ∧
    ∃ x, t.boot.record = some x ∧ (r.log.length = 8 → (x.ent 0).step = 5 ∧ (x.ent 0).reason = 5) ∧
      ∀ k, k < 2 → k < r.slotSt.length → nth 0 x.slotSt k = if nth 0 r.slotSt k = 1 ∨ nth 0 r.slotSt k = 2 then 3 else nth 0 r.slotSt k) := by
  have hlt := firstSlot_lt hpref
  obtain ⟨v, x, ht, hm, h1, h2⟩ := firstSlot_fails hr hpref hst hg
  have hx := slotSt_marked (fun h => (h1 h).2.2) (fun h => (h2 h).2)
  have hslot : nth 0 x.slotSt (1 - firstSlot r) = nth 0 r.slotSt (1 - firstSlot r) := by rw [hx, if_neg (by omega)]
  have htried : Tried x (1 - firstSlot r) ↔ Tried r (1 - firstSlot r) := by rw [Tried, Tried, hslot]
  obtain ⟨w, y, ht', hm', h1', h2'⟩ := trySlot_fails hm (k := 1 - firstSlot r) (by rw [hslot]; exact hst _ (by omega))
    (fun h => hg' ⟨htried.1 h.1, h.2⟩)
  have hy := slotSt_marked (fun h => (h1' h).2) (fun h => (h2' h).2)
  have hs : stepOf (slotTries (withInfos s) (firstSlot r)) = noneChosen w (1 - firstSlot r) := by
    simp only [slotTries, ht, ht']
    rfl
  obtain ⟨hph, hfail, hinfo, hl0, hl1, z, hz, hzs, hzl⟩ := noneChosen_fails (by rw [hm'.eq]; exact hp) hm'.record (1 - firstSlot r)
  refine ⟨_, exec_start_5 on hf hp hr hs (.inl hfail), hph, hfail, hinfo.trans ?_, hl0, hl1, z, hz, fun hlen => hzl ?_, fun k hk hlen => ?_⟩
  · rw [hm'.eq]
    exact withInfos_infos s
  · rw [hm'.log]
    exact hlen
  · have hxl : x.slotSt.length = r.slotSt.length := by
      by_cases h : Tried r (firstSlot r)
      · rw [(h1 h).2.2, List.length_set]
      · rw [(h2 h).2]
    rw [hzs, hy, hslot, hx, hxl]
    by_cases hkf : k = firstSlot r
    · subst hkf
      rw [if_neg (by omega)]
      simp [hlen]
    · obtain rfl : k = 1 - firstSlot r := by omega
      rw [if_neg (show ¬ (1 - firstSlot r = firstSlot r ∧ _) from fun h => hkf h.1)]
      simp [hlen]

end

end Sys2Proof.Proofs.SlotChoice

/-! PROOFS. Step 6 of a start: the site key, the image of a slot, and what apply leaves of the start-up state (17 R459; 01 R42, R44; 16 R428). -/

namespace Sys2Proof.Proofs.ImageChoice

open Sys2Proof Sys2Proof.Machine Sys2Proof.Laws Sys2Proof.Proofs.Frames Sys2Proof.Proofs.WarmReset Sys2Proof.Proofs.StartSteps

/-! ### What apply keeps -/

/-- The start-up state, the Orangery but its open sessions, and the committed image stay. -/
structure Kept (s t : State) : Prop where
  boot : t.boot = s.boot
  org : t.org = { s.org with sess := t.org.sess }
  image : t.ptr.image = s.ptr.image
  source : t.ptr.source = s.ptr.source

theorem Kept.refl (s : State) : Kept s s := ⟨rfl, rfl, rfl, rfl⟩
theorem Kept.trans {s t u : State} (h : Kept s t) (g : Kept t u) : Kept s u :=
  ⟨g.boot.trans h.boot, by rw [g.org, h.org], g.image.trans h.image, g.source.trans h.source⟩

theorem kept_foldl {α : Type} (f : State → α → State) (h : ∀ s a, Kept s (f s a)) (l : List α) (s : State) : Kept s (l.foldl f s) := by
  induction l generalizing s with
  | nil => exact Kept.refl s
  | cons a l ih => exact (h s a).trans (ih _)

theorem kept_ite {s a b : State} (p : Prop) [Decidable p] (h : Kept s a) (g : Kept s b) : Kept s (if p then a else b) := by
  split
  · exact h
  · exact g

theorem kept_aside {s t : State} (h : Aside s t) : Kept s t := ⟨h.boot, h.org, by rw [h.ptr], by rw [h.ptr]⟩
theorem kept_outside {s t : State} (h : Outside s t) : Kept s t := kept_aside h.toAside
theorem kept_work {q : Nat} {s t : State} (h : QueueWork q s t) : Kept s t := kept_aside h.toAside

/-! ### Queues and meter records -/

theorem queueRestart_kept (s : State) (q : Nat) : Kept s (s.queueRestart q) := by
  have h : QueueWork q s (if (s.queue q).flight = [] ∧ (s.queue q).ready = 0 then s
      else State.resetRecords q 4 anyEnd ((s.queue q).sqSize + 32) s) := queueWork_ite _ (QueueWork.refl q s) (resetRecords_work _ _ _ _ _)
  exact kept_work ((h.trans (setQueue_work _ _ _)).trans (disableFor_work q _ _))

theorem queueAfter_kept (s : State) (old : Image) (q : Nat) : Kept s (s.queueAfter old q) := by
  unfold State.queueAfter
  dsimp only
  refine kept_ite _ ?_ (queueRestart_kept s q)
  split
  · exact kept_work (queueSettle_work s q)
  · exact kept_ite _ (Kept.refl s) (kept_work (queueOff_work s q))
  · exact kept_ite _ (kept_work (setQueue_work s q _)) (Kept.refl s)
  · exact Kept.refl s

theorem closeRec_kept (s : State) (i reason : Nat) : Kept s (s.closeRec i reason) := by
  unfold State.closeRec
  generalize recordRaw = f
  exact ⟨rfl, rfl, rfl, rfl⟩

theorem applyOut_kept (s : State) (i : Image) (source m : Nat) : Kept s (s.applyOut i source m) :=
  (kept_foldl _ (fun _ q => kept_ite _ (Kept.refl _) (queueRestart_kept _ q)) _ s).trans
    (kept_foldl _ (fun _ p => kept_ite _ (closeRec_kept _ p 4) (Kept.refl _)) _ _)

/-! ### Dies and stacks -/

theorem dropCopies_kept (s : State) (own : Option Nat) (a n : Nat) : Kept s (s.dropCopies own a n) := by
  obtain ⟨cs, ms, h⟩ := dropCopies_eq s own a n
  rw [h]
  exact ⟨rfl, rfl, rfl, rfl⟩

theorem memZero_kept {s u : State} (h : Kept s u) (m : Mem) : Kept s { u with mem := m } := h.trans ⟨rfl, rfl, rfl, rfl⟩

theorem zeroDie_kept (s : State) (p : Nat) : Kept s (s.zeroDie p) := by
  have h := memZero_kept (dropCopies_kept s none (nearOf p) nearSize) (Mem.zero s.mem (nearOf p) nearSize)
  unfold State.zeroDie
  generalize ({ s.dropCopies none (nearOf p) nearSize with mem := Mem.zero s.mem (nearOf p) nearSize } : State) = u at h
  exact h.trans ⟨rfl, rfl, rfl, rfl⟩

theorem zeroStack_kept (s : State) (k : Nat) : Kept s (s.zeroStack k) := by
  have h := memZero_kept (dropCopies_kept s none (k * 0x1000000000) 0x1000000000) (Mem.zero s.mem (k * 0x1000000000) 0x1000000000)
  unfold State.zeroStack
  dsimp only
  generalize ({ s.dropCopies none (k * 0x1000000000) 0x1000000000 with mem := Mem.zero s.mem (k * 0x1000000000) 0x1000000000 } : State) = u at h
  exact h.trans ⟨rfl, rfl, rfl, rfl⟩

theorem stackOwned_kept (s : State) (k : Nat) : Kept s (s.stackOwned k) := by
  unfold State.stackOwned
  dsimp only
  split <;> exact ⟨rfl, rfl, rfl, rfl⟩

theorem applyDies_kept (s : State) (old i : Image) (m : Nat) : Kept s (s.applyDies old i m) :=
  kept_foldl _ (fun s d => kept_ite _ (kept_aside (dieReset_resets s d).aside)
    ((kept_aside (dieReset_resets s d).aside).trans (zeroDie_kept _ d))) _ s

theorem applyStacks_kept (s : State) (old i : Image) : Kept s (s.applyStacks old i) :=
  kept_foldl _ (fun s k => kept_ite _ (Kept.refl s) ((zeroStack_kept s k).trans (stackOwned_kept _ k))) _ s

theorem applyFloor_kept (s : State) (old i : Image) : Kept s (s.applyFloor old i) :=
  kept_ite _ (kept_foldl _ (fun s _ => kept_ite _ (kept_outside (rput_outside s _ _ _ _)) (Kept.refl s)) _ s) (Kept.refl s)

/-! ### The fabric's ports -/

theorem portState_kept (s : State) (n : Nat) (st : LinkSt) (why : Nat) : Kept s (s.portState n st why) := by
  have hp : ∀ x : TrlPort, Kept s (s.setTport n x) := fun _ => ⟨rfl, rfl, rfl, rfl⟩
  unfold State.portState
  dsimp only
  refine kept_ite _ (hp _) ?_
  have h := (hp (if st = .down ∨ st = .training then
    { s.tport n with st := st, why := why, txSeq := 0, rxSeq := 0, replay := [], bad := false, nakSent := none, used := [], owed := [], rx := [], tx := [], turn := 13, fwd := 0 }
    else { s.tport n with st := st, why := why })).trans (kept_outside (postRec_outside _
      { sev := 0, kind := 0x08, loc := portAgent n, info := Config.trellisInfo n st.code why % 2 ^ 64 }))
  exact kept_ite _ (h.trans (kept_outside (notice_outside _ _ _ _))) h

theorem retrain_kept (s : State) (n : Nat) : Kept s (s.retrain n) := by
  have hp : ∀ (x : TrlPort) (st : LinkSt), Kept s ((s.setTport n x).portState n st 0) := fun x st =>
    (show Kept s (s.setTport n x) from ⟨rfl, rfl, rfl, rfl⟩).trans (portState_kept _ _ _ _)
  unfold State.retrain
  dsimp only
  split
  · exact hp _ _
  · exact kept_ite _ (hp _ _) (Kept.refl s)
  · exact kept_ite _ (hp _ _) (Kept.refl s)
  · exact kept_ite _ (hp _ _) (Kept.refl s)
  · exact Kept.refl s

theorem torusPort_kept (s : State) (n : Nat) : Kept s (s.torusPort n) :=
  kept_ite _ (portState_kept _ _ _ _) (kept_ite _ (kept_ite _ (portState_kept _ _ _ _) (Kept.refl s)) (retrain_kept s n))

theorem applyPorts_kept (s : State) (old i : Image) (source : Nat) : Kept s (s.applyPorts old i source) :=
  kept_ite _ (kept_foldl _ torusPort_kept _ s) (Kept.refl s)

/-! ### Apply -/

theorem startService_kept (s : State) : Kept s s.startService := by
  obtain ⟨c, x, h⟩ := startService_eq s
  rw [h]
  exact ⟨rfl, rfl, rfl, rfl⟩

theorem applyParts_kept (s : State) (m : Nat) : Kept s (s.applyParts m) := ⟨rfl, rfl, rfl, rfl⟩

theorem applyTables_applies (s : State) (old i : Image) (source : Nat) : (s.applyTables old i source).boot = s.boot ∧
    (s.applyTables old i source).org = s.org ∧ (s.applyTables old i source).ptr.image = i ∧ (s.applyTables old i source).ptr.source = source :=
  ⟨rfl, rfl, rfl, rfl⟩

/-- After the tables are written. -/
theorem applyRest_kept (u : State) (old i : Image) (source m : Nat) (qs : List Nat) :
    Kept u (qs.foldl (fun v q => v.queueAfter old q) (((((u.applyDies old i m).applyStacks old i).applyFloor old i).applyParts m).applyPorts old i source)) :=
  (((((applyDies_kept u old i m).trans (applyStacks_kept _ old i)).trans (applyFloor_kept _ old i)).trans (applyParts_kept _ m)).trans
    (applyPorts_kept _ old i source)).trans (kept_foldl _ (fun v q => queueAfter_kept v old q) qs _)

/-- Apply writes the image and its source, and leaves the start-up state and the Orangery but for its sessions. -/
theorem applyImage_applies (s : State) (i : Image) (source m : Nat) : let t := s.applyImage i source m
    t.boot = s.boot ∧ t.org = { s.org with sess := t.org.sess } ∧ t.ptr.image = i ∧ t.ptr.source = source := by
  have h1 := applyOut_kept s i source m
  obtain ⟨tb, torg, ti, ts⟩ := applyTables_applies (s.applyOut i source m) s.ptr.image i source
  have h2 : Kept ((s.applyOut i source m).applyTables s.ptr.image i source) (s.applyImage i source m) := by
    have h := applyRest_kept ((s.applyOut i source m).applyTables s.ptr.image i source) s.ptr.image i source m (s.hitQueues i m)
    exact kept_ite _ (h.trans (startService_kept _)) h
  refine ⟨h2.boot.trans (tb.trans h1.boot), ?_, h2.image.trans ti, h2.source.trans ts⟩
  rw [h2.org, torg, h1.org]

/-! ### The image of a slot -/

theorem imageCheck_congr {s t : State} (h : t.org = { s.org with sess := t.org.sess }) (bs : List Byte) : t.imageCheck bs = s.imageCheck bs := by
  have hh : t.headReason bs = s.headReason bs := by
    unfold State.headReason State.imageSigned
    rw [h]
  unfold State.imageCheck
  rw [hh]

theorem slotImage_congr {s t : State} (h : Kept s t) (k : Nat) : t.slotImage k = s.slotImage k := by
  have hn : ∀ x n, t.norRead k x n = s.norRead k x n := fun x n => BootRecord.norRead_congr (by rw [h.boot]) k x n
  unfold State.slotImage
  rw [hn, hn, imageCheck_congr h.org]

/-- The configuration error that an image of a slot gives when it fails. -/
def imageFails (s : State) : State := s.post { sev := 0, kind := 0x0B, loc := 0x0A, info := Config.configReason 4 % 2 ^ 64 }
def takeImage (s : State) (i : Image) (src : Nat) : State := (s.applyImage i src 0xFF).measure 5 i.digest

/-- The slot's image, the other slot's, or the factory image. -/
def imageStep (s : State) (k : Nat) : State :=
  match s.slotImage k with
  | .ok i => takeImage s i (k + 1)
  | .error _ => match (imageFails s).slotImage (1 - k) with
    | .ok i => takeImage (imageFails s) i (2 - k)
    | .error _ => (imageFails (imageFails s)).applyImage Image.factory 0 0xFF

def partsApplying (s : State) : State :=
  { s with ptr := { s.ptr with parts := s.ptr.parts.map (fun (x : PartSt) => if x == PartSt.unused then x else PartSt.applying) } }

theorem step6_eq (s : State) : s.step6 = (partsApplying (imageStep s.siteStep s.boot.slot)).toStep 7 := rfl

theorem imageFails_kept (s : State) : Kept s (imageFails s) := kept_outside (post_outside _ _)
theorem Kept.meas {s t : State} (h : Kept s t) : t.org.meas = s.org.meas := by rw [h.org]

theorem applyImage_meas (s : State) (i : Image) (source m : Nat) : (s.applyImage i source m).org.meas = s.org.meas := by
  rw [(applyImage_applies s i source m).2.1]

/-- An image is taken: the tables name it, and its digest is measured. -/
def ImageTaken (s : State) (i : Image) (src : Nat) (t : State) : Prop :=
  t.ptr.image = i ∧ t.ptr.source = src ∧ SMap.get 0 t.org.meas 5 = extendM (SMap.get 0 s.org.meas 5) i.digest ∧
    ∀ r, r ≠ 5 → SMap.get 0 t.org.meas r = SMap.get 0 s.org.meas r

theorem measure_ptr (s : State) (r d : Nat) : (s.measure r d).ptr = s.ptr := by
  obtain ⟨m, h⟩ := measure_eq s r d
  rw [h]

theorem takeImage_takes {s u : State} (h : Kept s u) (i : Image) (src : Nat) : ImageTaken s i src (takeImage u i src) := by
  obtain ⟨-, -, hi, hs⟩ := applyImage_applies u i src 0xFF
  have hm : (u.applyImage i src 0xFF).org.meas = s.org.meas := (applyImage_meas u i src 0xFF).trans h.meas
  unfold takeImage ImageTaken
  rw [measure_ptr, measure_meas, if_pos rfl, hm]
  refine ⟨hi, hs, rfl, fun r hr => ?_⟩
  rw [measure_meas, if_neg hr, hm]

section
variable {s : State} {k : Nat}

theorem imageStep_own {i : Image} (h : s.slotImage k = .ok i) : ImageTaken s i (k + 1) (imageStep s k) := by
  rw [imageStep, h]
  exact takeImage_takes (Kept.refl s) i _

theorem imageStep_other {e : Nat} {i : Image} (h : s.slotImage k = .error e) (h' : s.slotImage (1 - k) = .ok i) :
    ImageTaken s i (2 - k) (imageStep s k) := by
  rw [imageStep, h]
  dsimp only
  rw [slotImage_congr (imageFails_kept s), h']
  exact takeImage_takes (imageFails_kept s) i _

theorem imageStep_factory {e e' : Nat} (h : s.slotImage k = .error e) (h' : s.slotImage (1 - k) = .error e') :
    (imageStep s k).ptr.image = Image.factory ∧ (imageStep s k).ptr.source = 0 ∧ (imageStep s k).org.meas = s.org.meas := by
  rw [imageStep, h]
  dsimp only
  rw [slotImage_congr (imageFails_kept s), h']
  obtain ⟨-, -, hi, hs⟩ := applyImage_applies (imageFails (imageFails s)) Image.factory 0 0xFF
  exact ⟨hi, hs, (applyImage_meas _ _ _ _).trans ((imageFails_kept s).trans (imageFails_kept _)).meas⟩

theorem imageStep_meas {r : Nat} (hr : r ≠ 5) : SMap.get 0 (imageStep s k).org.meas r = SMap.get 0 s.org.meas r := by
  cases h : s.slotImage k with
  | ok i => exact (imageStep_own h).2.2.2 r hr
  | error e => cases h' : s.slotImage (1 - k) with
    | ok i => exact (imageStep_other h h').2.2.2 r hr
    | error e' => rw [(imageStep_factory h h').2.2]

end

/-! ### The site key -/

theorem siteStep_same {s : State} (hk : s.org.siteKey = none) (h : s.org.fuses.slot = 0) : s.siteStep = s := by
  unfold State.siteStep
  simp only [hk, h, if_true]

theorem siteStep_enrols {s : State} {k : Nat} (hk : s.org.siteKey = some k) (h : s.org.fuses.slot ≠ 0)
    (hh : sha256 (leBytes 48 k) = s.org.fuses.slot) : s.siteStep.org.site = true ∧
    SMap.get 0 s.siteStep.org.meas 6 = extendM (SMap.get 0 s.org.meas 6) (sha256 (leBytes 48 k)) := by
  have hs : s.siteStep = ({ s with org := { s.org with site := true } } : State).measure 6 (sha256 (leBytes 48 k)) := by
    unfold State.siteStep
    simp only [hk]
    exact if_pos ⟨h, hh⟩
  rw [hs]
  generalize sha256 (leBytes 48 k) = h
  rw [measure_meas, if_pos rfl]
  exact ⟨rfl, rfl⟩

/-! ### Step 6 -/

theorem partsApplying_eq (s : State) : ((partsApplying s).toStep 7).boot.phase = 7 ∧ ((partsApplying s).toStep 7).org = s.org ∧
    ((partsApplying s).toStep 7).ptr.image = s.ptr.image ∧ ((partsApplying s).toStep 7).ptr.source = s.ptr.source := ⟨rfl, rfl, rfl, rfl⟩

theorem exec_start_6 {recErr : Bool} {lanes : List (StackIx × Fin 2080)} {s : State} (on : s.pwr.input = true) (hf : s.boot.failed = false)
    (hp : s.boot.phase = 6) : Next (.start 6 recErr lanes) s (fun t => t.boot.phase = 7 ∧ t.org = (imageStep s.siteStep s.boot.slot).org ∧
      t.ptr.image = (imageStep s.siteStep s.boot.slot).ptr.image ∧ t.ptr.source = (imageStep s.siteStep s.boot.slot).ptr.source) := by
  have hs : s.startStep recErr lanes = (partsApplying (imageStep s.siteStep s.boot.slot)).toStep 7 := by
    simp only [State.startStep, hp]
    exact step6_eq s
  have h := partsApplying_eq (imageStep s.siteStep s.boot.slot)
  exact ⟨_, exec_start_step on hf hp (by decide) hs (.inr (by rw [h.1]; decide)), h⟩

end Sys2Proof.Proofs.ImageChoice

/-! PROOFS. Step 8 of a start: the stacks are trained and the memories zeroised, and each die's boot code is loaded (09 R245, R252, R253, R257;
17 R456). -/

namespace Sys2Proof.Proofs.Training

open Sys2Proof Sys2Proof.Machine Sys2Proof.Laws Sys2Proof.Proofs.BootRecord Sys2Proof.Proofs.Resets Sys2Proof.Proofs.StartSteps

/-! ### Lists paired in order -/

/-- The pair's parts stand at one place of two lists. -/
def Paired (a b : List Nat) (p : Nat × Nat) : Prop := ∃ i, ∃ (h1 : i < a.length) (h2 : i < b.length), p = (a[i], b[i])

theorem mem_zip_paired {a b : List Nat} {p : Nat × Nat} : p ∈ List.zip a b ↔ Paired a b p := by
  unfold Paired
  rw [List.mem_iff_getElem]
  constructor
  · rintro ⟨i, hi, rfl⟩
    rw [List.length_zip] at hi
    exact ⟨i, by omega, by omega, List.getElem_zip⟩
  · rintro ⟨i, h1, h2, rfl⟩
    exact ⟨i, by rw [List.length_zip]; omega, List.getElem_zip⟩

theorem getElem_lt_iff {l : List Nat} (h : l.Pairwise (· < ·)) {i j : Nat} (hi : i < l.length) (hj : j < l.length) : l[i] < l[j] ↔ i < j := by
  have key := List.pairwise_iff_getElem.1 h
  constructor
  · intro hlt
    by_contra hn
    rcases Nat.lt_or_eq_of_le (Nat.le_of_not_lt hn) with h1 | h1
    · have := key j i hj hi h1
      omega
    · subst h1
      omega
  · exact fun hlt => key i j hi hj hlt

theorem filter_range_rising (p : Nat → Bool) (n : Nat) : ((List.range n).filter p).Pairwise (· < ·) := List.pairwise_lt_range.filter p

/-! ### Spares and the lanes that need one -/

/-- The pairing holds: it is recorded, and its spare passes. -/
def Keeps (x : Stack) (isBad : Nat → Prop) (p : Nat × Nat) : Prop := p ∈ x.repair ∧ ¬ isBad (2048 + p.1)
/-- The spare is free. -/
def Free (x : Stack) (isBad : Nat → Prop) (j : Nat) : Prop := j < 32 ∧ ¬ isBad (2048 + j) ∧ ∀ p, p ∈ x.repair → p.1 ≠ j
/-- The lane needs a spare. -/
def Needs (x : Stack) (isBad : Nat → Prop) (l : Nat) : Prop :=
  l < 2048 ∧ (isBad l ∨ ∃ p, p ∈ x.repair ∧ p.2 = l) ∧ ∀ p, Keeps x isBad p → p.2 ≠ l

section
variable {x : Stack} {bad : List Nat} {isBad : Nat → Prop} (hb : ∀ j, j ∈ bad ↔ isBad j)
include hb

theorem mem_kept (p : Nat × Nat) : p ∈ x.kept bad ↔ Keeps x isBad p := by
  simp [Stack.kept, Keeps, hb]

theorem mem_spares (j : Nat) : j ∈ x.spares bad ↔ Free x isBad j := by
  simp [Stack.spares, Free, hb]

theorem mem_needy (l : Nat) : l ∈ x.needy bad ↔ Needs x isBad l := by
  have hk : (x.kept bad).any (fun r => r.2 == l) = false ↔ ∀ p, Keeps x isBad p → p.2 ≠ l := by
    rw [List.any_eq_false]
    simp only [mem_kept hb, beq_iff_eq, ne_eq]
  unfold Stack.needy Needs
  rw [List.mem_filter, List.mem_range, Bool.and_eq_true, Bool.not_eq_true', hk]
  simp [hb]

theorem mem_failing (l : Nat) : l ∈ (x.train bad).failing ↔ l < 2080 ∧ isBad l := by
  simp [Stack.train, hb]

theorem mem_repair (p : Nat × Nat) : p ∈ (x.train bad).repair ↔ Keeps x isBad p ∨
    Paired (x.spares bad) (x.needy bad) p := by
  rw [← mem_kept hb, ← mem_zip_paired, ← List.mem_append]
  rfl

/-- A pairing that is new stands in the two lists at one place. -/
theorem new_pairing {p : Nat × Nat} (h : p ∈ (x.train bad).repair) (hn : ¬ Keeps x isBad p) :
    Paired (x.spares bad) (x.needy bad) p :=
  ((mem_repair hb p).1 h).resolve_left hn

/-- A new pairing is of a free spare and a lane that needs one, and they pair in order. -/
theorem new_pairing_ordered {p : Nat × Nat} (h : p ∈ (x.train bad).repair) (hn : ¬ Keeps x isBad p) : Free x isBad p.1 ∧ Needs x isBad p.2 ∧
    ∀ q, q ∈ (x.train bad).repair → ¬ Keeps x isBad q → p.2 < q.2 → p.1 < q.1 := by
  obtain ⟨i, h1, h2, rfl⟩ := new_pairing hb h hn
  refine ⟨(mem_spares hb _).1 (List.getElem_mem h1), (mem_needy hb _).1 (List.getElem_mem h2), fun q hq hqn hlt => ?_⟩
  obtain ⟨j, g1, g2, rfl⟩ := new_pairing hb hq hqn
  have hij := (getElem_lt_iff (filter_range_rising _ _) h2 g2).1 hlt
  exact (getElem_lt_iff (filter_range_rising _ _) h1 g1).2 hij

/-- A lane that needs a spare and got none. -/
def Lacks (x : Stack) (isBad : Nat → Prop) (rep : List (Nat × Nat)) : Prop := ∃ l, Needs x isBad l ∧ ∀ p, p ∈ rep → p.2 ≠ l

theorem lacks_iff : Lacks x isBad (x.train bad).repair ↔ (x.spares bad).length < (x.needy bad).length := by
  constructor
  · rintro ⟨l, hl, hp⟩
    by_contra hn
    obtain ⟨i, hi, rfl⟩ := List.mem_iff_getElem.1 ((mem_needy hb l).2 hl)
    exact hp ((x.spares bad)[i]'(by omega), (x.needy bad)[i]) ((mem_repair hb _).2 (.inr ⟨i, by omega, hi, rfl⟩)) rfl
  · intro hlt
    have hl := (mem_needy hb _).1 (List.getElem_mem hlt)
    refine ⟨_, hl, fun p hp => ?_⟩
    rcases (mem_repair hb p).1 hp with hk | ⟨i, h1, h2, rfl⟩
    · exact hl.2.2 p hk
    · have := (getElem_lt_iff (filter_range_rising _ _) h2 hlt).2 h1
      exact Nat.ne_of_lt this

/-- A free spare that stays unused comes after every spare newly in use, and no lane lacks one. -/
theorem free_unused {j : Nat} (hj : Free x isBad j) (hu : ∀ p, p ∈ (x.train bad).repair → p.1 ≠ j) :
    ¬ Lacks x isBad (x.train bad).repair ∧ ∀ p, p ∈ (x.train bad).repair → ¬ Keeps x isBad p → p.1 < j := by
  obtain ⟨i, hi, rfl⟩ := List.mem_iff_getElem.1 ((mem_spares hb j).2 hj)
  have hge : (x.needy bad).length ≤ i := by
    by_contra hlt
    exact hu ((x.spares bad)[i], (x.needy bad)[i]'(by omega)) ((mem_repair hb _).2 (.inr ⟨i, hi, by omega, rfl⟩)) rfl
  refine ⟨fun hl => ?_, fun p hp hn => ?_⟩
  · have := (lacks_iff hb).1 hl
    omega
  · obtain ⟨a, h1, h2, rfl⟩ := new_pairing hb hp hn
    exact (getElem_lt_iff (filter_range_rising _ _) h1 hi).2 (by omega)

omit hb in
theorem train_st : (x.train bad).st = if x.st = .degraded ∨ (x.spares bad).length < (x.needy bad).length then .degraded else .ready := by
  unfold Stack.train
  dsimp only
  refine if_congr ?_ rfl rfl
  simp

end

/-! ### Every stack is trained -/

/-- The lanes of stack `k` that fail. -/
def badLanes (lanes : List (StackIx × Fin 2080)) (k : Nat) : List Nat := (lanes.filter (fun l => l.1.val == k)).map (fun l => l.2.val)

theorem mem_badLanes (lanes : List (StackIx × Fin 2080)) (k j : Nat) : j ∈ badLanes lanes k ↔ ∃ e, e ∈ lanes ∧ e.1.val = k ∧ e.2.val = j := by
  unfold badLanes
  simp only [List.mem_map, List.mem_filter, beq_iff_eq, and_assoc]

/-- A stack after training: one that no partition owns rests in self-refresh. -/
def rested (owner : Option Nat) (y : Stack) : Stack :=
  let z := match owner, y.st with
    | none, .ready => { y with st := .selfref }
    | _, _ => y
  { z with msc := [], wcb := [] }

def trainedStack (lanes : List (StackIx × Fin 2080)) (p : Ptr) (k : Nat) (x : Stack) : Stack :=
  rested (p.image.stackOwner k) (x.train (badLanes lanes k))

theorem trainAll_eq (s : State) (lanes : List (StackIx × Fin 2080)) :
    s.trainAll lanes = (List.range 16).foldl (fun s k => s.setStack k (trainedStack lanes s.ptr k (s.stack k))) s := rfl

theorem trainAll_stack (s : State) (lanes : List (StackIx × Fin 2080)) {k : Nat} (hk : k < 16) :
    (s.trainAll lanes).stack k = trainedStack lanes s.ptr k (s.stack k) := by
  rw [trainAll_eq]
  exact (stack_foldl_setStack (trainedStack lanes) _ List.nodup_range s k).trans (if_pos (List.mem_range.2 hk))

theorem rested_eq (owner : Option Nat) (y : Stack) :
    rested owner y = { y with st := if owner = none ∧ y.st = .ready then .selfref else y.st, msc := [], wcb := [] } := by
  unfold rested
  dsimp only
  split
  · rename_i hs
    rw [if_pos ⟨rfl, hs⟩]
  · rename_i hn
    rw [if_neg (fun h => hn h.1 h.2)]

theorem rested_rest (owner : Option Nat) (y : Stack) : (rested owner y).msc = [] ∧ (rested owner y).wcb = [] ∧
    (rested owner y).failing = y.failing ∧ (rested owner y).repair = y.repair ∧
    (rested owner y).st = if owner = none ∧ y.st = .ready then .selfref else y.st := by
  rw [rested_eq]
  exact ⟨rfl, rfl, rfl, rfl, rfl⟩

/-- What training leaves of a stack (R252, R253). -/
theorem trainedStack_trains (lanes : List (StackIx × Fin 2080)) (p : Ptr) (k : Nat) (x : Stack) :
    let y := trainedStack lanes p k x
    let isBad := fun (j : Nat) => ∃ e, e ∈ lanes ∧ e.1.val = k ∧ e.2.val = j
    y.msc = [] ∧ y.wcb = [] ∧ (∀ l, l ∈ y.failing ↔ (l < 2080 ∧ isBad l)) ∧ (∀ q, Keeps x isBad q → q ∈ y.repair) ∧
      (∀ q, q ∈ y.repair → ¬ Keeps x isBad q → Free x isBad q.1 ∧ Needs x isBad q.2 ∧
        ∀ r, r ∈ y.repair → ¬ Keeps x isBad r → q.2 < r.2 → q.1 < r.1) ∧
      (∀ j, Free x isBad j → (∀ q, q ∈ y.repair → q.1 ≠ j) → ¬ Lacks x isBad y.repair ∧ ∀ q, q ∈ y.repair → ¬ Keeps x isBad q → q.1 < j) ∧
      (x.st = .degraded ∨ Lacks x isBad y.repair → y.st = .degraded) ∧
      (x.st ≠ .degraded → ¬ Lacks x isBad y.repair → y.st = if p.image.stackOwner k = none then .selfref else .ready) := by
  intro y isBad
  obtain ⟨hm, hw, hf, hr, hst⟩ : y.msc = [] ∧ y.wcb = [] ∧ y.failing = (x.train (badLanes lanes k)).failing ∧
      y.repair = (x.train (badLanes lanes k)).repair ∧ y.st = _ := rested_rest (p.image.stackOwner k) (x.train (badLanes lanes k))
  have hb : ∀ j, j ∈ badLanes lanes k ↔ isBad j := mem_badLanes lanes k
  have hts := train_st (x := x) (bad := badLanes lanes k)
  have hl : Lacks x isBad y.repair ↔ (x.spares (badLanes lanes k)).length < (x.needy (badLanes lanes k)).length := by
    rw [hr]
    exact lacks_iff hb
  refine ⟨hm, hw, fun l => ?_, fun q hq => ?_, fun q hq hn => ?_, fun j hj hu => ?_, fun h => ?_, fun h1 h2 => ?_⟩
  · rw [← mem_failing hb l, ← hf]
  · exact hr ▸ (mem_repair hb q).2 (.inl hq)
  · have h := new_pairing_ordered hb (hr ▸ hq) hn
    rwa [← hr] at h
  · have h := free_unused hb hj (hr ▸ hu)
    rwa [← hr] at h
  · rw [if_pos (h.imp_right hl.1)] at hts
    exact hst.trans ((if_neg (fun h => absurd (hts ▸ h.2) (by decide))).trans hts)
  · rw [if_neg (not_or_intro h1 (fun h => h2 (hl.2 h)))] at hts
    exact hst.trans (if_congr (and_iff_left hts) rfl hts)

/-! ### The boot code is loaded -/

/-- The code written at the start of the near memory of the first `n` dies. -/
def loadCode (code : List Byte) (n : Nat) : Mem := (List.range n).foldl (fun m p => Mem.writeN m (nearOf p) code) []

theorem loadCode_succ (code : List Byte) (n : Nat) : loadCode code (n + 1) = Mem.writeN (loadCode code n) (nearOf n) code := by
  rw [loadCode, List.range_succ, List.foldl_append]
  rfl

theorem loadCode_wf (code : List Byte) (n : Nat) : Mem.wf (loadCode code n) = true := by
  induction n with
  | zero => rfl
  | succ n ih => rw [loadCode_succ]; exact mem_wf_writeN _ _ _ ih

section
variable {code : List Byte} (hc : code.length ≤ nearSize)
include hc

theorem read_loadCode_in {n p x : Nat} (hp : p < n) (h : nearOf p ≤ x) (h' : x < nearOf p + code.length) :
    Mem.read (loadCode code n) x = code.getD (x - nearOf p) 0 := by
  induction n with
  | zero => omega
  | succ n ih =>
    rw [loadCode_succ, read_writeN]
    by_cases hpn : p = n
    · subst hpn
      exact if_pos ⟨h, h'⟩
    · rw [if_neg, ih (by omega)]
      unfold nearOf nearSize at *
      omega

omit hc in
theorem read_loadCode_out {n x : Nat} (h : ∀ p, p < n → x < nearOf p ∨ nearOf p + code.length ≤ x) : Mem.read (loadCode code n) x = 0 := by
  induction n with
  | zero => rfl
  | succ n ih =>
    have := h n (by omega)
    rw [loadCode_succ, read_writeN, if_neg (by omega), ih (fun p hp => h p (by omega))]

/-- Each die's near memory begins with the code. -/
theorem readN_loadCode {n p : Nat} (hp : p < n) : Mem.readN (loadCode code n) (nearOf p) code.length = code := by
  refine (readN_congr (fun x hx hx' => ?_)).trans (readN_writeN [] (nearOf p) code)
  rw [read_loadCode_in hc hp hx hx', read_writeN, if_pos ⟨hx, hx'⟩]

end

theorem foldl_mem (f : Mem → Nat → Mem) (l : List Nat) (s : State) :
    l.foldl (fun s p => { s with mem := f s.mem p }) s = { s with mem := l.foldl f s.mem } := by
  induction l generalizing s with
  | nil => rfl
  | cons p l ih => exact ih _

theorem loads_code (u : State) (code : List Byte) :
    (List.range 8).foldl (fun s p => { s with mem := Mem.writeN s.mem (nearOf p) code }) ({ u with mem := [] } : State) =
      { u with mem := loadCode code 8 } := foldl_mem (fun m p => Mem.writeN m (nearOf p) code) _ _

/-- The boot code of a state's slot. -/
def bootCode (s : State) : List Byte :=
  let hd := s.norRead s.boot.slot 0 256
  s.norRead s.boot.slot (fwOff hd 2) (fwLen hd 2)

theorem bootCode_congr {s t : State} (h : t.boot = s.boot) : bootCode t = bootCode s := by
  have hn : ∀ k x n, t.norRead k x n = s.norRead k x n := fun k x n => norRead_congr (by rw [h]) k x n
  simp only [bootCode, h, hn]

theorem trainAll_boot (s : State) (lanes : List (StackIx × Fin 2080)) : (s.trainAll lanes).boot = s.boot := by
  obtain ⟨h, ht⟩ := foldl_setStack_eq (fun s k => trainedStack lanes s.ptr k (s.stack k)) (List.range 16) s
  rw [trainAll_eq, ht]

/-- Step 8 once the stacks are trained. -/
def codeLoaded (u : State) : State :=
  let s2 := { u with mem := [] }
  let h := s2.norRead s2.boot.slot 0 256
  let code := s2.norRead s2.boot.slot (fwOff h 2) (fwLen h 2)
  let s3 := (List.range 8).foldl (fun s p => { s with mem := Mem.writeN s.mem (nearOf p) code }) s2
  s3.toStep 9

theorem codeLoaded_eq (u : State) : codeLoaded u = ({ u with mem := loadCode (bootCode u) 8 } : State).toStep 9 := by
  have hb : bootCode ({ u with mem := [] } : State) = bootCode u := bootCode_congr rfl
  rw [← hb, ← loads_code]
  rfl

theorem codeLoaded_loads (u : State) : (codeLoaded u).boot.phase = 9 ∧ (codeLoaded u).mem = loadCode (bootCode u) 8 ∧
    ∀ k, (codeLoaded u).stack k = u.stack k := by
  rw [codeLoaded_eq]
  generalize loadCode (bootCode u) 8 = m
  exact ⟨rfl, rfl, fun _ => rfl⟩

theorem step8_eq (s : State) (lanes : List (StackIx × Fin 2080)) : s.step8 lanes = codeLoaded (s.trainAll lanes) := rfl

theorem exec_start_8 {recErr : Bool} {lanes : List (StackIx × Fin 2080)} {s : State} (on : s.pwr.input = true) (hf : s.boot.failed = false)
    (hp : s.boot.phase = 8) : Next (.start 8 recErr lanes) s (fun t => t.boot.phase = 9 ∧ t.mem = loadCode (bootCode s) 8 ∧
      ∀ k, k < 16 → t.stack k = trainedStack lanes s.ptr k (s.stack k)) := by
  have hs : s.startStep recErr lanes = codeLoaded (s.trainAll lanes) := by
    simp only [State.startStep, hp]
    exact step8_eq s lanes
  obtain ⟨hph, hm, hst⟩ := codeLoaded_loads (s.trainAll lanes)
  refine ⟨_, exec_start_step on hf hp (by decide) hs (.inr (by rw [hph]; decide)), hph, ?_, fun k hk => ?_⟩
  · rw [hm, bootCode_congr (trainAll_boot s lanes)]
  · rw [hst, trainAll_stack s lanes hk]

end Sys2Proof.Proofs.Training

/-! PROOFS. Start-complete (17 R461, R466; 08 R230, R231; 15 R413): the record, the partitions and the Lodge's services, and source 262. -/

namespace Sys2Proof.Proofs.StartComplete

open Sys2Proof Sys2Proof.Machine Sys2Proof.Laws Sys2Proof.Proofs.BootRecord Sys2Proof.Proofs.Frames Sys2Proof.Proofs.WarmReset
  Sys2Proof.Proofs.StartSteps

/-! ### What raising a source leaves of the Lodge's state and of pending sources -/

/-- The Lodge's state stays, and no source ceases to be pending. -/
structure Marks (s t : State) : Prop where
  ldg : t.ldg = s.ldg
  pend : ∀ p b, (s.intc p).pend.testBit b = true → (t.intc p).pend.testBit b = true

theorem Marks.refl (s : State) : Marks s s := ⟨rfl, fun _ _ h => h⟩
theorem Marks.trans {s t u : State} (h : Marks s t) (g : Marks t u) : Marks s u :=
  ⟨g.ldg.trans h.ldg, fun p b hb => g.pend p b (h.pend p b hb)⟩

theorem marks_foldl {α : Type} (f : State → α → State) (h : ∀ s a, Marks s (f s a)) (l : List α) (s : State) : Marks s (l.foldl f s) := by
  induction l generalizing s with
  | nil => exact Marks.refl s
  | cons a l ih => exact (h s a).trans (ih _)

theorem marks_of {s t : State} (hl : t.ldg = s.ldg) (hi : t.ints = s.ints) : Marks s t := by
  refine ⟨hl, fun p b hb => ?_⟩
  rw [State.intc, hi]
  exact hb

theorem traceTo_marks (s : State) (j agent raw : Nat) : Marks s (s.traceTo j agent raw) := by
  unfold State.traceTo
  split
  · exact Marks.refl s
  · split
    · exact Marks.refl s
    · split
      · rename_i a n w _ _
        obtain ⟨cs, ms, h⟩ := dropCopies_eq s none (a + w) 64
        rw [h]
        exact marks_of rfl rfl
      · exact Marks.refl s

theorem trace_marks (s : State) (agent raw : Nat) : Marks s (s.trace agent raw) := by
  unfold State.trace
  split
  · exact Marks.refl s
  · exact marks_foldl _ (fun s j => traceTo_marks s j _ _) _ s

theorem buffer_marks (s : State) (r : ErrRec) : Marks s (s.buffer r) := by
  unfold State.buffer
  dsimp only
  split
  · exact Marks.refl s
  · split
    · exact marks_of rfl rfl
    · split
      · exact marks_of rfl rfl
      · split <;> exact marks_of rfl rfl

theorem record_marks (s : State) (r : ErrRec) : Marks s (s.record r).2 := by
  unfold State.record
  dsimp only
  refine Marks.trans ?_ (trace_marks _ _ _)
  refine Marks.trans (t := (s.stamp r.loc r.cause).2) (marks_of rfl rfl) ?_
  refine Marks.trans (buffer_marks _ { r with stamp := (s.stamp r.loc r.cause).1, start := (s.stamp r.loc r.cause).2.boot.count % 2 ^ 32 }) ?_
  exact marks_of rfl rfl

theorem intc_setIntc (s : State) (p : Nat) (x : IntCtl) (j : Nat) : (s.setIntc p x).intc j = if p = j then x else s.intc j :=
  get_set ({} : IntCtl) s.ints p j x

theorem setIntc_marks (s : State) (p : Nat) {x : IntCtl} (h : ∀ b, (s.intc p).pend.testBit b = true → x.pend.testBit b = true) :
    Marks s (s.setIntc p x) := by
  refine ⟨rfl, fun j b hb => ?_⟩
  rw [intc_setIntc]
  split
  · rename_i hp; subst hp; exact h b hb
  · exact hb

theorem msix_marks (s : State) (port f vec : Nat) : Marks s (s.msix port f vec) := by
  unfold State.msix State.issued
  dsimp only
  split
  · split <;> exact marks_of rfl rfl
  · exact marks_of rfl rfl

theorem message_marks (s : State) (p n : Nat) : Marks s (s.message p n) := by
  unfold State.message
  dsimp only
  split
  · have h : Marks s (s.setIntc p { s.intc p with msgs := (s.intc p).msgs ||| 2 ^ n }) := setIntc_marks s p (fun _ hb => hb)
    split
    · exact h.trans (marks_of rfl rfl)
    · exact h
  · exact msix_marks _ _ _ _

/-- An event marks its source, where no message takes its place. -/
def marked (s : State) (p n : Nat) : State :=
  if (s.rget (intTarget p n)).testBit 7 && !(s.rget (intTarget p n)).testBit 6 then s
  else s.setIntc p { s.intc p with pend := (s.intc p).pend ||| 2 ^ n }

theorem marked_marks (s : State) (p n : Nat) : Marks s (marked s p n) := by
  unfold marked
  split
  · exact Marks.refl s
  · exact setIntc_marks s p (fun b hb => by simp [Nat.testBit_or, hb])

theorem event1_after (s : State) {p n : Nat} (hn : ¬ ((231 ≤ n ∧ n ≤ 255) ∨ (263 ≤ n ∧ n ≤ 511) ∨ 1024 ≤ n)) :
    Marks (marked s p n) (s.event1 p n).1 := by
  unfold State.event1
  rw [if_neg hn]
  dsimp only
  split
  · split
    · split
      · exact message_marks _ _ _
      · exact Marks.refl _
    · exact Marks.refl _
  · exact Marks.refl _

theorem event1_marks (s : State) (p n : Nat) : Marks s (s.event1 p n).1 := by
  by_cases hn : (231 ≤ n ∧ n ≤ 255) ∨ (263 ≤ n ∧ n ≤ 511) ∨ 1024 ≤ n
  · unfold State.event1
    rw [if_pos hn]
    exact Marks.refl s
  · exact (marked_marks s p n).trans (event1_after s hn)

theorem events_marks (l : List (Nat × Nat)) (s : State) : Marks s (State.events l s).1 := by
  induction l generalizing s with
  | nil => exact Marks.refl s
  | cons a l ih => exact (event1_marks s a.1 a.2).trans (ih _)

theorem dropRecord_marks (s : State) (p : Nat) : Marks s (s.dropRecord p) := record_marks _ _

theorem dropRecords_marks (l : List Nat) (s : State) : Marks s (State.dropRecords l s) := by
  induction l generalizing s with
  | nil => exact Marks.refl s
  | cons p ps ih =>
    exact ((dropRecord_marks s p).trans (events_marks [(p, 229)] _)).trans ((marks_foldl _ dropRecord_marks _ _).trans (ih _))

theorem raise_marks (s : State) (p n : Nat) : Marks s (s.raise p n) := (events_marks _ _).trans (dropRecords_marks _ _)

/-- A source that sends no message becomes pending. -/
theorem event1_pends (s : State) {p n : Nat} (hn : ¬ ((231 ≤ n ∧ n ≤ 255) ∨ (263 ≤ n ∧ n ≤ 511) ∨ 1024 ≤ n))
    (h : (s.rget (intTarget p n)).testBit 7 = false) : ((s.event1 p n).1.intc p).pend.testBit n = true := by
  refine (event1_after s hn).pend p n ?_
  unfold marked
  rw [if_neg (by simp [h]), intc_setIntc, if_pos rfl]
  simp [Nat.testBit_or]

theorem reported_rget {s t : State} (h : Reported s t) (r : Reg) : t.rget r = s.rget r := by
  have hr : t.regs = s.regs := by rw [h.1]
  rw [State.rget, hr]
  rfl

theorem events_pends {n : Nat} (hn : ¬ ((231 ≤ n ∧ n ≤ 255) ∨ (263 ≤ n ∧ n ≤ 511) ∨ 1024 ≤ n)) (l : List Nat) (s : State) {d : Nat} (hd : d ∈ l)
    (h : (s.rget (intTarget d n)).testBit 7 = false) : (((State.events (l.map (fun d => (d, n))) s).1).intc d).pend.testBit n = true := by
  induction l generalizing s with
  | nil => simp at hd
  | cons a l ih =>
    by_cases ha : d = a
    · subst ha
      exact (events_marks (l.map (fun d => (d, n))) (s.event1 d n).1).pend d n (event1_pends s hn h)
    · refine ih (s.event1 a n).1 ((List.mem_cons.1 hd).resolve_left ha) ?_
      rw [reported_rget (event1_reported s a n)]
      exact h

/-- A source that every die mirrors is pending at each that sends no message for it. -/
theorem raise_262 (s : State) {d : Nat} (hd : d < 8) (h : (s.rget (intTarget d 262)).testBit 7 = false) :
    ((s.raise 0 262).intc d).pend.testBit 262 = true := by
  have h1 := events_pends (n := 262) (by decide) (List.range 8) s (List.mem_range.2 hd) h
  have h2 : s.raise 0 262 = State.dropRecords (State.events ((List.range 8).map (fun d => (d, 262))) s).2
    (State.events ((List.range 8).map (fun d => (d, 262))) s).1 := by
    unfold State.raise
    rw [if_pos (by decide)]
  rw [h2]
  exact (dropRecords_marks _ _).pend d 262 h1

/-! ### Start-complete -/

/-- The record of a start that completes. -/
def completeRec (s : State) (r : BootRec) (v : Nat) : BootRec :=
  { r with
    slotSt := r.slotSt.set s.boot.slot 2, attempts := 0,
    log := r.log.set ((r.next + 7) % 8) ⟨(nth {} r.log ((r.next + 7) % 8)).start, 11, s.boot.slot, s.ptr.source, 0, v⟩ }

theorem completeRec_eq (s : State) (r : BootRec) (v : Nat) : completeRec s r v =
    { r.setEnt { r.ent 0 with step := 11, slot := s.boot.slot, imgsrc := s.ptr.source, reason := 0, elapsed := v } with
      slotSt := r.slotSt.set s.boot.slot 2, attempts := 0 } := by
  have hc : (r.next + 15 - 0) % 8 = (r.next + 7) % 8 := by omega
  unfold completeRec BootRec.setEnt BootRec.ent BootRec.cur
  rw [hc]

/-- The record is written, and the partitions run. -/
def completes (u : State) : State :=
  ({ u with boot := { u.boot with last := u.boot.slot }
            ptr := { u.ptr with parts := (List.range 8).map u.partState }
            ldg := { u.ldg with held := u.ptr.image.lodge } } : State).toStep 12

/-- What follows the record. -/
def afterRecord (u : State) : State := (((completes u).initSteps.startService).raise 0 262).warmIfHeld

def recorded (s : State) : State :=
  let (v, s0) := s.draw
  match s0.boot.record with
  | some r =>
    s0.recordSave { r.setEnt { r.ent 0 with step := 11, slot := s0.boot.slot, imgsrc := s0.ptr.source, reason := 0, elapsed := v % 2 ^ 16 } with
      slotSt := r.slotSt.set s0.boot.slot 2, attempts := 0 }
  | none => s0

theorem startComplete_eq (s : State) : s.startComplete = afterRecord (recorded s) := rfl

theorem recorded_some {s : State} {r : BootRec} (hr : s.boot.record = some r) : recorded s =
    ({ s with free := s.free + 1 } : State).recordSave (completeRec s r (Config.freeValue s.free % 2 ^ 16)) := by
  rw [completeRec_eq]
  unfold recorded State.draw
  simp only [hr]

/-- Before source 262 is raised. -/
def served (u : State) : State := (completes u).initSteps.startService

theorem afterRecord_eq {u : State} (h : u.boot.warmHeld = false) : afterRecord u = (served u).raise 0 262 := by
  have hb : ((served u).raise 0 262).boot.warmHeld = false := by
    obtain ⟨c, x, he⟩ := startService_eq (completes u).initSteps
    rw [(raise_outside _ _ _).boot, served, he]
    exact h
  have hn : ¬ ((served u).raise 0 262).boot.warmHeld = true := by rw [hb]; decide
  exact if_neg hn

theorem served_rest (u : State) : (served u).boot = { u.boot with phase := 12, last := u.boot.slot } ∧
    (served u).ptr = { u.ptr with parts := (List.range 8).map u.partState } ∧ (served u).ldg.held = u.ptr.image.lodge ∧ (served u).regs = u.regs := by
  obtain ⟨c, x, he⟩ := startService_eq (completes u).initSteps
  rw [served, he]
  exact ⟨rfl, rfl, rfl, rfl⟩

theorem served_runs (u : State) : ServiceRuns u (served u) := by
  intro hl hr k hk
  refine startService_runs (s := (completes u).initSteps) hl (show (12 : Nat) ≠ 13 by decide) (fun i ho => ?_) hk
  have ho' : u.dieOwner 0 = some i := ho
  have hi : i < 8 := by
    unfold State.dieOwner at ho'
    exact findPart_lt ho'
  exact (nth_partState u hi).trans (hr i ho')

/-- What a start that completes leaves (R461). -/
theorem afterRecord_completes {u : State} (h : u.boot.warmHeld = false) : let t := afterRecord u
    t.boot = { u.boot with phase := 12, last := u.boot.slot } ∧ t.ptr = { u.ptr with parts := (List.range 8).map u.partState } ∧
    t.ldg.held = u.ptr.image.lodge ∧ ServiceRuns u t ∧
    ∀ d, d < 8 → (u.rget (intTarget d 262)).testBit 7 = false → (t.intc d).pend.testBit 262 = true := by
  rw [afterRecord_eq h]
  obtain ⟨hb, hp, hl, hr⟩ := served_rest u
  have ho := raise_outside (served u) 0 262
  refine ⟨ho.boot.trans hb, ho.ptr.trans hp, ?_, fun h1 h2 k hk => (ho.run k).trans (served_runs u h1 h2 k hk), fun d hd hm => raise_262 _ hd ?_⟩
  · rw [(raise_marks (served u) 0 262).ldg]
    exact hl
  · have hg : (served u).rget (intTarget d 262) = u.rget (intTarget d 262) := by
      rw [State.rget, hr]
      rfl
    rw [hg]
    exact hm

/-- The record written from a later free value is the one written before it. -/
theorem recordSave_free (s : State) (x : BootRec) (n : Nat) :
    ({ s with free := n } : State).recordSave x = { s with free := n, boot := (s.recordSave x).boot } := by
  have hn : (({ s with free := n } : State).recordSave x).boot.nor = (s.recordSave x).boot.nor := recordSave_nor_congr (s := s) rfl x
  have he := recordSave_eq ({ s with free := n } : State) x
  have he' := congrArg State.boot (recordSave_eq s x)
  rw [he, hn, he']

/-- The start completes from a state that is `s` but for the start-up state and free values. -/
theorem completes_from {s w : State} {b : Boot} {n : Nat} (he : w = { s with free := n, boot := b }) (hw : b.warmHeld = false) :
    (afterRecord w).boot = { b with phase := 12, last := b.slot } ∧
    (afterRecord w).ptr = { s.ptr with parts := (List.range 8).map s.partState } ∧ (afterRecord w).ldg.held = s.ptr.image.lodge ∧
    ServiceRuns s (afterRecord w) ∧
    ∀ d, d < 8 → (s.rget (intTarget d 262)).testBit 7 = false → ((afterRecord w).intc d).pend.testBit 262 = true := by
  have hwb : w.boot = b := by rw [he]
  have hwp : w.ptr = s.ptr := by rw [he]
  have hwm : w.memsys = s.memsys := by rw [he]
  have hwr : w.regs = s.regs := by rw [he]
  have hparts : w.partState = s.partState := funext (partState_congr (by rw [hwp]) (fun k => by rw [stack_congr hwm]))
  obtain ⟨hb, hptr, hl, hrun, hpend⟩ := afterRecord_completes (u := w) (by rw [hwb]; exact hw)
  refine ⟨by rw [hb, hwb], by rw [hptr, hwp, hparts], by rw [hl, hwp], fun h1 h2 => hrun (by rw [hwp]; exact h1) (fun i hi => ?_),
    fun d hd hm => hpend d hd ?_⟩
  · rw [hparts]
    refine h2 i ?_
    rw [State.dieOwner, hwp] at hi
    exact hi
  · rw [State.rget, hwr]
    exact hm

theorem recordSave_slot (s : State) (x : BootRec) : (s.recordSave x).boot.slot = s.boot.slot ∧ (s.recordSave x).boot.warmHeld = s.boot.warmHeld := by
  rw [recordSave_eq]
  exact ⟨rfl, rfl⟩

theorem exec_start_11 {recErr : Bool} {lanes : List (StackIx × Fin 2080)} {s : State} (on : s.pwr.input = true) (hf : s.boot.failed = false)
    (hp : s.boot.phase = 11) {r : BootRec} (hr : s.boot.record = some r) (hw : s.boot.warmHeld = false) :
    Next (.start 11 recErr lanes) s (fun t =>
      (∃ v, v < 2 ^ 16 ∧ t.boot = { (s.recordSave (completeRec s r v)).boot with phase := 12, last := s.boot.slot }) ∧
      t.ptr = { s.ptr with parts := (List.range 8).map s.partState } ∧ t.ldg.held = s.ptr.image.lodge ∧ ServiceRuns s t ∧
      ∀ d, d < 8 → (s.rget (intTarget d 262)).testBit 7 = false → (t.intc d).pend.testBit 262 = true) := by
  have hs : s.startStep recErr lanes = afterRecord (recorded s) := by
    simp only [State.startStep, hp]
    exact startComplete_eq s
  rw [recorded_some hr] at hs
  have hv := Nat.mod_lt (Config.freeValue s.free) (show 0 < 2 ^ 16 by decide)
  generalize Config.freeValue s.free % 2 ^ 16 = v at hs hv
  obtain ⟨hsl, hwh⟩ := recordSave_slot s (completeRec s r v)
  obtain ⟨hb, h⟩ := completes_from (recordSave_free s (completeRec s r v) (s.free + 1)) (hwh.trans hw)
  rw [hsl] at hb
  have hph : (afterRecord (({ s with free := s.free + 1 } : State).recordSave (completeRec s r v))).boot.phase = 12 := by rw [hb]
  exact ⟨_, exec_start_step on hf hp (by decide) hs (.inr (by rw [hph]; decide)), ⟨v, hv, hb⟩, h⟩

end Sys2Proof.Proofs.StartComplete

/-! PROOFS. The reference clock: its judgement in step 3, and its check after start-complete (18 R469, R470). -/

namespace Sys2Proof.Proofs.RefClock

open Sys2Proof Sys2Proof.Machine Sys2Proof.Laws

theorem dist_eq (n m : Nat) : Machine.dist n m = if n ≤ m then m - n else n - m := by
  unfold Machine.dist
  split <;> omega

theorem refOk_iff (n : Nat) : refOk n = true ↔ 32768 ≤ n ∧ ((65471 ≤ n ∧ n ≤ 65601) ∨ (65307 ≤ n ∧ n ≤ 65437)) := by
  simp only [refOk, dist_eq, Bool.and_eq_true, Bool.or_eq_true, decide_eq_true_eq]
  split <;> split <;> omega

theorem ringOk_iff (n : Nat) : ringOk n = true ↔ 12288 ≤ n ∧ n ≤ 20480 := by
  simp only [ringOk, Bool.and_eq_true, decide_eq_true_eq]

theorem nearSsc_eq (n : Nat) : nearSsc n = decide (n < 65454) := by
  unfold nearSsc
  refine decide_eq_decide.2 ?_
  rw [dist_eq, dist_eq]
  split <;> split <;> omega

/-! ### The judgement -/

/-- Windows in a row after this one, of a source that is in range or not. -/
def row (ok : Bool) (n : Nat) : Nat := if ok then n + 1 else 0
def absentRow (p : Pwr) (a b : Nat) : Nat := if 32768 ≤ a ∨ 32768 ≤ b then 0 else p.absent + 1
def ringRow (p : Pwr) (a b r : Nat) : Nat := if 16 ≤ absentRow p a b then row (ringOk r) p.runR else p.runR

theorem judge_eq (p : Pwr) (a b r : Nat) : p.judge a b r =
    if row (refOk a) p.runA = 8 then ({ p with runA := row (refOk a) p.runA, judged := true, refSource := 0, refSsc := nearSsc a }, false)
    else if row (refOk b) p.runB = 8 then
      ({ p with runA := row (refOk a) p.runA, runB := row (refOk b) p.runB, judged := true, refSource := 1, refSsc := nearSsc b }, false)
    else if 16 ≤ absentRow p a b ∧ ringRow p a b r = 8 then
      ({ p with runA := row (refOk a) p.runA, runB := row (refOk b) p.runB, absent := absentRow p a b, runR := ringRow p a b r,
                judged := true, refSource := 2 }, true)
    else ({ p with runA := row (refOk a) p.runA, runB := row (refOk b) p.runB, absent := absentRow p a b, runR := ringRow p a b r }, false) := rfl

section
variable {s : State} {a b r : Nat}

theorem refxo_idle (h12 : s.boot.phase ≠ 12) (h3 : ¬ (s.boot.phase = 3 ∧ s.pwr.judged = false)) : s.refxo a b r = s := by
  unfold State.refxo
  rw [if_neg (by simpa using h3), if_neg h12]

theorem refxo_judged (h3 : s.boot.phase = 3) (hj : s.pwr.judged = false) : s.refxo a b r =
    { s with pwr := (s.pwr.judge a b r).1, boot := { s.boot with unverified := s.boot.unverified || (s.pwr.judge a b r).2 } } := by
  unfold State.refxo
  rw [if_pos ⟨h3, by simp [hj]⟩]

theorem refxo_judged_quiet (h3 : s.boot.phase = 3) (hj : s.pwr.judged = false) {p : Pwr} (h : s.pwr.judge a b r = (p, false)) :
    s.refxo a b r = { s with pwr := p } := by
  rw [refxo_judged h3 hj, h, Bool.or_false]

theorem refxo_judged_ring (h3 : s.boot.phase = 3) (hj : s.pwr.judged = false) {p : Pwr} (h : s.pwr.judge a b r = (p, true)) :
    s.refxo a b r = { s with pwr := p, boot := { s.boot with unverified := true } } := by
  rw [refxo_judged h3 hj, h, Bool.or_true]

/-- Does the chosen source pass its check? -/
def sourceOk (p : Pwr) (a b r : Nat) : Bool := if p.refSource = 0 then refOk a else if p.refSource = 1 then refOk b else ringOk r

/-- The eighth window in a row that fails is reported. -/
def refFails (s : State) : State :=
  let t : State := { s with pwr := { s.pwr with failing := 8, refFault := true } }
  t.post { sev := 0, kind := 0x0A, loc := 8, info := t.pwr.clkRef }

theorem refxo_ok (h : s.boot.phase = 12) (hok : sourceOk s.pwr a b r = true) : s.refxo a b r = { s with pwr := { s.pwr with failing := 0 } } := by
  unfold sourceOk at hok
  unfold State.refxo
  rw [if_neg (by omega), if_pos h]
  simp [hok]

theorem refxo_fails (h : s.boot.phase = 12) (hok : sourceOk s.pwr a b r = false) : s.refxo a b r =
    if s.pwr.failing = 7 then refFails s else { s with pwr := { s.pwr with failing := s.pwr.failing + 1 } } := by
  unfold sourceOk at hok
  unfold State.refxo
  rw [if_neg (by omega), if_pos h]
  simp only [hok, Bool.false_eq_true, if_false]
  by_cases h7 : s.pwr.failing = 7
  · rw [if_pos h7, if_pos (by omega), h7]
    rfl
  · rw [if_neg h7, if_neg (by omega)]

end

theorem refFails_reports (s : State) :
    Reported { s with pwr := { s.pwr with failing := 8, refFault := true } } (refFails s) ∧ (refFails s).pwr.refFault = true := by
  have h : Reported { s with pwr := { s.pwr with failing := 8, refFault := true } } (refFails s) := post_reported _ _
  exact ⟨h, by rw [h.1]⟩

/-- What a window does, by the phase of the start and the counts of windows in a row. -/
theorem refxoWindow_does (s : State) (a' b' r' : BitVec 17) :
    let c := Instr.refxoWindow a' b' r'
    let p := s.pwr
    let near := fun (n : Nat) => 32768 ≤ n ∧ ((65471 ≤ n ∧ n ≤ 65601) ∨ (65307 ≤ n ∧ n ≤ 65437))
    let ssc := fun (n : Nat) => n < 65454
    let ring := 12288 ≤ r'.toNat ∧ r'.toNat ≤ 20480
    let runA := if near a'.toNat then p.runA + 1 else 0
    let runB := if near b'.toNat then p.runB + 1 else 0
    let absent := if 32768 ≤ a'.toNat ∨ 32768 ≤ b'.toNat then 0 else p.absent + 1
    let runR := if 16 ≤ absent then (if ring then p.runR + 1 else 0) else p.runR
    (s.boot.phase ≠ 12 → ¬ (s.boot.phase = 3 ∧ p.judged = false) → exec c s = .next s) ∧
    (s.boot.phase = 3 → p.judged = false →
      (runA = 8 → exec c s = .next { s with pwr := { p with runA := 8, judged := true, refSource := 0, refSsc := decide (ssc a'.toNat) } }) ∧
      (runA ≠ 8 → runB = 8 → exec c s = .next { s with
        pwr := { p with runA := runA, runB := 8, judged := true, refSource := 1, refSsc := decide (ssc b'.toNat) } }) ∧
      (runA ≠ 8 → runB ≠ 8 → (16 ≤ absent ∧ runR = 8) → exec c s = .next { s with
        pwr := { p with runA := runA, runB := runB, absent := absent, runR := 8, judged := true, refSource := 2 },
        boot := { s.boot with unverified := true } }) ∧
      (runA ≠ 8 → runB ≠ 8 → ¬ (16 ≤ absent ∧ runR = 8) → exec c s = .next { s with
        pwr := { p with runA := runA, runB := runB, absent := absent, runR := runR } })) ∧
    (s.boot.phase = 12 →
      let ok := if p.refSource = 0 then near a'.toNat else if p.refSource = 1 then near b'.toNat else ring
      (ok → exec c s = .next { s with pwr := { p with failing := 0 } }) ∧
      (¬ ok → p.failing ≠ 7 → exec c s = .next { s with pwr := { p with failing := p.failing + 1 } }) ∧
      (¬ ok → p.failing = 7 → Next c s (fun t => Reported { s with pwr := { p with failing := 8, refFault := true } } t ∧ t.pwr.refFault = true))) := by
  intro c p near ssc ring runA runB absent runR
  have hx : exec c s = .next (s.refxo a'.toNat b'.toNat r'.toNat) := rfl
  have hA : row (refOk a'.toNat) p.runA = runA := if_congr (refOk_iff _) rfl rfl
  have hB : row (refOk b'.toNat) p.runB = runB := if_congr (refOk_iff _) rfl rfl
  have hR : ringRow p a'.toNat b'.toNat r'.toNat = runR := if_congr Iff.rfl (if_congr (ringOk_iff _) rfl rfl) rfl
  have hN : absentRow p a'.toNat b'.toNat = absent := rfl
  have hj := judge_eq p a'.toNat b'.toNat r'.toNat
  rw [hA, hB, hR, hN, nearSsc_eq, nearSsc_eq] at hj
  rw [hx]
  refine ⟨fun h12 h3 => by rw [refxo_idle h12 h3], fun h3 hnj => ⟨fun h1 => ?_, fun h1 h2 => ?_, fun h1 h2 h4 => ?_, fun h1 h2 h4 => ?_⟩, fun h12 => ?_⟩
  · rw [if_pos h1, h1] at hj
    rw [refxo_judged_quiet h3 hnj hj]
  · rw [if_neg h1, if_pos h2, h2] at hj
    rw [refxo_judged_quiet h3 hnj hj]
  · rw [if_neg h1, if_neg h2, if_pos h4, h4.2] at hj
    rw [refxo_judged_ring h3 hnj hj]
  · rw [if_neg h1, if_neg h2, if_neg h4] at hj
    rw [refxo_judged_quiet h3 hnj hj]
  · intro ok
    have hok : sourceOk p a'.toNat b'.toNat r'.toNat = true ↔ ok := by
      show sourceOk p _ _ _ = true ↔ if p.refSource = 0 then near a'.toNat else if p.refSource = 1 then near b'.toNat else ring
      unfold sourceOk
      split
      · exact refOk_iff _
      · split
        · exact refOk_iff _
        · exact ringOk_iff _
    refine ⟨fun h => by rw [refxo_ok h12 (hok.2 h)], fun h h7 => ?_, fun h h7 => ?_⟩
    · rw [refxo_fails h12 (by simpa using fun h' => h (hok.1 h')), if_neg h7]
    · have hs := refxo_fails (s := s) h12 (a := a'.toNat) (b := b'.toNat) (r := r'.toNat) (by simpa using fun h' => h (hok.1 h'))
      rw [if_pos h7] at hs
      exact ⟨_, hx.trans (congrArg Host.Outcome.next hs), refFails_reports s⟩

end Sys2Proof.Proofs.RefClock

/-! PROOFS. The slot commands WRITE_FW, WRITE_IMAGE and ERASE (17 R455, R462, R466; 09 R256; 12 R326, R327). -/

namespace Sys2Proof.Proofs.SlotCommands

open Sys2Proof Sys2Proof.Machine Sys2Proof.Laws Sys2Proof.Proofs.BootRecord

/-! ### A command's end -/

/-- The command is over with a result, and source 262 is raised. -/
def Ends (u t : State) (r : Nat) : Prop := Reported { u with boot := { u.boot with cmd := none, done := true, result := r } } t

theorem slotEnd_ends (u : State) (r : Nat) : Ends u (u.slotEnd r) r := raise_reported _ _ _

/-! ### A command begins -/

/-- Where a command's bytes lie in its device, and how many it erases. -/
def slotOff (op : Nat) : Nat := if op = 2 then 0x800000 else 0
def slotSize (op : Nat) : Nat := if op = 1 then 0x800000 else if op = 2 then 0x3600000 else 0x3E00000

/-- The slot is EMPTY, and the region is erased. -/
def begun (u : State) (op slot : Nat) (bs : List Byte) : State :=
  let s1 := u.setSlot slot 0
  let s2 := s1.norWrite slot (if op = 2 then 0x800000 else 0) (if op = 1 then 0x800000 else if op = 2 then 54 * 2 ^ 20 else 62 * 2 ^ 20) []
  { s2 with boot := { s2.boot with cmd := some { op := op, slot := slot, bytes := bs } } }

theorem boot_only {u v : State} {r : Option BootRec} {n : Mem} (h : v = { u with boot := { u.boot with record := r, nor := n } }) :
    v = { u with boot := v.boot } := by
  rw [h]

theorem begun_of_setSlot (u : State) (op slot : Nat) (bs : List Byte) : begun u op slot bs = { u.setSlot slot 0 with
    boot := { (u.setSlot slot 0).boot with nor := (begun u op slot bs).boot.nor, cmd := some ⟨op, slot, bs, none⟩ } } := rfl

theorem begun_nor (u : State) (op slot : Nat) (bs : List Byte) :
    (begun u op slot bs).boot.nor = ((u.setSlot slot 0).norWrite slot (slotOff op) (slotSize op) []).boot.nor := rfl

/-- A byte elsewhere in the two devices reads as before. -/
def OthersRead (u t : State) (dev off size : Nat) : Prop := ∀ k x, k < 2 → x < 2 ^ 26 → (k ≠ dev ∨ x < off ∨ off + size ≤ x) →
  t.norRead k x 1 = u.norRead k x 1

theorem slotOff_size (op : Nat) : slotOff op + slotSize op ≤ 0x3E00000 := by
  unfold slotOff slotSize
  split
  · rename_i h
    simp [h]
  · split <;> omega

theorem norWrite_others (s : State) (dev off size : Nat) (h : off + size ≤ 2 ^ 26) : OthersRead s (s.norWrite dev off size []) dev off size := by
  intro k x _ hx hd
  refine norRead_norWrite_other s (by simp) (fun y hy hy' => ?_)
  rcases Nat.lt_trichotomy k dev with hk | hk | hk <;> omega

theorem begun_begins (u : State) (op slot : Nat) (bs : List Byte) : let v := u.setSlot slot 0
    let t := begun u op slot bs
    t = { u with boot := { v.boot with nor := t.boot.nor, cmd := some ⟨op, slot, bs, none⟩ } } ∧
      (∀ x, slotOff op ≤ x → x < slotOff op + slotSize op → t.norRead slot x 1 = [0xFF]) ∧ OthersRead v t slot (slotOff op) (slotSize op) := by
  have hv := boot_only (setSlot_eq u slot 0)
  have hb := begun_of_setSlot u op slot bs
  have hn := begun_nor u op slot bs
  refine ⟨?_, fun x hx hx' => ?_, fun k x hk hx hd => ?_⟩
  · refine hb.trans ?_
    rw [hv]
  · exact (norRead_congr hn slot x 1).trans (norRead_erased _ hx hx')
  · exact (norRead_congr hn k x 1).trans (norWrite_others _ _ _ _ (by have := slotOff_size op; omega) k x hk hx hd)

/-! ### The source -/

/-- BOOT_SLOTLEN and BOOT_SLOTSRC. -/
def srcLen (s : State) : Nat := s.rf ⟨.bootSlotlen, 0, 0, 0⟩ 23 0
def srcAt (s : State) : Nat := s.rf ⟨.bootSlotsrc, 0, 0, 0⟩ 55 0

theorem slotSource_device (s : State) (n e : Nat) : s.slotSource 1 n e = s.devRead 0x501 (srcAt s) n := rfl

theorem slotSource_host (s : State) (n : Nat) : s.slotSource 0 n 0 = (some (s.hostRead 0 (srcAt s) n), s) := rfl

theorem slotSource_error (s : State) (n : Nat) {e : Nat} (h : e < 5) (h0 : e ≠ 0) : s.slotSource 0 n e = (none, s.outErr 0 e 0x501 (srcAt s)) := by
  unfold State.slotSource State.readRaw State.hostGet State.readEnd
  rw [if_pos rfl, if_pos h]
  exact if_neg h0

/-- A read that ends in any way ends in one of the ways that are named, a free value later where it is the host's memory that is read. -/
theorem slotSource_any (s : State) (l : Fin 2) (n : Nat) : ∃ (e : HostErr) (f : Nat),
    s.slotSource l.val n anyEnd = ({ s with free := f } : State).slotSource l.val n e.val := by
  by_cases h : l.val = 0
  · refine ⟨⟨Config.freeValue s.free % 5, Nat.mod_lt _ (by decide)⟩, s.free + 1, ?_⟩
    have hlt : Config.freeValue s.free % 5 < 5 := Nat.mod_lt _ (by decide)
    unfold State.slotSource State.readRaw State.hostGet State.readEnd
    rw [if_pos h, if_pos h, if_pos hlt]
    rfl
  · refine ⟨0, s.free, ?_⟩
    unfold State.slotSource State.readRaw
    rw [if_neg h, if_neg h]

/-! ### A command is taken -/

/-- What a verified, or refused, source leads to. -/
def sourceRead (op slot : Nat) : Option (List Byte) × State → State
  | (none, u) => u.slotEnd 0x46
  | (some bs, u) =>
    if op = 1 then
      (let r := u.fwCheck (fun o m => (bs.drop o).take m) bs.length
       if r = 0 then begun u op slot bs else u.slotEnd (0x3F + r))
    else match u.imageCheck bs with
      | .ok _ => begun u op slot bs
      | .error r => u.slotEnd r

/-- The command waits for its source. -/
def commandHeld (s : State) (op slot loc : Nat) : State := { s with boot := { s.boot with cmd := some ⟨op, slot, [], some loc⟩ } }

theorem slotCmd_eq (s : State) (op slot loc e : Nat) : s.slotCmd op slot loc e =
    if s.boot.phase < 12 ∨ s.boot.cmd.isSome then s
    else if op = 3 then begun s op slot []
    else if op = 2 ∧ 2 ^ 21 < srcLen s then s.slotEnd 2
    else if s.slotWaits loc then commandHeld s op slot loc
    else sourceRead op slot (s.slotSource loc (srcLen s) e) := rfl

section
variable {s : State} {op slot loc e : Nat}

theorem slotCmd_ignored (h : s.boot.phase < 12 ∨ s.boot.cmd.isSome = true) : s.slotCmd op slot loc e = s := by
  rw [slotCmd_eq, if_pos h]

variable (h12 : 12 ≤ s.boot.phase) (hc : s.boot.cmd = none)
include h12 hc

theorem slotCmd_erase : s.slotCmd 3 slot loc e = begun s 3 slot [] := by
  rw [slotCmd_eq, if_neg (by simp [hc]; omega), if_pos rfl]

theorem slotCmd_long (hn : 2 ^ 21 < srcLen s) : s.slotCmd 2 slot loc e = s.slotEnd 2 := by
  rw [slotCmd_eq, if_neg (by simp [hc]; omega), if_neg (by decide), if_pos ⟨rfl, hn⟩]

variable (h3 : op ≠ 3) (hn : op = 2 → srcLen s ≤ 2 ^ 21)
include h3 hn

theorem slotCmd_waits (hw : s.slotWaits loc = true) : s.slotCmd op slot loc e = commandHeld s op slot loc := by
  have hl : ¬ (op = 2 ∧ 2 ^ 21 < srcLen s) := fun h => absurd (hn h.1) (by omega)
  rw [slotCmd_eq, if_neg (by simp [hc]; omega), if_neg h3, if_neg hl, if_pos hw]

theorem slotCmd_reads (hw : s.slotWaits loc = false) : s.slotCmd op slot loc e = sourceRead op slot (s.slotSource loc (srcLen s) e) := by
  have hl : ¬ (op = 2 ∧ 2 ^ 21 < srcLen s) := fun h => absurd (hn h.1) (by omega)
  rw [slotCmd_eq, if_neg (by simp [hc]; omega), if_neg h3, if_neg hl, if_neg (by simp [hw])]

end

/-- A command whose source's read may end in any way is one whose read ends in a way that is named. -/
theorem slotCmd_any (s : State) (op slot : Nat) (l : Fin 2) : ∃ (e : HostErr) (f : Nat),
    s.slotCmd op slot l.val anyEnd = ({ s with free := f } : State).slotCmd op slot l.val e.val := by
  obtain ⟨e, f, h⟩ := slotSource_any s l (srcLen s)
  have same : ∀ t, s.slotCmd op slot l.val anyEnd = t → s.slotCmd op slot l.val (0 : HostErr).val = t →
      ∃ (e : HostErr) (f : Nat), s.slotCmd op slot l.val anyEnd = ({ s with free := f } : State).slotCmd op slot l.val e.val :=
    fun _ h1 h2 => ⟨0, s.free, h1.trans h2.symm⟩
  by_cases h1 : s.boot.phase < 12 ∨ s.boot.cmd.isSome = true
  · exact same s (slotCmd_ignored h1) (slotCmd_ignored h1)
  by_cases h2 : op = 3
  · exact same (begun s op slot []) (by rw [slotCmd_eq, if_neg h1, if_pos h2]) (by rw [slotCmd_eq, if_neg h1, if_pos h2])
  by_cases h3 : op = 2 ∧ 2 ^ 21 < srcLen s
  · exact same (s.slotEnd 2) (by rw [slotCmd_eq, if_neg h1, if_neg h2, if_pos h3]) (by rw [slotCmd_eq, if_neg h1, if_neg h2, if_pos h3])
  by_cases h4 : s.slotWaits l.val = true
  · exact same (commandHeld s op slot l.val) (by rw [slotCmd_eq, if_neg h1, if_neg h2, if_neg h3, if_pos h4])
      (by rw [slotCmd_eq, if_neg h1, if_neg h2, if_neg h3, if_pos h4])
  · refine ⟨e, f, ?_⟩
    have hl : srcLen ({ s with free := f } : State) = srcLen s := rfl
    have hw : ({ s with free := f } : State).slotWaits l.val = s.slotWaits l.val := rfl
    rw [slotCmd_eq, if_neg h1, if_neg h2, if_neg h3, if_neg h4, slotCmd_eq, if_neg h1, if_neg h2, hl, if_neg h3, hw, if_neg h4, h]

/-! ### The write ends -/

section
variable {s : State} {norErr : Bool}

theorem slotDone_idle (h : s.boot.cmd = none) : s.slotDone norErr = s := by
  unfold State.slotDone
  rw [h]

variable {c : SlotCmd} (hc : s.boot.cmd = some c)
include hc

theorem slotDone_held {l : Nat} (hl : c.held = some l) : s.slotDone norErr =
    if s.slotWaits l then s else ({ s with boot := { s.boot with cmd := none } } : State).slotCmd c.op c.slot l anyEnd := by
  unfold State.slotDone
  simp only [hc, hl]

variable (hn : c.held = none)
include hn

theorem slotDone_error : s.slotDone true = s.slotEnd 0x45 := by
  unfold State.slotDone
  simp only [hc, hn, if_true]

theorem slotDone_erased (h3 : c.op = 3) : s.slotDone false = s.slotEnd 0 := by
  unfold State.slotDone
  simp only [hc, hn, h3, Bool.false_eq_true, if_false, if_true]

/-- The bytes are written, and the slot is UNTRIED. -/
def written (s : State) (c : SlotCmd) : State := (s.norWrite c.slot (slotOff c.op) 0 c.bytes).setSlot c.slot 1

theorem slotDone_written (h3 : c.op ≠ 3) : s.slotDone false = (written s c).slotEnd 0 := by
  unfold State.slotDone
  simp only [hc, hn, h3, Bool.false_eq_true, if_false]
  rfl

end

theorem boot_marks {s u v : State} {r : Option BootRec} {n m : Mem} (h : v = { u with boot := { u.boot with record := r, nor := n } })
    (h' : u = { s with boot := { s.boot with nor := m } }) : v = { s with boot := { s.boot with record := v.boot.record, nor := v.boot.nor } } := by
  subst h'
  subst h
  rfl

theorem written_eq (s : State) (c : SlotCmd) :
    written s c = { s with boot := { s.boot with record := (written s c).boot.record, nor := (written s c).boot.nor } } :=
  boot_marks (setSlot_eq (s.norWrite c.slot (slotOff c.op) 0 c.bytes) c.slot 1) (norWrite_eq s c.slot (slotOff c.op) 0 c.bytes)

theorem written_some {s : State} {r : BootRec} (hr : s.boot.record = some r) (c : SlotCmd) :
    (written s c).boot.record = some { r with slotSt := r.slotSt.set c.slot 1, gen := (r.gen + 1) % 2 ^ 32 } := by
  have h : (s.norWrite c.slot (slotOff c.op) 0 c.bytes).boot.record = some r := hr
  rw [written, setSlot_some h, recordSave_record]
  rfl

theorem written_none {s : State} (hr : s.boot.record = none) (c : SlotCmd) : (written s c).boot.record = none := by
  have h : (s.norWrite c.slot (slotOff c.op) 0 c.bytes).boot.record = none := hr
  rw [written, setSlot_none h, h]

/-- The bytes written are read back, for the record's copies lie past them. -/
theorem written_read (s : State) (c : SlotCmd) (h : c.bytes.length ≤ slotSize c.op) :
    (written s c).norRead c.slot (slotOff c.op) c.bytes.length = c.bytes := by
  have := slotOff_size c.op
  rw [written, norRead_setSlot_low _ _ _ (by omega), norRead_norWrite_same]

/-! ### The source's checks -/

section
variable {u : State} {op slot : Nat} {bs : List Byte}

theorem sourceRead_fw_bad (h : u.fwCheck (fun o m => (bs.drop o).take m) bs.length ≠ 0) :
    sourceRead 1 slot (some bs, u) = u.slotEnd (0x3F + u.fwCheck (fun o m => (bs.drop o).take m) bs.length) := by
  unfold sourceRead
  simp only [if_true, if_neg h]

theorem sourceRead_fw_ok (h : u.fwCheck (fun o m => (bs.drop o).take m) bs.length = 0) : sourceRead 1 slot (some bs, u) = begun u 1 slot bs := by
  unfold sourceRead
  simp only [if_true, if_pos h]

theorem sourceRead_image_bad {r : Nat} (h : u.imageCheck bs = .error r) : sourceRead 2 slot (some bs, u) = u.slotEnd r := by
  unfold sourceRead
  simp [h]

theorem sourceRead_image_ok {i : Image} (h : u.imageCheck bs = .ok i) : sourceRead 2 slot (some bs, u) = begun u 2 slot bs := by
  unfold sourceRead
  simp [h]

end

/-! ### The commands -/

section
variable (s : State) (slot loc : Fin 2) (e : HostErr)

theorem exec_writeFw : exec (.writeFw slot loc e) s = .next (s.slotCmd 1 slot.val loc.val e.val) := rfl
theorem exec_writeImage : exec (.writeImage slot loc e) s = .next (s.slotCmd 2 slot.val loc.val e.val) := rfl
theorem exec_erase : exec (.erase slot) s = .next (s.slotCmd 3 slot.val 0 0) := rfl
/-- The source waits: in a stack that is HOT, or for Bus Master Enable. -/
def Waits (l : Nat) : Prop := if l = 1 then s.hotAt (srcAt s) = true else (s.fn 0 0).bme = false

theorem slotWaits_iff (l : Nat) : s.slotWaits l = true ↔ Waits s l := by
  unfold State.slotWaits Waits
  split
  · exact Iff.rfl
  · simp

/-- A command begins: its slot is EMPTY, its region is erased, and its bytes wait to be written. -/
def Begins (u : State) (op slot : Nat) (bs : List Byte) (t : State) : Prop :=
  let v := u.setSlot slot 0
  t = { u with boot := { v.boot with nor := t.boot.nor, cmd := some ⟨op, slot, bs, none⟩ } } ∧
    (∀ x, slotOff op ≤ x → x < slotOff op + slotSize op → t.norRead slot x 1 = [0xFF]) ∧ OthersRead v t slot (slotOff op) (slotSize op)

end

section
variable {s : State} {slot loc : Fin 2} {e : HostErr} (h12 : 12 ≤ s.boot.phase) (hc : s.boot.cmd = none)
include h12 hc

theorem exec_erase_begins : Next (.erase slot) s (Begins s 3 slot.val []) :=
  ⟨_, (exec_erase s slot).trans (congrArg Host.Outcome.next (slotCmd_erase h12 hc)), begun_begins s 3 slot.val []⟩

theorem exec_writeImage_long (hn : 2 ^ 21 < srcLen s) : Next (.writeImage slot loc e) s (fun t => Ends s t 2) :=
  ⟨_, (exec_writeImage s slot loc e).trans (congrArg Host.Outcome.next (slotCmd_long h12 hc hn)), slotEnd_ends s 2⟩

theorem exec_writeFw_held (hw : Waits s loc.val) : exec (.writeFw slot loc e) s = .next (commandHeld s 1 slot.val loc.val) :=
  (exec_writeFw s slot loc e).trans (congrArg Host.Outcome.next (slotCmd_waits h12 hc (by decide) (fun h => absurd h (by decide))
    ((slotWaits_iff s _).2 hw)))

theorem exec_writeImage_held (hw : Waits s loc.val) (hn : srcLen s ≤ 2 ^ 21) :
    exec (.writeImage slot loc e) s = .next (commandHeld s 2 slot.val loc.val) :=
  (exec_writeImage s slot loc e).trans (congrArg Host.Outcome.next (slotCmd_waits h12 hc (by decide) (fun _ => hn) ((slotWaits_iff s _).2 hw)))

theorem exec_writeFw_reads (hw : ¬ Waits s loc.val) :
    exec (.writeFw slot loc e) s = .next (sourceRead 1 slot.val (s.slotSource loc.val (srcLen s) e.val)) :=
  (exec_writeFw s slot loc e).trans (congrArg Host.Outcome.next (slotCmd_reads h12 hc (by decide) (fun h => absurd h (by decide))
    (Bool.eq_false_iff.2 (fun h => hw ((slotWaits_iff s _).1 h)))))

theorem exec_writeImage_reads (hw : ¬ Waits s loc.val) (hn : srcLen s ≤ 2 ^ 21) :
    exec (.writeImage slot loc e) s = .next (sourceRead 2 slot.val (s.slotSource loc.val (srcLen s) e.val)) :=
  (exec_writeImage s slot loc e).trans (congrArg Host.Outcome.next (slotCmd_reads h12 hc (by decide) (fun _ => hn)
    (Bool.eq_false_iff.2 (fun h => hw ((slotWaits_iff s _).1 h)))))

variable (hw : ¬ Waits s loc.val)
include hw

theorem exec_writeFw_none {u : State} (h : s.slotSource loc.val (srcLen s) e.val = (none, u)) :
    Next (.writeFw slot loc e) s (fun t => Ends u t 0x46) := by
  have hx := exec_writeFw_reads (slot := slot) (e := e) h12 hc hw
  rw [h] at hx
  exact ⟨_, hx, slotEnd_ends u 0x46⟩

theorem exec_writeImage_none {u : State} (hn : srcLen s ≤ 2 ^ 21) (h : s.slotSource loc.val (srcLen s) e.val = (none, u)) :
    Next (.writeImage slot loc e) s (fun t => Ends u t 0x46) := by
  have hx := exec_writeImage_reads (slot := slot) (e := e) h12 hc hw hn
  rw [h] at hx
  exact ⟨_, hx, slotEnd_ends u 0x46⟩

variable {bs : List Byte} {u : State} (h : s.slotSource loc.val (srcLen s) e.val = (some bs, u))
include h

theorem exec_writeFw_verifies : let r := u.fwCheck (fun o m => (bs.drop o).take m) bs.length
    (r ≠ 0 → Next (.writeFw slot loc e) s (fun t => Ends u t (0x3F + r))) ∧ (r = 0 → Next (.writeFw slot loc e) s (Begins u 1 slot.val bs)) := by
  have hx := exec_writeFw_reads (slot := slot) (e := e) h12 hc hw
  rw [h] at hx
  refine ⟨fun hr => ?_, fun hr => ?_⟩
  · rw [sourceRead_fw_bad hr] at hx
    exact ⟨_, hx, slotEnd_ends u _⟩
  · rw [sourceRead_fw_ok hr] at hx
    exact ⟨_, hx, begun_begins u 1 slot.val bs⟩

theorem exec_writeImage_verifies (hn : srcLen s ≤ 2 ^ 21) :
    (∀ r, u.imageCheck bs = .error r → Next (.writeImage slot loc e) s (fun t => Ends u t r)) ∧
      ∀ i, u.imageCheck bs = .ok i → Next (.writeImage slot loc e) s (Begins u 2 slot.val bs) := by
  have hx := exec_writeImage_reads (slot := slot) (e := e) h12 hc hw hn
  rw [h] at hx
  refine ⟨fun r hr => ?_, fun i hr => ?_⟩
  · rw [sourceRead_image_bad hr] at hx
    exact ⟨_, hx, slotEnd_ends u _⟩
  · rw [sourceRead_image_ok hr] at hx
    exact ⟨_, hx, begun_begins u 2 slot.val bs⟩

end

section
variable {s : State} {norErr : Bool}

theorem exec_slotcmdComplete_idle (h : s.boot.cmd = none) : exec (.slotcmdComplete norErr) s = .next s :=
  congrArg Host.Outcome.next (slotDone_idle h)

section
variable {op : Nat} {slot loc : Fin 2} (hop : op = 1 ∨ op = 2) (hc : s.boot.cmd = some ⟨op, slot.val, [], some loc.val⟩)
include hc

theorem exec_slotcmdComplete_waits (hw : Waits s loc.val) : exec (.slotcmdComplete norErr) s = .next s :=
  congrArg Host.Outcome.next ((slotDone_held hc rfl).trans (if_pos ((slotWaits_iff s _).2 hw)))

include hop

/-- The command that was held begins. -/
theorem exec_slotcmdComplete_begins (hw : ¬ Waits s loc.val) : ∃ (e : HostErr) (f : Nat), exec (.slotcmdComplete norErr) s =
    exec (if op = 1 then .writeFw slot loc e else .writeImage slot loc e) { s with free := f, boot := { s.boot with cmd := none } } := by
  obtain ⟨e, f, h⟩ := slotCmd_any ({ s with boot := { s.boot with cmd := none } } : State) op slot.val loc
  refine ⟨e, f, (congrArg Host.Outcome.next ((slotDone_held hc rfl).trans
    ((if_neg (fun h => hw ((slotWaits_iff s _).1 h))).trans h))).trans ?_⟩
  rcases hop with rfl | rfl
  · exact (exec_writeFw _ slot loc e).symm
  · exact (exec_writeImage _ slot loc e).symm

end

variable {c : SlotCmd} (hc : s.boot.cmd = some c) (hh : c.held = none)
include hc hh

theorem exec_slotcmdComplete_error : Next (.slotcmdComplete true) s (fun t => Ends s t 0x45) :=
  ⟨_, congrArg Host.Outcome.next (slotDone_error hc hh), slotEnd_ends s _⟩

theorem exec_slotcmdComplete_erased (h3 : c.op = 3) : Next (.slotcmdComplete false) s (fun t => Ends s t 0) :=
  ⟨_, congrArg Host.Outcome.next (slotDone_erased hc hh h3), slotEnd_ends s _⟩

theorem exec_slotcmdComplete_written (h3 : c.op ≠ 3) (hl : c.bytes.length ≤ slotSize c.op) : Next (.slotcmdComplete false) s (fun t => ∃ u,
    Ends u t 0 ∧ u = { s with boot := { s.boot with record := u.boot.record, nor := u.boot.nor } } ∧
    (∀ r, s.boot.record = some r → u.boot.record = some { r with slotSt := r.slotSt.set c.slot 1, gen := (r.gen + 1) % 2 ^ 32 }) ∧
    (s.boot.record = none → u.boot.record = none) ∧ u.norRead c.slot (slotOff c.op) c.bytes.length = c.bytes) :=
  ⟨_, congrArg Host.Outcome.next (slotDone_written hc hh h3), written s c, slotEnd_ends _ _, written_eq s c, fun _ hr => written_some hr c,
    fun hr => written_none hr c, written_read s c hl⟩

end

end Sys2Proof.Proofs.SlotCommands

/-! PROOFS. Starting and resetting: the statement about start-up, resets and slot commands, part by part (17 R449-R467). -/

namespace Sys2Proof.Proofs.StartUp

open Sys2Proof Sys2Proof.Machine Sys2Proof.Laws Sys2Proof.Proofs.BootRecord Sys2Proof.Proofs.Resets Sys2Proof.Proofs.WarmReset
  Sys2Proof.Proofs.StartSteps Sys2Proof.Proofs.StartFails Sys2Proof.Proofs.StartCounts Sys2Proof.Proofs.SlotChoice Sys2Proof.Proofs.ImageChoice
  Sys2Proof.Proofs.Training Sys2Proof.Proofs.StartComplete Sys2Proof.Proofs.RefClock Sys2Proof.Proofs.SlotCommands

theorem next_mono {c : Instr} {s : State} {p q : State → Prop} (h : Next c s p) (hq : ∀ t, p t → q t) : Next c s q := by
  obtain ⟨t, he, ht⟩ := h
  exact ⟨t, he, hq t ht⟩

/-- Settles O56: the record and what reaches it, the resets, a held or waiting warm reset, each step of a start by the lemma that says what the step
leaves, the reference clock, and the slot commands. -/
theorem startAndResets : Obligations.StartAndResets := by
  unfold Obligations.StartAndResets
  intro s b on cold u1 others stackTrains services same
  refine ⟨?record, ?pend, ?resets, ?warm, fun recErr lanes => ?steps, refxoWindow_does s, fun slot loc e norErr => ?slots⟩
  case record =>
    intro u r
    refine ⟨recordSave_eq u r, fun hw => ⟨recordSave_wf hw r, norRead_recordSave u r, fun k x hk hx hd => norRead_recordSave_byte u r hx hd⟩,
      fun k st => ⟨fun hr => setSlot_none hr k st, fun hr => setSlot_some hr k st⟩⟩
  case pend =>
    exact ⟨fun f p r hp hr => recordDone_some hp hr, fun h => recordDone_none h, rfl⟩
  case resets =>
    refine ⟨fun off => ⟨exec_inputInRange_off off, exec_inputOutOfRange_off off, exec_overcurrentTrip_off off, exec_coldReset_off off,
      exec_warmReset_off off, exec_restart_off off, fun n e l => exec_start_off off n e l, fun x => exec_startStepTimeout_off off x⟩,
      fun on => ⟨exec_inputInRange_on on, exec_inputOutOfRange_on on, exec_overcurrentTrip_on on, ⟨_, rfl, coldFrom_coldReset on⟩,
        exec_startRestart_failed on, fun h => ⟨_, rfl, coldFrom_restart_none on h⟩, fun r h => ⟨_, rfl, coldFrom_restart_some on h⟩⟩,
      exec_startRestart_idle⟩
  case warm =>
    intro on
    refine ⟨exec_warmReset_held on, fun done idle => ⟨exec_warmReset_exits on done idle, exec_warmReset_asleep on done idle, fun h1 h2 => ?_⟩⟩
    exact ⟨s.warmNow, congrArg Host.Outcome.next (warmReset_now on done idle h1 h2), warmNow_warm s⟩
  case steps =>
    intro go reach f
    refine ⟨fun on h hp n => exec_start_ended on h hp n, exec_start_first, fun ⟨on, hf, hp⟩ => exec_start_1 on hf hp,
      fun ⟨on, _, hp⟩ h => exec_start_2_scrapped on hp h, fun ⟨on, hf, hp⟩ h => exec_start_2 on hp hf h, fun ⟨on, hf, hp⟩ => exec_start_3 on hf hp,
      fun ⟨on, hf, hp⟩ => ?step4, fun r ⟨on, hf, hp⟩ hr hpref _ => ?step5, fun ⟨on, hf, hp⟩ => ?step6, fun ⟨on, hf, hp⟩ => exec_start_7 on hf hp,
      fun ⟨on, hf, hp⟩ => ?step8, fun ⟨on, hf, hp⟩ => ⟨_, exec_start_9 on hf hp, fabricOn_trains s⟩, fun ⟨on, hf, hp⟩ => exec_start_10 on hf hp,
      fun r ⟨on, hf, hp⟩ hr hw => ?step11, fun e => ?timeout⟩
    case step4 =>
      intro r n shed down save
      refine ⟨fun x hx => currentRec_some hx, currentRec_none, ?_⟩
      cases recErr with
      | true => exact next_mono (exec_start_4_err on hf hp) (fun t ⟨⟨hn, hfu, hk⟩, h⟩ => ⟨hn, hfu, hk, fun _ => h, fun he => absurd he (by decide)⟩)
      | false => exact next_mono (exec_start_4_ok on hf hp) (fun t ⟨⟨hn, hfu, hk⟩, h⟩ => ⟨hn, hfu, hk, fun he => absurd he (by decide), fun _ => h⟩)
    case step5 =>
      intro first tried good infos takes bad hst
      exact ⟨exec_start_5_first on hf hp hr, exec_start_5_second on hf hp hr hpref hst, exec_start_5_none on hf hp hr hpref hst⟩
    case step6 =>
      intro u h m
      refine ⟨siteStep_same, fun k hk h0 hh => siteStep_enrols hk h0 hh, next_mono (exec_start_6 on hf hp) (fun t ⟨hph, ho, hi, hsrc⟩ => ?_)⟩
      have hm : ∀ r, m t r = m (imageStep u s.boot.slot) r := fun r => congrArg (fun o : Org => SMap.get 0 o.meas r) ho
      rw [hi, hsrc, hm 5]
      refine ⟨hph, fun r hr => (hm r).trans (imageStep_meas hr), fun i hok => ?_, fun x i hx hok => ?_, fun x y hx hy => ?_⟩
      · obtain ⟨h1, h2, h3, -⟩ := imageStep_own hok
        exact ⟨h1, h2, h3⟩
      · obtain ⟨h1, h2, h3, -⟩ := imageStep_other hx hok
        exact ⟨h1, h2, h3⟩
      · obtain ⟨h1, h2, h3⟩ := imageStep_factory hx hy
        exact ⟨h1, h2, congrArg (fun o => SMap.get 0 o 5) h3⟩
    case step8 =>
      intro hd code
      refine next_mono (exec_start_8 on hf hp) (fun t ⟨hph, hm, hst⟩ => ⟨hph, ?_, fun hl => ⟨fun p hp => ?_, fun x hx => ?_⟩, fun k hk => ?_⟩)
      · rw [hm]; exact loadCode_wf _ 8
      · rw [hm]; exact readN_loadCode hl hp
      · rw [hm]; exact read_loadCode_out hx
      · intro x y
        have hy : y = trainedStack lanes s.ptr k x := hst k hk
        rw [hy]
        exact trainedStack_trains lanes s.ptr k x
    case step11 =>
      refine next_mono (exec_start_11 on hf hp hr hw) (fun t ⟨⟨v, hv, hb⟩, h⟩ => ?_)
      exact ⟨⟨v, hv, hb⟩, h⟩
    case timeout =>
      intro c
      refine ⟨fun _ h => exec_startStepTimeout_ended h e, fun ⟨on, hf, hp⟩ => ?_, fun n ⟨on, hf, hp⟩ h1 h11 h9 => ?_⟩
      · rw [exec_start_9 on hf hp]
        exact exec_startStepTimeout_9 on hf hp e
      · obtain ⟨-, ht, htp, hpo⟩ := startFail_frame s e.toNat
        subst hp
        exact ⟨_, exec_startStepTimeout_fails on hf rfl h1 h11 h9 e, (startFail_boot s e.toNat).1, ht, htp, hpo, fun h => startFail_early h _,
          fun r h4 hr => startFail_late h4 hr _⟩
  case slots =>
    intro n src fw im ends off size begins waits held
    refine ⟨fun h => ⟨congrArg Host.Outcome.next (slotCmd_ignored h), congrArg Host.Outcome.next (slotCmd_ignored h),
        congrArg Host.Outcome.next (slotCmd_ignored h)⟩,
      ⟨slotSource_device s n _, slotSource_host s n, slotSource_error s n e.isLt⟩, fun h12 hc => ?_, exec_slotcmdComplete_idle, ?_, ?_⟩
    · refine ⟨fun _ => exec_erase_begins h12 hc, exec_writeImage_long h12 hc,
        fun hw => ⟨exec_writeFw_held h12 hc hw, exec_writeImage_held h12 hc hw⟩, fun hw => ⟨fun u hu => ⟨exec_writeFw_none h12 hc hw hu, fun hn =>
          exec_writeImage_none h12 hc hw hn hu⟩, fun bs u hu => ⟨?_, fun hn => ?_⟩⟩⟩
      · obtain ⟨h1, h2⟩ := exec_writeFw_verifies (slot := slot) h12 hc hw hu
        exact ⟨h1, fun hr _ => h2 hr⟩
      · obtain ⟨h1, h2⟩ := exec_writeImage_verifies (slot := slot) h12 hc hw hu hn
        exact ⟨h1, fun i hi _ => h2 i hi⟩
    · exact fun op hop hc => ⟨exec_slotcmdComplete_waits hc, exec_slotcmdComplete_begins hop hc⟩
    · exact fun c hc hh => ⟨exec_slotcmdComplete_error hc hh, exec_slotcmdComplete_erased hc hh, fun h3 _ hl => exec_slotcmdComplete_written hc hh h3 hl⟩

end Sys2Proof.Proofs.StartUp

/-! PROOFS. Accesses of near memory: they draw no free value, and a read leaves the cores alone (09 R238, R246; 10 R262; 19 R492, R503). -/

namespace Sys2Proof.Proofs.NearAccess

open Sys2Proof Sys2Proof.Machine Sys2Proof.Laws

/-- Between `s` and `t` no free value is drawn, and no core changes. -/
structure NearWork (s t : State) : Prop where
  free : t.free = s.free
  cores : t.cores = s.cores

theorem NearWork.refl (s : State) : NearWork s s := ⟨rfl, rfl⟩
theorem NearWork.trans {s t u : State} (h : NearWork s t) (g : NearWork t u) : NearWork s u := ⟨g.free.trans h.free, g.cores.trans h.cores⟩

/-- Near memory and what lies above it are of no stack. -/
theorem placeOf_ne_hbm {a : Nat} (h : nearBase ≤ a) (k : Nat) : placeOf a ≠ .hbm k := by
  have hn : ¬ a < hbmTop := not_lt.2 h
  unfold placeOf
  rw [if_neg hn]
  repeat' split
  all_goals exact nofun

/-- A line that an access of near memory touches is of no stack either. -/
theorem nearBase_le_line {a n l : Nat} (h : nearBase ≤ a) (hl : inLines a n l = true) : nearBase ≤ l * 64 := by
  have h1 := (Bool.and_eq_true_iff.1 hl).1
  have h2 : a / 64 ≤ l := of_decide_eq_true h1
  unfold nearBase at *
  omega

/-! ### At the port of a near memory -/

theorem meterMem_near (s : State) (m : Nat) (w : Bool) (a n : Nat) : NearWork s (s.meterMem m w a n) := by
  have meters : ∀ k v, NearWork s (s.meter (s.meterPart m) k v) := fun k v => by
    obtain ⟨l, st, h⟩ := meter_eq s (s.meterPart m) k v
    rw [h]
    exact ⟨rfl, rfl⟩
  have counts : ∀ (u : State) b ev n, NearWork u (u.count b ev n) := fun u b ev n => ⟨count_free u b ev n, count_cores u b ev n⟩
  unfold State.meterMem
  split
  · exact (meters _ _).trans (counts _ _ _ _)
  · exact (meters _ _).trans (counts _ _ _ _)
  · exact NearWork.refl s

/-- No stack's MSC is passed. -/
theorem memPort_near (s : State) (m : Nat) (kind : MemKind) (h : Nat) {a : Nat} (n : Nat) (ha : nearBase ≤ a) :
    s.memPort m kind h a n = s.meterMem m (kind == .write) a n := by
  unfold State.memPort State.mscAcc
  split
  · rename_i k hk
    exact absurd hk (placeOf_ne_hbm ha k)
  · rfl

theorem l2Back_near (s : State) {x : L2Line} (hx : nearBase ≤ x.line * 64) : NearWork s (s.l2Back x) := by
  unfold State.l2Back
  split
  · rw [memPort_near _ _ _ _ _ hx]
    exact meterMem_near _ _ _ _ _
  · exact NearWork.refl s

theorem l2Backs_near (l : List L2Line) (s : State) (h : ∀ x ∈ l, nearBase ≤ x.line * 64) : NearWork s (l.foldl State.l2Back s) := by
  induction l generalizing s with
  | nil => exact NearWork.refl s
  | cons x l ih => exact (l2Back_near s (h x (by simp))).trans (ih _ (fun y hy => h y (List.mem_cons_of_mem _ hy)))

/-- Dirty copies of near memory that are written back. -/
theorem recall_near (s : State) (own : Option Nat) {a : Nat} (n : Nat) (ha : nearBase ≤ a) : NearWork s (s.recall own a n) := by
  unfold State.recall
  split
  · exact NearWork.refl s
  · dsimp only
    split
    · exact NearWork.refl s
    · refine (l2Backs_near _ s (fun x hx => ?_)).trans ⟨rfl, rfl⟩
      obtain ⟨e, -, he⟩ := List.mem_flatMap.1 hx
      split at he
      · simp at he
      · exact nearBase_le_line ha (Bool.and_eq_true_iff.1 (List.mem_filter.1 he).2).2

theorem traffic_near (s : State) (m : Nat) (kind : MemKind) (h : Nat) {a : Nat} (n : Nat) (ha : nearBase ≤ a) :
    NearWork s (s.traffic m kind h a n) := by
  unfold State.traffic
  rw [memPort_near _ _ _ _ _ ha]
  exact (recall_near s none n ha).trans (meterMem_near _ _ _ _ _)

theorem snoop_free (s : State) {a : Nat} (n : Nat) (ha : nearBase ≤ a) : (s.snoop none a n).free = s.free := by
  obtain ⟨cs, ms, h⟩ := dropCopies_eq (s.recall none a n) none a n
  show ((s.recall none a n).dropCopies none a n).free = s.free
  rw [h]
  exact (recall_near s none n ha).free

theorem store_free (s : State) {a : Nat} (bs : List Byte) (ha : nearBase ≤ a) : (s.store a bs).free = s.free := by
  obtain ⟨b, h, -⟩ := clearBad_eq ({ s.snoop none a bs.length with mem := Mem.writeN (s.snoop none a bs.length).mem a bs } : State) a bs.length
  exact (congrArg State.free h).trans (snoop_free s bs.length ha)

/-! ### The accesses -/

/-- A write that the tables permit meets nothing. -/
theorem tryAcc_write {s : State} {m a n : Nat} (h : s.accCheck m .wr (linesOf a n) = none) : s.tryAcc m .wr false a n = (none, s) := by
  simp [State.tryAcc, h]

/-- A read that the tables permit meets nothing where no injection is armed and no error stands in what it touches. -/
theorem tryAcc_read {s : State} {m a n : Nat} (h : s.accCheck m .rd (linesOf a n) = none) (hi : (s.rget regErrInj).testBit 63 = false)
    (hu : ∀ u ∈ s.err.upsets, u.hits false m (linesOf a n) = false) : s.tryAcc m .rd false a n = (none, s) := by
  have hj : s.injHit false (linesOf a n) = false := by simp [State.injHit, hi]
  have hm : s.upsetMeet false m a (linesOf a n) = (none, s) := by
    have hf : s.err.upsets.find? (fun u => u.hits false m (linesOf a n)) = none := List.find?_eq_none.2 (fun u hx => by simp [hu u hx])
    simp [State.upsetMeet, State.upset, hf]
  simp [State.tryAcc, h, hj, hm]

/-- A permitted write of near memory: the bytes, the list of bad lines, and the tags and meters that an access changes. -/
theorem devWrite_near {s : State} {m a : Nat} {bs : List Byte} (h : s.accCheck m .wr (linesOf a bs.length) = none) (ha : nearBase ≤ a) :
    ∃ b t, s.devWrite m a bs = (true, t) ∧ CacheOnly { s with mem := Mem.writeN s.mem a bs, err := { s.err with bad := b } } t ∧ t.free = s.free := by
  obtain ⟨b, hb, -⟩ := storeBy_tags s none a bs
  refine ⟨b, (s.store a bs).memPort m .write 0 a bs.length, ?_, cacheOnly_trans hb (memPort_tags _ _ _ _ _ _), ?_⟩
  · rw [State.devWrite, tryAcc_write h]
  · rw [memPort_near _ _ _ _ _ ha]
    exact (meterMem_near _ _ _ _ _).free.trans (store_free s bs ha)

/-- A permitted read of near memory that meets no error: the bytes; and only tags and meters change. -/
theorem devRead_near {s : State} {m a n : Nat} (h : s.accCheck m .rd (linesOf a n) = none) (hi : (s.rget regErrInj).testBit 63 = false)
    (hu : ∀ u ∈ s.err.upsets, u.hits false m (linesOf a n) = false) (ha : nearBase ≤ a) :
    ∃ t, s.devRead m a n = (some (Mem.readN s.mem a n), t) ∧ CacheOnly s t ∧ NearWork s t := by
  refine ⟨s.traffic m .read 0 a n, ?_, traffic_tags _ _ _ _ _ _, traffic_near s m .read 0 n ha⟩
  rw [State.devRead, tryAcc_read h hi hu]

end Sys2Proof.Proofs.NearAccess

/-! PROOFS. SMB_ALERT# and PWR_STATE.CRIT: what a posted record does to them, and what keeps them (18 R487; 20 R523). -/

namespace Sys2Proof.Proofs.Alert

open Sys2Proof Sys2Proof.Machine Sys2Proof.Laws

/-! ### Records and sources leave the SMBus alone -/

@[simp] theorem traceTo_smb (s : State) (j agent raw : Nat) : (s.traceTo j agent raw).smb = s.smb := by
  unfold State.traceTo
  split
  · rfl
  · split
    · rfl
    · split
      · rename_i a n w _ _
        obtain ⟨cs, ms, h⟩ := dropCopies_eq s none (a + w) 64
        rw [h]
      · rfl

theorem smb_foldl {α : Type} (f : State → α → State) (h : ∀ s a, (f s a).smb = s.smb) (l : List α) (s : State) : (l.foldl f s).smb = s.smb := by
  induction l generalizing s with
  | nil => rfl
  | cons a l ih => exact (ih _).trans (h s a)

@[simp] theorem trace_smb (s : State) (agent raw : Nat) : (s.trace agent raw).smb = s.smb := by
  unfold State.trace
  split
  · rfl
  · exact smb_foldl _ (fun s j => traceTo_smb s j _ _) _ s

@[simp] theorem buffer_smb (s : State) (r : ErrRec) : (s.buffer r).smb = s.smb := by
  unfold State.buffer
  dsimp only
  split
  · rfl
  · split
    · rfl
    · split
      · rfl
      · split <;> rfl

@[simp] theorem record_smb (s : State) (r : ErrRec) : (s.record r).2.smb = s.smb := by
  unfold State.record
  dsimp only
  exact (trace_smb _ _ _).trans (buffer_smb _ _)

/-- A record keeps its severity. -/
theorem record_sev (s : State) (r : ErrRec) : (s.record r).1.sev = r.sev := rfl

@[simp] theorem issued_smb (s : State) (n : Nat) (ro : Bool) : (s.issued n ro).smb = s.smb := by
  unfold State.issued
  split <;> rfl

@[simp] theorem msix_smb (s : State) (port f vec : Nat) : (s.msix port f vec).smb = s.smb := by
  unfold State.msix
  dsimp only
  split
  · exact issued_smb _ _ _
  · rfl

@[simp] theorem message_smb (s : State) (p n : Nat) : (s.message p n).smb = s.smb := by
  unfold State.message
  dsimp only
  split
  · split <;> rfl
  · exact msix_smb _ _ _ _

@[simp] theorem event1_smb (s : State) (p n : Nat) : (s.event1 p n).1.smb = s.smb := by
  unfold State.event1
  dsimp only
  split
  · rfl
  · have pends : (if (s.rget (intTarget p n)).testBit 7 && !(s.rget (intTarget p n)).testBit 6 then s
        else s.setIntc p { s.intc p with pend := (s.intc p).pend ||| 2 ^ n }).smb = s.smb := by
      split <;> rfl
    split
    · split
      · split
        · exact (message_smb _ _ _).trans pends
        · exact pends
      · exact pends
    · exact pends

@[simp] theorem events_smb (l : List (Nat × Nat)) (s : State) : (State.events l s).1.smb = s.smb := by
  induction l generalizing s with
  | nil => rfl
  | cons a l ih => exact (ih _).trans (event1_smb s a.1 a.2)

@[simp] theorem dropRecord_smb (s : State) (p : Nat) : (s.dropRecord p).smb = s.smb := record_smb _ _

@[simp] theorem dropRecords_smb (l : List Nat) (s : State) : (State.dropRecords l s).smb = s.smb := by
  induction l generalizing s with
  | nil => rfl
  | cons p ps ih =>
    exact (ih _).trans ((smb_foldl _ dropRecord_smb _ _).trans ((events_smb [(p, 229)] _).trans (dropRecord_smb s p)))

@[simp] theorem raise_smb (s : State) (p n : Nat) : (s.raise p n).smb = s.smb := (dropRecords_smb _ _).trans (events_smb _ _)

@[simp] theorem notice_smb (s : State) (kind : Nat) (args : List Nat) (cause : Nat) : (s.notice kind args cause).smb = s.smb := by
  unfold State.notice
  split <;> rfl

/-! ### The alert -/

/-- A record of severity 2 or above asserts the alert, and no record releases it. -/
theorem post_alert (s : State) (r : ErrRec) : (s.post r).smb.alert = (s.smb.alert || decide (2 ≤ r.sev)) := by
  have h : (State.dropRecords (State.events (recSources (s.record r).1) (s.record r).2).2
      (State.events (recSources (s.record r).1) (s.record r).2).1).smb = s.smb := by simp
  unfold State.post State.postRec
  dsimp only
  rw [record_sev]
  split
  · rename_i hr
    rw [notice_smb]
    simp [hr]
  · rename_i hr
    rw [h]
    simp [hr]

/-- Between `s` and `t` the alert is not released, and CRIT stays as it is. -/
structure Warned (s t : State) : Prop where
  alert : s.smb.alert = true → t.smb.alert = true
  crit : t.pwr.crit = s.pwr.crit

theorem Warned.refl (s : State) : Warned s s := ⟨id, rfl⟩
theorem Warned.trans {s t u : State} (h : Warned s t) (g : Warned t u) : Warned s u := ⟨fun x => g.alert (h.alert x), g.crit.trans h.crit⟩

theorem warned_foldl {α : Type} (f : State → α → State) (h : ∀ s a, Warned s (f s a)) (l : List α) (s : State) : Warned s (l.foldl f s) := by
  induction l generalizing s with
  | nil => exact Warned.refl s
  | cons a l ih => exact (h s a).trans (ih _)

theorem warned_ite {s a b : State} (p : Prop) [Decidable p] (h : Warned s a) (g : Warned s b) : Warned s (if p then a else b) := by
  split
  · exact h
  · exact g

theorem warned_of {s t : State} (h : t.smb = s.smb) (hp : t.pwr = s.pwr) : Warned s t := ⟨fun x => by rw [h]; exact x, by rw [hp]⟩

theorem pwr_warned (s : State) {p : Pwr} (h : p.crit = s.pwr.crit) : Warned s { s with pwr := p } := ⟨id, h⟩

theorem warned_tags {s t : State} (h : CacheOnly s t) : Warned s t := by
  rw [h.1]
  exact warned_of rfl rfl

theorem postRec_warned (s : State) (r : ErrRec) : Warned s (s.postRec r).2 := by
  have power : (s.post r).pwr = s.pwr := by rw [(post_reported s r).1]
  refine ⟨fun h => ?_, congrArg Pwr.crit power⟩
  show (s.post r).smb.alert = true
  rw [post_alert, h]
  rfl

theorem raise_warned (s : State) (p n : Nat) : Warned s (s.raise p n) := by
  refine warned_of (raise_smb s p n) ?_
  rw [(raise_reported s p n).1]

theorem notice_warned (s : State) (kind : Nat) (args : List Nat) (cause : Nat) : Warned s (s.notice kind args cause) := by
  obtain ⟨l, st, h⟩ := notice_eq s kind args cause
  rw [h]
  exact warned_of rfl rfl

theorem order_warned (s : State) (i stamp : Nat) : Warned s (s.order i stamp) := by
  unfold State.order
  split
  · exact Warned.refl s
  · exact warned_of rfl rfl

/-! ### Cores and arrays that lose their state -/

theorem structErr_warned (s : State) (code die : Nat) (m : Option Nat) (a : Nat) (parity corrected : Bool) :
    Warned s (s.structErr code die m a parity corrected) := by
  unfold State.structErr
  dsimp only
  generalize ({ sev := _, kind := _, loc := die, master := m, part := _, addr := a, info := _ } : ErrRec) = r
  have h : Warned s ((if parity = true then (0, s) else s.draw).2.postRec r).2 := by
    refine Warned.trans ?_ (postRec_warned _ r)
    split
    · exact Warned.refl s
    · exact warned_tags (draw_tags s)
  split
  · exact h
  · split
    · refine h.trans (warned_foldl _ (fun u i => ?_) _ _)
      split
      · exact order_warned _ _ _
      · exact Warned.refl u
    · split
      · exact h.trans (order_warned _ _ _)
      · exact h

theorem mbufParity_warned (s : State) (k : Nat) (e : MergeEnt) : Warned s (s.mbufParity k e) := by
  unfold State.mbufParity
  split
  · exact Warned.refl s
  · split
    · rename_i u s1 h
      refine Warned.trans ?_ (structErr_warned s1 _ _ _ _ _ _)
      obtain ⟨v, -, hv⟩ := Option.map_eq_some_iff.1 h
      obtain ⟨-, rfl⟩ := Prod.mk.inj hv
      exact warned_of rfl rfl
    · exact Warned.refl s

theorem storeBy_warned (s : State) (own : Option Nat) (a : Nat) (bs : List Byte) : Warned s (s.storeBy own a bs) := by
  obtain ⟨b, h, -⟩ := storeBy_tags s own a bs
  exact (warned_of rfl rfl : Warned s { s with mem := Mem.writeN s.mem a bs, err := { s.err with bad := b } }).trans (warned_tags h)

theorem issued_warned (s : State) (n : Nat) (ro : Bool) : Warned s (s.issued n ro) := by
  refine warned_of (issued_smb s n ro) ?_
  rw [(issued_reported s n ro).1]

theorem host_warned (s : State) (m : Mem) : Warned s { s with host := m } := warned_of rfl rfl

theorem hostWriteBy_warned (s : State) (own : Option Nat) (ro : Bool) (port a : Nat) (bs : List Byte) :
    Warned s (s.hostWriteBy own ro port a bs) := by
  unfold State.hostWriteBy
  exact ((warned_tags (snoop_tags s own (uniHost port a) bs.length)).trans (host_warned _ _)).trans (issued_warned _ _ _)

theorem onCore_warned (s : State) (k : Nat) (f : Core → Core) : Warned s (s.onCore k f) := warned_of rfl rfl

theorem coreWrite_warned (s : State) (k u : Nat) (bs : List Byte) (h : Nat) : Warned s (s.coreWrite k u bs h) := by
  unfold State.coreWrite
  dsimp only
  split
  · split
    · exact (warned_tags (cacheOnly_foldl _ (fun s l => l2Acc_tags _ _ _ _ _ _) _ _)).trans (storeBy_warned _ _ _ _)
    · exact (storeBy_warned _ _ _ _).trans (warned_tags (memPort_tags _ _ _ _ _ _))
  · exact (hostWriteBy_warned _ _ _ _ _ _).trans (onCore_warned _ _ _)

theorem drainEnt_warned (s : State) (k : Nat) (e : MergeEnt) : Warned s (s.drainEnt k e) :=
  (mbufParity_warned s k e).trans (warned_foldl _ (fun _ _ => coreWrite_warned _ _ _ _ _) _ _)

theorem drainAll_warned (s : State) (k : Nat) : Warned s (s.drainAll k) := by
  have h : Warned s (s.setCore k { s.core k with mbuf := [], sbuf := [] }) := warned_of rfl rfl
  exact (h.trans (warned_foldl _ (fun _ _ => drainEnt_warned _ _ _) _ _)).trans (warned_foldl _ (fun _ _ => coreWrite_warned _ _ _ _ _) _ _)

theorem dropTlbs_warned (s : State) (p : Nat) : Warned s (s.dropTlbs p) := warned_of rfl rfl

theorem dropCaches_warned (s : State) (p : Nat) : Warned s (s.dropCaches p) := by
  unfold State.dropCaches
  exact (warned_foldl _ (fun s k => (drainAll_warned s k).trans (onCore_warned _ _ _)) _ _).trans (dropTlbs_warned _ _)

theorem dropArray_warned (s : State) (p : Nat) : Warned s (s.dropArray p) := warned_of rfl rfl

/-- A state that is entered, once what it loses is lost. -/
theorem settled_warned (s : State) (old t : Bool) (x : PState) : let u : State := if old && t then s else { s with org := { s.org with chal := [] } }
    Warned s { u with pwr := { u.pwr with st := x } } := by
  intro u
  have h : Warned s u := warned_ite (old && t) (Warned.refl s) (warned_of rfl rfl)
  exact h.trans (pwr_warned u rfl)

/-- NAP is entered. -/
theorem enterNap_warned (s : State) : Warned s (s.enterState .nap) := by
  have h := warned_foldl (fun (s : State) p => (s.dropCaches p).dropArray p)
    (fun s p => (dropCaches_warned s p).trans (dropArray_warned _ p)) (List.range 8) s
  unfold State.enterState
  dsimp only
  exact (h.trans (settled_warned _ _ _ _)).trans (raise_warned _ _ _)

/-! ### Power requests that end -/

theorem reqEnd_warned (s : State) (r : PReq) (reason : Nat) : Warned s (s.reqEnd r reason) := by
  unfold State.reqEnd
  dsimp only
  split <;> split <;> exact ⟨id, rfl⟩

theorem portState_warned (s : State) (n : Nat) (st : LinkSt) (why : Nat) : Warned s (s.portState n st why) := by
  unfold State.portState
  extract_lets old p q s1
  have ports : Warned s s1 := warned_of rfl rfl
  have posts := fun r => ports.trans (postRec_warned s1 r)
  refine warned_ite _ ports ?_
  dsimp only
  exact warned_ite _ ((posts _).trans (notice_warned _ _ _ _)) (posts _)

theorem portsBack_warned (s : State) (t : PState) : Warned s (s.portsBack t) :=
  warned_ite _ (warned_foldl _ (fun u _ => warned_ite _ (portState_warned _ _ _ _) (Warned.refl u)) _ s) (Warned.refl s)

theorem giveUp_warned (s : State) (r : PReq) : Warned s (s.giveUp r) := warned_ite _ (portsBack_warned _ _) (Warned.refl s)

theorem napMeets_warned (s : State) : Warned s s.napMeets := by
  unfold State.napMeets
  split
  · rename_i r _
    have again : Warned s { s with pwr := { s.pwr with req := some { r with begun := false } } } := pwr_warned s rfl
    exact warned_ite _ (reqEnd_warned _ _ _) (again.trans (giveUp_warned _ _))
  · exact Warned.refl s

/-! ### Heat -/

/-- The sample of a die at 125 °C is taken, and CRIT is set. -/
def heated (s : State) (d t : Nat) : State :=
  { s with pwr := { s.pwr with temp := SMap.set 0 s.pwr.temp d t, peak := SMap.modify 0 s.pwr.peak d (fun p => max p t), crit := true, exiting := false } }

/-- The record of that sample. -/
def heatRec (d t : Nat) : ErrRec := { sev := 4, kind := 0x09, loc := d, info := Config.thermalInfo d t % 2 ^ 64 }

/-- The record is posted, every partition ordered to be contained, and the thermal sources are raised. -/
def heatPosted (s : State) (d t : Nat) : State :=
  let x := (heated s d t).postRec (heatRec d t)
  (if d < 8 then (x.2.orderAll x.1).raise d 230 else x.2.orderAll x.1).raise 0 258

theorem dieSample_hot (s : State) (d : Nat) {t : Nat} (h : 500 ≤ t) : s.dieSample d t =
    if (heatPosted s d t).pwr.st = .active ∨ (heatPosted s d t).pwr.st = .idle then ((heatPosted s d t).enterState .nap).napMeets
    else heatPosted s d t := by
  unfold State.dieSample
  rw [if_neg (not_lt.2 h)]
  rfl

/-- What follows the record keeps the alert and CRIT. -/
theorem dieSample_warned (s : State) (d : Nat) {t : Nat} (h : 500 ≤ t) : Warned ((heated s d t).postRec (heatRec d t)).2 (s.dieSample d t) := by
  have ordered : Warned _ (((heated s d t).postRec (heatRec d t)).2.orderAll ((heated s d t).postRec (heatRec d t)).1) :=
    warned_foldl _ (fun _ _ => order_warned _ _ _) _ _
  have raised : Warned ((heated s d t).postRec (heatRec d t)).2 (heatPosted s d t) := by
    unfold heatPosted
    exact (warned_ite _ (ordered.trans (raise_warned _ _ _)) ordered).trans (raise_warned _ _ _)
  rw [dieSample_hot s d h]
  exact warned_ite _ (raised.trans ((enterNap_warned _).trans (napMeets_warned _))) raised

/-- At 125 °C a die's sample sets CRIT and asserts the alert (18 R487). -/
theorem dieSample_alerts (s : State) (d : Nat) {t : Nat} (h : 500 ≤ t) : (s.dieSample d t).pwr.crit = true ∧ (s.dieSample d t).smb.alert = true := by
  have w := dieSample_warned s d h
  refine ⟨w.crit.trans (postRec_warned _ _).crit, w.alert ?_⟩
  exact (post_alert (heated s d t) (heatRec d t)).trans (Bool.or_true _)

end Sys2Proof.Proofs.Alert

/-! PROOFS. The SMBus's commands: when one runs, how one that does not ends, and what each does (16 R433; 18 R484, R486; 20 R522). -/

namespace Sys2Proof.Proofs.Smbus

open Sys2Proof Sys2Proof.Machine Sys2Proof.Laws Sys2Proof.Proofs.NearAccess

variable {s : State} {data : List Byte}

/-! ### When a command runs -/

theorem smbAnswers_iff (s : State) : s.smbAnswers = true ↔
    s.pwr.input = true ∧ s.pwr.st ≠ .off ∧ (6 ≤ s.boot.phase ∨ s.org.fuses.lifecycle = .scrapped) := by
  simp [State.smbAnswers, and_assoc]

theorem smbRuns_iff (s : State) : s.smbRuns = true ↔ ∃ r, s.pwr.req = some r ∧ r.smb = true := by
  unfold State.smbRuns
  cases s.pwr.req <;> simp

/-- The SMBus takes a command: the module answers, and none runs. -/
def SmbFree (s : State) : Prop := s.smbAnswers = true ∧ s.smbRuns = false

/-- It takes every command: the module is not SCRAPPED. -/
def SmbReady (s : State) : Prop := SmbFree s ∧ s.org.fuses.lifecycle ≠ .scrapped

/-- The commands by which SCRAPPED answers IDENTITY (16 R433). -/
def forIdentity (code : Nat) (data : List Byte) : Bool := code == 0x22 || code == 0x23 || (code == 0x21 && (data.head?.map BitVec.toNat) == some 0x30)

theorem smbCmd_deaf (h : ¬ s.smbAnswers = true) (code : Nat) (f : State → State) : s.smbCmd code data f = s := by
  simp [State.smbCmd, h]

theorem smbCmd_busy (h : s.smbRuns = true) (code : Nat) (f : State → State) : s.smbCmd code data f = s := by
  simp [State.smbCmd, h]

theorem smbCmd_scrapped (h : SmbFree s) (hs : s.org.fuses.lifecycle = .scrapped) {code : Nat} (hc : forIdentity code data = false) (f : State → State) :
    s.smbCmd code data f = s.smbEnd 2 [] := by
  unfold State.smbCmd
  rw [if_neg (by simp [h.1]), if_neg (by simp [h.2]), if_pos ⟨hs, by rw [← forIdentity, hc]; rfl⟩]

theorem smbCmd_taken (h : SmbFree s) {code : Nat} (hc : s.org.fuses.lifecycle = .scrapped → forIdentity code data = true) (f : State → State) :
    s.smbCmd code data f = if 240 < data.length then s.smbEnd 1 [] else f s := by
  unfold State.smbCmd
  rw [if_neg (by simp [h.1]), if_neg (by simp [h.2]), if_neg]
  rintro ⟨hs, hn⟩
  rw [← forIdentity, hc hs] at hn
  exact absurd hn (by decide)

theorem smbCmd_ready (h : SmbReady s) (code : Nat) (f : State → State) :
    s.smbCmd code data f = if 240 < data.length then s.smbEnd 1 [] else f s := smbCmd_taken h.1 (fun hs => absurd hs h.2) f

/-- A command whose data have one length. -/
theorem smbCmd_length (h : SmbReady s) (code : Nat) {n : Nat} (hl : data.length ≠ n) (f : State → State) :
    s.smbCmd code data (fun s => s.smbLen data n f) = s.smbEnd 1 [] := by
  rw [smbCmd_ready h, State.smbLen, if_neg hl, ite_self]

theorem smbCmd_fixed (h : SmbFree s) {code n : Nat} (hc : s.org.fuses.lifecycle = .scrapped → forIdentity code data = true) (hn : n ≤ 240)
    (hl : data.length = n) (f : State → State) : s.smbCmd code data (fun s => s.smbLen data n f) = f s := by
  rw [smbCmd_taken h hc, if_neg (by omega), State.smbLen, if_pos hl]

theorem smbCmd_runs (h : SmbReady s) (code : Nat) {n : Nat} (hn : n ≤ 240) (hl : data.length = n) (f : State → State) :
    s.smbCmd code data (fun s => s.smbLen data n f) = f s := smbCmd_fixed h.1 (fun hs => absurd hs h.2) hn hl f

/-- The commands that carry data. -/
def SmbCommand (data : List Byte) (c : Instr) : Prop :=
  c ∈ [Instr.inventory data, .sensors data, .regRead data, .regWrite data, .smbPowerState data, .smbPowerCap data, .wake data, .smbReset data,
    .orgBufWrite data, .orgRun data, .orgStatus data, .orgBufRead data, .memWrite data, .memRead data]

/-- Each is a Block Write of a code; those that SCRAPPED answers are the three that R433 names. -/
theorem exec_smbCmd {c : Instr} (h : SmbCommand data c) (s : State) : ∃ code f, exec c s = .next (s.smbCmd code data f) ∧
    (forIdentity code data = true → c ∈ [Instr.orgStatus data, .orgBufRead data] ∨
      c = .orgRun data ∧ (data.head?.map BitVec.toNat) = some 0x30) := by
  simp only [SmbCommand, List.mem_cons, List.not_mem_nil, or_false] at h
  rcases h with rfl | rfl | rfl | rfl | rfl | rfl | rfl | rfl | rfl | rfl | rfl | rfl | rfl | rfl <;>
    exact ⟨_, _, rfl, by simp [forIdentity]⟩

theorem byteAt_of_head {n : Nat} (h : (data.head?.map BitVec.toNat) = some n) : byteAt data 0 = n ∧ data ≠ [] := by
  cases data with
  | nil => simp at h
  | cons b bs => simpa [byteAt, leNat] using h

theorem head_of_byteAt {n : Nat} (h : byteAt data 0 = n) (hd : data ≠ []) : (data.head?.map BitVec.toNat) = some n := by
  cases data with
  | nil => exact absurd rfl hd
  | cons b bs => simpa [byteAt, leNat] using h

/-! ### The module's own answers -/

theorem exec_inventory (h : SmbReady s) : exec (.inventory []) s = .next (s.smbEnd 0 (leBytes 8 (s.regWord ⟨.glbId, 0, 0, 0⟩) ++
    leBytes 8 Config.serial ++ leBytes 4 s.orgWord ++ leBytes 2 s.bootWord ++ leBytes 1 s.pwrWord)) :=
  congrArg _ (smbCmd_runs h 0x01 (by decide) rfl _)

/-- The entries of a table of two-byte words. -/
theorem words_at {α : Type} {f : α → List Byte} (hf : ∀ a, (f a).length = 2) (l : List α) (rest : List Byte) {i : Nat} (hi : i < l.length) :
    ((l.flatMap f ++ rest).drop (2 * i)).take 2 = f l[i] := by
  induction l generalizing i with
  | nil => simp at hi
  | cons a l ih =>
    cases i with
    | zero => simp [hf]
    | succ i =>
      have h2 : 2 * (i + 1) = (f a).length + 2 * i := by rw [hf]; omega
      rw [List.flatMap_cons, List.append_assoc, h2, ← List.drop_drop, List.drop_left]
      exact ih (by simpa using hi)

/-- An entry of such a table of `m` words, behind `n` bytes. -/
theorem word_at (f : Nat → Nat) (m : Nat) {bs : List Byte} (pre rest : List Byte) (h : bs = pre ++ ((List.range m).flatMap (fun k => leBytes 2 (f k)) ++ rest))
    {n k : Nat} (hn : pre.length = n) (hk : k < m) : (bs.drop (n + 2 * k)).take 2 = leBytes 2 (f k) := by
  rw [h, ← List.drop_drop, ← hn, List.drop_left, words_at (fun _ => leBytes_length _ _) _ _ (by simpa using hk), List.getElem_range]

/-- What SENSORS returns, of an input voltage, a current and two coolant temperatures. -/
def sensorBytes (s : State) (v a i o : Nat) : List Byte :=
  leBytes 2 v ++ leBytes 2 a ++ leBytes 4 s.pwr.power ++ (List.range 10).flatMap (fun d => leBytes 2 (SMap.get 0 s.pwr.temp d)) ++
    (List.range 16).flatMap (fun k => leBytes 2 (s.stack k).temp) ++ leBytes 2 i ++ leBytes 2 o

theorem exec_sensors (h : SmbReady s) : ∃ v a i o, exec (.sensors []) s = .next (({ s with free := s.free + 4 } : State).smbEnd 0 (sensorBytes s v a i o)) :=
  ⟨_, _, _, _, congrArg _ (smbCmd_runs h 0x02 (by decide) rfl _)⟩

theorem sensorBytes_length (s : State) (v a i o : Nat) : (sensorBytes s v a i o).length = 64 := by
  simp [sensorBytes, leBytes_length, List.length_flatMap]

theorem sensorBytes_power (s : State) (v a i o : Nat) : ((sensorBytes s v a i o).drop 4).take 4 = leBytes 4 s.pwr.power := by
  simp only [sensorBytes, leBytes, List.cons_append, List.nil_append, List.drop_succ_cons, List.drop_zero, List.take_succ_cons, List.take_zero]

theorem sensorBytes_dies (s : State) (v a i o : Nat) {d : Nat} (hd : d < 10) :
    ((sensorBytes s v a i o).drop (8 + 2 * d)).take 2 = leBytes 2 (SMap.get 0 s.pwr.temp d) :=
  word_at (SMap.get 0 s.pwr.temp) 10 (leBytes 2 v ++ leBytes 2 a ++ leBytes 4 s.pwr.power)
    ((List.range 16).flatMap (fun k => leBytes 2 (s.stack k).temp) ++ leBytes 2 i ++ leBytes 2 o) (by simp only [sensorBytes, List.append_assoc]) rfl hd

theorem sensorBytes_stacks (s : State) (v a i o : Nat) {k : Nat} (hk : k < 16) :
    ((sensorBytes s v a i o).drop (28 + 2 * k)).take 2 = leBytes 2 (s.stack k).temp :=
  word_at (fun k => (s.stack k).temp) 16
    (leBytes 2 v ++ leBytes 2 a ++ leBytes 4 s.pwr.power ++ (List.range 10).flatMap (fun d => leBytes 2 (SMap.get 0 s.pwr.temp d)))
    (leBytes 2 i ++ leBytes 2 o) (by simp only [sensorBytes, List.append_assoc]) rfl hk

/-! ### Registers -/

/-- A width and an offset that REG_READ and REG_WRITE take. -/
def RegForm (off n : Nat) : Prop := (n = 4 ∨ n = 8) ∧ off % n = 0

theorem regForm_iff (off n : Nat) : ¬ ((n ≠ 4 ∧ n ≠ 8) ∨ off % n ≠ 0) ↔ RegForm off n := by
  unfold RegForm
  tauto

theorem exec_regRead (h : SmbReady s) (hl : data.length = 5) : exec (.regRead data) s = .next (s.smbRegRead data) :=
  congrArg _ (smbCmd_runs h 0x03 (by decide) hl _)

theorem smbRegRead_malformed (h : ¬ RegForm (leNat (data.take 4)) (byteAt data 4)) : s.smbRegRead data = s.smbEnd 1 [] := by
  unfold State.smbRegRead
  exact if_pos (Decidable.not_not.1 (mt (regForm_iff _ _).1 h))

theorem smbRegRead_denied (h : RegForm (leNat (data.take 4)) (byteAt data 4)) (hr : smbReads (leNat (data.take 4)) = false) :
    s.smbRegRead data = s.smbEnd 2 [] := by
  unfold State.smbRegRead
  dsimp only
  rw [if_neg ((regForm_iff _ _).2 h), hr]
  rfl

/-- How a read of `n` bytes that came out as given ends. -/
def readEnds (u : State) (n : Nat) : Except AccFail Nat → State
  | .ok v => u.smbEnd 0 (leBytes n v)
  | .error _ => u.smbEnd 2 []

/-- A register that REG_READ reaches is read as the access ends. -/
theorem smbRegRead_reads (h : RegForm (leNat (data.take 4)) (byteAt data 4)) (hr : smbReads (leNat (data.take 4)) = true) {x : Except AccFail Nat}
    {u : State} (hu : s.busRead 0x502 (leNat (data.take 4)) (byteAt data 4) = (x, u)) : s.smbRegRead data = readEnds u (byteAt data 4) x := by
  unfold State.smbRegRead smbMaster
  dsimp only
  rw [if_neg ((regForm_iff _ _).2 h), hr, hu]
  cases x <;> rfl

theorem smbWrites_iff (off : Nat) : smbWrites off = true ↔
    ∃ r o, regAt off = some (r, o) ∧ r.k ∈ [RegK.pwrCap, .pwrCtl, .bootCtl, .bootSlotcmd, .bootSlotsrc, .bootSlotlen] := by
  unfold smbWrites
  cases h : regAt off with
  | none => simp
  | some x => simp [Prod.ext_iff]

/-- The data of a REG_WRITE: an offset, a width and as many bytes. -/
def WriteForm (data : List Byte) : Prop :=
  5 ≤ data.length ∧ (byteAt data 4 = 4 ∨ byteAt data 4 = 8) ∧ leNat (data.take 4) % byteAt data 4 = 0 ∧ data.length = 5 + byteAt data 4

theorem writeForm_iff (data : List Byte) : ¬ (data.length < 5 ∨ (byteAt data 4 ≠ 4 ∧ byteAt data 4 ≠ 8) ∨ leNat (data.take 4) % byteAt data 4 ≠ 0 ∨
    data.length ≠ 5 + byteAt data 4) ↔ WriteForm data := by
  unfold WriteForm
  rw [← Nat.not_lt]
  tauto

theorem exec_regWrite_malformed (h : SmbReady s) (hf : ¬ WriteForm data) : exec (.regWrite data) s = .next (s.smbEnd 1 []) := by
  have hw : s.smbRegWrite data = s.smbEnd 1 [] := if_pos (Decidable.not_not.1 (mt (writeForm_iff data).1 hf))
  refine congrArg Host.Outcome.next ((smbCmd_ready h 0x04 _).trans ?_)
  rw [hw, ite_self]

theorem exec_regWrite (h : SmbReady s) (hf : WriteForm data) : exec (.regWrite data) s = .next (s.smbRegWrite data) := by
  obtain ⟨-, hn, -, hl⟩ := hf
  exact congrArg Host.Outcome.next ((smbCmd_ready h 0x04 _).trans (if_neg (by omega)))

theorem smbRegWrite_denied (hf : WriteForm data) (hw : smbWrites (leNat (data.take 4)) = false) : s.smbRegWrite data = s.smbEnd 2 [] :=
  (if_neg ((writeForm_iff data).2 hf)).trans (if_pos (by simp [hw]))

theorem smbRegWrite_writes (hf : WriteForm data) (hw : smbWrites (leNat (data.take 4)) = true) {u : State}
    (hu : (s.smbEnd 0 []).busWrite 0x502 2 (leNat (data.take 4)) (byteAt data 4) (leNat (data.drop 5)) = (none, u)) : s.smbRegWrite data = u := by
  unfold State.smbRegWrite smbMaster
  dsimp only
  rw [if_neg ((writeForm_iff data).2 hf), hw, hu]
  rfl

/-! ### Power -/

theorem exec_smbPowerState (h : SmbReady s) (hl : data.length = 1) : exec (.smbPowerState data) s = .next (if 3 < byteAt data 0 then s.smbEnd 1 []
    else if s.inShed then s.smbEnd 9 [] else (s.smbEnd 0 []).powerReq (pstateOf (byteAt data 0)) none true) :=
  congrArg _ (smbCmd_runs h 0x10 (by decide) hl _)

theorem exec_smbPowerCap (h : SmbReady s) (hl : data.length = 2) : exec (.smbPowerCap data) s = .next (if s.inShed then s.smbEnd 9 []
    else (s.rput regPwrCap 12 0 (min 6500 (max 1000 (leNat data)))).smbEnd 0 []) :=
  congrArg _ (smbCmd_runs h 0x11 (by decide) hl _)

theorem exec_wake (h : SmbReady s) : exec (.wake []) s = exec (.wakeEvent .smbus) (s.smbEnd 0 []) :=
  congrArg _ (smbCmd_runs h 0x12 (by decide) rfl _)

/-- The reset that a byte names. -/
def resetBy (s : State) : Nat → State
  | 0 => (s.smbEnd 0 []).warmReset
  | 1 => (s.smbEnd 0 []).coldReset
  | 2 => (s.smbEnd 0 []).restart
  | _ => s.smbEnd 1 []

theorem exec_smbReset (h : SmbReady s) (hl : data.length = 1) {b : Nat} (hb : byteAt data 0 = b) : exec (.smbReset data) s = .next (resetBy s b) := by
  refine congrArg Host.Outcome.next ((smbCmd_runs h 0x13 (by decide) hl _).trans ?_)
  dsimp only
  rw [hb]
  rfl

theorem resetBy_other (s : State) {b : Nat} (h : 3 ≤ b) : resetBy s b = s.smbEnd 1 [] := by
  obtain ⟨k, rfl⟩ := Nat.exists_eq_add_of_le' h
  rfl

/-! ### The Orangery's channel 2 -/

theorem exec_orgBufWrite_malformed (h : SmbReady s) (hd : data.length < 2 ∨ 65536 < leNat (data.take 2) + (data.length - 2)) :
    exec (.orgBufWrite data) s = .next (s.smbEnd 1 []) := by
  refine congrArg Host.Outcome.next ((smbCmd_ready h 0x20 _).trans ?_)
  dsimp only
  rw [List.length_drop, if_pos hd, ite_self]

theorem exec_orgBufWrite (h : SmbReady s) (h2 : 2 ≤ data.length) (hl : data.length ≤ 240) (ho : leNat (data.take 2) + (data.length - 2) ≤ 65536) :
    exec (.orgBufWrite data) s = .next
      (({ s with org := { s.org with buf := Mem.writeN s.org.buf (0x20000 + leNat (data.take 2)) (data.drop 2) } } : State).smbEnd 0 []) := by
  refine congrArg Host.Outcome.next ((smbCmd_ready h 0x20 _).trans ((if_neg (by omega)).trans ?_))
  dsimp only
  rw [List.length_drop]
  exact if_neg (by omega)

theorem exec_orgRun (h : SmbReady s ∨ SmbFree s ∧ byteAt data 0 = 0x30) (hl : data.length = 3) : exec (.orgRun data) s = .next (s.smbOrgRun data) := by
  have hd : data ≠ [] := fun hn => by simp [hn] at hl
  have free : SmbFree s := h.elim And.left And.left
  have identity : s.org.fuses.lifecycle = .scrapped → forIdentity 0x21 data = true := fun hs => by
    obtain ⟨-, hb⟩ := h.resolve_left (fun hr => hr.2 hs)
    simp [forIdentity, head_of_byteAt hb hd]
  exact congrArg Host.Outcome.next (smbCmd_fixed free identity (by decide) hl _)

theorem smbOrgRun_busy (h : (s.mbx 2).busy = true) : s.smbOrgRun data = s.smbEnd 0x80 [] := if_pos h

theorem smbOrgRun_submits (h : (s.mbx 2).busy = false) : s.smbOrgRun data = ({ s with org := { s.org with
    cmds := s.org.cmds ++ [2]
    mbx := SMap.set {} s.org.mbx 2 { s.mbx 2 with code := byteAt data 0, len := leNat ((data.drop 1).take 2), busy := true, done := false } } } : State).smbEnd 0 [] :=
  if_neg (by simp [h])

theorem exec_orgStatus (h : SmbFree s) : exec (.orgStatus []) s = .next (s.smbEnd 0 (leBytes 8 (s.mbx 2).word)) :=
  congrArg _ (smbCmd_fixed h (fun _ => rfl) (by decide) rfl _)

theorem exec_orgBufRead (h : SmbFree s) (hl : data.length = 3) : exec (.orgBufRead data) s = .next
    (if 240 < byteAt data 2 ∨ 65536 < leNat (data.take 2) + byteAt data 2 then s.smbEnd 1 []
      else s.smbEnd 0 (Mem.readN s.org.buf (0x20000 + leNat (data.take 2)) (byteAt data 2))) :=
  congrArg _ (smbCmd_fixed h (fun _ => rfl) (by decide) hl _)

/-! ### Near memory in Shed mode -/

theorem exec_memWrite (h : SmbReady s) (hl : data.length ≤ 240) : exec (.memWrite data) s = .next (s.smbMemWrite data) :=
  congrArg Host.Outcome.next ((smbCmd_ready h 0x30 _).trans (if_neg (not_lt.2 hl)))

theorem exec_memRead (h : SmbReady s) (hl : data.length ≤ 240) : exec (.memRead data) s = .next (s.smbMemRead data) :=
  congrArg Host.Outcome.next ((smbCmd_ready h 0x31 _).trans (if_neg (not_lt.2 hl)))

theorem inShed_of (h : s.boot.phase = 13) : s.inShed = true := decide_eq_true h

theorem inShed_not (h : ¬ s.boot.phase = 13) : s.inShed = false := decide_eq_false h

theorem smbMemWrite_unshed (h : ¬ s.boot.phase = 13) : s.smbMemWrite data = s.smbEnd 9 [] := if_pos (by simp [inShed_not h])

theorem smbMemRead_unshed (h : ¬ s.boot.phase = 13) : s.smbMemRead data = s.smbEnd 9 [] := if_pos (by simp [inShed_not h])

theorem smbMemWrite_malformed (h : s.boot.phase = 13) (hd : data.length < 4 ∨ 0x4000000 < leNat (data.take 4) + (data.drop 4).length) :
    s.smbMemWrite data = s.smbEnd 1 [] := (if_neg (by simp [inShed_of h])).trans (if_pos hd)

theorem smbMemRead_malformed (h : s.boot.phase = 13) (hd : data.length ≠ 5 ∨ 240 < byteAt data 4 ∨ 0x4000000 < leNat (data.take 4) + byteAt data 4) :
    s.smbMemRead data = s.smbEnd 1 [] := (if_neg (by simp [inShed_of h])).trans (if_pos hd)

/-- A permitted write: the bytes are in memory, bad lines that it covers are no more, and only tags and meters change beside. -/
theorem smbMemWrite_writes (h : s.boot.phase = 13) (h4 : 4 ≤ data.length) (ho : leNat (data.take 4) + (data.drop 4).length ≤ 0x4000000)
    (ha : s.accCheck 0x502 .wr (linesOf (nearBase + leNat (data.take 4)) (data.drop 4).length) = none) :
    let m := Mem.writeN s.mem (nearBase + leNat (data.take 4)) (data.drop 4)
    ∃ b u, s.smbMemWrite data = u.smbEnd 0 [] ∧ CacheOnly { s with mem := m, err := { s.err with bad := b } } u ∧ u.free = s.free := by
  obtain ⟨b, u, hw, hc, hf⟩ := devWrite_near ha (Nat.le_add_right nearBase _)
  refine ⟨b, u, ?_, hc, hf⟩
  unfold State.smbMemWrite smbMaster
  dsimp only
  rw [if_neg (by simp [inShed_of h]), if_neg (by unfold smbMemSize; omega), hw]

/-- A permitted read that meets no error: the bytes; and only tags and meters change. -/
theorem smbMemRead_reads (h : s.boot.phase = 13) (h5 : data.length = 5) (hn : byteAt data 4 ≤ 240) (ho : leNat (data.take 4) + byteAt data 4 ≤ 0x4000000)
    (ha : s.accCheck 0x502 .rd (linesOf (nearBase + leNat (data.take 4)) (byteAt data 4)) = none) (hi : (s.rget regErrInj).testBit 63 = false)
    (hu : ∀ u ∈ s.err.upsets, u.hits false 0x502 (linesOf (nearBase + leNat (data.take 4)) (byteAt data 4)) = false) :
    ∃ u, s.smbMemRead data = u.smbEnd 0 (Mem.readN s.mem (nearBase + leNat (data.take 4)) (byteAt data 4)) ∧ CacheOnly s u ∧ NearWork s u := by
  obtain ⟨u, hr, hc, hw⟩ := devRead_near ha hi hu (Nat.le_add_right nearBase _)
  refine ⟨u, ?_, hc, hw⟩
  unfold State.smbMemRead smbMaster
  dsimp only
  rw [if_neg (by simp [inShed_of h]), if_neg (by unfold smbMemSize; omega), hr]

/-! ### The answer and the alert -/

theorem exec_alertResponse (h : s.smb.alert = true) :
    exec .alertResponse s = .next { s with smb := { s.smb with alert := false, reply := some (leBytes 1 0x58) } } :=
  congrArg Host.Outcome.next (if_pos h)

theorem exec_alertResponse_none (h : s.smb.alert = false) : exec .alertResponse s = .next { s with smb := { s.smb with reply := none } } :=
  congrArg Host.Outcome.next (if_neg (by simp [h]))

end Sys2Proof.Proofs.Smbus

/-! PROOFS. The SMBus: the statement about its commands and the alert, clause by clause (16 R433; 18 R484, R486, R487; 20 R522, R523). -/

namespace Sys2Proof.Proofs.SmbusStatement

open Sys2Proof Sys2Proof.Machine Sys2Proof.Laws Sys2Proof.Proofs.NearAccess Sys2Proof.Proofs.Alert Sys2Proof.Proofs.Smbus

variable {s : State} {data : List Byte}

/-- A command is discarded while the module does not answer, and while another runs (R522). -/
theorem smbCommand_discarded {c : Instr} (h : SmbCommand data c) : (¬ s.smbAnswers = true → exec c s = .next s) ∧ (s.smbRuns = true → exec c s = .next s) := by
  obtain ⟨code, f, he, -⟩ := exec_smbCmd h s
  exact ⟨fun ha => he.trans (congrArg _ (smbCmd_deaf ha code f)), fun hr => he.trans (congrArg _ (smbCmd_busy hr code f))⟩

/-- SCRAPPED refuses every command but the three that serve IDENTITY (R433). -/
theorem smbCommand_scrapped {c : Instr} (h : SmbCommand data c) (hf : SmbFree s) (hs : s.org.fuses.lifecycle = .scrapped)
    (hi : c ∉ [Instr.orgStatus data, .orgBufRead data]) (hr : c = .orgRun data → byteAt data 0 ≠ 0x30 ∨ data = []) : exec c s = .next (s.smbEnd 2 []) := by
  obtain ⟨code, f, he, hc⟩ := exec_smbCmd h s
  have other : forIdentity code data = false := by
    by_contra hn
    obtain ⟨hrun, hb⟩ := (hc (by simpa using hn)).resolve_left hi
    obtain ⟨h0, hd⟩ := byteAt_of_head hb
    exact (hr hrun).elim (fun h => h h0) hd
  exact he.trans (congrArg _ (smbCmd_scrapped hf hs other f))

theorem smbCommand_long {c : Instr} (h : SmbCommand data c) (hr : SmbReady s) (hl : 240 < data.length) : exec c s = .next (s.smbEnd 1 []) := by
  obtain ⟨code, f, he, -⟩ := exec_smbCmd h s
  exact he.trans (congrArg _ ((smbCmd_ready hr code f).trans (if_pos hl)))

/-- Data of another length than the command's are MALFORMED. -/
theorem smbCommand_length {c : Instr} {n : Nat} (h : (c, n) ∈ [(Instr.inventory data, 0), (.sensors data, 0), (.regRead data, 5), (.smbPowerState data, 1),
      (.smbPowerCap data, 2), (.wake data, 0), (.smbReset data, 1), (.orgRun data, 3), (.orgStatus data, 0), (.orgBufRead data, 3)])
    (hr : SmbReady s) (hl : data.length ≠ n) : exec c s = .next (s.smbEnd 1 []) := by
  have fixed : ∃ code f, exec c s = .next (s.smbCmd code data (fun s => s.smbLen data n f)) := by
    simp only [List.mem_cons, Prod.mk.injEq, List.not_mem_nil, or_false] at h
    rcases h with ⟨rfl, rfl⟩ | ⟨rfl, rfl⟩ | ⟨rfl, rfl⟩ | ⟨rfl, rfl⟩ | ⟨rfl, rfl⟩ | ⟨rfl, rfl⟩ | ⟨rfl, rfl⟩ | ⟨rfl, rfl⟩ | ⟨rfl, rfl⟩ | ⟨rfl, rfl⟩ <;>
      exact ⟨_, _, rfl⟩
  obtain ⟨code, f, he⟩ := fixed
  exact he.trans (congrArg _ (smbCmd_length hr code hl f))

theorem next_smbMemWrite (hr : SmbReady s) (hl : data.length ≤ 240) (h : s.boot.phase = 13) (h4 : 4 ≤ data.length)
    (ho : leNat (data.take 4) + (data.drop 4).length ≤ 0x4000000)
    (ha : s.accCheck 0x502 .wr (linesOf (nearBase + leNat (data.take 4)) (data.drop 4).length) = none) :
    Next (.memWrite data) s (fun t => t.mem = Mem.writeN s.mem (nearBase + leNat (data.take 4)) (data.drop 4) ∧
      t.smb = { s.smb with status := 0, data := [] } ∧
      t = { s with
        mem := t.mem, smb := t.smb, cores := t.cores, regs := t.regs, ldg := t.ldg, memsys := t.memsys,
        err := { s.err with bad := t.err.bad, stamps := t.err.stamps } } ∧ ∀ j, ∃ d i, t.core j = { s.core j with l1d := d, l1i := i }) := by
  obtain ⟨b, u, hw, ⟨hu, -, -, hc, -⟩, hf⟩ := smbMemWrite_writes h h4 ho ha
  refine ⟨u.smbEnd 0 [], (exec_memWrite hr hl).trans (congrArg _ hw), ?_, ?_, ?_, hc⟩
  · rw [hu]; rfl
  · rw [hu]; rfl
  · rw [hf] at hu
    rw [hu]; rfl

theorem next_smbMemRead (hr : SmbReady s) (h : s.boot.phase = 13) (h5 : data.length = 5) (hn : byteAt data 4 ≤ 240)
    (ho : leNat (data.take 4) + byteAt data 4 ≤ 0x4000000)
    (ha : s.accCheck 0x502 .rd (linesOf (nearBase + leNat (data.take 4)) (byteAt data 4)) = none) (hi : (s.rget regErrInj).testBit 63 = false)
    (hu : ∀ u ∈ s.err.upsets, u.hits false 0x502 (linesOf (nearBase + leNat (data.take 4)) (byteAt data 4)) = false) :
    Next (.memRead data) s (fun t => t.smb = { s.smb with status := 0, data := Mem.readN s.mem (nearBase + leNat (data.take 4)) (byteAt data 4) } ∧
      t = { s with smb := t.smb, regs := t.regs, ldg := t.ldg, memsys := t.memsys, err := { s.err with stamps := t.err.stamps } }) := by
  obtain ⟨u, hw, ⟨hu, -⟩, hf, hc⟩ := smbMemRead_reads h h5 hn ho ha hi hu
  refine ⟨_, (exec_memRead hr (by omega)).trans (congrArg _ hw), ?_, ?_⟩
  · rw [hu]; rfl
  · rw [hf, hc] at hu
    rw [hu]; rfl

/-- Settles O59: when a command runs and how one that does not ends; then each command by the lemma that says what it does; then the answer and
the alert. -/
theorem smbusCommands : Obligations.SMBusCommands := by
  unfold Obligations.SMBusCommands
  intro s data e ends scrapped answers running ready shed byte w4 all
  have hfree : answers → ¬ running → SmbFree s := fun ha hr => ⟨(smbAnswers_iff s).2 ha, Bool.eq_false_iff.2 (mt (smbRuns_iff s).1 hr)⟩
  have hready : ready → SmbReady s := fun ⟨ha, hr, hs⟩ => ⟨hfree ha hr, hs⟩
  refine ⟨fun c hc => ⟨?deaf, ?busy, ?scrapped, fun h => smbCommand_long hc (hready h)⟩, fun c n hc h => smbCommand_length hc (hready h), ?inventory,
    ?sensors, ?regRead, ?regWrite, ?powerState, ?powerCap, ?wake, ?reset, ?orangery, ?memory, rfl, smbAnswers_iff s, smbRuns_iff s, post_alert s,
    fun d v hv => ⟨_, rfl, dieSample_alerts s d.val hv⟩, exec_alertResponse, exec_alertResponse_none⟩
  case deaf => exact fun ha => (smbCommand_discarded hc).1 (mt (smbAnswers_iff s).1 ha)
  case busy => exact fun _ hr => (smbCommand_discarded hc).2 ((smbRuns_iff s).2 hr)
  case scrapped => exact fun ha hr hs hi => smbCommand_scrapped hc (hfree ha hr) hs hi
  case inventory =>
    rintro h rfl
    exact exec_inventory (hready h)
  case sensors =>
    rintro h rfl
    obtain ⟨v, a, i, o, he⟩ := exec_sensors (hready h)
    exact ⟨_, he, rfl, sensorBytes s v a i o, rfl, sensorBytes_length s v a i o, sensorBytes_power s v a i o, fun d hd => sensorBytes_dies s v a i o hd,
      fun k hk => sensorBytes_stacks s v a i o hk⟩
  case regRead =>
    intro h hl n c
    have he := exec_regRead (hready h) hl
    refine ⟨fun hf => he.trans (congrArg _ (smbRegRead_malformed (mt (regForm_iff _ _).2 (not_not.2 hf)))), fun hn hw => ?_⟩
    exact ⟨fun hr => he.trans (congrArg _ (smbRegRead_denied ⟨hn, hw⟩ hr)), fun hr => ⟨fun v u hu => he.trans (congrArg _ (smbRegRead_reads ⟨hn, hw⟩ hr hu)),
      fun x u hu => he.trans (congrArg _ (smbRegRead_reads ⟨hn, hw⟩ hr hu))⟩⟩
  case regWrite =>
    intro h n c form reach
    refine ⟨exec_regWrite_malformed (hready h), fun hf hr => ?_, fun hf hr u hu => ?_⟩
    · exact (exec_regWrite (hready h) hf).trans (congrArg _ (smbRegWrite_denied hf (Bool.eq_false_iff.2 (mt (smbWrites_iff w4).1 hr))))
    · exact (exec_regWrite (hready h) hf).trans (congrArg _ (smbRegWrite_writes hf ((smbWrites_iff w4).2 hr) hu))
  case powerState =>
    intro h hl c
    have he := exec_smbPowerState (hready h) hl
    refine ⟨fun hb => he.trans (congrArg _ (if_pos hb)), fun hb hs => he.trans (congrArg _ ((if_neg (not_lt.2 hb)).trans (if_pos (inShed_of hs)))), fun hb hs => ?_⟩
    exact he.trans (congrArg _ ((if_neg (not_lt.2 hb)).trans (if_neg (by simp [inShed_not hs]))))
  case powerCap =>
    intro h hl
    have he := exec_smbPowerCap (hready h) hl
    exact ⟨fun hs => he.trans (congrArg _ (if_pos (inShed_of hs))), fun hs => he.trans (congrArg _ (if_neg (by simp [inShed_not hs])))⟩
  case wake =>
    rintro h rfl
    exact exec_wake (hready h)
  case reset =>
    intro h hl c
    have he := fun b (hb : byte 0 = b) => exec_smbReset (hready h) hl hb
    exact ⟨he 0, he 1, he 2, fun hb => (he _ rfl).trans (congrArg _ (resetBy_other s hb))⟩
  case orangery =>
    intro o off
    refine ⟨?write, ?run, ?status, ?read⟩
    case write => exact fun h => ⟨exec_orgBufWrite_malformed (hready h), exec_orgBufWrite (hready h)⟩
    case run =>
      intro h hl c
      have he : exec c s = .next (s.smbOrgRun data) := exec_orgRun (h.imp hready (fun ⟨ha, hr, hb⟩ => ⟨hfree ha hr, hb⟩)) hl
      exact ⟨fun hb => he.trans (congrArg _ (smbOrgRun_busy hb)), fun hb => he.trans (congrArg _ (smbOrgRun_submits hb))⟩
    case status =>
      rintro ha hr rfl
      exact exec_orgStatus (hfree ha hr)
    case read =>
      intro ha hr hl n
      have he := exec_orgBufRead (hfree ha hr) hl
      exact ⟨fun hb => he.trans (congrArg _ (if_pos hb)), fun hn ho => he.trans (congrArg _ (if_neg (not_or.2 ⟨not_lt.2 hn, not_lt.2 ho⟩)))⟩
  case memory =>
    intro h hl
    have hw := exec_memWrite (hready h) hl
    have hr := exec_memRead (hready h) hl
    refine ⟨fun hs => ⟨hw.trans (congrArg _ (smbMemWrite_unshed hs)), hr.trans (congrArg _ (smbMemRead_unshed hs))⟩, ?_⟩
    intro hs bs
    exact ⟨fun hb => hw.trans (congrArg _ (smbMemWrite_malformed hs hb)), next_smbMemWrite (hready h) hl hs,
      fun hb => hr.trans (congrArg _ (smbMemRead_malformed hs hb)), next_smbMemRead (hready h) hs⟩

end Sys2Proof.Proofs.SmbusStatement
